-- ==== Sys2Proof/Word.lean ====
section
/-! DEFINITION. The word types of the F2 (R26, R89, R182) and their plainest arithmetic. -/

namespace Sys2Proof

/-- A byte of memory. -/
abbrev Byte := BitVec 8
/-- A 16-bit element of a packed lane, or an LQ2 word (R61, R63). -/
abbrev Half := BitVec 16
/-- A lane of a vector register, or an instruction word (R26, R89). -/
abbrev Word := BitVec 32
/-- A scalar register, a virtual address or a control register (R26). -/
abbrev Dword := BitVec 64
/-- One bit for each warp lane (R26). -/
abbrev Lanes := BitVec 64

/-- `x` modulo 2^64, as every address and scalar sum is taken (R116, R215). -/
def Dword.ofInt (x : Int) : Dword := BitVec.ofInt 64 x

/-- The lane mask with lanes 0 to n - 1 set (R26). -/
def Lanes.below (n : Nat) : Lanes := BitVec.ofNat 64 (2 ^ n - 1)

/-- Lane i is set. -/
def Lanes.has (m : Lanes) (i : Nat) : Bool := m.getLsbD i

/-- The lanes of a mask, ascending (R25). -/
def Lanes.toList (m : Lanes) : List Nat := (List.range 64).filter m.has

/-- The mask whose lanes satisfy p. -/
def Lanes.ofPred (p : Nat → Bool) : Lanes :=
  (List.range 64).foldl (fun acc i => if p i then acc ||| BitVec.ofNat 64 (2 ^ i) else acc) 0

/-- The number of lanes of a mask. -/
def Lanes.count (m : Lanes) : Nat := m.toList.length

/-- The lowest lane of a mask, 64 for the empty mask. -/
def Lanes.low (m : Lanes) : Nat := m.toList.headD 64

/-- The bits lo + w - 1 to lo of a word, as a number. -/
def bitsAt {n : Nat} (x : BitVec n) (lo w : Nat) : Nat := (x.toNat >>> lo) % 2 ^ w

end Sys2Proof
end

