-- ==== Sys2Proof/Config.lean ====
section
/-! DEFINITION. What is fixed for every F2 (R13, R15, R18, R23), and the free values: what the spec leaves open and the machine
goes on with. A free value is a constant without a body, so no proof can see what it is. -/

namespace Sys2Proof.Config

/-- Cores of the package (R15). -/
def cores : Nat := 768
/-- Columns of the package core grid (R15). -/
def coreCols : Nat := 24
/-- Rows of the package core grid (R15). -/
def coreRows : Nat := 32
/-- Bench bytes of a core (R13). -/
def benchBytes : Nat := 393216
/-- Accumulators of a core's MSM (R13, R193). -/
def msmSize : Nat := 65536
/-- Warp slots of a core; the planer slot counts as slot 16 (R13, R341). -/
def warpSlots : Nat := 16
/-- Operations a wait set holds (R100). -/
def setLimit : Nat := 64
/-- Request slots of a core for one Yefort port (R206). -/
def portSlots : Nat := 8
/-- Seam operand channels (R12, R17). -/
def seamChannels : Nat := 16
/-- Entries of a planer queue (R281). -/
def queueDepth : Nat := 16
/-- Unretired child grids of a workgroup (R323). -/
def launchLimit : Nat := 64

/-- FREE VALUE. How far the domain timebase has moved on at the n-th reading of it (R229). -/
opaque timeAdvance : Nat → Nat
/-- FREE VALUE. A byte that another member of a collective sends, or that arrives from outside the package (R285, R383). -/
opaque outsideByte : Nat → Byte
/-- FREE VALUE. An element that another member of a collective sends, in EF: the low bits of the word (R285, R383). -/
opaque memberElem : Nat → Word
/-- FREE VALUE. How the switches of a group, given by its index and its TREE, combine the members' elements: at 0 the place of this device's
among them, and at j + 1 the place of the j-th addition (R382, R383). -/
opaque switchOrder : Nat → Nat → Nat → Nat
/-- FREE VALUE. Whether the other members of a collective named the same KIND, EF, COUNT and ROOT (R285). -/
opaque collAgrees : Nat → Bool
/-- FREE VALUE. An element of a B tile that no MXLDB has loaded for the width class that an MXOP uses (R259, R270, R271): the
element's code in bits 23:0, a scale exponent in bits 31:24 and a format in bits 35:32. -/
opaque unheldTile : Nat → BitVec 36

end Sys2Proof.Config
end

