-- ==== Sys2Proof/Machine/Table.lean ====
section
/-! DEFINITION. Tables keyed by a number: the one way in which State holds registers by number, memory by address and units
by identity. A table is a list of pairs with strictly rising keys; a sparse table lists no entry that equals what an unlisted
key reads as, so that equal contents are equal data. -/

namespace Sys2Proof.Machine

/-- A table from numbers to values. -/
abbrev Table (α : Type) := List (Nat × α)

/-- The entry of key k. -/
def Table.get? {α : Type} : Table α → Nat → Option α
  | [], _ => none
  | (j, v) :: r, k => if k = j then some v else Table.get? r k

/-- The entry of key k, or d where k is unlisted. -/
def Table.getD {α : Type} (m : Table α) (k : Nat) (d : α) : α := (Table.get? m k).getD d

/-- The table with key k set to v, the keys kept rising. -/
def Table.set {α : Type} : Table α → Nat → α → Table α
  | [], k, v => [(k, v)]
  | (j, w) :: r, k, v =>
    if k = j then (k, v) :: r
    else if k < j then (k, v) :: (j, w) :: r
    else (j, w) :: Table.set r k v

/-- The table without key k. -/
def Table.erase {α : Type} (m : Table α) (k : Nat) : Table α := m.filter (fun p => p.1 != k)

/-- A sparse table with key k set to v, where an unlisted key reads as d. -/
def Table.put {α : Type} [DecidableEq α] (d : α) (m : Table α) (k : Nat) (v : α) : Table α :=
  if v = d then Table.erase m k else Table.set m k v

/-- The entry of key k changed by f, where it is listed. -/
def Table.modify {α : Type} (m : Table α) (k : Nat) (f : α → α) : Table α :=
  m.map (fun p => if p.1 = k then (p.1, f p.2) else p)

/-- Keys rise strictly. -/
def Table.sorted {α : Type} : Table α → Bool
  | [] => true
  | [_] => true
  | (j, _) :: (k, v) :: r => decide (j < k) && Table.sorted ((k, v) :: r)

/-- The canonical form of a sparse table: keys rise, and no entry equals the value of an unlisted key. -/
def Table.wf {α : Type} [DecidableEq α] (d : α) (m : Table α) : Bool :=
  Table.sorted m && m.all (fun p => p.2 ≠ d)

/-- The values of a table. -/
def Table.vals {α : Type} (m : Table α) : List α := m.map Prod.snd

/-- The keys of a table. -/
def Table.keys {α : Type} (m : Table α) : List Nat := m.map Prod.fst

end Sys2Proof.Machine
end

