-- ==== Sys2Proof/Syntax.lean ====
section
/-! DEFINITION. The instructions of the F2: one constructor for each row of spec/opcode_table.json. The 241 rows with an
encoding carry their operand fields as the bit fields of R105 name them; the chain bit C and the stall count S (R89) belong
to the word and its group, not to the instruction, and are read beside it (Decode.lean). The last 35 rows are events of the
part with no encoding; their operands say which unit of the state the event happens to. -/

namespace Sys2Proof

/-- A request of another device of the load-store domain (R205, R247): a plain read or write, or an atomic (R220). -/
inductive DomainRequest where
  | read (addr size : Nat)
  | write (addr : Nat) (data : List (BitVec 8))
  | atomic (addr : Nat) (fn : BitVec 4) (wide : Bool) (value new : BitVec 64)
deriving DecidableEq, Repr

/-- A host access over CXL.mem or a BAR (R376): a read, or a write of bytes, at a device physical address (R182). -/
structure HostAccess where
  addr : Nat
  size : Nat
  write : Option (List (BitVec 8))
deriving DecidableEq, Repr

/-- A request of a context to an address of host memory that the host fails (R377). -/
structure HostFailure where
  ctx : Nat
  addr : Nat
deriving DecidableEq, Repr

/-- One part of a bring-up step (R385) whose first `attempts` trials fail. Parts number die pairs, stacks, I-dies or ports. -/
structure BootFailure where
  step : Nat
  part : Nat
  attempts : Nat
deriving DecidableEq, Repr

/-- The modes of the x16 port (R375). -/
inductive PortMode where
  | cxl31 | cxl20 | pcie6 | pcie5
deriving DecidableEq, Repr

/-- What bring-up meets outside the package (R12, R375, R385): failing parts by their physical numbers, seam modules that cannot be
repaired, the device and domain numbers the switches give, and the newest generation that the host's switch offers. -/
structure BootInputs where
  failures : List BootFailure
  badModules : List Nat
  devnum : BitVec 10
  domain : BitVec 12
  port : PortMode
deriving DecidableEq, Repr

/-- The instructions and events of the F2, in the order of spec/opcode_table.json. -/
inductive Instr where
  /-- SADD (R118). Adds two scalar registers modulo 2^64. -/
  | sadd (d : BitVec 6) (a : BitVec 6) (b : BitVec 6)
  /-- SSUB (R118). Subtracts two scalar registers modulo 2^64. -/
  | ssub (d : BitVec 6) (a : BitVec 6) (b : BitVec 6)
  /-- SMUL (R118). Writes the low 64 bits of the scalar product. -/
  | smul (d : BitVec 6) (a : BitVec 6) (b : BitVec 6)
  /-- SMULH (R118). Writes the high 64 bits of the signed 128-bit product. -/
  | smulh (d : BitVec 6) (a : BitVec 6) (b : BitVec 6)
  /-- SMULHU (R118). Writes the high 64 bits of the unsigned 128-bit product. -/
  | smulhu (d : BitVec 6) (a : BitVec 6) (b : BitVec 6)
  /-- SAND (R118). Writes the bitwise AND of two scalar registers. -/
  | sand (d : BitVec 6) (a : BitVec 6) (b : BitVec 6)
  /-- SOR (R118). Writes the bitwise OR of two scalar registers. -/
  | sor (d : BitVec 6) (a : BitVec 6) (b : BitVec 6)
  /-- SXOR (R118). Writes the bitwise XOR of two scalar registers. -/
  | sxor (d : BitVec 6) (a : BitVec 6) (b : BitVec 6)
  /-- SSHL (R118). Shifts a scalar left by s[B] bits 5:0, shifting in zeros. -/
  | sshl (d : BitVec 6) (a : BitVec 6) (b : BitVec 6)
  /-- SSHR (R118). Shifts a scalar right logically by s[B] bits 5:0. -/
  | sshr (d : BitVec 6) (a : BitVec 6) (b : BitVec 6)
  /-- SSRA (R118). Shifts a scalar right arithmetically by s[B] bits 5:0. -/
  | ssra (d : BitVec 6) (a : BitVec 6) (b : BitVec 6)
  /-- SMIN (R118). Writes the signed minimum of two scalars. -/
  | smin (d : BitVec 6) (a : BitVec 6) (b : BitVec 6)
  /-- SMAX (R118). Writes the signed maximum of two scalars. -/
  | smax (d : BitVec 6) (a : BitVec 6) (b : BitVec 6)
  /-- SMINU (R118). Writes the unsigned minimum of two scalars. -/
  | sminu (d : BitVec 6) (a : BitVec 6) (b : BitVec 6)
  /-- SMAXU (R118). Writes the unsigned maximum of two scalars. -/
  | smaxu (d : BitVec 6) (a : BitVec 6) (b : BitVec 6)
  /-- SSLT (R118). Writes 1 if s[A] is less than s[B] as signed values, else 0. -/
  | sslt (d : BitVec 6) (a : BitVec 6) (b : BitVec 6)
  /-- SSLTU (R119). Writes 1 if s[A] is less than s[B] as unsigned values, else 0. -/
  | ssltu (d : BitVec 6) (a : BitVec 6) (b : BitVec 6)
  /-- SDIV (R119). Signed division rounded towards zero that never traps. -/
  | sdiv (d : BitVec 6) (a : BitVec 6) (b : BitVec 6)
  /-- SDIVU (R119). Unsigned division rounded towards zero that never traps. -/
  | sdivu (d : BitVec 6) (a : BitVec 6) (b : BitVec 6)
  /-- SREM (R119). Signed remainder that takes the sign of the dividend. -/
  | srem (d : BitVec 6) (a : BitVec 6) (b : BitVec 6)
  /-- SREMU (R119). Unsigned remainder. -/
  | sremu (d : BitVec 6) (a : BitVec 6) (b : BitVec 6)
  /-- SCLZ (R119). Counts the leading zero bits of a scalar. -/
  | sclz (d : BitVec 6) (a : BitVec 6)
  /-- SPOPC (R119). Counts the set bits of a scalar. -/
  | spopc (d : BitVec 6) (a : BitVec 6)
  /-- SBREV (R119). Reverses the bit order of a scalar. -/
  | sbrev (d : BitVec 6) (a : BitVec 6)
  /-- SSEXT (R119). Sign-extends the low 8, 16 or 32 bits of a scalar. -/
  | ssext (d : BitVec 6) (a : BitVec 6) (wc : BitVec 6)
  /-- SZEXT (R119). Zero-extends the low 8, 16 or 32 bits of a scalar. -/
  | szext (d : BitVec 6) (a : BitVec 6) (wc : BitVec 6)
  /-- SADDI (R120). Adds a sign-extended 10-bit immediate to a scalar. -/
  | saddi (d : BitVec 6) (a : BitVec 6) (imm : BitVec 10)
  /-- SANDI (R120). ANDs a scalar with a sign-extended 10-bit immediate. -/
  | sandi (d : BitVec 6) (a : BitVec 6) (imm : BitVec 10)
  /-- SORI (R120). ORs a scalar with a sign-extended 10-bit immediate. -/
  | sori (d : BitVec 6) (a : BitVec 6) (imm : BitVec 10)
  /-- SXORI (R120). XORs a scalar with a sign-extended 10-bit immediate. -/
  | sxori (d : BitVec 6) (a : BitVec 6) (imm : BitVec 10)
  /-- SSHI_SHL (R121). Shifts a scalar left by a constant amount. -/
  | sshiShl (d : BitVec 6) (a : BitVec 6) (amt : BitVec 6)
  /-- SSHI_SHR (R121). Shifts a scalar right logically by a constant amount. -/
  | sshiShr (d : BitVec 6) (a : BitVec 6) (amt : BitVec 6)
  /-- SSHI_SRA (R121). Shifts a scalar right arithmetically by a constant amount. -/
  | sshiSra (d : BitVec 6) (a : BitVec 6) (amt : BitVec 6)
  /-- SSHI_ROR (R121). Rotates a scalar right by a constant amount. -/
  | sshiRor (d : BitVec 6) (a : BitVec 6) (amt : BitVec 6)
  /-- SMOVK (R122). Places a sign-extended 16-bit constant in a scalar register. -/
  | smovk (d : BitVec 6) (imm : BitVec 16)
  /-- SMOVKS (R122). Shifts a scalar left by 16 bits and inserts a 16-bit constant. -/
  | smovks (d : BitVec 6) (imm : BitVec 16)
  /-- BRC_EQZ (R123). Branches the whole fragment when the scalar is zero. -/
  | brcEqz (a : BitVec 6) (off : BitVec 12)
  /-- BRC_NEZ (R123). Branches the whole fragment when the scalar is nonzero. -/
  | brcNez (a : BitVec 6) (off : BitVec 12)
  /-- BRC_LTZ (R123). Branches the whole fragment when the scalar is negative. -/
  | brcLtz (a : BitVec 6) (off : BitVec 12)
  /-- BRC_GEZ (R123). Branches the whole fragment when the scalar is non-negative. -/
  | brcGez (a : BitVec 6) (off : BitVec 12)
  /-- BRC_ANY (R123). Branches the whole fragment when any active lane has its mask bit set. -/
  | brcAny (m : BitVec 3) (off : BitVec 12)
  /-- BRC_ALL (R123). Branches the whole fragment when every active lane has its mask bit set. -/
  | brcAll (m : BitVec 3) (off : BitVec 12)
  /-- BRC_NONE (R123). Branches the whole fragment when no active lane has its mask bit set. -/
  | brcNone (m : BitVec 3) (off : BitVec 12)
  /-- BRC_SPLIT (R41). Divides the fragment by a mask, opening a split record, or acts as an untaken or taken branch. -/
  | brcSplit (m : BitVec 3) (off : BitVec 12)
  /-- JMP (R124). Jumps to a packet-relative target. -/
  | jmp (off : BitVec 22)
  /-- CALL (R125). Writes the link to s63 and jumps to a packet-relative target. -/
  | call (off : BitVec 22)
  /-- JMPR (R126). Jumps to the address held in a scalar register. -/
  | jmpr (a : BitVec 6)
  /-- CALLR (R126). Jumps through a register and writes the link to s63. -/
  | callr (a : BitVec 6)
  /-- RET (R126). Returns to the address held in a scalar register, by default s63. -/
  | ret (a : BitVec 6)
  /-- MAND (R129). ANDs two masks. -/
  | mand (d : BitVec 3) (a : BitVec 3) (b : BitVec 3)
  /-- MOR (R129). ORs two masks. -/
  | mor (d : BitVec 3) (a : BitVec 3) (b : BitVec 3)
  /-- MXOR (R129). XORs two masks. -/
  | mxor (d : BitVec 3) (a : BitVec 3) (b : BitVec 3)
  /-- MANDN (R129). ANDs a mask with the complement of another, within the warp width. -/
  | mandn (d : BitVec 3) (a : BitVec 3) (b : BitVec 3)
  /-- MNOT (R129). Complements a mask within the warp width. -/
  | mnot (d : BitVec 3) (a : BitVec 3)
  /-- MPOPC (R129). Counts the active lanes set in a mask into a scalar. -/
  | mpopc (d : BitVec 6) (a : BitVec 3)
  /-- MFFS (R129). Writes the lowest active lane set in a mask, or -1 when there is none. -/
  | mffs (d : BitVec 6) (a : BitVec 3)
  /-- MTOS (R129). Copies a mask into a scalar. -/
  | mtos (d : BitVec 6) (a : BitVec 3)
  /-- STOM (R129). Copies a scalar into a mask, restricted to the warp width. -/
  | stom (d : BitVec 3) (a : BitVec 6)
  /-- MACT (R129). Writes the fragment's Active set into a mask. -/
  | mact (d : BitVec 3)
  /-- REGANG (R42). Makes the fragment wait at this address for its split record's members to fuse. -/
  | regang
  /-- SETFMT (R133). Writes FMT from a scalar after the checks of R76. -/
  | setfmt (a : BitVec 6)
  /-- GETFMT (R131). Reads FMT into a scalar. -/
  | getfmt (d : BitVec 6)
  /-- SETRM (R133). Writes FMT.RM from an encoded mode. -/
  | setrm (mode : BitVec 3)
  /-- YIELD (R134). Marks the fragment's next group as the last choice of issue for a while. -/
  | yield
  /-- GETCR (R135). Reads a control register by number into a scalar. -/
  | getcr (d : BitVec 6) (num : BitVec 12)
  /-- SETCR (R135). Writes a control register by number, with its side effects. -/
  | setcr (d : BitVec 6) (num : BitVec 12)
  /-- SQMAP (R137). Sets QMAP, mapping v56 to v63 as queues. -/
  | sqmap (a : BitVec 6)
  /-- FRAGID (R138). Writes the fragment's depth, lane count and lowest lane. -/
  | fragid (d : BitVec 6)
  /-- WAITC (R139). Blocks until at most the given counts remain in the LC, SC and EC sets. -/
  | waitc (lc : BitVec 6) (sc : BitVec 6) (ec : BitVec 6)
  /-- VADD (R150). Adds 32-bit lanes modulo 2^32. -/
  | vadd (d : BitVec 6) (a : BitVec 6) (b : BitVec 6) (ha : BitVec 1) (hb : BitVec 1)
  /-- VSUB (R150). Subtracts 32-bit lanes modulo 2^32. -/
  | vsub (d : BitVec 6) (a : BitVec 6) (b : BitVec 6) (ha : BitVec 1) (hb : BitVec 1)
  /-- VADDS (R150). Adds 32-bit lanes with signed saturation. -/
  | vadds (d : BitVec 6) (a : BitVec 6) (b : BitVec 6) (ha : BitVec 1) (hb : BitVec 1)
  /-- VSUBS (R150). Subtracts 32-bit lanes with signed saturation. -/
  | vsubs (d : BitVec 6) (a : BitVec 6) (b : BitVec 6) (ha : BitVec 1) (hb : BitVec 1)
  /-- VMUL (R150). Writes the low 32 bits of the lane product. -/
  | vmul (d : BitVec 6) (a : BitVec 6) (b : BitVec 6) (ha : BitVec 1) (hb : BitVec 1)
  /-- VMULH (R150). Writes the high 32 bits of the signed lane product. -/
  | vmulh (d : BitVec 6) (a : BitVec 6) (b : BitVec 6) (ha : BitVec 1) (hb : BitVec 1)
  /-- VMULHU (R150). Writes the high 32 bits of the unsigned lane product. -/
  | vmulhu (d : BitVec 6) (a : BitVec 6) (b : BitVec 6) (ha : BitVec 1) (hb : BitVec 1)
  /-- VMAD (R150). Multiplies lanes and adds the destination modulo 2^32. -/
  | vmad (d : BitVec 6) (a : BitVec 6) (b : BitVec 6) (ha : BitVec 1) (hb : BitVec 1)
  /-- VAND (R150). Bitwise AND of lanes. -/
  | vand (d : BitVec 6) (a : BitVec 6) (b : BitVec 6) (ha : BitVec 1) (hb : BitVec 1)
  /-- VOR (R150). Bitwise OR of lanes. -/
  | vor (d : BitVec 6) (a : BitVec 6) (b : BitVec 6) (ha : BitVec 1) (hb : BitVec 1)
  /-- VXOR (R150). Bitwise XOR of lanes. -/
  | vxor (d : BitVec 6) (a : BitVec 6) (b : BitVec 6) (ha : BitVec 1) (hb : BitVec 1)
  /-- VANDN (R150). ANDs one lane value with the complement of another. -/
  | vandn (d : BitVec 6) (a : BitVec 6) (b : BitVec 6) (ha : BitVec 1) (hb : BitVec 1)
  /-- VSHL (R150). Shifts lanes left. -/
  | vshl (d : BitVec 6) (a : BitVec 6) (b : BitVec 6) (ha : BitVec 1) (hb : BitVec 1)
  /-- VSHR (R150). Shifts lanes right logically. -/
  | vshr (d : BitVec 6) (a : BitVec 6) (b : BitVec 6) (ha : BitVec 1) (hb : BitVec 1)
  /-- VSRA (R150). Shifts lanes right arithmetically. -/
  | vsra (d : BitVec 6) (a : BitVec 6) (b : BitVec 6) (ha : BitVec 1) (hb : BitVec 1)
  /-- VROT (R150). Rotates lanes right. -/
  | vrot (d : BitVec 6) (a : BitVec 6) (b : BitVec 6) (ha : BitVec 1) (hb : BitVec 1)
  /-- VMIN (R150). Signed minimum of lanes. -/
  | vmin (d : BitVec 6) (a : BitVec 6) (b : BitVec 6) (ha : BitVec 1) (hb : BitVec 1)
  /-- VMAX (R150). Signed maximum of lanes. -/
  | vmax (d : BitVec 6) (a : BitVec 6) (b : BitVec 6) (ha : BitVec 1) (hb : BitVec 1)
  /-- VMINU (R150). Unsigned minimum of lanes. -/
  | vminu (d : BitVec 6) (a : BitVec 6) (b : BitVec 6) (ha : BitVec 1) (hb : BitVec 1)
  /-- VMAXU (R150). Unsigned maximum of lanes. -/
  | vmaxu (d : BitVec 6) (a : BitVec 6) (b : BitVec 6) (ha : BitVec 1) (hb : BitVec 1)
  /-- VCEQ (R154). Sets the mask bits of active lanes whose values are equal. -/
  | vceq (m : BitVec 3) (a : BitVec 6) (b : BitVec 6) (ha : BitVec 1) (hb : BitVec 1)
  /-- VCLT (R154). Sets the mask bits of active lanes where a is less than b, signed. -/
  | vclt (m : BitVec 3) (a : BitVec 6) (b : BitVec 6) (ha : BitVec 1) (hb : BitVec 1)
  /-- VCLTU (R154). Sets the mask bits of active lanes where a is less than b, unsigned. -/
  | vcltu (m : BitVec 3) (a : BitVec 6) (b : BitVec 6) (ha : BitVec 1) (hb : BitVec 1)
  /-- VCLE (R154). Sets the mask bits of active lanes where a is at most b, signed. -/
  | vcle (m : BitVec 3) (a : BitVec 6) (b : BitVec 6) (ha : BitVec 1) (hb : BitVec 1)
  /-- VBCS (R155). Broadcasts the low 32 bits of a scalar to the active lanes. -/
  | vbcs (d : BitVec 6) (a : BitVec 6) (ha : BitVec 1)
  /-- VMOVM (R155). Moves lanes selected by a mask. -/
  | vmovm (d : BitVec 6) (a : BitVec 6) (b : BitVec 3) (ha : BitVec 1) (hb : BitVec 1)
  /-- VLANE (R155). Writes a scalar plus the warp lane number into each active lane. -/
  | vlane (d : BitVec 6) (a : BitVec 6) (ha : BitVec 1)
  /-- VTOS (R155). Copies one lane into a scalar register. -/
  | vtos (d : BitVec 6) (a : BitVec 6) (b : BitVec 6) (ha : BitVec 1) (hb : BitVec 1)
  /-- VADDI (R151). Adds a sign-extended immediate to lanes. -/
  | vaddi (d : BitVec 6) (a : BitVec 6) (imm : BitVec 10)
  /-- VSHFL (R156). Reads lane i XOR s[B] within Active. -/
  | vshfl (d : BitVec 6) (a : BitVec 6) (b : BitVec 6) (ha : BitVec 1) (hb : BitVec 1)
  /-- VBCL (R156). Broadcasts one lane to all active lanes. -/
  | vbcl (d : BitVec 6) (a : BitVec 6) (b : BitVec 6) (ha : BitVec 1) (hb : BitVec 1)
  /-- VROTL (R156). Rotates lanes by a scalar amount. -/
  | vrotl (d : BitVec 6) (a : BitVec 6) (b : BitVec 6) (ha : BitVec 1) (hb : BitVec 1)
  /-- VPERM (R156). Permutes lanes by per-lane indices. -/
  | vperm (d : BitVec 6) (a : BitVec 6) (b : BitVec 6) (ha : BitVec 1) (hb : BitVec 1)
  /-- VREDADD (R159). Tree-sums the active lanes modulo 2^32. -/
  | vredadd (d : BitVec 6) (a : BitVec 6) (ha : BitVec 1)
  /-- VREDMIN (R159). Tree signed minimum over the active lanes. -/
  | vredmin (d : BitVec 6) (a : BitVec 6) (ha : BitVec 1)
  /-- VREDMAX (R159). Tree signed maximum over the active lanes. -/
  | vredmax (d : BitVec 6) (a : BitVec 6) (ha : BitVec 1)
  /-- VREDOR (R159). Tree OR over the active lanes. -/
  | vredor (d : BitVec 6) (a : BitVec 6) (ha : BitVec 1)
  /-- VSCANADD (R159). Inclusive tree scan of integer sums. -/
  | vscanadd (d : BitVec 6) (a : BitVec 6) (ha : BitVec 1)
  /-- VSCANMAX (R159). Inclusive tree scan of signed maxima. -/
  | vscanmax (d : BitVec 6) (a : BitVec 6) (ha : BitVec 1)
  /-- VSCANMIN (R159). Inclusive tree scan of signed minima. -/
  | vscanmin (d : BitVec 6) (a : BitVec 6) (ha : BitVec 1)
  /-- VSCANADDX (R159). Exclusive tree scan of integer sums. -/
  | vscanaddx (d : BitVec 6) (a : BitVec 6) (ha : BitVec 1)
  /-- VCLZ (R152). Counts the leading zeros of each lane. -/
  | vclz (d : BitVec 6) (a : BitVec 6) (ha : BitVec 1)
  /-- VPOPC (R152). Counts the set bits of each lane. -/
  | vpopc (d : BitVec 6) (a : BitVec 6) (ha : BitVec 1)
  /-- VBREV (R152). Reverses the bits of each lane. -/
  | vbrev (d : BitVec 6) (a : BitVec 6) (ha : BitVec 1)
  /-- VSEXT (R152). Sign-extends the low 8 or 16 bits of each lane. -/
  | vsext (d : BitVec 6) (a : BitVec 6) (wc : BitVec 6) (ha : BitVec 1)
  /-- VPK16 (R153). Packs two 16-bit elements into each lane. -/
  | vpk16 (d : BitVec 6) (a : BitVec 6) (b : BitVec 6) (ha : BitVec 1) (hb : BitVec 1)
  /-- VUPKL16 (R153). Moves the low 16-bit element into the high half of the lane. -/
  | vupkl16 (d : BitVec 6) (a : BitVec 6) (ha : BitVec 1)
  /-- VUPKH16 (R153). Keeps the high 16-bit element and clears the low half. -/
  | vupkh16 (d : BitVec 6) (a : BitVec 6) (ha : BitVec 1)
  /-- VBYTE (R153). Selects bytes per lane under byte selectors. -/
  | vbyte (d : BitVec 6) (a : BitVec 6) (b : BitVec 6) (ha : BitVec 1) (hb : BitVec 1)
  /-- VFADD (R160). Floating-point add rounded once. -/
  | vfadd (d : BitVec 6) (a : BitVec 6) (b : BitVec 6) (rm : BitVec 3)
  /-- VFSUB (R160). Floating-point subtract rounded once. -/
  | vfsub (d : BitVec 6) (a : BitVec 6) (b : BitVec 6) (rm : BitVec 3)
  /-- VFMUL (R160). Floating-point multiply rounded once. -/
  | vfmul (d : BitVec 6) (a : BitVec 6) (b : BitVec 6) (rm : BitVec 3)
  /-- VFDIV (R160). Floating-point divide, correctly rounded. -/
  | vfdiv (d : BitVec 6) (a : BitVec 6) (b : BitVec 6) (rm : BitVec 3)
  /-- VFMA (R160). Fused multiply-add with one rounding. -/
  | vfma (d : BitVec 6) (a : BitVec 6) (b : BitVec 6) (rm : BitVec 3)
  /-- VFMS (R160). Fused multiply-subtract with one rounding. -/
  | vfms (d : BitVec 6) (a : BitVec 6) (b : BitVec 6) (rm : BitVec 3)
  /-- VFMIN (R161). Floating-point minimum that drops a single NaN. -/
  | vfmin (d : BitVec 6) (a : BitVec 6) (b : BitVec 6)
  /-- VFMAX (R161). Floating-point maximum that drops a single NaN. -/
  | vfmax (d : BitVec 6) (a : BitVec 6) (b : BitVec 6)
  /-- VFCMP_EQ (R163). Sets mask bits for ordered equality. -/
  | vfcmpEq (m : BitVec 3) (a : BitVec 6) (b : BitVec 6)
  /-- VFCMP_LT (R163). Sets mask bits for ordered less-than. -/
  | vfcmpLt (m : BitVec 3) (a : BitVec 6) (b : BitVec 6)
  /-- VFCMP_LE (R163). Sets mask bits for ordered less-or-equal. -/
  | vfcmpLe (m : BitVec 3) (a : BitVec 6) (b : BitVec 6)
  /-- VFCMP_UN (R163). Sets mask bits where either operand is NaN. -/
  | vfcmpUn (m : BitVec 3) (a : BitVec 6) (b : BitVec 6)
  /-- VFCMP_NE (R163). Sets mask bits where the operands are not equal. -/
  | vfcmpNe (m : BitVec 3) (a : BitVec 6) (b : BitVec 6)
  /-- VFREDADD (R164). Floating-point tree sum over the active leaves. -/
  | vfredadd (d : BitVec 6) (a : BitVec 6) (rm : BitVec 3)
  /-- VFREDMAX (R164). Floating-point tree maximum over the active leaves. -/
  | vfredmax (d : BitVec 6) (a : BitVec 6)
  /-- VFSCANADD (R164). Inclusive floating-point tree scan of sums. -/
  | vfscanadd (d : BitVec 6) (a : BitVec 6) (rm : BitVec 3)
  /-- VFSCANMAX (R164). Inclusive floating-point tree scan of maxima. -/
  | vfscanmax (d : BitVec 6) (a : BitVec 6)
  /-- VSFU_RCP (R165). Correctly rounded reciprocal. -/
  | vsfuRcp (d : BitVec 6) (a : BitVec 6) (rm : BitVec 3)
  /-- VSFU_RSQ (R165). Correctly rounded reciprocal square root. -/
  | vsfuRsq (d : BitVec 6) (a : BitVec 6) (rm : BitVec 3)
  /-- VSFU_SQRT (R165). Correctly rounded square root. -/
  | vsfuSqrt (d : BitVec 6) (a : BitVec 6) (rm : BitVec 3)
  /-- VSFU_EX2 (R165). Correctly rounded power of two. -/
  | vsfuEx2 (d : BitVec 6) (a : BitVec 6) (rm : BitVec 3)
  /-- VSFU_LG2 (R165). Correctly rounded base-2 logarithm. -/
  | vsfuLg2 (d : BitVec 6) (a : BitVec 6) (rm : BitVec 3)
  /-- VSFU_SIN (R165). Correctly rounded sine. -/
  | vsfuSin (d : BitVec 6) (a : BitVec 6) (rm : BitVec 3)
  /-- VSFU_COS (R165). Correctly rounded cosine. -/
  | vsfuCos (d : BitVec 6) (a : BitVec 6) (rm : BitVec 3)
  /-- VSFU_TANH (R165). Correctly rounded hyperbolic tangent. -/
  | vsfuTanh (d : BitVec 6) (a : BitVec 6) (rm : BitVec 3)
  /-- VSFU_SIGM (R165). Correctly rounded logistic sigmoid. -/
  | vsfuSigm (d : BitVec 6) (a : BitVec 6) (rm : BitVec 3)
  /-- VFABS (R162). Clears the sign of each element and canonicalises NaNs. -/
  | vfabs (d : BitVec 6) (a : BitVec 6)
  /-- VFCLS (R162). Writes a one-hot class word for each element. -/
  | vfcls (d : BitVec 6) (a : BitVec 6)
  /-- VCVT (R170). Converts the elements of each lane between two formats. -/
  | vcvt (d : BitVec 6) (a : BitVec 6) (src : BitVec 3) (dst : BitVec 3) (rm : BitVec 3)
  /-- VQNT (R172). Divides by a scale and narrows to FMT.QF with one rounding. -/
  | vqnt (d : BitVec 6) (a : BitVec 6) (b : BitVec 6) (rm : BitVec 3)
  /-- VDQNT (R173). Decodes a quantised element and multiplies it by a scale with one rounding. -/
  | vdqnt (d : BitVec 6) (a : BitVec 6) (b : BitVec 6) (rm : BitVec 3)
  /-- VLQENC (R176). Encodes each octet of lanes into an LQ2 word. -/
  | vlqenc (d : BitVec 6) (a : BitVec 6) (b : BitVec 6) (ha : BitVec 1) (hb : BitVec 1)
  /-- VLQDEC (R177). Decodes each lane's LQ2 element and scales it. -/
  | vlqdec (d : BitVec 6) (a : BitVec 6) (b : BitVec 6) (ha : BitVec 1) (hb : BitVec 1)
  /-- VLQINS (R178). Rewrites the active elements of LQ2 octets and restores parity. -/
  | vlqins (d : BitVec 6) (a : BitVec 6) (b : BitVec 6) (ha : BitVec 1) (hb : BitVec 1)
  /-- VLQERR (R179). Writes each lane's LQ2 quantisation residual. -/
  | vlqerr (d : BitVec 6) (a : BitVec 6) (b : BitVec 6) (ha : BitVec 1) (hb : BitVec 1)
  /-- COLL (R285). Joins a collective of the devices of a group. -/
  | coll (sa : BitVec 6) (sb : BitVec 6) (acq : BitVec 1) (rel : BitVec 1) (scope : BitVec 2) (hold : BitVec 1)
  /-- CBULK (R286). Updates a CMEM region element by element at the banks. -/
  | cbulk (sa : BitVec 6) (sb : BitVec 6) (acq : BitVec 1) (rel : BitVec 1) (scope : BitVec 2) (hold : BitVec 1)
  /-- COMPACT (R287). Recompresses the blocks of compressed pages in a range. -/
  | compact (sa : BitVec 6) (sb : BitVec 6) (acq : BitVec 1) (rel : BitVec 1) (scope : BitVec 2) (hold : BitVec 1)
  /-- QPUSH (R281). Appends a planer vector register to a queue, blocking while it is full. -/
  | qpush (sa : BitVec 6) (sb : BitVec 6)
  /-- QSTAT (R284). Writes the planer slot's state and queue counts. -/
  | qstat (sb : BitVec 6)
  /-- EPOLL (R258). Writes the state of the latest command with a given tag. -/
  | epoll (sa : BitVec 6) (sb : BitVec 6)
  /-- ECANCEL (R259). Cancels the held or queued commands with a given tag. -/
  | ecancel (sa : BitVec 6) (sb : BitVec 6)
  /-- CAPENT (R310). Checks the record and body, then takes, waits for or adopts a capsule. -/
  | capent (a : BitVec 6)
  /-- CAPEXIT (R314). Ends a capsule body: frees the record, or posts to the holder when adopting. -/
  | capexit
  /-- KLD (R312). Loads a capsule register as a committed step. -/
  | kld (d : BitVec 3) (a : BitVec 3) (sz : BitVec 2)
  /-- KST (R312). Stores a capsule register as a committed step. -/
  | kst (d : BitVec 3) (a : BitVec 3) (sz : BitVec 2)
  /-- KAMO (R312). Performs an atomic on capsule registers as a committed step. -/
  | kamo (d : BitVec 3) (a : BitVec 3) (sz : BitVec 1) (fn : BitVec 4)
  /-- KMOVS (R312). Copies a capsule register into a scalar. -/
  | kmovs (d : BitVec 6) (a : BitVec 3)
  /-- KMOVK (R312). Copies a scalar into a capsule register. -/
  | kmovk (d : BitVec 3) (a : BitVec 6)
  /-- CAPSTAT (R312). Reads the warp's CAPSTAT. -/
  | capstat (d : BitVec 6)
  /-- SLD (R215). Scalar load from a virtual address, optionally an acquire. -/
  | sld (t : BitVec 6) (a : BitVec 6) (off : BitVec 6) (sz : BitVec 2) (ord : BitVec 2)
  /-- SST (R215). Scalar store to a virtual address, optionally a release. -/
  | sst (t : BitVec 6) (a : BitVec 6) (off : BitVec 6) (sz : BitVec 2) (ord : BitVec 2)
  /-- VLD (R215). Vector load of consecutive elements. -/
  | vld (t : BitVec 6) (a : BitVec 6) (off : BitVec 6) (sz : BitVec 2) (ord : BitVec 2)
  /-- VST (R215). Vector store of consecutive elements. -/
  | vst (t : BitVec 6) (a : BitVec 6) (off : BitVec 6) (sz : BitVec 2) (ord : BitVec 2)
  /-- VLDG (R215). Vector gather load by per-lane indices. -/
  | vldg (t : BitVec 6) (a : BitVec 6) (off : BitVec 6) (sz : BitVec 2) (ord : BitVec 2)
  /-- VSTS (R217). Vector scatter store, performed in ascending lane order. -/
  | vsts (t : BitVec 6) (a : BitVec 6) (off : BitVec 6) (sz : BitVec 2) (ord : BitVec 2)
  /-- BLD (R185). Bench load, plain or in a full/empty tag mode. -/
  | bld (t : BitVec 6) (a : BitVec 6) (off : BitVec 6) (sz : BitVec 2) (ord : BitVec 2)
  /-- BST (R185). Bench store, plain or in a full/empty tag mode. -/
  | bst (t : BitVec 6) (a : BitVec 6) (off : BitVec 6) (sz : BitVec 2) (ord : BitVec 2)
  /-- BLDG (R185). Bench gather load, plain or in a tag mode. -/
  | bldg (t : BitVec 6) (a : BitVec 6) (off : BitVec 6) (sz : BitVec 2) (ord : BitVec 2)
  /-- BSTS (R185). Bench scatter store, plain or in a tag mode. -/
  | bsts (t : BitVec 6) (a : BitVec 6) (off : BitVec 6) (sz : BitVec 2) (ord : BitVec 2)
  /-- AMO_ADD (R220). Atomic add at the owning unit. -/
  | amoAdd (d : BitVec 6) (a : BitVec 6) (ord : BitVec 2) (sz : BitVec 2) (sc : BitVec 2)
  /-- AMO_AND (R220). Atomic AND. -/
  | amoAnd (d : BitVec 6) (a : BitVec 6) (ord : BitVec 2) (sz : BitVec 2) (sc : BitVec 2)
  /-- AMO_OR (R220). Atomic OR. -/
  | amoOr (d : BitVec 6) (a : BitVec 6) (ord : BitVec 2) (sz : BitVec 2) (sc : BitVec 2)
  /-- AMO_XOR (R220). Atomic XOR. -/
  | amoXor (d : BitVec 6) (a : BitVec 6) (ord : BitVec 2) (sz : BitVec 2) (sc : BitVec 2)
  /-- AMO_MIN (R220). Atomic signed minimum. -/
  | amoMin (d : BitVec 6) (a : BitVec 6) (ord : BitVec 2) (sz : BitVec 2) (sc : BitVec 2)
  /-- AMO_MAX (R220). Atomic signed maximum. -/
  | amoMax (d : BitVec 6) (a : BitVec 6) (ord : BitVec 2) (sz : BitVec 2) (sc : BitVec 2)
  /-- AMO_MINU (R220). Atomic unsigned minimum. -/
  | amoMinu (d : BitVec 6) (a : BitVec 6) (ord : BitVec 2) (sz : BitVec 2) (sc : BitVec 2)
  /-- AMO_MAXU (R220). Atomic unsigned maximum. -/
  | amoMaxu (d : BitVec 6) (a : BitVec 6) (ord : BitVec 2) (sz : BitVec 2) (sc : BitVec 2)
  /-- AMO_XCHG (R220). Atomic exchange. -/
  | amoXchg (d : BitVec 6) (a : BitVec 6) (ord : BitVec 2) (sz : BitVec 2) (sc : BitVec 2)
  /-- AMO_CAS (R220). Atomic compare-and-swap. -/
  | amoCas (d : BitVec 6) (a : BitVec 6) (ord : BitVec 2) (sz : BitVec 2) (sc : BitVec 2)
  /-- AMO_FADD32 (R220). Atomic FP32 add in RNE. -/
  | amoFadd32 (d : BitVec 6) (a : BitVec 6) (ord : BitVec 2) (sc : BitVec 2)
  /-- AMO_FADD16X2 (R220). Atomic add of a BF16 pair in RNE. -/
  | amoFadd16x2 (d : BitVec 6) (a : BitVec 6) (ord : BitVec 2) (sc : BitVec 2)
  /-- AMO_FMIN32 (R220). Atomic FP32 minimum. -/
  | amoFmin32 (d : BitVec 6) (a : BitVec 6) (ord : BitVec 2) (sc : BitVec 2)
  /-- AMO_FMAX32 (R220). Atomic FP32 maximum. -/
  | amoFmax32 (d : BitVec 6) (a : BitVec 6) (ord : BitVec 2) (sc : BitVec 2)
  /-- VAMO_ADD (R221). Per-lane atomic add, same-location lanes in ascending order. -/
  | vamoAdd (d : BitVec 6) (a : BitVec 6) (ord : BitVec 2) (sz : BitVec 2) (sc : BitVec 2)
  /-- VAMO_AND (R221). Per-lane atomic AND. -/
  | vamoAnd (d : BitVec 6) (a : BitVec 6) (ord : BitVec 2) (sz : BitVec 2) (sc : BitVec 2)
  /-- VAMO_OR (R221). Per-lane atomic OR. -/
  | vamoOr (d : BitVec 6) (a : BitVec 6) (ord : BitVec 2) (sz : BitVec 2) (sc : BitVec 2)
  /-- VAMO_XOR (R221). Per-lane atomic XOR. -/
  | vamoXor (d : BitVec 6) (a : BitVec 6) (ord : BitVec 2) (sz : BitVec 2) (sc : BitVec 2)
  /-- VAMO_MIN (R221). Per-lane atomic signed minimum. -/
  | vamoMin (d : BitVec 6) (a : BitVec 6) (ord : BitVec 2) (sz : BitVec 2) (sc : BitVec 2)
  /-- VAMO_MAX (R221). Per-lane atomic signed maximum. -/
  | vamoMax (d : BitVec 6) (a : BitVec 6) (ord : BitVec 2) (sz : BitVec 2) (sc : BitVec 2)
  /-- VAMO_MINU (R221). Per-lane atomic unsigned minimum. -/
  | vamoMinu (d : BitVec 6) (a : BitVec 6) (ord : BitVec 2) (sz : BitVec 2) (sc : BitVec 2)
  /-- VAMO_MAXU (R221). Per-lane atomic unsigned maximum. -/
  | vamoMaxu (d : BitVec 6) (a : BitVec 6) (ord : BitVec 2) (sz : BitVec 2) (sc : BitVec 2)
  /-- VAMO_XCHG (R221). Per-lane atomic exchange. -/
  | vamoXchg (d : BitVec 6) (a : BitVec 6) (ord : BitVec 2) (sz : BitVec 2) (sc : BitVec 2)
  /-- VAMO_CAS (R221). Per-lane atomic compare-and-swap. -/
  | vamoCas (d : BitVec 6) (a : BitVec 6) (ord : BitVec 2) (sz : BitVec 2) (sc : BitVec 2)
  /-- VAMO_FADD32 (R221). Per-lane atomic FP32 add. -/
  | vamoFadd32 (d : BitVec 6) (a : BitVec 6) (ord : BitVec 2) (sc : BitVec 2)
  /-- VAMO_FADD16X2 (R221). Per-lane atomic add of a BF16 pair. -/
  | vamoFadd16x2 (d : BitVec 6) (a : BitVec 6) (ord : BitVec 2) (sc : BitVec 2)
  /-- VAMO_FMIN32 (R221). Per-lane atomic FP32 minimum. -/
  | vamoFmin32 (d : BitVec 6) (a : BitVec 6) (ord : BitVec 2) (sc : BitVec 2)
  /-- VAMO_FMAX32 (R221). Per-lane atomic FP32 maximum. -/
  | vamoFmax32 (d : BitVec 6) (a : BitVec 6) (ord : BitVec 2) (sc : BitVec 2)
  /-- FENCE (R223). Orders each lane's earlier accesses before its later ones at a scope. -/
  | fence (uo : BitVec 1) (scope : BitVec 2)
  /-- BAR (R224). Workgroup barrier, a release and an acquire at WG scope. -/
  | bar
  /-- TBAR (R224). Team barrier, a release and an acquire at TEAM scope. -/
  | tbar
  /-- ARRIVE (R225). Performs an arrival of n bytes at an arrival word, as a release. -/
  | arrive (a : BitVec 6) (b : BitVec 6)
  /-- AWAIT (R226). Blocks until an arrival word passes a generation, then acquires. -/
  | await (a : BitVec 6) (b : BitVec 6)
  /-- AINIT (R227). Initialises an arrival word with a target. -/
  | ainit (a : BitVec 6) (b : BitVec 6)
  /-- FENCE_CODE (R228). Orders earlier stores before later ordered instruction fetch. -/
  | fenceCode (scope : BitVec 2)
  /-- IFLUSH (R228). Discards the core's fetched code and jig configurations for the context. -/
  | iflush
  /-- TSREAD (R229). Reads the domain timebase. -/
  | tsread (d : BitVec 6)
  /-- FESET (R230). Sets the tags of a run of bench words to full or empty. -/
  | feset (val : BitVec 1) (a : BitVec 6) (b : BitVec 6)
  /-- FETEST (R230). Reads the tags of 64 bench words into a scalar. -/
  | fetest (d : BitVec 6) (a : BitVec 6)
  /-- TCOPY (R261). Copies rows between global memory and bench, optionally counting arrivals. -/
  | tcopy (sa : BitVec 6) (sb : BitVec 6) (acq : BitVec 1) (rel : BitVec 1) (scope : BitVec 2) (hold : BitVec 1)
  /-- TCOPYM (R261). Multicasts rows into several members' benches. -/
  | tcopym (sa : BitVec 6) (sb : BitVec 6) (acq : BitVec 1) (rel : BitVec 1) (scope : BitVec 2) (hold : BitVec 1)
  /-- MXLDB (R270). Loads the B tile into the bond's PEs. -/
  | mxldb (sa : BitVec 6) (sb : BitVec 6) (acq : BitVec 1) (scope : BitVec 2) (hold : BitVec 1)
  /-- MXOP (R271). Streams A rows through the bond into MSM accumulators. -/
  | mxop (sa : BitVec 6) (sb : BitVec 6) (acq : BitVec 1) (scope : BitVec 2) (hold : BitVec 1)
  /-- MXFENCE (R274). Closes a batch of matrix commands and writes its number. -/
  | mxfence (sb : BitVec 6)
  /-- MXWAIT (R274). Blocks until a batch has retired. -/
  | mxwait (sa : BitVec 6)
  /-- MXACQ (R263). Acquires the core's matrix engine lease or joins its FIFO. -/
  | mxacq
  /-- MXREL (R263). Passes the engine lease to the FIFO head or frees it. -/
  | mxrel
  /-- BFORM (R265). Requests formation of a bond of a given shape, led by this core. -/
  | bform (sa : BitVec 6)
  /-- BJOIN (R266). Joins this core's engine to a leader's bond. -/
  | bjoin (sa : BitVec 6)
  /-- BBRK (R268). Breaks a formed bond after its issued matrix commands retire. -/
  | bbrk
  /-- MSMA (R275). Requests an MSM reservation through the core's FIFO. -/
  | msma (sa : BitVec 6)
  /-- MSMF (R275). Releases the warp's MSM reservation after its commands retire. -/
  | msmf
  /-- MSMRD (R276). Narrows accumulators into bench, optionally zeroing them. -/
  | msmrd (sa : BitVec 6) (sb : BitVec 6) (rel : BitVec 1) (scope : BitVec 2) (hold : BitVec 1)
  /-- PLNGO (R279). Checks and starts a planer microprogram. -/
  | plngo (sa : BitVec 6) (sb : BitVec 6)
  /-- PLNSTOP (R283). Stops the planer after its current group. -/
  | plnstop
  /-- TRAP (R321). Raises the TRAP trap with a code after the group completes. -/
  | trap (num : BitVec 18)
  /-- TRET (R322). Leaves the trap handler, replaying pending lanes or resuming at TSAVE0. -/
  | tret
  /-- LAUNCH (R323). Checks a launch record and creates a child grid. -/
  | launch (d : BitVec 6) (a : BitVec 6)
  /-- LWAIT (R324). Blocks until a child grid and its descendants retire. -/
  | lwait (a : BitVec 6)
  /-- EXIT (R325). Retires the fragment after its group takes effect. -/
  | exit
  /-- JIGHINT (R326). Records a jig hint region and mode in the context's hint list. -/
  | jighint (mode : BitVec 2) (a : BitVec 6) (b : BitVec 6)
  /-- BRKPT (R321). Raises BREAKPOINT when CTL.BKEN is set. -/
  | brkpt (num : BitVec 18)
  /-- NOP (R110). Has no effect apart from its chain and stall fields. -/
  | nop
  /-- FETCH_FAULT (R390). A group cannot be fetched and FETCH_FAULT is raised before it issues. -/
  | fetchFault (f : Nat)
  /-- LOAD_COMPLETION (R100). A variable-latency load or returning operation writes its result and leaves LC. -/
  | loadCompletion (op : Nat)
  /-- STORE_COMPLETION (R100). A store or other memory write completes and leaves SC. -/
  | storeCompletion (op : Nat)
  /-- REMOTE_RESPONSE (R206). A remote response arrives, frees its request slot and lets a stalled request be sent. -/
  | remoteResponse (op line : Nat)
  /-- INBOUND_DOMAIN_REQUEST (R247). A request from another device of the domain is performed as a SYS access. -/
  | inboundDomainRequest (req : DomainRequest)
  /-- HOST_DEVICE_ACCESS (R247). A host read or write of device memory is performed as an RC SYS access. -/
  | hostDeviceAccess (acc : HostAccess)
  /-- HOST_REQUEST_FAILURE (R377). The host fails a device request, making the issuing context dead. -/
  | hostRequestFailure (req : HostFailure)
  /-- COPY_ROW_LANDING (R262). A copy row is written at a receiver and counted at its arrival word. -/
  | copyRowLanding (cmd : Nat)
  /-- ENGINE_COMMAND_COMPLETION (R257). An engine command completes, posts its token, and leaves EC. -/
  | engineCommandCompletion (cmd : Nat)
  /-- DEFERRED_FAULT_DELIVERY (R255). A deferred fault is taken at the chosen fragment's next issued group. -/
  | deferredFaultDelivery (f : Nat)
  /-- BOND_FORMATION (R266). The bond forms when the BFORM, every BJOIN and the seam channels are ready. -/
  | bondFormation (core : Nat)
  /-- CAPSULE_STEP_COMMIT (R311). A capsule step commits indivisibly at the record's home unit. -/
  | capsuleStepCommit (warp : Nat)
  /-- EVENT_WINDOW_START (R86). An event window ends and a new one clears the counters and FIRED. -/
  | eventWindowStart (wg : Nat)
  /-- FRAGMENT_PROMOTION (R342). A fragment ready for 64 ticks without issuing is promoted. -/
  | fragmentPromotion (f : Nat)
  /-- YIELD_EXPIRY (R342). A fragment's yielding state ends after 16 ticks. -/
  | yieldExpiry (f : Nat)
  /-- WARP_RETIREMENT (R325). A warp retires once its last fragment has exited and its sets have drained. -/
  | warpRetirement (warp : Nat)
  /-- LAUNCH_RECORD_ADMISSION (R330). Lift takes a head record and admits it as a grid of waiting teams. -/
  | launchRecordAdmission
  /-- TEAM_PLACEMENT (R336). Lift places a waiting team whole on a qualifying footprint. -/
  | teamPlacement
  /-- RUN_SLICE_EXPIRY (R345). A team's run slice expires. -/
  | runSliceExpiry (team : Nat)
  /-- WAIT_SLICE_EXPIRY (R346). A waiting team's wait slice expires and Lift chooses victims to pre-empt. -/
  | waitSliceExpiry (team : Nat)
  /-- LWAIT_PREEMPTION (R347). A team whose leader waits in LWAIT is pre-empted so that a child team can be placed. -/
  | lwaitPreemption (team : Nat)
  /-- TEAM_SAVE (R366). A pre-empted team is quiesced and written to its context image. -/
  | teamSave (team : Nat)
  /-- TEAM_RESUME (R367). A saved team is restored, with leases, bonds and capsule records settled before it issues. -/
  | teamResume (team : Nat)
  /-- DEAD_CONTEXT_DRAIN_COMPLETE (R371). The dead context's drain ends, DONE words get STATUS 2 and the host is notified. -/
  | deadContextDrainComplete (ctx : Nat)
  /-- DIE_LOSS_DECLARATION (R372). Firmware declares a die lost, and contexts naming it die with DIE_LOST. -/
  | dieLossDeclaration (dies : BitVec 6)
  /-- QUEUE_DESCRIPTOR_WRITE (R328). A write to a queue descriptor, with EN refused for a faulty descriptor. -/
  | queueDescriptorWrite (queue byte size : Nat) (value : BitVec 64)
  /-- MANAGEMENT_REGISTER_WRITE (R380). A write to a management block register that has no row of its own. -/
  | managementRegisterWrite (offset size : Nat) (value : BitVec 64)
  /-- TRANSLATION_INVALIDATION (R361). Management command 1 invalidates the translations kept for a context. -/
  | translationInvalidation
  /-- HOST_KILL (R380). Management command 2 declares a context dead. -/
  | hostKill
  /-- CLEAR_RATE_HINT (R387). Management command 3 clears a stack's alternate-rate hint. -/
  | clearRateHint
  /-- CMD_NO_EFFECT (R379). CMD with OP 0 or 4 to 15 has no effect and BUSY clears at once. -/
  | cmdNoEffect (op : BitVec 4)
  /-- DEVICE_RESET (R385). Reset runs the bring-up steps and writes the boot record. -/
  | deviceReset (inp : BootInputs)
  /-- THERMAL_SHUTDOWN (R388). At the thermal shutdown point the package resets. -/
  | thermalShutdown
  /-- ENGINE_COMMAND_START (R258). A queued engine command begins its first access and moves from queued to running. -/
  | engineCommandStart (cmd : Nat)
  /-- MANAGEMENT_COMMAND_COMPLETION (R379). A management command that has run for some time completes and CMD.BUSY clears. -/
  | managementCommandCompletion
deriving DecidableEq, Repr

/-- The rows of the table that have an encoding; the others are events of the part. -/
def Instr.isWord : Instr → Bool
  | .fetchFault _ => false
  | .loadCompletion _ => false
  | .storeCompletion _ => false
  | .remoteResponse _ _ => false
  | .inboundDomainRequest _ => false
  | .hostDeviceAccess _ => false
  | .hostRequestFailure _ => false
  | .copyRowLanding _ => false
  | .engineCommandCompletion _ => false
  | .deferredFaultDelivery _ => false
  | .bondFormation _ => false
  | .capsuleStepCommit _ => false
  | .eventWindowStart _ => false
  | .fragmentPromotion _ => false
  | .yieldExpiry _ => false
  | .warpRetirement _ => false
  | .launchRecordAdmission => false
  | .teamPlacement => false
  | .runSliceExpiry _ => false
  | .waitSliceExpiry _ => false
  | .lwaitPreemption _ => false
  | .teamSave _ => false
  | .teamResume _ => false
  | .deadContextDrainComplete _ => false
  | .dieLossDeclaration _ => false
  | .queueDescriptorWrite _ _ _ _ => false
  | .managementRegisterWrite _ _ _ => false
  | .translationInvalidation => false
  | .hostKill => false
  | .clearRateHint => false
  | .cmdNoEffect _ => false
  | .deviceReset _ => false
  | .thermalShutdown => false
  | .engineCommandStart _ => false
  | .managementCommandCompletion => false
  | _ => true

end Sys2Proof
end

