-- ==== Sys2Proof/Machine/State.lean ====
section
/-! DEFINITION. Everything the spec gives the machine, as plain data: the package, contexts, grids, teams, workgroups, warps and
fragments, the cores with their engines, planer and jig, outstanding memory operations and engine commands. -/

namespace Sys2Proof.Machine

/-- Why a run stops. Neither is raised by a machine that step runs from reset. -/
inductive Fault where
  /-- Raised by a word's meaning when no group is being issued: a word is part of a group (R93). Safe. -/
  | noIssuingGroup
  /-- Raised by a word's meaning when the issuing fragment or a unit above it is not in the tables of State. Safe. -/
  | noSuchUnit
deriving DecidableEq, Repr

/-- What the model declines. -/
inductive Refusal where
  /-- Raised by Dispatch for an instruction that has no meaning yet. Safe. -/
  | notModelled (mnemonic : String)
deriving DecidableEq, Repr

/-- Page kinds (R201). -/
inductive Kind where
  | rc | so | uo
deriving DecidableEq, Repr

/-- Scopes, in widening order (R108, R232). -/
inductive Scope where
  | wg | team | dev | sys
deriving DecidableEq, Repr

/-- One byte location: a physical byte by its canonical address, or a byte of a workgroup's bench allocation. -/
inductive Loc where
  | phys (addr : Nat)
  | bench (wg off : Nat)
deriving DecidableEq, Repr

/-- What a trap records (R319, R352). -/
structure Trap where
  code : BitVec 8
  detail : BitVec 18 := 0
  addr : Dword := 0
  word : Nat := 0
  evt : BitVec 4 := 0
  /-- The tick whose events an EVENT_LIMIT trap reports (R87). -/
  tick : Nat := 0
deriving DecidableEq, Repr

/-- What a memory word does at its locations. -/
inductive AccessOp where
  | load
  | store
  /-- LDF, and LDFE when `empty` (R185). -/
  | tagLoad (empty : Bool)
  /-- STEF when `wait`, else STF (R185). -/
  | tagStore (wait : Bool)
  | amo (fn : BitVec 4)
  | arrive (n : Nat)
  | ainit (target : Nat)
  | feset (full : Bool) (count : Nat)
  | fetest
  | tsread
deriving DecidableEq, Repr

/-- One lane's access as read at issue (R209, R355): its address and its data operands. -/
structure LaneReq where
  lane : Nat
  addr : Dword
  data : Dword := 0
  new : Dword := 0
deriving DecidableEq, Repr

/-- Where a memory word's result goes. -/
inductive Dest where
  | none
  | vec (n : Nat)
  | scal (n : Nat)
  | kreg (n : Nat)
deriving DecidableEq, Repr

/-- A memory word as read at issue: all a replay needs (R355, R356). -/
structure MemReq where
  op : AccessOp
  /-- The address is a bench address (R183). -/
  bench : Bool
  /-- Bytes of one lane's access. -/
  size : Nat
  dest : Dest
  acq : Bool := false
  rel : Bool := false
  /-- The encoded scope, or none where the address class gives it (R210). -/
  scope : Option Scope := none
  /-- The widest scope that the address classes of the word's active lanes gave when it first issued: a replay keeps it (R210). -/
  least : Scope := .wg
  /-- Each lane makes an access of its own; a scalar word makes one (R209). -/
  vector : Bool := false
  lanes : List LaneReq
deriving DecidableEq, Repr

/-- A part of an operation whose checks have passed, performed in one action: a lane's access, or one word of FESET or FETEST (R209,
R230). -/
structure LaneAcc where
  /-- The lane, or the number of the word. -/
  lane : Nat
  locs : List Loc
  kind : Kind
  data : Dword
  new : Dword
  /-- The lanes whose program order it takes: its own, or every active lane for a scalar access (R48, R209). -/
  who : Lanes
  /-- The place of its bytes in the lane's access: an access that is not naturally aligned has several parts (R200, R209). -/
  off : Nat := 0
deriving DecidableEq, Repr

/-- A 128-byte line requested of another device (R205). -/
structure Line where
  port : Nat
  line : Nat
  sent : Bool
  answered : Bool
deriving DecidableEq, Repr

/-- An outstanding memory operation (R100, R231). Its identity gives its place in issue order. -/
structure Op where
  warp : Nat
  wg : Nat
  ctx : Nat
  /-- Active of the issuing fragment: the lanes whose program order it takes (R48). -/
  active : Lanes
  op : AccessOp
  size : Nat
  dest : Dest
  acq : Bool
  rel : Bool
  scope : Scope
  /-- The parts not yet performed, ascending. -/
  lanes : List LaneAcc
  /-- What parts performed by themselves have read, by lane: written to the destination when the operation leaves its set (R100, R102). -/
  got : List (Nat × Nat) := []
  /-- The locations of the lanes of an atomic that have been performed by themselves (R221). -/
  begun : List Loc := []
  /-- What its parts will read, by number, where its fragment has had them before it is performed (R235, R237). -/
  told : List (Nat × Nat) := []
  lines : List Line := []
  /-- The order in which a tag wait was presented to its bank unit (R186). -/
  arrived : Nat := 0
  /-- It was issued within a configuration (R297). -/
  token : Bool := false
deriving DecidableEq, Repr

/-- A FENCE that has issued while earlier operations of its lanes are outstanding (R223). -/
structure FenceRec where
  warp : Nat
  active : Lanes
  uo : Bool
  scope : Scope
  /-- It is a FENCE.CODE (R228). -/
  code : Bool := false
deriving DecidableEq, Repr

/-- A register an instruction names. -/
inductive Reg where
  | v (n : Nat) | s (n : Nat) | m (n : Nat) | k (n : Nat) | fmt | fstat | qmap
  /-- A control register that has no other name. -/
  | cr (n : Nat)
deriving DecidableEq, Repr

/-- An access that has been performed, or an acquire, after an operation left behind: by what later accesses find that they come after it too (R238
to R240). -/
structure Past where
  /-- Its place in issue order. -/
  id : Nat
  /-- Its parts; it has none where no lane made it. Workgroup 0 stands for what lies outside the package. -/
  op : Op
  /-- The scopes of the releases that it is or stands behind (R239). -/
  via : List Scope := []
  /-- Bytes that hold what it wrote, or what atomics have made of that since (R239). -/
  live : List Loc := []
  /-- Bench words whose full tag it set (R239). -/
  tags : List (Nat × Nat) := []
  /-- Arrival words, each with the generation that counted it (R226, R239). -/
  gens : List (Loc × Nat) := []
  /-- It is a control dependence: it comes before stores and atomics alone (R237). -/
  ctl : Bool := false
  /-- It is the access performed early under this number, to which its fragment has not come yet. -/
  early : Option Nat := none
deriving DecidableEq, Repr

/-- A part that has read what a release or a store behind a FENCE wrote: a later FENCE of its lanes acquires it (R239). -/
structure Seen where
  warp : Nat
  wg : Nat
  part : LaneAcc
  /-- The workgroups that wrote. -/
  from_ : List Nat
  early : Option Nat := none
deriving DecidableEq, Repr

/-- What hands happens-before on outside the accesses of lanes (R37, R239, R243, R257, R313, R335). -/
inductive Carrier where
  /-- Every access of an engine command: its identity, the warp, workgroup and lanes that issued it, its REL, and whether it writes memory. -/
  | cmd (id warp wg : Nat) (active : Lanes) (rel writes : Bool)
  /-- A token that is still at a tag of a workgroup. -/
  | token (wg tag : Nat)
  /-- The start of a grid's teams. -/
  | grid (id : Nat)
  /-- The retirement of a grid. -/
  | ended (grid : Nat)
  /-- The return of an LWAIT of a workgroup for a handle. -/
  | child (wg handle : Nat)
  /-- A DONE event word, by its first byte. -/
  | done (word : Loc)
  /-- The commits and grants of a capsule record. -/
  | record (r : Nat)
  /-- Whatever the host and other devices do. -/
  | outside
deriving DecidableEq, Repr

/-- What comes after one operation, or after one FENCE.CODE, so far. -/
structure Trail where
  after : List Past := []
  seen : List Seen := []
  held : List Carrier := []
deriving DecidableEq, Repr

/-- A part of an operation that accesses ordered after it by a FENCE, an acquire or a release have passed, or may pass (R232, R241): until it is
performed nothing that comes after it meets it. -/
structure Debt where
  op : Nat
  part : Nat
  /-- The operation, with that part alone. -/
  acc : Op
  /-- It is left behind. One that is not has given an own load what it will write (R234), and nothing but that load has passed it. -/
  left : Bool
  trail : Trail
  /-- What comes after a FENCE.CODE that stands behind it (R228). -/
  code : Trail := {}
deriving DecidableEq, Repr

/-- An access that a fragment's core has performed before the fragment comes to it (R235, R237): under which number, the access, and what its parts
read. -/
structure Early where
  key : Nat
  acc : Op
  got : List (Nat × Nat)
  /-- The registers that the values of loads not performed before it have reached, whether such a value has decided what its lanes issue, and whether
  the group being issued names none of those registers (R237). -/
  taint : List Reg := []
  ctl : Bool := false
  fits : Bool := false
  /-- Results still to become visible that carry such a value on, or make an end of one: at which tick of the fragment, and where (R97). -/
  turns : List (Nat × Reg × Bool) := []
  /-- The engine commands that have ended since. -/
  ended : List Nat := []
  /-- Something ordered before it has come between: its fragment does not come to it. -/
  gone : Bool := false
  /-- The operation that it is, once that has issued. -/
  due : Option Nat := none
deriving DecidableEq, Repr

/-- A packet that a core holds fetched for a context (R228, R245): its words by address, all of one write state. -/
structure Packet where
  core : Nat
  ctx : Nat
  words : List (Dword × Word)
deriving DecidableEq, Repr

/-- A store that has changed a packet since (R228): its operation, warp and lanes, and what comes after a FENCE.CODE that stands behind it. -/
structure Change where
  op : Nat
  warp : Nat
  lanes : Lanes
  trail : Trail := {}
deriving DecidableEq, Repr

/-- A packet of a context as it once stood in memory: until a fetch is ordered after the stores that changed it, the fetch may still find it so
(R228, R245). -/
structure OldPacket where
  ctx : Nat
  locs : List Loc
  words : List (Dword × Word)
  changes : List Change := []
  /-- The lanes of warps that have executed IFLUSH after what a FENCE.CODE behind such a store comes before: they fetch it no more. -/
  flushed : List (Nat × Lanes) := []
deriving DecidableEq, Repr

/-- A mapped page (R201, R359): its physical base and size in bits, and what its leaf entry says. -/
structure Page where
  pa : Nat
  shift : Nat
  kind : Kind
  compressed : Bool
  rd : Bool
  wr : Bool
  ex : Bool
deriving DecidableEq, Repr

/-- A translation kept from an earlier walk (R361). -/
structure Kept where
  ctx : Nat
  va : Dword
  page : Page
deriving DecidableEq, Repr

/-- What a pending fixed-latency write writes (R97). -/
inductive PendVal where
  | vec (n : Nat) (vals : List (Nat × Word))
  | scal (n : Nat) (x : Dword)
  /-- The bits of m[n] selected by sel become those of x (R154). -/
  | mask (n : Nat) (sel x : Lanes)
  | kreg (n : Nat) (x : Dword)
  | fmt (x : Word)
  | fstat (x : BitVec 5)
  /-- A flag contribution (R82). -/
  | flags (x : BitVec 5)
  | qmap (x : BitVec 8)
  /-- A control register of fragment or warp scope (R327). -/
  | ctl (num : Nat) (x : Dword)
  /-- The flags of the conversions behind what a planer holds in vn (R83, R181). -/
  | carried (n : Nat) (x : BitVec 5)
deriving DecidableEq, Repr

/-- A fixed-latency write not yet visible (R95, R97). -/
structure Pend where
  vis : Nat
  val : PendVal
deriving DecidableEq, Repr

/-- What a fragment waits for (R54, R343, R364). -/
inductive Wait where
  /-- Arrived at the REGANG group at this address; the group after it. -/
  | regang (at_ next : Dword)
  | bar (episode : Nat)
  | tbar (episode : Nat)
  /-- The group has not issued: a queue it pops holds too few entries (R282). The queues with how many entries of each, and the
  place of its first attempt. -/
  | pop (needs : List (Nat × Nat)) (order : Nat)
  /-- The group has not issued: a request slot or a place in a wait set is missing (R100, R206). -/
  | issue
  /-- The group has not issued: 64 children are unretired (R323). -/
  | launchLimit
  /-- A vector bench access in a waiting mode (R185, R365). -/
  | tag (op : Nat)
  /-- MXACQ or MSMA: the command leaves EC when it is granted (R263, R275). -/
  | grant (cmd : Nat)
  | mxwait (batch : Nat)
  | await (word : Loc) (gen : BitVec 32)
  | lwait (handle : Nat)
  | waitc (ops : List Nat)
  /-- The group has not issued: its record is held, or an earlier contender is served first (R310). The record, and the control word that
  the last attempt found. -/
  | capent (record ctl : Nat)
  | capexit
  | returnSlot
  /-- The planer's group has not issued: the queue it pushes to is full (R281). -/
  | full (queue : Nat)
deriving DecidableEq, Repr

/-- A wait set: its outstanding operations, and the identities of the latest issued ones, newest first (R100, R101). -/
structure OpSet where
  members : List Nat := []
  recent : List Nat := []
deriving DecidableEq, Repr

/-- A replay record (R355): the word as read at its issue, and TNEXT as the trap found it. -/
structure Replay where
  req : MemReq
  pending : Lanes
  /-- The word's index in its group. -/
  word : Nat
deriving DecidableEq, Repr

/-- A deferred fault or EVENT_LIMIT trap that waits for its fragment's next issued group (R87, R255). -/
structure HeldTrap where
  trap : Trap
  /-- TSAVE1.DEFER (R319). -/
  defer : Bool
deriving DecidableEq, Repr

/-- A trap of the group just issued that waits until the group's own wait is over (R351, R365): its saved pc where it is not that of
the next group, and a partial-class trap's record with TNEXT. -/
structure DueTrap where
  trap : Trap
  pc : Option Dword := none
  replay : Option (Replay × Dword) := none
  /-- It is a trap that was held for the fragment's return from its handler: TSAVE1.DEFER (R319). -/
  defer : Bool := false
  /-- It was held for the return that it follows, and is taken immediately after that (R87, R255). -/
  held : Bool := false
deriving DecidableEq, Repr

/-- A live fragment (R26, R319, R364). -/
structure Frag where
  warp : Nat
  pc : Dword
  lm : Lanes
  fmt : Word
  fstat : BitVec 5 := 0
  /-- m0 to m7. -/
  m : Table Lanes := []
  /-- s48 to s63, by number. -/
  s : Table Dword := []
  t : Nat := 0
  vmax : Nat := 0
  pend : List Pend := []
  /-- Open split records, innermost first. -/
  records : List Nat := []
  lc : OpSet := {}
  sc : OpSet := {}
  ec : OpSet := {}
  /-- Destinations of LC and EC operations that no WAITC covers yet (R102). -/
  uncovered : List (Nat × Reg) := []
  hnd : Bool := false
  tsave0 : Dword := 0
  tsave1 : Dword := 0
  tsave2 : Dword := 0
  tsave3 : Dword := 0
  faultmask : Dword := 0
  tnext : Dword := 0
  replay : Option Replay := none
  heldTraps : List HeldTrap := []
  wait : Option Wait := none
  /-- Operations that a WAITC waits for in a group that waits for something else besides (R93, R101). -/
  waitOps : List Nat := []
  /-- A REGANG of its latest group at which it will stand once its handler has returned, or what else the group waits for is over
  (R42, R93): the group's address and the group after it. -/
  thenAt : Option (Dword × Dword) := none
  /-- The core tick since which it has stood at a REGANG, also while its handler runs there (R42, R44). -/
  stoodAt : Option Nat := none
  due : Option DueTrap := none
  /-- The core tick before which the stall counts let no group issue (R53). -/
  notBefore : Nat := 0
  readySince : Nat := 0
  promoted : Option Nat := none
  yieldUntil : Nat := 0
  lastIssue : Nat := 0
  /-- The words of the packet that its latest group was in, as fetched then (R228, R245). -/
  packet : List (Dword × Word) := []
  /-- Parked in the context image (R46). -/
  parked : Bool := false
  /-- Its place among the contenders for a capsule record: the record and the order of its first attempt (R310). -/
  capPlace : Option (Nat × Nat) := none
  /-- The place is an adopter's, which holds from its adoption until its own CAPENT has been served (R310). -/
  capKept : Bool := false
deriving DecidableEq, Repr

/-- An open split record (R40). -/
structure SplitRec where
  parent : Option Nat
  fmt : Word
  exitFlags : BitVec 5
deriving DecidableEq, Repr

/-- A step of a capsule that has issued and not committed (R311). -/
structure CapStep where
  /-- Its position in the body (R311). -/
  number : Nat
  /-- The address of its group. -/
  pc : Dword
  /-- The address of the next step's group, or of the CAPEXIT group. -/
  next : Dword
  /-- The step's k write, if it has one. -/
  write : Option (Nat × Dword)
  /-- The step's memory access, if it has one. -/
  mem : Option MemReq
  /-- The operation of the memory access in its wait set. -/
  op : Nat
  locs : List Loc
  frag : Nat
  /-- What other words of the warp have written to k registers since the step before (R311). -/
  moved : Table Dword := []
deriving DecidableEq, Repr

/-- A capsule that a warp holds or is adopting (R308). -/
structure Capsule where
  /-- Physical address of the record, its home unit's name for it. -/
  record : Nat
  /-- The record's virtual address, as CAPENT read it (R310). -/
  va : Dword := 0
  gen : BitVec 16
  adopting : Bool
  /-- The body read at CAPENT: address and word of each group's words (R309). -/
  body : List (Dword × Word)
  entry : Dword
  exitAt : Dword
  /-- The group after the CAPEXIT group. -/
  exitNext : Dword
  /-- The number of the step at `entry` as CAPENT found it: 0, or for an adopter the record's STEP (R311). -/
  first : Nat
  steps : List CapStep := []
  /-- k0 to k7 after the last committed step (R311). -/
  ks : Table Dword := []
  /-- What words that are no steps have written to k registers since the last step issued: a KMOVK in a handler, or of another fragment. -/
  moved : Table Dword := []
  /-- The fragment inside the body. -/
  frag : Nat
  /-- The handler bit of that fragment at its CAPENT: body groups are those it issues with the same bit. -/
  hnd : Bool := false
  /-- An adopter's own CAPENT group, and its own k0 to k7 (R316). -/
  ownPc : Dword := 0
  savedK : Table Dword := []
deriving DecidableEq, Repr

/-- A warp's batch of matrix commands (R274). -/
structure Batch where
  number : Nat
  cmds : List Nat
deriving DecidableEq, Repr

/-- A warp (R24, R26, R308, R327). The planer of a core is held as a warp of its own, in slot 16. -/
structure Warp where
  wg : Nat
  idx : Nat
  width : Nat
  slot : Nat := 0
  base : Nat := 0
  /-- Some core: this is that core's planer (R280). -/
  planer : Option Nat := none
  /-- v0 to v63: lane j of vn at 64 n + j. -/
  v : Table Word := []
  /-- s0 to s47. -/
  s : Table Dword := []
  k : Table Dword := []
  qmap : BitVec 8 := 0
  /-- A planer's: for each v register, the flags of the conversions behind its value, which ENGSTAT.PL takes when the value enters a
  queue (R83). -/
  carried : Table (BitVec 5) := []
  dbg : Word := 0
  capid : BitVec 32 := 0
  capstat : BitVec 16 := 0
  capsule : Option Capsule := none
  /-- The return slot: k0 to k7 when FULL (R308). -/
  returnSlot : Option (Table Dword) := none
  splits : Table SplitRec := []
  /-- The next batch number, the open batch and the closed ones (R274). -/
  batchNext : Nat := 1
  batchOpen : List Nat := []
  batches : List Batch := []
  batchesClosed : Nat := 0
  /-- The warp's MSM reservation (R275) and its accumulators as AF40 bits. -/
  msmSize : Nat := 0
  msmHeld : Bool := false
  msm : Table (BitVec 40) := []
  /-- Commands that must retire before MSMF takes effect (R275). -/
  msmFree : Option (List Nat) := none
  retired : Bool := false
deriving DecidableEq, Repr

/-- A SETCR to a per-workgroup register that is not yet visible (R135, R136). -/
structure CrWrite where
  due : Nat
  slot : Nat
  lane : Nat
  num : Nat
  val : Dword
deriving DecidableEq, Repr

/-- A workgroup (R29, R84, R327). -/
structure Wg where
  team : Nat
  member : Nat
  core : Nat := 0
  benchSize : Nat
  bench : Table Byte := []
  /-- Full tags: the words whose tag is full (R185). -/
  tags : Table Bool := []
  tvec : Dword := 0
  ctl : Word := 0
  engstat : Word := 0
  /-- EVTCNT0 to EVTCNT3 and EVTLIM0 to EVTLIM3. -/
  evtcnt : Table Word := []
  evtlim : Table Word := []
  evtctl : Word := 0
  evtstat : Word := 0
  /-- Resident ticks of the current event window that have passed (R86). -/
  window : Nat := 0
  /-- The tick of the latest EVENT_LIMIT trap and the fragment that takes it, and of the latest EVENT_LIMIT interrupt and its place
  among the interrupts: classes that fire in the same tick join it (R87). -/
  evtTrap : Option (Nat × Nat) := none
  evtIrq : Option (Nat × Nat) := none
  jigcfg : Word := 0x40
  jigstat : Dword := 0
  crPend : List CrWrite := []
  /-- What a GETCR of this tick reads where two writes meet (R136). -/
  crOld : Table Dword := []
  /-- Token counts of tags 1 to 255 (R257). -/
  tokens : Table Nat := []
  /-- The latest issued command of each tag (R258). -/
  tagLast : Table Nat := []
  launchSeq : Nat := 0
  barrier : Nat := 0
  retired : Bool := false
deriving DecidableEq, Repr

/-- Where a team is (R32, R336, R349, R366): a team chosen for pre-emption goes on to the end of the tick, and issues nothing more after
it until it is saved and resumed. -/
inductive TeamState where
  | waiting | resident | chosen | saving | saved
deriving DecidableEq, Repr

/-- A planer's state (R283, R284). -/
inductive PlanerState where
  | stopped | running | faulted
deriving DecidableEq, Repr

/-- A bond of a saved team, in the shape it had (R256, R270, R368, R369); an engine that a warp of the team owns alone is listed with
shape 0. Cores are named by member number. -/
structure SavedBond where
  leader : Nat
  shape : Nat
  formed : Bool
  members : List Nat
  cmd : Nat
  width8 : Option Bool
  tile : Table (BitVec 24)
  tileFmt : Option (BitVec 4)
  tileScale : BitVec 8
deriving DecidableEq, Repr

/-- A BJOIN of a saved team that waits for its bond (R256, R369): the joining member and the leader's. -/
structure SavedJoin where
  member : Nat
  leader : Nat
  cmd : Nat
  warp : Nat
  active : Lanes
deriving DecidableEq, Repr

/-- A planer of a saved team (R283, R363), by its member: the slot's state, program and queues. -/
structure SavedPlaner where
  member : Nat
  state : PlanerState
  warp : Option Nat
  trap : Trap
  program : List Word
  progAddr : Dword
  progLen : Nat
  queues : Table (List (Table Word))
deriving DecidableEq, Repr

/-- What a waiting team seeks since its wait slice has expired for nothing (R350): since when, and the footprint with its seam-crossing edges;
no core where there is none that it might come to. -/
structure Sought where
  since : Nat
  cores : List Nat := []
  edges : Nat := 0
deriving DecidableEq, Repr

/-- A team (R30, R340, R345). -/
structure Team where
  grid : Nat
  number : Nat
  state : TeamState := .waiting
  window : Option Nat := none
  /-- TEAMBASE (R191, R339). -/
  base : Nat := 0
  wgs : List Nat := []
  /-- The core of each member while it is resident. -/
  cores : List Nat := []
  /-- Cores that a pre-emption frees for this team (R346, R347). -/
  target : List Nat := []
  /-- What the team keeps from others until it is placed (R350). -/
  sought : Option Sought := none
  earmark : Nat := 0
  firstWaiting : Nat := 0
  runStart : Nat := 0
  runExpired : Bool := false
  waitStart : Option Nat := none
  barrier : Nat := 0
  /-- What the image of a saved team holds apart from its units: the warps that owned engines by member, bonds, joins and planers. -/
  leases : List (Nat × Nat) := []
  savedBonds : List SavedBond := []
  savedJoins : List SavedJoin := []
  savedPlaners : List SavedPlaner := []
deriving DecidableEq, Repr

/-- A launch record in the v2 form, a v1 record as R332 treats it (R331). -/
structure Record where
  cls : BitVec 2
  width : Nat
  team : Nat
  bond : BitVec 4
  check : Bool
  bken : Bool
  wglanes : Nat
  entry : Dword
  args : Dword
  tvec : Dword
  teams : Nat
  bench : Nat
  fmt : Word
  msm : Nat
  regs : Nat
  waits : List Nat
  done : Nat
  user : BitVec 32
deriving DecidableEq, Repr

/-- A grid (R33 to R39, R330). -/
structure Grid where
  ctx : Nat
  queue : Nat
  gridid : Nat
  depth : Nat
  cls : Nat
  parent : Option Nat
  /-- The launching workgroup and its handle for this grid (R323). -/
  parentWg : Nat := 0
  handle : Nat := 0
  record : Record
  pre : Nat := 0
  /-- A child grid's LAUNCH has completed: its teams may be placed (R37). -/
  ready : Bool := true
deriving DecidableEq, Repr

/-- One entry of the jig hint list (R305): 0 off, 1 on, 2 preferred. -/
structure Hint where
  start : Dword
  stop : Dword
  mode : BitVec 2
deriving DecidableEq, Repr

/-- A context the machine knows (R20, R305, R370). -/
structure Ctx where
  diemask : BitVec 8 := 0
  dead : Option (BitVec 8) := none
  /-- The tick at which it became dead (R374). -/
  deadAt : Nat := 0
  failedAddr : Option Nat := none
  lost : BitVec 6 := 0
  drained : Bool := false
  /-- Oldest first. -/
  hints : List Hint := []
  /-- The TWIN region, from the queue that admitted the context's first grid (R191, R328). -/
  twin : Option Nat := none
  nextGrid : Nat := 1
deriving DecidableEq, Repr

/-- The state of an engine command (R258). -/
inductive CmdState where
  | held | queued | running | done | cancelled | faulted
deriving DecidableEq, Repr

/-- An entry of the group table (R382). -/
structure Group where
  size : BitVec 23 := 0
  rank : BitVec 22 := 0
  tree : BitVec 32 := 0
deriving DecidableEq, Repr

/-- What an engine command does, with its descriptor as read at issue (R253). -/
inductive CmdKind where
  | tcopy (src dst : Dword) (rowBytes rows : Nat) (sstride dstride : Int) (aoff : Nat) (aw : Bool) (dir : BitVec 2)
      (mmask : BitVec 8) (multi : Bool)
  | mxldb (boff soff bstride : Nat) (mb : BitVec 4) (sb : BitVec 8)
  | mxop (aoff rows acc astride : Nat) (ma : BitVec 4) (sa : BitVec 8)
  | msmrd (doff rows acc dstride : Nat) (tf rm : BitVec 3) (zero : Bool)
  /-- COLL: the group by its index, and its entry as the command found it. -/
  | coll (src dst : Dword) (count group : Nat) (kind ef rm : BitVec 3) (root : Nat) (gr : Group)
  | cbulk (dst src : Dword) (count : Nat) (opn : BitVec 3) (ef : BitVec 2) (rm : BitVec 3) (imm : Bool) (s : Word)
  | compact (start len : Dword)
  /-- A command that only writes a value to a scalar register: MXFENCE, QSTAT, EPOLL, ECANCEL. -/
  | value (x : Dword)
  /-- LAUNCH: the handle that it writes, and the child grid (R37, R323). -/
  | launch (handle : Dword) (grid : Nat)
  | mxwait (batch : Nat)
  | mxacq
  | mxrel
  | bform (shape : Nat)
  | bjoin (leader : Nat)
  | bbrk
  | msma (n : Nat)
  | msmf
  | plngo
  | plnstop
deriving DecidableEq, Repr

/-- An engine command (R250 to R259). Its identity gives its place in issue order. -/
structure Cmd where
  wg : Nat
  warp : Nat
  ctx : Nat
  core : Nat
  active : Lanes
  kind : CmdKind
  dest : Dest := .none
  tag : Nat := 0
  next : Nat := 0
  state : CmdState := .queued
  acq : Bool := false
  rel : Bool := false
  scope : Scope := .wg
  /-- The row or part at which the command stands (R261, R271). -/
  cursor : Nat := 0
  /-- An MXLDB's: the codes of the tile elements that it has read (R256, R270). -/
  loaded : Table (BitVec 24) := []
  /-- Parts from the cursor on that have been performed out of turn (R195, R261). -/
  aside : List Nat := []
  fault : Option Trap := none
  /-- The bytes that a copy has written at each receiver and the receiver's arrival word has not counted yet (R243, R262). -/
  counts : Table Nat := []
  /-- Events by class, counted when the command retires (R85, R86). -/
  events : Table Nat := []
  /-- The bond or engine whose order it keeps (R272): the leader's core, and the shape code of the bond at issue. -/
  leader : Nat := 0
  shape : Nat := 0
  /-- An MXOP's: the warps whose reservations its bottom-row cores update, as checked at issue (R271). -/
  holders : List Nat := []
  /-- The lines of other devices that its accesses under way request (R205, R381), and the core whose slots they take: 768 for those of the
  engines. -/
  lines : List Line := []
  slotCore : Nat := 768
  /-- The bond that a BBRK breaks, by its BFORM (R268). -/
  bond : Nat := 0
  /-- Rows of a copy from the cursor on that have been read, and for each receiver how many of them it has had (R261, R262). -/
  rowsRead : List (List Byte) := []
  reached : Table Nat := []
  /-- Words of rows of a copy, or elements of a matrix command, that have been read before the rest: row, place in it and bytes; and words that a receiver has had of the row
  that comes next to it: receiver, place and number of bytes (R261). -/
  wordsRead : List (Nat × Nat × List Byte) := []
  wordsDone : List (Nat × Nat × Nat) := []
  /-- The command has left EC; it is kept for EPOLL. -/
  ended : Bool := false
deriving DecidableEq, Repr

/-- A bond, by its leader's core (R265 to R270). A core's engine in no listed bond leads an 8×8 bond of its own. -/
structure Bond where
  team : Nat
  shape : Nat
  formed : Bool
  members : List Nat
  channels : Nat := 0
  cmd : Nat := 0
deriving DecidableEq, Repr

/-- A BJOIN that waits for its bond (R266): the bond of its own team that the core leads. -/
structure Join where
  team : Nat
  leader : Nat
  cmd : Nat
  warp : Nat
  active : Lanes
deriving DecidableEq, Repr

/-- One loop of a jig table (R292). -/
structure Loop where
  ctx : Nat
  entry : Dword
  back : Dword
  heat : Nat := 0
  refused : Option Nat := none
deriving DecidableEq, Repr

/-- A loaded jig configuration (R296). -/
structure JigConfig where
  loop : Loop
  /-- The workgroup whose attempt loaded it. -/
  wg : Nat
  served : Option Nat := none
  body : List (Dword × Word)
  /-- The addresses of the body's groups, the entry first. -/
  starts : List Dword
  /-- It has been invalidated, and is unloaded at the next iteration boundary of the fragment that it serves (R301). -/
  doomed : Bool := false
  /-- It yields to a promoted fragment at that boundary, where the loop's heat is reset (R296). -/
  yields : Bool := false
deriving DecidableEq, Repr

/-- A core: matrix engine, MSM queue, planer slot and jig (R13, R263, R275, R278, R292). -/
structure Core where
  owner : Option Nat := none
  /-- The workgroup of the warp that last held the lease (R270). -/
  lastWg : Option Nat := none
  fifo : List (Nat × Nat) := []
  /-- MSMA requests: warp, command and count. -/
  msmFifo : List (Nat × Nat × Nat) := []
  /-- The B tile of an unbonded engine or of the bond it leads, by 256 k + column: the element's code in bits 7:0 or 15:0, or
  for LQ2 its group scale in bits 15:0, k in bits 17:16 and the coset in bit 18; its format FMT.MB and scale FMT.SB. -/
  tile : Table (BitVec 24) := []
  tileFmt : Option (BitVec 4) := none
  tileScale : BitVec 8 := 0
  /-- The width class of the latest MXLDB issued since the bond formed: some true for 8 bits (R271). -/
  width8 : Option Bool := none
  joined : Option Join := none
  planerWg : Option Nat := none
  planer : PlanerState := .stopped
  planerWarp : Option Nat := none
  planerTrap : Trap := { code := 0 }
  program : List Word := []
  progAddr : Dword := 0
  progLen : Nat := 0
  /-- q0 to q7, oldest entry first; an entry lists its nonzero lanes. -/
  queues : Table (List (Table Word)) := []
  loops : List Loop := []
  config : Option JigConfig := none
deriving DecidableEq, Repr

/-- A queue descriptor, by its bytes (R328). -/
structure Queue where
  base : Dword := 0
  log2n : BitVec 5 := 0
  cls : BitVec 2 := 0
  en : Bool := false
  ctxid : BitVec 32 := 0
  evbase : Dword := 0
  evcount : BitVec 12 := 0
  twin : Dword := 0
  head : BitVec 32 := 0
  tail : BitVec 32 := 0
  /-- Reserved bits as written: word 1 bits 31:8, word 3 bits 63:12 and bytes 63:48, which make EN refused. -/
  res1 : BitVec 24 := 0
  res3 : BitVec 52 := 0
  res6 : Dword := 0
  res7 : Dword := 0
deriving DecidableEq, Repr

/-- An entry of the context table (R378). -/
structure CtxEntry where
  ctxid : BitVec 32 := 0
  valid : Bool := false
  ptroot : BitVec 40 := 0
  evvec : BitVec 11 := 0
deriving DecidableEq, Repr

/-- The boot record (R386): an outcome byte and the failed part for each step. -/
structure Boot where
  bootno : BitVec 32
  swap : Bool
  /-- Seam module serving each operand channel. -/
  opch : List Nat
  /-- Rate of each stack, by its virtual number (R19). -/
  rate : List Nat
  /-- Yefort ports that are absent or were skipped, by virtual number (R19, R385). -/
  absent : List Nat
  /-- Outcome and failed part of steps 1 to 10. -/
  steps : List (Nat × Nat)
deriving DecidableEq, Repr

/-- What an MSI-X interrupt tells the host (R378). -/
inductive Notice where
  | bootDone
  | queueOverflow (queue : Nat)
  | headUnreadable (queue : Nat) (head : BitVec 32)
  | dieLost (dies : BitVec 6)
  | contextDead (ctxid : Nat) (cause : BitVec 8) (dies : BitVec 6) (addr : Option Nat)
  | eventLimit (classes : BitVec 4)
  | deferred (trap : Trap)
  | recordVersion (queue slot : Nat)
  | doneUnwritable (queue index : Nat)
deriving DecidableEq, Repr

/-- How the group being issued goes on (R93). -/
inductive Ctl where
  | fall
  | goto (target : Dword)
  | split (m : Lanes) (target : Dword)
  | exit
  | regang
  | tret (replay : Bool)
  | capexit
deriving DecidableEq, Repr

/-- The group being issued: what its words share (R93), and what they leave for the end of the group. -/
structure Issue where
  frag : Nat
  pc : Dword
  words : Nat
  word : Nat := 0
  stall : Nat := 0
  /-- Popped queue entries: word index and entry (R282). -/
  popped : List (Nat × Nat × Table Word) := []
  ctl : Ctl := .fall
  /-- The group holds a visibility point (R96). -/
  visible : Bool := false
  wait : Option Wait := none
  /-- The after-class or partial-class trap that follows the group (R351). -/
  after : Option Trap := none
  partialReq : Option (Trap × MemReq × Lanes) := none
  /-- A word has taken an issue-class trap: the group has no effect. -/
  trapped : Bool := false
  waitc : Option (Nat × Nat × Nat) := none
  /-- Events raised by the group: class and count (R85). -/
  events : List (Nat × Nat) := []
  /-- Lanes of Active at issue. -/
  active : Lanes := 0
  /-- Inside a capsule body: the group's k write and its memory step (R311). -/
  kwrite : Option (Nat × Dword) := none
  kmem : Option (MemReq × List Loc × Nat) := none
  yield : Bool := false
deriving DecidableEq, Repr

/-- What the machine does next, where more than one thing may happen (R51, R102, R380). -/
inductive Input where
  /-- Fragment f issues its next group, where it is its turn on its core (R341). -/
  | issue (f : Nat)
  /-- The core ticks advance by one, where nothing is left to issue (R343). -/
  | tick
  /-- The MXOP command admits its next A row, or another command performs its next part by itself (R195, R270, R277, R286). -/
  | row (cmd : Nat)
  /-- Part n of a command is performed by itself, out of turn: accesses of one command are not ordered among themselves (R195, R261). -/
  | piece (cmd n : Nat)
  /-- The naturally aligned four bytes that hold byte n of a row of a copy are read before the rest of it, or written at a receiver before
  the rest of the row that comes next to it (R261); or element n of an A row of MXOP is read before the rest, or of a tile element of MXLDB
  its code, number 0, or its scale, number 1 (R243, R272). -/
  | readWord (cmd row n : Nat)
  | writeWord (cmd member n : Nat)
  /-- An event of the part happens. -/
  | happen (i : Instr)
  /-- The next row of a copy that a receiver has not had lands there by itself (R262). -/
  | receive (cmd member : Nat)
  /-- So many of the bytes that a copy has written at a receiver are counted at its arrival word (R262). -/
  | count (cmd member n : Nat)
  /-- One part of an operation is performed by itself (R209, R221, R230). -/
  | part (op lane : Nat)
  /-- A load takes what outstanding stores of its own lanes will write (R234). -/
  | forward (op lane : Nat)
  /-- Accesses that a FENCE, an acquire or a release orders after part n of an operation may pass it (R232, R241). -/
  | leave (op n : Nat)
  /-- The next k inputs are a window, in which accesses may be performed before their fragments come to them and values be had before they are
  read, where every such access and value comes true within it (R235, R237). -/
  | span (k : Nat)
  /-- In a window: a fragment's core performs an access before the fragment comes to it. -/
  | guess (frag : Nat) (acc : Op)
  /-- In a window: a fragment has what the parts of a load or an atomic will read, by number, before they are performed. -/
  | foretell (op : Nat) (values : List (Nat × Nat))
  /-- A fragment's core fetches a packet, and holds it (R228, R245). -/
  | hold (frag : Nat) (at_ : Dword)
  /-- A fragment's fetch of its next packet finds old packet n (R228, R245). -/
  | refetch (frag n : Nat)
  /-- A translation is kept (R361). -/
  | keep (ctx : Nat) (va : Dword)
  /-- The host or another device writes its own memory (R231, R247). -/
  | outside (addr : Nat) (bytes : List Byte)
deriving DecidableEq, Repr

/-- The machine. -/
structure State where
  tick : Nat
  mem : List Host.Cell
  queues : Table Queue
  slices : Table (BitVec 16)
  ctxTable : Table CtxEntry
  cmdOp : BitVec 4
  cmdBusy : Bool
  opnd : Dword
  groups : Table Group
  /-- Ports of the devices that have one (R378); an unlisted device has none. -/
  routes : Table Nat
  boot : Boot
  /-- Rates at which stacks start to train, by physical number (R387). -/
  rateHint : Table Nat
  devnum : BitVec 10
  domain : BitVec 12
  portMode : PortMode
  /-- The MODEL's own: the bytes that the latest read from outside the package was answered with (R205, R376). -/
  answer : List Byte
  pwrlim : BitVec 16
  lostDies : BitVec 6
  unusable : Bool
  interrupts : List (Nat × Notice)
  /-- Request slots in use: by 32 core + port; an engine port counts as core 768 (R206, R381). -/
  slots : Table Nat
  lastQueue : Table Nat
  timebase : Nat
  ctxs : Table Ctx
  grids : Table Grid
  teams : Table Team
  wgs : Table Wg
  warps : Table Warp
  frags : Table Frag
  cores : Table Core
  ops : Table Op
  fences : Table FenceRec
  /-- Operations left behind (R232), accesses performed early (R235, R237), packets held and packets as they once stood (R228, R245), and translations
  kept (R361). -/
  debts : List Debt
  early : List Early
  packets : List Packet
  old : List OldPacket
  kept : List Kept
  cmds : Table Cmd
  bonds : Table Bond
  issue : Option Issue
  /-- Lane blocks claimed in this tick, by core, and groups issued by it (R50). -/
  claims : Table (Nat × Nat)
  /-- The MODEL's own: identities and issue order (R101). -/
  serial : Nat
  /-- The MODEL's own: how many free values have been taken. -/
  free : Nat
  /-- The MODEL's own: how many of the next inputs belong to the window that is open (assumption log 9). -/
  span : Nat
  /-- The MODEL's own: what happens next, where the spec leaves the order open. -/
  agenda : List Input
deriving DecidableEq, Repr

/-- The boot record after a boot in which every step passed (R385, R386). -/
def Boot.passed : Boot :=
  { bootno := 0, swap := false, opch := List.range 16, rate := List.replicate 8 0, absent := [], steps := List.replicate 10 (0, 0) }

/-- The machine right after reset: bring-up has run with every step passed (R385), and the host has written nothing yet.
Values the spec does not give are named in the assumption log, entries 1 to 4. -/
def State.reset : State where
  tick := 0
  mem := []
  queues := []
  slices := []
  ctxTable := []
  cmdOp := 0
  cmdBusy := false
  opnd := 0
  groups := []
  routes := []
  boot := Boot.passed
  rateHint := []
  devnum := 0
  domain := 0
  portMode := .cxl31
  answer := []
  pwrlim := 0
  lostDies := 0
  unusable := false
  interrupts := [(0, .bootDone)]
  slots := []
  lastQueue := []
  timebase := 0
  ctxs := []
  grids := []
  teams := []
  wgs := []
  warps := []
  frags := []
  cores := []
  ops := []
  fences := []
  debts := []
  early := []
  packets := []
  old := []
  kept := []
  cmds := []
  bonds := []
  issue := none
  claims := []
  serial := 1
  free := 0
  span := 0
  agenda := []

end Sys2Proof.Machine
end

