-- ==== Sys2Proof/Machine/Codes.lean ====
section
/-! DEFINITION. The trap codes of R352. -/

namespace Sys2Proof.Machine.Code

def illegalOp : BitVec 8 := 0x01#8
def illegalFmt : BitVec 8 := 0x02#8
def scoreboard : BitVec 8 := 0x03#8
def splitScalar : BitVec 8 := 0x04#8
def regangMismatch : BitVec 8 := 0x05#8
def pcAlign : BitVec 8 := 0x06#8
def fetchFault : BitVec 8 := 0x07#8
def benchRange : BitVec 8 := 0x10#8
def benchAlign : BitVec 8 := 0x11#8
def translationFault : BitVec 8 := 0x12#8
def accessFault : BitVec 8 := 0x13#8
def mixedKind : BitVec 8 := 0x14#8
def atomicAlign : BitVec 8 := 0x15#8
def physRange : BitVec 8 := 0x16#8
def unsupportedAtomic : BitVec 8 := 0x17#8
def arrivalUninit : BitVec 8 := 0x18#8
def engDesc : BitVec 8 := 0x20#8
def engNotOwner : BitVec 8 := 0x21#8
def engBonded : BitVec 8 := 0x22#8
def engTagOvf : BitVec 8 := 0x23#8
def bondShape : BitVec 8 := 0x24#8
def bondLive : BitVec 8 := 0x25#8
def bondMismatch : BitVec 8 := 0x26#8
def batchRange : BitVec 8 := 0x27#8
def msmSize : BitVec 8 := 0x28#8
def msmHoldAndWait : BitVec 8 := 0x29#8
def msmRange : BitVec 8 := 0x2A#8
def planerProg : BitVec 8 := 0x2B#8
def planerBusy : BitVec 8 := 0x2C#8
def planerFault : BitVec 8 := 0x2D#8
def queueOwner : BitVec 8 := 0x2E#8
def collMismatch : BitVec 8 := 0x2F#8
def capBody : BitVec 8 := 0x30#8
def capRecord : BitVec 8 := 0x31#8
def capAddr : BitVec 8 := 0x32#8
def launchNotLeader : BitVec 8 := 0x33#8
def launchDepth : BitVec 8 := 0x34#8
def launchRecord : BitVec 8 := 0x35#8
def launchHandle : BitVec 8 := 0x36#8
def trap : BitVec 8 := 0x37#8
def breakpoint : BitVec 8 := 0x38#8
def step : BitVec 8 := 0x39#8
def trapStatus : BitVec 8 := 0x3A#8
def eventLimit : BitVec 8 := 0x3B#8
def dieLost : BitVec 8 := 0x3E#8
def hostKill : BitVec 8 := 0x3F#8

end Sys2Proof.Machine.Code
end

