-- ==== Sys2Proof/Machine/Numbers.lean ====
section
/-! DEFINITION. Number formats and rounding (R58 to R74, R78, R79): exact values, decoding, the one rounding of R68, narrowing,
widening and the AF40 rounding. Exact arithmetic is on Nat and Int; a value is narrowed once, at the end (R8). -/

namespace Sys2Proof.Machine

/-- The floating-point formats that code an element (R58, R62). -/
inductive Fmt where
  | fp32 | fp16 | bf16 | e4m3 | e5m2 | mf8
deriving DecidableEq, Repr

/-- Rounding modes (R67). -/
inductive Rm where
  | rne | rz | ru | rd | rna
deriving DecidableEq, Repr

/-- The mode of a code 001 to 101; other codes never reach a rounding (R67), and count as RNE. -/
def Rm.ofCode (c : Nat) : Rm :=
  match c with
  | 2 => .rz
  | 3 => .ru
  | 4 => .rd
  | 5 => .rna
  | _ => .rne

/-- An exact value, or one of the special values of a format (R8, R59). `num neg m e` is (-1)^neg × m × 2^e. -/
inductive FVal where
  | nan (signalling : Bool)
  | inf (neg : Bool)
  | num (neg : Bool) (m : Nat) (e : Int)
deriving DecidableEq, Repr

/-- A result and the flags it raises, in the layout of FSTAT (R81). -/
structure FRes where
  bits : Nat
  flags : BitVec 5
deriving DecidableEq, Repr

/-- INV, SATO, UNF, INX and SHELL (R81). -/
def fINV : BitVec 5 := 1#5
def fSATO : BitVec 5 := 2#5
def fUNF : BitVec 5 := 4#5
def fINX : BitVec 5 := 8#5
def fSHELL : BitVec 5 := 16#5

/-- The flag b where c holds. -/
def flagIf (c : Bool) (f : BitVec 5) : BitVec 5 := if c then f else 0

/-- Fraction bits of a format with an exponent field (R58). -/
def Fmt.frac : Fmt → Nat
  | .fp32 => 23 | .fp16 => 10 | .bf16 => 7 | .e4m3 => 3 | .e5m2 => 2 | .mf8 => 4

/-- Exponent bits (R58). -/
def Fmt.expBits : Fmt → Nat
  | .fp32 => 8 | .fp16 => 5 | .bf16 => 8 | .e4m3 => 4 | .e5m2 => 5 | .mf8 => 2

/-- Exponent bias (R58). -/
def Fmt.bias : Fmt → Int
  | .fp32 => 127 | .fp16 => 15 | .bf16 => 127 | .e4m3 => 7 | .e5m2 => 15 | .mf8 => 0

/-- Bits of an element (R167). -/
def Fmt.width : Fmt → Nat
  | .fp32 => 32 | .fp16 => 16 | .bf16 => 16 | .e4m3 => 8 | .e5m2 => 8 | .mf8 => 8

/-- The sign bit of a code. -/
def Fmt.signBit (f : Fmt) (neg : Bool) : Nat := if neg then 2 ^ (f.width - 1) else 0

/-- The magnitude code of the largest finite value (R58, R62). -/
def Fmt.maxCode : Fmt → Nat
  | .fp32 => 0x7F7FFFFF | .fp16 => 0x7BFF | .bf16 => 0x7F7F | .e4m3 => 0x7E | .e5m2 => 0x7B | .mf8 => 0x7F

/-- The canonical NaN (R59). -/
def Fmt.nanCode : Fmt → Nat
  | .fp32 => 0x7FC00000 | .fp16 => 0x7E00 | .bf16 => 0x7FC0 | .e4m3 => 0x7F | .e5m2 => 0x7E | .mf8 => 0x80

/-- The magnitude code of an infinity; E4M3 and MF8 have none (R59). -/
def Fmt.infCode : Fmt → Nat
  | .fp32 => 0x7F800000 | .fp16 => 0x7C00 | .bf16 => 0x7F80 | .e4m3 => 0x7E | .e5m2 => 0x7C | .mf8 => 0x7F

/-- An MF8 magnitude code as m × 2^e (R62); codes above 0x7F continue the top band (R68). -/
def mf8Mag (l : Nat) : Nat × Int :=
  if l = 0 then (0, 0)
  else if 64 ≤ l then
    (16 + l % 16, ((l - 64) / 16 : Nat) - 4)
  else
    let m := Nat.log2 l
    let ew := min 2 m
    let fw := m - ew
    let e := (l % 2 ^ m) / 2 ^ fw
    (2 ^ fw + l % 2 ^ fw, 4 * ((m : Int) - 6) + e - fw)

/-- The value of a code (R58, R59, R62). -/
def decodeF (f : Fmt) (code : Nat) : FVal :=
  let c := code % 2 ^ f.width
  let neg := decide (2 ^ (f.width - 1) ≤ c)
  let mag := c % 2 ^ (f.width - 1)
  match f with
  | .mf8 =>
    if mag = 0 then (if neg then .nan false else .num false 0 0)
    else .num neg (mf8Mag mag).1 (mf8Mag mag).2
  | .e4m3 =>
    if mag = 0x7F then .nan false
    else if mag < 8 then .num neg mag (-9)
    else .num neg (8 + mag % 8) ((mag / 8 : Nat) - 7 - 3)
  | f =>
    let p := f.frac
    let ex := mag / 2 ^ p
    let fr := mag % 2 ^ p
    if ex = 2 ^ f.expBits - 1 then
      if fr = 0 then .inf neg else .nan (decide (fr < 2 ^ (p - 1)))
    else if ex = 0 then .num neg fr (1 - f.bias - p)
    else .num neg (2 ^ p + fr) ((ex : Int) - f.bias - p)

/-- The exponent of the leading bit of m × 2^e. -/
def leadExp (m : Nat) (e : Int) : Int := (Nat.log2 m : Int) + e

/-- Whether a discarded part rounds the magnitude up (R67, R68): `rem` of `unit`, more when sticky, with the kept part odd or not. -/
def roundsUp (rm : Rm) (neg odd : Bool) (rem unit : Nat) (sticky : Bool) : Bool :=
  let above := decide (unit < 2 * rem) || (decide (2 * rem = unit) && sticky)
  let tie := decide (2 * rem = unit) && !sticky
  let inexact := decide (rem ≠ 0) || sticky
  match rm with
  | .rne => above || (tie && odd)
  | .rz => false
  | .ru => inexact && !neg
  | .rd => inexact && neg
  | .rna => above || tie

/-- The magnitude m × 2^e, more by a part of one unit of m when sticky, as a whole number of units of 2^q, and whether that is
inexact. -/
def roundUnits (rm : Rm) (neg : Bool) (m : Nat) (e q : Int) (sticky : Bool) : Nat × Bool :=
  if q ≤ e then (m * 2 ^ (e - q).toNat + (if roundsUp rm neg (m % 2 == 1) 0 1 sticky then 1 else 0), sticky)
  else
    let k := (q - e).toNat
    let n := m / 2 ^ k
    let r := m % 2 ^ k
    (n + (if roundsUp rm neg (n % 2 == 1) r (2 ^ k) sticky then 1 else 0), decide (r ≠ 0) || sticky)

/-- Two magnitudes compared: m × 2^e < n × 2^d. -/
def magLt (m : Nat) (e : Int) (n : Nat) (d : Int) : Bool :=
  let b := min e d
  decide (m * 2 ^ (e - b).toNat < n * 2 ^ (d - b).toNat)

/-- How a result that overflows ends (R68, R71). -/
inductive Over where
  | arith
  | narrow
deriving DecidableEq, Repr

/-- The code of an overflowing result: IEEE overflow for arithmetic, the largest finite value for a narrowing (R68, R71). -/
def overflowCode (f : Fmt) (o : Over) (rm : Rm) (neg : Bool) : Nat :=
  match o with
  | .narrow => f.signBit neg + f.maxCode
  | .arith =>
    let toInf := match rm with
      | .rne | .rna => true
      | .rz => false
      | .ru => !neg
      | .rd => neg
    f.signBit neg + (if toInf then f.infCode else f.maxCode)

/-- The magnitude code of n units of 2^q in a format with an exponent field. -/
def packUnits (f : Fmt) (n : Nat) (q : Int) : Nat :=
  if n < 2 ^ f.frac then n
  else ((q + f.frac + f.bias).toNat) * 2 ^ f.frac + (n - 2 ^ f.frac)

/-- Rounding into a format with an exponent field (R68, R73). -/
def roundIeee (f : Fmt) (o : Over) (rm : Rm) (neg : Bool) (m : Nat) (e : Int) (sticky : Bool) : FRes :=
  let p : Int := f.frac
  let emin := 1 - f.bias
  let q := max (leadExp m e) emin - p
  let r := roundUnits rm neg m e q sticky
  let mag := packUnits f r.1 q
  if f.maxCode < mag then ⟨overflowCode f o rm neg, fSATO ||| fINX⟩
  else
    let u := roundUnits rm neg m e (leadExp m e - p) sticky
    let tiny := magLt u.1 (leadExp m e - p) 1 emin
    ⟨f.signBit neg + mag, flagIf r.2 fINX ||| flagIf (r.2 && tiny) fUNF⟩

/-- The largest MF8 magnitude code, from 0 to `fuel`, whose value is at most m × 2^e. -/
def mf8Floor (m : Nat) (e : Int) : Nat → Nat
  | 0 => 0
  | l + 1 => if magLt m e (mf8Mag (l + 1)).1 (mf8Mag (l + 1)).2 then mf8Floor m e l else l + 1

/-- Rounding into MF8 (R62, R68, R69, R73): between neighbouring codes below 16, and as five significant bits above. -/
def roundMf8 (rm : Rm) (neg : Bool) (m : Nat) (e : Int) (sticky : Bool) : FRes :=
  if 4 ≤ leadExp m e then ⟨overflowCode .mf8 .narrow rm neg, fSATO ||| fINX⟩
  else
    let l := mf8Floor m e 127
    let lo := mf8Mag l
    let hi := mf8Mag (l + 1)
    let b := min e (min lo.2 hi.2)
    let x := m * 2 ^ (e - b).toNat - lo.1 * 2 ^ (lo.2 - b).toNat
    let gap := hi.1 * 2 ^ (hi.2 - b).toNat - lo.1 * 2 ^ (lo.2 - b).toNat
    let inexact := decide (x ≠ 0) || sticky
    let c := l + (if roundsUp rm neg (l % 2 == 1) x gap sticky then 1 else 0)
    if 128 ≤ c then ⟨overflowCode .mf8 .narrow rm neg, fSATO ||| fINX⟩
    else if c = 0 then ⟨0, flagIf inexact (fUNF ||| fINX)⟩
    else ⟨Fmt.signBit .mf8 neg + c, flagIf inexact fINX⟩

/-- A zero of a format: MF8 has only +0 (R69). -/
def zeroCode (f : Fmt) (neg : Bool) : Nat := if f = .mf8 then 0 else f.signBit neg

/-- RoundTo of a finite value (R68). A sticky value lies strictly between m and m + 1 units, m having at least two bits more
than the format keeps. -/
def roundFinite (f : Fmt) (o : Over) (rm : Rm) (neg : Bool) (m : Nat) (e : Int) (sticky : Bool) : FRes :=
  if m = 0 then
    if sticky then (if f = .mf8 then roundMf8 rm neg 1 (e - 2) true else roundIeee f o rm neg 1 (e - 2) true)
    else ⟨zeroCode f neg, 0⟩
  else if f = .mf8 then roundMf8 rm neg m e sticky
  else roundIeee f o rm neg m e sticky

/-- The result of an arithmetic operation of value x (R68 to R70); an infinite x keeps its sign. -/
def roundArith (f : Fmt) (rm : Rm) : FVal → FRes
  | .nan s => ⟨f.nanCode, flagIf s fINV⟩
  | .inf neg => ⟨f.signBit neg + f.infCode, 0⟩
  | .num neg m e => roundFinite f .arith rm neg m e false

/-- A narrowing into a floating-point format (R71). -/
def narrowF (f : Fmt) (rm : Rm) : FVal → FRes
  | .nan s => ⟨f.nanCode, flagIf s fINV⟩
  | .inf neg => ⟨f.signBit neg + f.maxCode, fSATO⟩
  | .num neg m e => roundFinite f .narrow rm neg m e false

/-- A widening is exact (R72). -/
def widenF (f : Fmt) : FVal → FRes
  | .nan s => ⟨f.nanCode, flagIf s fINV⟩
  | .inf neg => ⟨f.signBit neg + f.infCode, 0⟩
  | .num neg m e => ⟨(roundFinite f .arith .rne neg m e false).bits, 0⟩

/-- A two's-complement value of w bits. -/
def intBits (w : Nat) (x : Int) : Nat := (x % (2 ^ w : Nat)).toNat

/-- The signed value of the low w bits. -/
def signedBits (w : Nat) (c : Nat) : Int :=
  let x := c % 2 ^ w
  if 2 ^ (w - 1) ≤ x then (x : Int) - (2 ^ w : Nat) else x

/-- A narrowing into an integer of w bits (R71). -/
def narrowInt (w : Nat) (rm : Rm) : FVal → FRes
  | .nan _ => ⟨0, fINV⟩
  | .inf neg => ⟨if neg then 2 ^ (w - 1) else 2 ^ (w - 1) - 1, fSATO⟩
  | .num neg m e =>
    let r := roundUnits rm neg m e 0 false
    let lim := if neg then 2 ^ (w - 1) else 2 ^ (w - 1) - 1
    if lim < r.1 then ⟨lim, fSATO ||| fINX⟩
    else ⟨intBits w (if neg then -(r.1 : Int) else r.1), flagIf r.2 fINX⟩

/-- The exact value of an integer. -/
def FVal.ofInt (x : Int) : FVal := .num (decide (x < 0)) x.natAbs 0

/-- An exact sum as a value; an exact zero takes the sign given (R69). -/
def FVal.ofScaled (x : Int) (e : Int) (zeroNeg : Bool) : FVal :=
  if x = 0 then .num zeroNeg 0 0 else .num (decide (x < 0)) x.natAbs e

/-- The signed significand of a finite value. -/
def signed (neg : Bool) (m : Nat) : Int := if neg then -(m : Int) else m

/-- The sign of an exact zero sum: that of the addends when they agree, else + but - in RD (R69). -/
def zeroSign (rm : Rm) (a b : Bool) : Bool := if a = b then a else decide (rm = .rd)

/-- a + b exactly, under R69 and R70. -/
def FVal.add (rm : Rm) : FVal → FVal → FVal × BitVec 5
  | .nan s, .nan r => (.nan false, flagIf (s || r) fINV)
  | .nan s, _ => (.nan false, flagIf s fINV)
  | _, .nan s => (.nan false, flagIf s fINV)
  | .inf a, .inf b => if a = b then (.inf a, 0) else (.nan false, fINV)
  | .inf a, _ => (.inf a, 0)
  | _, .inf b => (.inf b, 0)
  | .num a m d, .num b n e =>
    let q := min d e
    (FVal.ofScaled (signed a m * 2 ^ (d - q).toNat + signed b n * 2 ^ (e - q).toNat) q (zeroSign rm a b), 0)

/-- The value with its sign changed. -/
def FVal.neg : FVal → FVal
  | .nan s => .nan s
  | .inf a => .inf (!a)
  | .num a m e => .num (!a) m e

/-- a × b exactly, under R70. -/
def FVal.mul : FVal → FVal → FVal × BitVec 5
  | .nan s, .nan r => (.nan false, flagIf (s || r) fINV)
  | .nan s, _ => (.nan false, flagIf s fINV)
  | _, .nan s => (.nan false, flagIf s fINV)
  | .inf a, .inf b => (.inf (a != b), 0)
  | .inf a, .num b n _ => if n = 0 then (.nan false, fINV) else (.inf (a != b), 0)
  | .num a m _, .inf b => if m = 0 then (.nan false, fINV) else (.inf (a != b), 0)
  | .num a m d, .num b n e => (.num (a != b) (m * n) (d + e), 0)

/-- a × b + c exactly, under R69 and R70: an invalid product sets INV whatever c holds (R160). -/
def FVal.fma (rm : Rm) (a b c : FVal) : FVal × BitVec 5 :=
  let p := a.mul b
  let r := p.1.add rm c
  (r.1, p.2 ||| r.2)

/-- An exact quotient as a significand of at least 70 bits, with what is left over as a sticky part. -/
def quotient (m n : Nat) (d e : Int) : Nat × Int × Bool :=
  let k := 70 + Nat.log2 n
  (m * 2 ^ k / n, d - e - k, decide (m * 2 ^ k % n ≠ 0))

/-- A quotient: a value, or a finite magnitude with a sticky part. -/
structure Quot where
  val : FVal
  sticky : Bool
  flags : BitVec 5
deriving DecidableEq, Repr

/-- a ÷ b under R160. -/
def FVal.div : FVal → FVal → Quot
  | .nan s, .nan r => ⟨.nan false, false, flagIf (s || r) fINV⟩
  | .nan s, _ => ⟨.nan false, false, flagIf s fINV⟩
  | _, .nan s => ⟨.nan false, false, flagIf s fINV⟩
  | .inf _, .inf _ => ⟨.nan false, false, fINV⟩
  | .inf a, .num b _ _ => ⟨.inf (a != b), false, 0⟩
  | .num a _ _, .inf b => ⟨.num (a != b) 0 0, false, 0⟩
  | .num a m d, .num b n e =>
    if n = 0 then (if m = 0 then ⟨.nan false, false, fINV⟩ else ⟨.inf (a != b), false, 0⟩)
    else
      let q := quotient m n d e
      ⟨.num (a != b) q.1 q.2.1, q.2.2, 0⟩

/-- The quotient of a quantisation (R74): as a division, but a zero scale sets INV with every x; a quiet NaN x sets none by itself, as R172 states
(assumption log 29). -/
def FVal.quantDiv (x s : FVal) : Quot :=
  match x, s with
  | .nan a, .nan b => ⟨.nan false, false, flagIf (a || b) fINV⟩
  | .nan a, _ => ⟨.nan false, false, flagIf a fINV⟩
  | _, .nan b => ⟨.nan false, false, flagIf b fINV⟩
  | .inf _, .inf _ => ⟨.nan false, false, fINV⟩
  | .inf a, .num b n _ => ⟨.inf (a != b), false, flagIf (n == 0) fINV⟩
  | .num a _ _, .inf b => ⟨.num (a != b) 0 0, false, 0⟩
  | .num a m d, .num b n e =>
    if n = 0 then (if m = 0 then ⟨.nan false, false, fINV⟩ else ⟨.inf (a != b), false, fINV⟩)
    else
      let q := quotient m n d e
      ⟨.num (a != b) q.1 q.2.1, q.2.2, 0⟩

/-- The integer square root of n, bit by bit from bit `fuel`. -/
def isqrtFrom (n : Nat) : Nat → Nat → Nat
  | 0, r => if (r + 1) * (r + 1) ≤ n then r + 1 else r
  | k + 1, r => if (r + 2 ^ (k + 1)) * (r + 2 ^ (k + 1)) ≤ n then isqrtFrom n k (r + 2 ^ (k + 1)) else isqrtFrom n k r

/-- The integer square root of n. -/
def isqrt (n : Nat) : Nat := isqrtFrom n (Nat.log2 n / 2 + 1) 0

/-- A rounded arithmetic result: the rounding's flags with those of the operation. -/
def roundVal (f : Fmt) (rm : Rm) (v : FVal × BitVec 5) : FRes :=
  let r := roundArith f rm v.1
  ⟨r.bits, r.flags ||| v.2⟩

/-- A rounded quotient. -/
def roundQuot (f : Fmt) (o : Over) (rm : Rm) (q : Quot) : FRes :=
  match q.val with
  | .num neg m e =>
    let r := roundFinite f o rm neg m e q.sticky
    ⟨r.bits, r.flags ||| q.flags⟩
  | v =>
    let r := match o with
      | .arith => roundArith f rm v
      | .narrow => narrowF f rm v
    ⟨r.bits, r.flags ||| q.flags⟩

/-- A finite value is smaller than another, as signed numbers; -0 is below +0 where `signedZero` (R161). -/
def numLt (signedZero a : Bool) (m : Nat) (d : Int) (b : Bool) (n : Nat) (e : Int) : Bool :=
  if m = 0 ∧ n = 0 then signedZero && a && !b
  else if a then (if b then magLt n e m d else true)
  else if b then false
  else magLt m d n e

/-- a < b; false when either is NaN. -/
def FVal.lt (signedZero : Bool) : FVal → FVal → Bool
  | .nan _, _ => false
  | _, .nan _ => false
  | .inf a, .inf b => a && !b
  | .inf a, .num _ _ _ => a
  | .num _ _ _, .inf b => !b
  | .num a m d, .num b n e =>
    if m = 0 ∧ n ≠ 0 then !b
    else if n = 0 ∧ m ≠ 0 then a
    else numLt signedZero a m d b n e

/-- The value is a NaN. -/
def FVal.isNan : FVal → Bool
  | .nan _ => true
  | _ => false

/-- The value is a signalling NaN. -/
def FVal.isSnan : FVal → Bool
  | .nan s => s
  | _ => false

/-- VFMIN and VFMAX on codes of one format (R161). -/
def minMax (f : Fmt) (isMax : Bool) (a b : Nat) : FRes :=
  let x := decodeF f a
  let y := decodeF f b
  let fl := flagIf (x.isSnan || y.isSnan) fINV
  if x.isNan then (if y.isNan then ⟨f.nanCode, fl⟩ else ⟨b, fl⟩)
  else if y.isNan then ⟨a, fl⟩
  else if isMax then ⟨if x.lt true y then b else a, fl⟩
  else ⟨if y.lt true x then b else a, fl⟩

/-- Adding, subtracting, multiplying, dividing and fusing codes of one format (R160). -/
def fAdd (f : Fmt) (rm : Rm) (a b : Nat) : FRes := roundVal f rm ((decodeF f a).add rm (decodeF f b))
def fSub (f : Fmt) (rm : Rm) (a b : Nat) : FRes := roundVal f rm ((decodeF f a).add rm (decodeF f b).neg)
def fMul (f : Fmt) (rm : Rm) (a b : Nat) : FRes := roundVal f rm ((decodeF f a).mul (decodeF f b))
def fDiv (f : Fmt) (rm : Rm) (a b : Nat) : FRes := roundQuot f .arith rm ((decodeF f a).div (decodeF f b))
def fMa (f : Fmt) (rm : Rm) (a b c : Nat) : FRes := roundVal f rm ((decodeF f a).fma rm (decodeF f b) (decodeF f c))
def fMs (f : Fmt) (rm : Rm) (a b c : Nat) : FRes := roundVal f rm ((decodeF f a).fma rm (decodeF f b) (decodeF f c).neg)

/-- The AF40 value of 40 bits: a subnormal pattern reads as a zero with its sign (R60). -/
def decodeAF40 (x : BitVec 40) : FVal :=
  let neg := x.getLsbD 39
  let ex := bitsAt x 31 8
  let fr := bitsAt x 0 31
  if ex = 255 then (if fr = 0 then .inf neg else .nan (decide (fr < 2 ^ 30)))
  else if ex = 0 then .num neg 0 0
  else .num neg (2 ^ 31 + fr) ((ex : Int) - 127 - 31)

/-- The canonical AF40 NaN (R59). -/
def af40Nan : BitVec 40 := 0x7FC0000000#40

/-- RoundAF40 (R79). A zero takes the sign it carries: - only when every addend is -0. -/
def roundAF40 : FVal → BitVec 40 × BitVec 5
  | .nan s => (af40Nan, flagIf s fINV)
  | .inf neg => (BitVec.ofNat 40 ((if neg then 2 ^ 39 else 0) + 255 * 2 ^ 31), 0)
  | .num neg m e =>
    let sg := if neg then 2 ^ 39 else 0
    if m = 0 then (BitVec.ofNat 40 sg, 0)
    else
      let q := leadExp m e - 31
      let r := roundUnits .rne neg m e q false
      let lead := leadExp r.1 q
      if 128 ≤ lead then (BitVec.ofNat 40 (sg + 255 * 2 ^ 31), fSATO ||| fINX)
      else if lead < -126 then (BitVec.ofNat 40 sg, fUNF ||| fINX)
      else
        let mag := ((q + 31 + 127).toNat) * 2 ^ 31 + (r.1 - 2 ^ 31)
        (BitVec.ofNat 40 (sg + mag), flagIf r.2 fINX)

/-- An addition of the matrix engine: exact, with one RoundAF40; a zero is - only when both addends are -0 (R79). -/
def addAF40 (a b : FVal) : BitVec 40 × BitVec 5 :=
  let s := a.add .rne b
  let r := roundAF40 s.1
  (r.1, r.2 ||| s.2)

end Sys2Proof.Machine
end

