-- ==== Sys2Proof/Machine/Special.lean ====
section
/-! DEFINITION. The special functions of VSFU (R165, R166), correctly rounded: each irrational result is computed in fixed point
with 640 fraction bits and handed to the rounding of R68 as a significand with a sticky part. -/

namespace Sys2Proof.Machine

/-- The functions of VSFU (R165). -/
inductive Sfu where
  | rcp | rsq | sqrt | ex2 | lg2 | sin | cos | tanh | sigm
deriving DecidableEq, Repr

namespace Special

/-- Fraction bits of the fixed point. -/
def prec : Nat := 640

/-- pi / 2 with 832 fraction bits, rounded down. -/
def halfPi : Nat :=
  0x1921fb54442d18469898cc51701b839a252049c1114cf98e804177d4c76273644a29410f31c6809bbdf2a33679a748636605614dbe4be286e9fc26adadaa3848bc90b6aecc4bcfd8de89885d34c6fdad617feb96de80d6fdbdc70d7f6b5133f4b5d3e4822f8963fcc

/-- The natural logarithm of 2 with 640 fraction bits, rounded down. -/
def ln2 : Nat :=
  0xb17217f7d1cf79abc9e3b39803f2f6af40f343267298b62d8a0d175b8baafa2be7b876206debac98559552fb4afa1b10ed2eae35c138214427573b291169b8253e96ca16224ae8c51acbda11317c387e

/-- The product of two fixed-point numbers. -/
def mulF (a b : Int) : Int := (a * b) / (2 ^ prec : Nat)

/-- Terms of a power series: each term is the one before it times x, divided by the next factor. -/
def series (x : Int) (factor : Nat → Nat) : Nat → Nat → Int → Int → Int
  | 0, _, _, acc => acc
  | k + 1, n, term, acc =>
    let t := mulF term x / (factor n : Nat)
    series x factor k (n + 1) t (acc + t)

/-- e^x for a fixed-point x from 0 to 1. -/
def expF (x : Int) : Int := series x (fun n => n + 1) 150 0 (2 ^ prec : Nat) (2 ^ prec : Nat)

/-- sin x for a fixed-point x of magnitude below 1. -/
def sinF (x : Int) : Int := series (-(mulF x x)) (fun n => (2 * n + 2) * (2 * n + 3)) 80 0 x x

/-- cos x for a fixed-point x of magnitude below 1. -/
def cosF (x : Int) : Int :=
  series (-(mulF x x)) (fun n => (2 * n + 1) * (2 * n + 2)) 80 0 (2 ^ prec : Nat) (2 ^ prec : Nat)

/-- The odd powers of z, each divided by its exponent, added up: the inverse hyperbolic tangent of z. -/
def atanhF (z2 : Int) : Nat → Nat → Int → Int → Int
  | 0, _, _, acc => acc
  | k + 1, n, power, acc =>
    let p := mulF power z2
    atanhF z2 k (n + 1) p (acc + p / (2 * n + 3 : Nat))

/-- The logarithm to base 2 of a fixed-point x from 1 to 2. -/
def log2F (x : Int) : Int :=
  let one : Int := (2 ^ prec : Nat)
  let z := (x - one) * one / (x + one)
  2 * atanhF (mulF z z) 220 0 z z * one / (ln2 : Int)

/-- m × 2^e in fixed point; e is at least -640. -/
def toFixed (m : Nat) (e : Int) : Int := if 0 ≤ e + prec then (m * 2 ^ (e + prec).toNat : Nat) else 0

/-- e^(-x) for a fixed-point x from 0 up to about 2^9. -/
def expNeg (x : Int) : Int :=
  let k := x / (ln2 : Int) + 1
  expF (k * ln2 - x) / (2 ^ k.toNat : Nat)

/-- A positive fixed-point result as a significand with a sticky part. -/
def sticky (neg : Bool) (v : Int) : Quot := ⟨.num neg (v / (2 ^ 64 : Nat)).toNat (64 - prec), true, 0⟩

/-- A value just below 1. -/
def belowOne (neg : Bool) : Quot := ⟨.num neg (2 ^ 200 - 1) (-200), true, 0⟩

/-- A positive value far below every format. -/
def tiny (neg : Bool) : Quot := ⟨.num neg 0 (-400), true, 0⟩

/-- A value without rounding. -/
def exact (v : FVal) : Quot := ⟨v, false, 0⟩

/-- An invalid operation (R70). -/
def invalid : Quot := ⟨.nan false, false, fINV⟩

/-- The square root of m × 2^e, with a sticky part. -/
def sqrtQ (m : Nat) (e : Int) : Quot :=
  let odd := e % 2
  let n := (m * 2 ^ odd.toNat) * 2 ^ 200
  let r := isqrt n
  ⟨.num false r ((e - odd) / 2 - 100), decide (r * r ≠ n), 0⟩

/-- 1 ÷ √(m × 2^e): the square root of the exact reciprocal, with a sticky part. -/
def rsqQ (m : Nat) (e : Int) : Quot :=
  let odd := e % 2
  let d := m * 2 ^ odd.toNat
  let r := isqrt (2 ^ 400 / d)
  ⟨.num false r (-((e - odd) / 2) - 200), decide (r * r * d ≠ 2 ^ 400), 0⟩

/-- 2^a for a finite nonzero a. -/
def ex2Q (neg : Bool) (m : Nat) (e : Int) : Quot :=
  let lead := leadExp m e
  if 8 ≤ lead then exact (.num false 1 (if neg then -400 else 256))
  else
    let x := if neg then -(toFixed m e) else toFixed m e
    let one : Int := (2 ^ prec : Nat)
    let n := x / one
    let f := x - n * one
    if f = 0 then exact (.num false 1 n)
    else
      let v := expF (mulF f ln2)
      ⟨.num false (v / (2 ^ 64 : Nat)).toNat (n + 64 - prec), true, 0⟩

/-- log2 of a finite positive value. -/
def lg2Q (m : Nat) (e : Int) : Quot :=
  let lead := leadExp m e
  let k := Nat.log2 m
  if m = 2 ^ k then exact (FVal.ofScaled lead 0 false)
  else
    let y := log2F (m * 2 ^ (prec - k) : Nat) + lead * (2 ^ prec : Nat)
    sticky (decide (y < 0)) y.natAbs

/-- The argument of SIN or COS, less a whole number of quarter turns: the quarter and the rest in fixed point. -/
def reduce (m : Nat) (e : Int) : Nat × Int :=
  let x := m * 2 ^ (e + 832).toNat
  let k := (2 * x + halfPi) / (2 * halfPi)
  (k % 4, ((x : Int) - k * halfPi) / (2 ^ (832 - prec) : Nat))

/-- sin or cos of a finite nonzero magnitude, as a signed fixed-point number: cos is sin a quarter turn on. -/
def sinCos (quarter : Nat) (m : Nat) (e : Int) : Int :=
  let r := reduce m e
  match (r.1 + quarter) % 4 with
  | 0 => sinF r.2
  | 1 => cosF r.2
  | 2 => -(sinF r.2)
  | _ => -(cosF r.2)

/-- tanh of a finite nonzero value. -/
def tanhQ (neg : Bool) (m : Nat) (e : Int) : Quot :=
  if 7 ≤ leadExp m e then belowOne neg
  else
    let one : Int := (2 ^ prec : Nat)
    let y := expNeg (2 * toFixed m e)
    sticky neg ((one - y) * one / (one + y))

/-- 1 ÷ (1 + e^(-a)) of a finite nonzero a. -/
def sigmQ (neg : Bool) (m : Nat) (e : Int) : Quot :=
  if 8 ≤ leadExp m e then (if neg then tiny false else belowOne false)
  else
    let one : Int := (2 ^ prec : Nat)
    let y := expNeg (toFixed m e)
    sticky false ((if neg then y else one) * one / (one + y))

/-- f(a) with its special inputs (R166). -/
def apply (fn : Sfu) (a : FVal) : Quot :=
  match a with
  | .nan s => ⟨.nan false, false, flagIf s fINV⟩
  | .inf neg =>
    match fn with
    | .rcp => exact (.num neg 0 0)
    | .rsq => if neg then invalid else exact (.num false 0 0)
    | .sqrt => if neg then invalid else exact (.inf false)
    | .ex2 => if neg then exact (.num false 0 0) else exact (.inf false)
    | .lg2 => if neg then invalid else exact (.inf false)
    | .sin | .cos => invalid
    | .tanh => exact (.num neg 1 0)
    | .sigm => if neg then exact (.num false 0 0) else exact (.num false 1 0)
  | .num neg m e =>
    if m = 0 then
      match fn with
      | .rcp => exact (.inf neg)
      | .rsq => exact (.inf neg)
      | .sqrt => exact (.num neg 0 0)
      | .ex2 => exact (.num false 1 0)
      | .lg2 => exact (.inf true)
      | .sin | .tanh => exact (.num neg 0 0)
      | .cos => exact (.num false 1 0)
      | .sigm => exact (.num false 1 (-1))
    else
      match fn with
      | .rcp => FVal.div (.num false 1 0) (.num neg m e)
      | .rsq => if neg then invalid else rsqQ m e
      | .sqrt => if neg then invalid else sqrtQ m e
      | .ex2 => ex2Q neg m e
      | .lg2 => if neg then invalid else lg2Q m e
      | .sin =>
        let y := sinCos 0 m e
        sticky (neg != decide (y < 0)) y.natAbs
      | .cos =>
        let y := sinCos 1 m e
        sticky (decide (y < 0)) y.natAbs
      | .tanh => tanhQ neg m e
      | .sigm => sigmQ neg m e

end Special

/-- VSFU on a code of format f (R165). -/
def sfu (f : Fmt) (fn : Sfu) (rm : Rm) (a : Nat) : FRes := roundQuot f .arith rm (Special.apply fn (decodeF f a))

end Sys2Proof.Machine
end

