-- ==== Sys2Proof/Machine/Convert.lean ====
section
/-! DEFINITION. Conversions of one element (R169 to R173), the LQ2 lattice octets (R63 to R65, R175 to R179) and the class word
of VFCLS (R162). -/

namespace Sys2Proof.Machine

/-- The formats of VCVT (R169): a floating-point format, or an integer of 32 or 8 bits. -/
inductive CvtFmt where
  | flt (f : Fmt)
  | int (w : Nat)
deriving DecidableEq, Repr

/-- The format of a VCVT index (R169). -/
def CvtFmt.ofIndex (i : Nat) : CvtFmt :=
  match i with
  | 0 => .flt .fp32
  | 1 => .flt .fp16
  | 2 => .flt .bf16
  | 3 => .flt .e4m3
  | 4 => .flt .e5m2
  | 5 => .flt .mf8
  | 6 => .int 32
  | _ => .int 8

/-- Bits of an element (R167). -/
def CvtFmt.width : CvtFmt → Nat
  | .flt f => f.width
  | .int w => w

/-- The exact value of an element. -/
def CvtFmt.decode (f : CvtFmt) (c : Nat) : FVal :=
  match f with
  | .flt f => decodeF f c
  | .int w => FVal.ofInt (signedBits w c)

/-- A narrowing into a format (R71). -/
def CvtFmt.narrow (f : CvtFmt) (rm : Rm) (v : FVal) : FRes :=
  match f with
  | .flt f => narrowF f rm v
  | .int w => narrowInt w rm v

/-- The widenings of R171. -/
def widens (src dst : Nat) : Bool :=
  match src with
  | 1 | 2 => decide (dst = 0)
  | 3 | 4 | 5 => decide (dst ≤ 2)
  | 7 => decide (dst ≤ 2) || decide (dst = 6)
  | _ => false

/-- VCVT on one element (R170, R171). -/
def convertElem (src dst : Nat) (rm : Rm) (c : Nat) : FRes :=
  let v := (CvtFmt.ofIndex src).decode c
  if widens src dst then
    match CvtFmt.ofIndex dst with
    | .flt f => widenF f v
    | .int w => narrowInt w .rne v
  else (CvtFmt.ofIndex dst).narrow rm v

/-- Elements that VCVT converts in a lane (R170). -/
def convertCount (src dst : Nat) : Nat := 32 / max (CvtFmt.ofIndex src).width (CvtFmt.ofIndex dst).width

/-- The format that FMT.QF names (R75). -/
def quantFmt (qf : Nat) : CvtFmt :=
  match qf with
  | 0 => .flt .fp16
  | 1 => .flt .bf16
  | 2 => .flt .e4m3
  | 3 => .flt .e5m2
  | 4 => .flt .mf8
  | _ => .int 8

/-- A narrowing of a quotient: rounded once (R74). -/
def narrowQuot (f : CvtFmt) (rm : Rm) (q : Quot) : FRes :=
  match f, q.val with
  | .flt g, _ => roundQuot g .narrow rm q
  | .int w, .num neg m e =>
    let r := roundUnits rm neg m e 0 q.sticky
    let lim := if neg then 2 ^ (w - 1) else 2 ^ (w - 1) - 1
    if lim < r.1 then ⟨lim, fSATO ||| fINX ||| q.flags⟩
    else ⟨intBits w (if neg then -(r.1 : Int) else r.1), flagIf r.2 fINX ||| q.flags⟩
  | .int w, v =>
    let r := narrowInt w rm v
    ⟨r.bits, r.flags ||| q.flags⟩

/-- VQNT on one lane (R172). -/
def quantElem (qf : Nat) (rm : Rm) (x s : Nat) : FRes :=
  narrowQuot (quantFmt qf) rm ((decodeF .fp32 x).quantDiv (decodeF .fp32 s))

/-- VDQNT on one lane (R173). -/
def dequantElem (qf : Nat) (rm : Rm) (q s : Nat) : FRes :=
  roundVal .fp32 rm (((quantFmt qf).decode q).mul (decodeF .fp32 s))

/-- The class word of a code (R162). -/
def classWord (f : Fmt) (c : Nat) : Nat :=
  let neg := decide (2 ^ (f.width - 1) ≤ c % 2 ^ f.width)
  match decodeF f c with
  | .inf n => if n then 1 else 2 ^ 7
  | .nan s => if s then 2 ^ 8 else 2 ^ 9
  | .num n m _ =>
    if m = 0 then (if n then 2 ^ 3 else 2 ^ 4)
    else if m < 2 ^ f.frac then (if neg then 2 ^ 2 else 2 ^ 5)
    else (if neg then 2 ^ 1 else 2 ^ 6)

/-- The coset bit of an LQ2 word (R63). -/
def lqCoset (w : Nat) : Nat := w / 2 ^ 15 % 2

/-- k0 to k6 of an LQ2 word as stored, or k7 from K7H and the parity of the others (R63). -/
def lqK (w e : Nat) : Int :=
  if e < 7 then signedBits 2 (w / 4 ^ e)
  else
    let sum := (List.range 7).foldl (fun a i => a + signedBits 2 (w / 4 ^ i)) (0 : Int)
    sum % 2 - 2 * (w / 2 ^ 14 % 2 : Nat)

/-- The codes of an LQ2 word. -/
def lqCodes (w : Nat) : List Int := (List.range 8).map (lqK w)

/-- The LQ2 word of a coset and eight codes of even sum (R63). -/
def lqPack (c : Nat) (k : List Int) : Nat :=
  let low := (List.range 7).foldl (fun a i => a + (k.getD i 0 % 4).toNat * 4 ^ i) 0
  low + (if k.getD 7 0 < 0 then 2 ^ 14 else 0) + c * 2 ^ 15

/-- The integer nearest to (2 x - c g) / (2 g): a tie goes to the element value k + c/2 of smaller magnitude, and to 0 where the
two are equal (R65). Here num = 2 x - c g and den = 2 g > 0. -/
def lqNearest (c num den : Int) : Int :=
  let k := num / den
  let r := num % den
  if 2 * r < den then k
  else if den < 2 * r then k + 1
  else if (2 * k + c).natAbs = (2 * (k + 1) + c).natAbs then 0
  else if (2 * k + c).natAbs < (2 * (k + 1) + c).natAbs then k else k + 1

/-- The code clamped into [-2, 1] (R65). -/
def lqClamp (k : Int) : Int := if k < -2 then -2 else if 1 < k then 1 else k

/-- The squared error of a code, in units of 1 / (4 g²) (R65): ((2 k + c) g - 2 x)². -/
def lqErr (c x g k : Int) : Int := ((2 * k + c) * g - 2 * x) * ((2 * k + c) * g - 2 * x)

/-- One choice of the parity move: the element, the direction and the error it adds. -/
structure LqMove where
  elem : Nat
  step : Int
  cost : Int
deriving DecidableEq, Repr

/-- The parity move of R65: the least added error, then the lowest element, then downward. The list gives element, code and x. -/
def lqMove (c g : Int) (els : List (Nat × Int × Int)) : Option LqMove :=
  let tries := els.flatMap (fun p =>
    let cost (d : Int) : Int := lqErr c p.2.2 g (p.2.1 + d) - lqErr c p.2.2 g p.2.1
    (if -2 ≤ p.2.1 - 1 then [⟨p.1, -1, cost (-1)⟩] else []) ++ (if p.2.1 + 1 ≤ 1 then [⟨p.1, 1, cost 1⟩] else []))
  tries.foldl (fun (best : Option LqMove) mv =>
    match best with
    | none => some mv
    | some b => if mv.cost < b.cost then some mv else some b) none

/-- A code with its move made. -/
def lqApply (mv : Option LqMove) (e : Nat) (k : Int) : Int :=
  match mv with
  | some m => if m.elem = e then k + m.step else k
  | none => k

/-- Codes of one coset for scaled inputs x over a scale g > 0 (steps 2 and 3 of R65): the codes, whether one was clamped and the
sum of squared errors. -/
def lqFit (c g : Int) (xs : List Int) : List Int × Bool × Int :=
  let raw := xs.map (fun x => lqNearest c (2 * x - c * g) (2 * g))
  let k0 := raw.map lqClamp
  let clamped := raw != k0
  let els := (List.range 8).map (fun e => (e, k0.getD e 0, xs.getD e 0))
  let mv := if k0.foldl (· + ·) (0 : Int) % 2 = 0 then none else lqMove c g els
  let k := els.map (fun p => lqApply mv p.1 p.2.1)
  (k, clamped, (List.range 8).foldl (fun a e => a + lqErr c (xs.getD e 0) g (k.getD e 0)) 0)

/-- An FP32 input of the lattice: an infinity is the largest finite value (R65); none for a NaN. -/
def lqInput (v : FVal) : Option (Int × Int) :=
  match v with
  | .nan _ => none
  | .inf neg => some (signed neg (2 ^ 24 - 1), 104)
  | .num neg m e => some (signed neg m, e)

/-- A lattice scale: none when it is zero, infinite or NaN (R65). -/
def lqScale (v : FVal) : Option (Int × Int) :=
  match v with
  | .num neg m e => if m = 0 then none else some (signed neg m, e)
  | _ => none

/-- Inputs and scale over one exponent, the scale made positive. -/
def lqAlign (xs : List (Int × Int)) (g : Int × Int) : List Int × Int :=
  let e := xs.foldl (fun a x => min a x.2) g.2
  let up (x : Int × Int) : Int := x.1 * 2 ^ (x.2 - e).toNat
  if g.1 < 0 then (xs.map (fun x => -(up x)), -(up g)) else (xs.map up, up g)

/-- All of a list of options, or none. -/
def allSome {α : Type} : List (Option α) → Option (List α)
  | [] => some []
  | none :: _ => none
  | some x :: r => (allSome r).map (x :: ·)

/-- LQ2Encode (R65): a word and its flags. -/
def lqEncode (xs : List FVal) (g : FVal) : FRes :=
  match allSome (xs.map lqInput), lqScale g with
  | some ys, some s =>
    let a := lqAlign ys s
    let f0 := lqFit 0 a.2 a.1
    let f1 := lqFit 1 a.2 a.1
    let one := decide (f1.2.2 < f0.2.2)
    let f := if one then f1 else f0
    ⟨lqPack (if one then 1 else 0) f.1, flagIf f.2.1 fSHELL ||| flagIf (f.2.2 != 0) fINX⟩
  | _, _ => ⟨0, fINV⟩

/-- VLQINS on one octet (R178): the written elements with their inputs, the old word and the scale. -/
def lqInsert (w : Nat) (els : List (Nat × FVal)) (g : FVal) : FRes :=
  match allSome (els.map (fun p => lqInput p.2)), lqScale g with
  | some ys, some s =>
    let c : Int := (lqCoset w : Nat)
    let a := lqAlign ys s
    let old := lqCodes w
    let raw := a.1.map (fun x => lqNearest c (2 * x - c * a.2) (2 * a.2))
    let wr := (els.map Prod.fst).zip ((raw.map lqClamp).zip a.1)
    let put (ws : List (Nat × Int × Int)) : List Int :=
      (List.range 8).map (fun e => match ws.find? (fun p => p.1 == e) with
        | some p => p.2.1
        | none => old.getD e 0)
    let mv := if (put wr).foldl (· + ·) (0 : Int) % 2 = 0 then none else lqMove c a.2 wr
    let wr' := wr.map (fun p => (p.1, lqApply mv p.1 p.2.1, p.2.2))
    let err := wr'.foldl (fun t p => t + lqErr c p.2.2 a.2 p.2.1) 0
    ⟨lqPack (lqCoset w) (put wr'), flagIf (raw != raw.map lqClamp) fSHELL ||| flagIf (err != 0) fINX⟩
  | _, _ => ⟨w, fINV⟩

/-- Twice the element value k + c/2 of element e of a word, as a value; a zero element is +0 (R64, R177). -/
def lqElem (w e : Nat) : FVal := FVal.ofScaled (2 * lqK w e + (lqCoset w : Nat)) (-1) false

/-- VLQDEC on one lane (R177). -/
def lqDecodeElem (rm : Rm) (w e g : Nat) : FRes := roundVal .fp32 rm ((lqElem w e).mul (decodeF .fp32 g))

/-- VLQERR on one lane (R179): a fused multiply-subtract. -/
def lqErrElem (rm : Rm) (w e x g : Nat) : FRes :=
  let p := (lqElem w e).mul (decodeF .fp32 g)
  let s := (decodeF .fp32 x).add rm p.1.neg
  roundVal .fp32 rm (s.1, s.2 ||| p.2)

end Sys2Proof.Machine
end

