-- ==== Sys2Proof/WellFormed.lean ====
section
/-! DEFINITION. Which terms of Instr are encodings at all: the reserved values and register rules of R104 to R108, R145, R146,
R169, R215, R219, R251, R312 and R326. A word that breaks one raises ILLEGAL_OP (R92). -/

namespace Sys2Proof.WellFormed

/-- The rounding codes 110 and 111 are reserved (R67). -/
def rmOk (rm : BitVec 3) : Bool := decide (rm < 6#3)
/-- A register that begins a pair (R106). -/
def even {n : Nat} (r : BitVec n) : Bool := !r.getLsbD 0
/-- A register that begins a group of four (R219, R250). -/
def quad (r : BitVec 6) : Bool := !r.getLsbD 0 && !r.getLsbD 1
/-- A 64-bit vector access names an even register (R216, R219). -/
def pairOk (sz : BitVec 2) (t : BitVec 6) : Bool := decide (sz ≠ 3#2) || even t
/-- A global load is plain or an acquire (R107). -/
def loadOrdOk (ord : BitVec 2) : Bool := decide (ord < 2#2)
/-- A global store is plain or a release (R107). -/
def storeOrdOk (ord : BitVec 2) : Bool := !ord.getLsbD 0
/-- A bench access is plain or in a tag mode, and a tag mode takes 32 or 64 bits (R107, R215). -/
def tagOk (ord sz : BitVec 2) : Bool := decide (ord = 0#2) || (decide (ord ≠ 3#2) && sz.getLsbD 1)
/-- An atomic is 32 or 64 bits (R108). -/
def atomSize (sz : BitVec 2) : Bool := sz.getLsbD 1
/-- A plain atomic has no scope (R219). -/
def scopeOk (ord sc : BitVec 2) : Bool := decide (ord ≠ 0#2) || decide (sc = 0#2)
/-- The compare and new values of a vector CAS (R219). -/
def casOk (sz : BitVec 2) (d : BitVec 6) : Bool := if sz = 3#2 then quad d else even d
/-- A command's scope is 00 when it neither acquires nor releases (R108, R251). -/
def cmdScope (acq rel : BitVec 1) (scope : BitVec 2) : Bool :=
  decide (acq = 1#1) || decide (rel = 1#1) || decide (scope = 0#2)
/-- The KAMO functions: 14 and 15 are illegal, floating point has no 64-bit form and CAS names an even register (R312). -/
def kamoOk (d : BitVec 3) (sz : BitVec 1) (fn : BitVec 4) : Bool :=
  decide (fn < 14#4) && (decide (fn < 10#4) || decide (sz = 0#1)) && (decide (fn ≠ 9#4) || even d)

end Sys2Proof.WellFormed

namespace Sys2Proof

open WellFormed in
/-- The operands of an instruction hold no reserved value. An event has no encoding, and every operand of one is allowed. -/
def Instr.wf : Instr → Bool
  | .sadd _ _ _ => true
  | .ssub _ _ _ => true
  | .smul _ _ _ => true
  | .smulh _ _ _ => true
  | .smulhu _ _ _ => true
  | .sand _ _ _ => true
  | .sor _ _ _ => true
  | .sxor _ _ _ => true
  | .sshl _ _ _ => true
  | .sshr _ _ _ => true
  | .ssra _ _ _ => true
  | .smin _ _ _ => true
  | .smax _ _ _ => true
  | .sminu _ _ _ => true
  | .smaxu _ _ _ => true
  | .sslt _ _ _ => true
  | .ssltu _ _ _ => true
  | .sdiv _ _ _ => true
  | .sdivu _ _ _ => true
  | .srem _ _ _ => true
  | .sremu _ _ _ => true
  | .sclz _ _ => true
  | .spopc _ _ => true
  | .sbrev _ _ => true
  | .ssext _ _ wc => decide (wc < 3#6)
  | .szext _ _ wc => decide (wc < 3#6)
  | .saddi _ _ _ => true
  | .sandi _ _ _ => true
  | .sori _ _ _ => true
  | .sxori _ _ _ => true
  | .sshiShl _ _ _ => true
  | .sshiShr _ _ _ => true
  | .sshiSra _ _ _ => true
  | .sshiRor _ _ _ => true
  | .smovk _ _ => true
  | .smovks _ _ => true
  | .brcEqz _ _ => true
  | .brcNez _ _ => true
  | .brcLtz _ _ => true
  | .brcGez _ _ => true
  | .brcAny _ _ => true
  | .brcAll _ _ => true
  | .brcNone _ _ => true
  | .brcSplit _ _ => true
  | .jmp _ => true
  | .call _ => true
  | .jmpr _ => true
  | .callr _ => true
  | .ret _ => true
  | .mand _ _ _ => true
  | .mor _ _ _ => true
  | .mxor _ _ _ => true
  | .mandn _ _ _ => true
  | .mnot _ _ => true
  | .mpopc _ _ => true
  | .mffs _ _ => true
  | .mtos _ _ => true
  | .stom _ _ => true
  | .mact _ => true
  | .regang => true
  | .setfmt _ => true
  | .getfmt _ => true
  | .setrm _ => true
  | .yield => true
  | .getcr _ _ => true
  | .setcr _ _ => true
  | .sqmap _ => true
  | .fragid _ => true
  | .waitc _ _ _ => true
  | .vadd _ _ _ _ _ => true
  | .vsub _ _ _ _ _ => true
  | .vadds _ _ _ _ _ => true
  | .vsubs _ _ _ _ _ => true
  | .vmul _ _ _ _ _ => true
  | .vmulh _ _ _ _ _ => true
  | .vmulhu _ _ _ _ _ => true
  | .vmad _ _ _ _ _ => true
  | .vand _ _ _ _ _ => true
  | .vor _ _ _ _ _ => true
  | .vxor _ _ _ _ _ => true
  | .vandn _ _ _ _ _ => true
  | .vshl _ _ _ _ _ => true
  | .vshr _ _ _ _ _ => true
  | .vsra _ _ _ _ _ => true
  | .vrot _ _ _ _ _ => true
  | .vmin _ _ _ _ _ => true
  | .vmax _ _ _ _ _ => true
  | .vminu _ _ _ _ _ => true
  | .vmaxu _ _ _ _ _ => true
  | .vceq _ _ _ _ _ => true
  | .vclt _ _ _ _ _ => true
  | .vcltu _ _ _ _ _ => true
  | .vcle _ _ _ _ _ => true
  | .vbcs _ _ _ => true
  | .vmovm _ _ _ _ _ => true
  | .vlane _ _ _ => true
  | .vtos _ _ _ _ _ => true
  | .vaddi _ _ _ => true
  | .vshfl _ _ _ _ _ => true
  | .vbcl _ _ _ _ _ => true
  | .vrotl _ _ _ _ _ => true
  | .vperm _ _ _ _ _ => true
  | .vredadd _ _ _ => true
  | .vredmin _ _ _ => true
  | .vredmax _ _ _ => true
  | .vredor _ _ _ => true
  | .vscanadd _ _ _ => true
  | .vscanmax _ _ _ => true
  | .vscanmin _ _ _ => true
  | .vscanaddx _ _ _ => true
  | .vclz _ _ _ => true
  | .vpopc _ _ _ => true
  | .vbrev _ _ _ => true
  | .vsext _ _ wc _ => decide (wc < 2#6)
  | .vpk16 _ _ _ _ _ => true
  | .vupkl16 _ _ _ => true
  | .vupkh16 _ _ _ => true
  | .vbyte _ _ _ _ _ => true
  | .vfadd _ _ _ rm => rmOk rm
  | .vfsub _ _ _ rm => rmOk rm
  | .vfmul _ _ _ rm => rmOk rm
  | .vfdiv _ _ _ rm => rmOk rm
  | .vfma _ _ _ rm => rmOk rm
  | .vfms _ _ _ rm => rmOk rm
  | .vfmin _ _ _ => true
  | .vfmax _ _ _ => true
  | .vfcmpEq _ _ _ => true
  | .vfcmpLt _ _ _ => true
  | .vfcmpLe _ _ _ => true
  | .vfcmpUn _ _ _ => true
  | .vfcmpNe _ _ _ => true
  | .vfredadd _ _ rm => rmOk rm
  | .vfredmax _ _ => true
  | .vfscanadd _ _ rm => rmOk rm
  | .vfscanmax _ _ => true
  | .vsfuRcp _ _ rm => rmOk rm
  | .vsfuRsq _ _ rm => rmOk rm
  | .vsfuSqrt _ _ rm => rmOk rm
  | .vsfuEx2 _ _ rm => rmOk rm
  | .vsfuLg2 _ _ rm => rmOk rm
  | .vsfuSin _ _ rm => rmOk rm
  | .vsfuCos _ _ rm => rmOk rm
  | .vsfuTanh _ _ rm => rmOk rm
  | .vsfuSigm _ _ rm => rmOk rm
  | .vfabs _ _ => true
  | .vfcls _ _ => true
  | .vcvt _ _ src dst rm => rmOk rm && decide (src ≠ dst)
  | .vqnt _ _ _ rm => rmOk rm
  | .vdqnt _ _ _ rm => rmOk rm
  | .vlqenc _ _ _ _ _ => true
  | .vlqdec _ _ _ _ _ => true
  | .vlqins _ _ _ _ _ => true
  | .vlqerr _ _ _ _ _ => true
  | .coll sa _ acq rel scope _ => quad sa && cmdScope acq rel scope
  | .cbulk sa _ acq rel scope _ => quad sa && cmdScope acq rel scope
  | .compact sa _ acq rel scope _ => even sa && cmdScope acq rel scope
  | .qpush sa sb => decide (sa < 8#6) && decide (sb < 8#6)
  | .qstat _ => true
  | .epoll _ _ => true
  | .ecancel _ _ => true
  | .capent _ => true
  | .capexit => true
  | .kld _ _ _ => true
  | .kst _ _ _ => true
  | .kamo d _ sz fn => kamoOk d sz fn
  | .kmovs _ _ => true
  | .kmovk _ _ => true
  | .capstat _ => true
  | .sld _ _ _ _ ord => loadOrdOk ord
  | .sst _ _ _ _ ord => storeOrdOk ord
  | .vld t _ _ sz ord => loadOrdOk ord && pairOk sz t
  | .vst t _ _ sz ord => storeOrdOk ord && pairOk sz t
  | .vldg t _ _ sz ord => loadOrdOk ord && pairOk sz t
  | .vsts t _ _ sz ord => storeOrdOk ord && pairOk sz t
  | .bld t _ _ sz ord => tagOk ord sz && pairOk sz t
  | .bst t _ _ sz ord => tagOk ord sz && pairOk sz t
  | .bldg t _ _ sz ord => tagOk ord sz && pairOk sz t
  | .bsts t _ _ sz ord => tagOk ord sz && pairOk sz t
  | .amoAdd _ _ ord sz sc => scopeOk ord sc && atomSize sz
  | .amoAnd _ _ ord sz sc => scopeOk ord sc && atomSize sz
  | .amoOr _ _ ord sz sc => scopeOk ord sc && atomSize sz
  | .amoXor _ _ ord sz sc => scopeOk ord sc && atomSize sz
  | .amoMin _ _ ord sz sc => scopeOk ord sc && atomSize sz
  | .amoMax _ _ ord sz sc => scopeOk ord sc && atomSize sz
  | .amoMinu _ _ ord sz sc => scopeOk ord sc && atomSize sz
  | .amoMaxu _ _ ord sz sc => scopeOk ord sc && atomSize sz
  | .amoXchg _ _ ord sz sc => scopeOk ord sc && atomSize sz
  | .amoCas d _ ord sz sc => scopeOk ord sc && atomSize sz && even d
  | .amoFadd32 _ _ ord sc => scopeOk ord sc
  | .amoFadd16x2 _ _ ord sc => scopeOk ord sc
  | .amoFmin32 _ _ ord sc => scopeOk ord sc
  | .amoFmax32 _ _ ord sc => scopeOk ord sc
  | .vamoAdd d a ord sz sc => scopeOk ord sc && atomSize sz && even a && pairOk sz d
  | .vamoAnd d a ord sz sc => scopeOk ord sc && atomSize sz && even a && pairOk sz d
  | .vamoOr d a ord sz sc => scopeOk ord sc && atomSize sz && even a && pairOk sz d
  | .vamoXor d a ord sz sc => scopeOk ord sc && atomSize sz && even a && pairOk sz d
  | .vamoMin d a ord sz sc => scopeOk ord sc && atomSize sz && even a && pairOk sz d
  | .vamoMax d a ord sz sc => scopeOk ord sc && atomSize sz && even a && pairOk sz d
  | .vamoMinu d a ord sz sc => scopeOk ord sc && atomSize sz && even a && pairOk sz d
  | .vamoMaxu d a ord sz sc => scopeOk ord sc && atomSize sz && even a && pairOk sz d
  | .vamoXchg d a ord sz sc => scopeOk ord sc && atomSize sz && even a && pairOk sz d
  | .vamoCas d a ord sz sc => scopeOk ord sc && atomSize sz && even a && casOk sz d
  | .vamoFadd32 _ a ord sc => scopeOk ord sc && even a
  | .vamoFadd16x2 _ a ord sc => scopeOk ord sc && even a
  | .vamoFmin32 _ a ord sc => scopeOk ord sc && even a
  | .vamoFmax32 _ a ord sc => scopeOk ord sc && even a
  | .fence _ _ => true
  | .bar => true
  | .tbar => true
  | .arrive _ _ => true
  | .await _ _ => true
  | .ainit _ _ => true
  | .fenceCode _ => true
  | .iflush => true
  | .tsread _ => true
  | .feset _ _ _ => true
  | .fetest _ _ => true
  | .tcopy sa _ acq rel scope _ => quad sa && cmdScope acq rel scope
  | .tcopym sa _ acq rel scope _ => quad sa && cmdScope acq rel scope
  | .mxldb sa _ acq scope _ => even sa && cmdScope acq 0#1 scope
  | .mxop sa _ acq scope _ => even sa && cmdScope acq 0#1 scope
  | .mxfence _ => true
  | .mxwait _ => true
  | .mxacq => true
  | .mxrel => true
  | .bform _ => true
  | .bjoin _ => true
  | .bbrk => true
  | .msma _ => true
  | .msmf => true
  | .msmrd sa _ rel scope _ => even sa && cmdScope 0#1 rel scope
  | .plngo sa _ => even sa
  | .plnstop => true
  | .trap _ => true
  | .tret => true
  | .launch _ _ => true
  | .lwait _ => true
  | .exit => true
  | .jighint mode _ _ => decide (mode ≠ 3#2)
  | .brkpt _ => true
  | .nop => true
  | .fetchFault _ => true
  | .loadCompletion _ => true
  | .storeCompletion _ => true
  | .remoteResponse _ _ => true
  | .inboundDomainRequest _ => true
  | .hostDeviceAccess _ => true
  | .hostRequestFailure _ => true
  | .copyRowLanding _ => true
  | .engineCommandCompletion _ => true
  | .deferredFaultDelivery _ => true
  | .bondFormation _ => true
  | .capsuleStepCommit _ => true
  | .eventWindowStart _ => true
  | .fragmentPromotion _ => true
  | .yieldExpiry _ => true
  | .warpRetirement _ => true
  | .launchRecordAdmission => true
  | .teamPlacement => true
  | .runSliceExpiry _ => true
  | .waitSliceExpiry _ => true
  | .lwaitPreemption _ => true
  | .teamSave _ => true
  | .teamResume _ => true
  | .deadContextDrainComplete _ => true
  | .dieLossDeclaration _ => true
  | .queueDescriptorWrite _ _ _ _ => true
  | .managementRegisterWrite _ _ _ => true
  | .translationInvalidation => true
  | .hostKill => true
  | .clearRateHint => true
  | .cmdNoEffect _ => true
  | .deviceReset _ => true
  | .thermalShutdown => true
  | .engineCommandStart _ => true
  | .managementCommandCompletion => true

end Sys2Proof
end

