-- ==== Sys2Proof/Decode.lean ====
section
/-! DEFINITION. Reading an instruction word (R89, R105, R109) and writing one. `decode` is total: it gives the chain bit, the
stall count and the instruction, or the reason for which the word raises ILLEGAL_OP (R92). -/

namespace Sys2Proof

/-- Why a word is no instruction. Each raises ILLEGAL_OP (R92, R109). -/
inductive Reject where
  /-- The major opcode is illegal. -/
  | opcode
  /-- The sub-function of the opcode is illegal. -/
  | function
  /-- A reserved field or bit is nonzero. -/
  | field
  /-- A field holds a reserved value. -/
  | value
deriving DecidableEq, Repr

/-- A decoded word: C, S and the instruction (R89). -/
structure Decoded where
  chain : Bool
  stall : BitVec 3
  instr : Instr
deriving DecidableEq, Repr

/-- The instruction, where the reserved bits of its word are clear. -/
def fieldsOk (ok : Bool) (i : Instr) : Except Reject Instr := if ok then .ok i else .error .field

/-- Opcode 0x01: SADD, SSUB, SMUL, SMULH, SMULHU, SAND, SOR, SXOR, SSHL, SSHR, SSRA, SMIN, SMAX, SMINU, SMAXU, SSLT. -/
def decodeOp01 (x : BitVec 22) : Except Reject Instr :=
  match x.extractLsb' 0 4 with
  | 0#4 => .ok (.sadd (x.extractLsb' 16 6) (x.extractLsb' 10 6) (x.extractLsb' 4 6))
  | 1#4 => .ok (.ssub (x.extractLsb' 16 6) (x.extractLsb' 10 6) (x.extractLsb' 4 6))
  | 2#4 => .ok (.smul (x.extractLsb' 16 6) (x.extractLsb' 10 6) (x.extractLsb' 4 6))
  | 3#4 => .ok (.smulh (x.extractLsb' 16 6) (x.extractLsb' 10 6) (x.extractLsb' 4 6))
  | 4#4 => .ok (.smulhu (x.extractLsb' 16 6) (x.extractLsb' 10 6) (x.extractLsb' 4 6))
  | 5#4 => .ok (.sand (x.extractLsb' 16 6) (x.extractLsb' 10 6) (x.extractLsb' 4 6))
  | 6#4 => .ok (.sor (x.extractLsb' 16 6) (x.extractLsb' 10 6) (x.extractLsb' 4 6))
  | 7#4 => .ok (.sxor (x.extractLsb' 16 6) (x.extractLsb' 10 6) (x.extractLsb' 4 6))
  | 8#4 => .ok (.sshl (x.extractLsb' 16 6) (x.extractLsb' 10 6) (x.extractLsb' 4 6))
  | 9#4 => .ok (.sshr (x.extractLsb' 16 6) (x.extractLsb' 10 6) (x.extractLsb' 4 6))
  | 10#4 => .ok (.ssra (x.extractLsb' 16 6) (x.extractLsb' 10 6) (x.extractLsb' 4 6))
  | 11#4 => .ok (.smin (x.extractLsb' 16 6) (x.extractLsb' 10 6) (x.extractLsb' 4 6))
  | 12#4 => .ok (.smax (x.extractLsb' 16 6) (x.extractLsb' 10 6) (x.extractLsb' 4 6))
  | 13#4 => .ok (.sminu (x.extractLsb' 16 6) (x.extractLsb' 10 6) (x.extractLsb' 4 6))
  | 14#4 => .ok (.smaxu (x.extractLsb' 16 6) (x.extractLsb' 10 6) (x.extractLsb' 4 6))
  | _ => .ok (.sslt (x.extractLsb' 16 6) (x.extractLsb' 10 6) (x.extractLsb' 4 6))

/-- Opcode 0x02: SSLTU, SDIV, SDIVU, SREM, SREMU, SCLZ, SPOPC, SBREV, SSEXT, SZEXT. -/
def decodeOp02 (x : BitVec 22) : Except Reject Instr :=
  match x.extractLsb' 0 4 with
  | 0#4 => .ok (.ssltu (x.extractLsb' 16 6) (x.extractLsb' 10 6) (x.extractLsb' 4 6))
  | 1#4 => .ok (.sdiv (x.extractLsb' 16 6) (x.extractLsb' 10 6) (x.extractLsb' 4 6))
  | 2#4 => .ok (.sdivu (x.extractLsb' 16 6) (x.extractLsb' 10 6) (x.extractLsb' 4 6))
  | 3#4 => .ok (.srem (x.extractLsb' 16 6) (x.extractLsb' 10 6) (x.extractLsb' 4 6))
  | 4#4 => .ok (.sremu (x.extractLsb' 16 6) (x.extractLsb' 10 6) (x.extractLsb' 4 6))
  | 5#4 => fieldsOk (x.extractLsb' 4 6 == 0#6) (.sclz (x.extractLsb' 16 6) (x.extractLsb' 10 6))
  | 6#4 => fieldsOk (x.extractLsb' 4 6 == 0#6) (.spopc (x.extractLsb' 16 6) (x.extractLsb' 10 6))
  | 7#4 => fieldsOk (x.extractLsb' 4 6 == 0#6) (.sbrev (x.extractLsb' 16 6) (x.extractLsb' 10 6))
  | 8#4 => .ok (.ssext (x.extractLsb' 16 6) (x.extractLsb' 10 6) (x.extractLsb' 4 6))
  | 9#4 => .ok (.szext (x.extractLsb' 16 6) (x.extractLsb' 10 6) (x.extractLsb' 4 6))
  | _ => .error .function

/-- Opcode 0x03: SADDI. -/
def decodeOp03 (x : BitVec 22) : Except Reject Instr :=
  .ok (.saddi (x.extractLsb' 16 6) (x.extractLsb' 10 6) (x.extractLsb' 0 10))

/-- Opcode 0x04: SANDI. -/
def decodeOp04 (x : BitVec 22) : Except Reject Instr :=
  .ok (.sandi (x.extractLsb' 16 6) (x.extractLsb' 10 6) (x.extractLsb' 0 10))

/-- Opcode 0x05: SORI. -/
def decodeOp05 (x : BitVec 22) : Except Reject Instr :=
  .ok (.sori (x.extractLsb' 16 6) (x.extractLsb' 10 6) (x.extractLsb' 0 10))

/-- Opcode 0x06: SXORI. -/
def decodeOp06 (x : BitVec 22) : Except Reject Instr :=
  .ok (.sxori (x.extractLsb' 16 6) (x.extractLsb' 10 6) (x.extractLsb' 0 10))

/-- Opcode 0x07: SSHI_SHL, SSHI_SHR, SSHI_SRA, SSHI_ROR. -/
def decodeOp07 (x : BitVec 22) : Except Reject Instr :=
  match x.extractLsb' 8 2 with
  | 0#2 => fieldsOk (x.extractLsb' 6 2 == 0#2) (.sshiShl (x.extractLsb' 16 6) (x.extractLsb' 10 6) (x.extractLsb' 0 6))
  | 1#2 => fieldsOk (x.extractLsb' 6 2 == 0#2) (.sshiShr (x.extractLsb' 16 6) (x.extractLsb' 10 6) (x.extractLsb' 0 6))
  | 2#2 => fieldsOk (x.extractLsb' 6 2 == 0#2) (.sshiSra (x.extractLsb' 16 6) (x.extractLsb' 10 6) (x.extractLsb' 0 6))
  | _ => fieldsOk (x.extractLsb' 6 2 == 0#2) (.sshiRor (x.extractLsb' 16 6) (x.extractLsb' 10 6) (x.extractLsb' 0 6))

/-- Opcode 0x08: SMOVK. -/
def decodeOp08 (x : BitVec 22) : Except Reject Instr :=
  .ok (.smovk (x.extractLsb' 16 6) (x.extractLsb' 0 16))

/-- Opcode 0x09: SMOVKS. -/
def decodeOp09 (x : BitVec 22) : Except Reject Instr :=
  .ok (.smovks (x.extractLsb' 16 6) (x.extractLsb' 0 16))

/-- Opcode 0x0A: BRC_EQZ, BRC_NEZ, BRC_LTZ, BRC_GEZ, BRC_ANY, BRC_ALL, BRC_NONE, BRC_SPLIT. -/
def decodeOp0A (x : BitVec 22) : Except Reject Instr :=
  match x.extractLsb' 18 4 with
  | 0#4 => .ok (.brcEqz (x.extractLsb' 12 6) (x.extractLsb' 0 12))
  | 1#4 => .ok (.brcNez (x.extractLsb' 12 6) (x.extractLsb' 0 12))
  | 2#4 => .ok (.brcLtz (x.extractLsb' 12 6) (x.extractLsb' 0 12))
  | 3#4 => .ok (.brcGez (x.extractLsb' 12 6) (x.extractLsb' 0 12))
  | 4#4 => fieldsOk (x.extractLsb' 15 3 == 0#3) (.brcAny (x.extractLsb' 12 3) (x.extractLsb' 0 12))
  | 5#4 => fieldsOk (x.extractLsb' 15 3 == 0#3) (.brcAll (x.extractLsb' 12 3) (x.extractLsb' 0 12))
  | 6#4 => fieldsOk (x.extractLsb' 15 3 == 0#3) (.brcNone (x.extractLsb' 12 3) (x.extractLsb' 0 12))
  | 7#4 => fieldsOk (x.extractLsb' 15 3 == 0#3) (.brcSplit (x.extractLsb' 12 3) (x.extractLsb' 0 12))
  | _ => .error .function

/-- Opcode 0x0B: JMP. -/
def decodeOp0B (x : BitVec 22) : Except Reject Instr :=
  .ok (.jmp (x.extractLsb' 0 22))

/-- Opcode 0x0C: CALL. -/
def decodeOp0C (x : BitVec 22) : Except Reject Instr :=
  .ok (.call (x.extractLsb' 0 22))

/-- Opcode 0x0D: JMPR, CALLR, RET. -/
def decodeOp0D (x : BitVec 22) : Except Reject Instr :=
  match x.extractLsb' 0 4 with
  | 0#4 => fieldsOk (x.extractLsb' 4 6 == 0#6 && x.extractLsb' 16 6 == 0#6) (.jmpr (x.extractLsb' 10 6))
  | 1#4 => fieldsOk (x.extractLsb' 4 6 == 0#6 && x.extractLsb' 16 6 == 0#6) (.callr (x.extractLsb' 10 6))
  | 2#4 => fieldsOk (x.extractLsb' 4 6 == 0#6 && x.extractLsb' 16 6 == 0#6) (.ret (x.extractLsb' 10 6))
  | _ => .error .function

/-- Opcode 0x0E: MAND, MOR, MXOR, MANDN, MNOT, MPOPC, MFFS, MTOS, STOM, MACT. -/
def decodeOp0E (x : BitVec 22) : Except Reject Instr :=
  match x.extractLsb' 0 4 with
  | 0#4 => fieldsOk (x.extractLsb' 7 3 == 0#3 && x.extractLsb' 13 3 == 0#3 && x.extractLsb' 19 3 == 0#3) (.mand (x.extractLsb' 16 3) (x.extractLsb' 10 3) (x.extractLsb' 4 3))
  | 1#4 => fieldsOk (x.extractLsb' 7 3 == 0#3 && x.extractLsb' 13 3 == 0#3 && x.extractLsb' 19 3 == 0#3) (.mor (x.extractLsb' 16 3) (x.extractLsb' 10 3) (x.extractLsb' 4 3))
  | 2#4 => fieldsOk (x.extractLsb' 7 3 == 0#3 && x.extractLsb' 13 3 == 0#3 && x.extractLsb' 19 3 == 0#3) (.mxor (x.extractLsb' 16 3) (x.extractLsb' 10 3) (x.extractLsb' 4 3))
  | 3#4 => fieldsOk (x.extractLsb' 7 3 == 0#3 && x.extractLsb' 13 3 == 0#3 && x.extractLsb' 19 3 == 0#3) (.mandn (x.extractLsb' 16 3) (x.extractLsb' 10 3) (x.extractLsb' 4 3))
  | 4#4 => fieldsOk (x.extractLsb' 4 6 == 0#6 && x.extractLsb' 13 3 == 0#3 && x.extractLsb' 19 3 == 0#3) (.mnot (x.extractLsb' 16 3) (x.extractLsb' 10 3))
  | 5#4 => fieldsOk (x.extractLsb' 4 6 == 0#6 && x.extractLsb' 13 3 == 0#3) (.mpopc (x.extractLsb' 16 6) (x.extractLsb' 10 3))
  | 6#4 => fieldsOk (x.extractLsb' 4 6 == 0#6 && x.extractLsb' 13 3 == 0#3) (.mffs (x.extractLsb' 16 6) (x.extractLsb' 10 3))
  | 7#4 => fieldsOk (x.extractLsb' 4 6 == 0#6 && x.extractLsb' 13 3 == 0#3) (.mtos (x.extractLsb' 16 6) (x.extractLsb' 10 3))
  | 8#4 => fieldsOk (x.extractLsb' 4 6 == 0#6 && x.extractLsb' 19 3 == 0#3) (.stom (x.extractLsb' 16 3) (x.extractLsb' 10 6))
  | 9#4 => fieldsOk (x.extractLsb' 4 12 == 0#12 && x.extractLsb' 19 3 == 0#3) (.mact (x.extractLsb' 16 3))
  | _ => .error .function

/-- Opcode 0x0F: REGANG, SETFMT, GETFMT, SETRM, YIELD, GETCR, SETCR, SQMAP, FRAGID. -/
def decodeOp0F (x : BitVec 22) : Except Reject Instr :=
  match x.extractLsb' 0 4 with
  | 0#4 => fieldsOk (x.extractLsb' 4 18 == 0#18) .regang
  | 1#4 => fieldsOk (x.extractLsb' 4 6 == 0#6 && x.extractLsb' 16 6 == 0#6) (.setfmt (x.extractLsb' 10 6))
  | 2#4 => fieldsOk (x.extractLsb' 4 12 == 0#12) (.getfmt (x.extractLsb' 16 6))
  | 3#4 => fieldsOk (x.extractLsb' 7 15 == 0#15) (.setrm (x.extractLsb' 4 3))
  | 4#4 => fieldsOk (x.extractLsb' 4 18 == 0#18) .yield
  | 5#4 => .ok (.getcr (x.extractLsb' 16 6) (x.extractLsb' 4 12))
  | 6#4 => .ok (.setcr (x.extractLsb' 16 6) (x.extractLsb' 4 12))
  | 7#4 => fieldsOk (x.extractLsb' 4 6 == 0#6 && x.extractLsb' 16 6 == 0#6) (.sqmap (x.extractLsb' 10 6))
  | 8#4 => fieldsOk (x.extractLsb' 4 12 == 0#12) (.fragid (x.extractLsb' 16 6))
  | _ => .error .function

/-- Opcode 0x10: WAITC. -/
def decodeOp10 (x : BitVec 22) : Except Reject Instr :=
  fieldsOk (x.extractLsb' 6 4 == 0#4) (.waitc (x.extractLsb' 16 6) (x.extractLsb' 10 6) (x.extractLsb' 0 6))

/-- Opcode 0x11: VADD, VSUB, VADDS, VSUBS. -/
def decodeOp11 (x : BitVec 22) : Except Reject Instr :=
  match x.extractLsb' 0 2 with
  | 0#2 => .ok (.vadd (x.extractLsb' 16 6) (x.extractLsb' 10 6) (x.extractLsb' 4 6) (x.extractLsb' 3 1) (x.extractLsb' 2 1))
  | 1#2 => .ok (.vsub (x.extractLsb' 16 6) (x.extractLsb' 10 6) (x.extractLsb' 4 6) (x.extractLsb' 3 1) (x.extractLsb' 2 1))
  | 2#2 => .ok (.vadds (x.extractLsb' 16 6) (x.extractLsb' 10 6) (x.extractLsb' 4 6) (x.extractLsb' 3 1) (x.extractLsb' 2 1))
  | _ => .ok (.vsubs (x.extractLsb' 16 6) (x.extractLsb' 10 6) (x.extractLsb' 4 6) (x.extractLsb' 3 1) (x.extractLsb' 2 1))

/-- Opcode 0x12: VMUL, VMULH, VMULHU, VMAD. -/
def decodeOp12 (x : BitVec 22) : Except Reject Instr :=
  match x.extractLsb' 0 2 with
  | 0#2 => .ok (.vmul (x.extractLsb' 16 6) (x.extractLsb' 10 6) (x.extractLsb' 4 6) (x.extractLsb' 3 1) (x.extractLsb' 2 1))
  | 1#2 => .ok (.vmulh (x.extractLsb' 16 6) (x.extractLsb' 10 6) (x.extractLsb' 4 6) (x.extractLsb' 3 1) (x.extractLsb' 2 1))
  | 2#2 => .ok (.vmulhu (x.extractLsb' 16 6) (x.extractLsb' 10 6) (x.extractLsb' 4 6) (x.extractLsb' 3 1) (x.extractLsb' 2 1))
  | _ => .ok (.vmad (x.extractLsb' 16 6) (x.extractLsb' 10 6) (x.extractLsb' 4 6) (x.extractLsb' 3 1) (x.extractLsb' 2 1))

/-- Opcode 0x13: VAND, VOR, VXOR, VANDN. -/
def decodeOp13 (x : BitVec 22) : Except Reject Instr :=
  match x.extractLsb' 0 2 with
  | 0#2 => .ok (.vand (x.extractLsb' 16 6) (x.extractLsb' 10 6) (x.extractLsb' 4 6) (x.extractLsb' 3 1) (x.extractLsb' 2 1))
  | 1#2 => .ok (.vor (x.extractLsb' 16 6) (x.extractLsb' 10 6) (x.extractLsb' 4 6) (x.extractLsb' 3 1) (x.extractLsb' 2 1))
  | 2#2 => .ok (.vxor (x.extractLsb' 16 6) (x.extractLsb' 10 6) (x.extractLsb' 4 6) (x.extractLsb' 3 1) (x.extractLsb' 2 1))
  | _ => .ok (.vandn (x.extractLsb' 16 6) (x.extractLsb' 10 6) (x.extractLsb' 4 6) (x.extractLsb' 3 1) (x.extractLsb' 2 1))

/-- Opcode 0x14: VSHL, VSHR, VSRA, VROT. -/
def decodeOp14 (x : BitVec 22) : Except Reject Instr :=
  match x.extractLsb' 0 2 with
  | 0#2 => .ok (.vshl (x.extractLsb' 16 6) (x.extractLsb' 10 6) (x.extractLsb' 4 6) (x.extractLsb' 3 1) (x.extractLsb' 2 1))
  | 1#2 => .ok (.vshr (x.extractLsb' 16 6) (x.extractLsb' 10 6) (x.extractLsb' 4 6) (x.extractLsb' 3 1) (x.extractLsb' 2 1))
  | 2#2 => .ok (.vsra (x.extractLsb' 16 6) (x.extractLsb' 10 6) (x.extractLsb' 4 6) (x.extractLsb' 3 1) (x.extractLsb' 2 1))
  | _ => .ok (.vrot (x.extractLsb' 16 6) (x.extractLsb' 10 6) (x.extractLsb' 4 6) (x.extractLsb' 3 1) (x.extractLsb' 2 1))

/-- Opcode 0x15: VMIN, VMAX, VMINU, VMAXU. -/
def decodeOp15 (x : BitVec 22) : Except Reject Instr :=
  match x.extractLsb' 0 2 with
  | 0#2 => .ok (.vmin (x.extractLsb' 16 6) (x.extractLsb' 10 6) (x.extractLsb' 4 6) (x.extractLsb' 3 1) (x.extractLsb' 2 1))
  | 1#2 => .ok (.vmax (x.extractLsb' 16 6) (x.extractLsb' 10 6) (x.extractLsb' 4 6) (x.extractLsb' 3 1) (x.extractLsb' 2 1))
  | 2#2 => .ok (.vminu (x.extractLsb' 16 6) (x.extractLsb' 10 6) (x.extractLsb' 4 6) (x.extractLsb' 3 1) (x.extractLsb' 2 1))
  | _ => .ok (.vmaxu (x.extractLsb' 16 6) (x.extractLsb' 10 6) (x.extractLsb' 4 6) (x.extractLsb' 3 1) (x.extractLsb' 2 1))

/-- Opcode 0x16: VCEQ, VCLT, VCLTU, VCLE. -/
def decodeOp16 (x : BitVec 22) : Except Reject Instr :=
  match x.extractLsb' 0 2 with
  | 0#2 => fieldsOk (x.extractLsb' 19 3 == 0#3) (.vceq (x.extractLsb' 16 3) (x.extractLsb' 10 6) (x.extractLsb' 4 6) (x.extractLsb' 3 1) (x.extractLsb' 2 1))
  | 1#2 => fieldsOk (x.extractLsb' 19 3 == 0#3) (.vclt (x.extractLsb' 16 3) (x.extractLsb' 10 6) (x.extractLsb' 4 6) (x.extractLsb' 3 1) (x.extractLsb' 2 1))
  | 2#2 => fieldsOk (x.extractLsb' 19 3 == 0#3) (.vcltu (x.extractLsb' 16 3) (x.extractLsb' 10 6) (x.extractLsb' 4 6) (x.extractLsb' 3 1) (x.extractLsb' 2 1))
  | _ => fieldsOk (x.extractLsb' 19 3 == 0#3) (.vcle (x.extractLsb' 16 3) (x.extractLsb' 10 6) (x.extractLsb' 4 6) (x.extractLsb' 3 1) (x.extractLsb' 2 1))

/-- Opcode 0x17: VBCS, VMOVM, VLANE, VTOS. -/
def decodeOp17 (x : BitVec 22) : Except Reject Instr :=
  match x.extractLsb' 0 2 with
  | 0#2 => fieldsOk (x.extractLsb' 2 1 == 0#1 && x.extractLsb' 4 6 == 0#6) (.vbcs (x.extractLsb' 16 6) (x.extractLsb' 10 6) (x.extractLsb' 3 1))
  | 1#2 => fieldsOk (x.extractLsb' 7 3 == 0#3) (.vmovm (x.extractLsb' 16 6) (x.extractLsb' 10 6) (x.extractLsb' 4 3) (x.extractLsb' 3 1) (x.extractLsb' 2 1))
  | 2#2 => fieldsOk (x.extractLsb' 2 1 == 0#1 && x.extractLsb' 4 6 == 0#6) (.vlane (x.extractLsb' 16 6) (x.extractLsb' 10 6) (x.extractLsb' 3 1))
  | _ => .ok (.vtos (x.extractLsb' 16 6) (x.extractLsb' 10 6) (x.extractLsb' 4 6) (x.extractLsb' 3 1) (x.extractLsb' 2 1))

/-- Opcode 0x18: VADDI. -/
def decodeOp18 (x : BitVec 22) : Except Reject Instr :=
  .ok (.vaddi (x.extractLsb' 16 6) (x.extractLsb' 10 6) (x.extractLsb' 0 10))

/-- Opcode 0x19: VSHFL, VBCL, VROTL, VPERM. -/
def decodeOp19 (x : BitVec 22) : Except Reject Instr :=
  match x.extractLsb' 0 2 with
  | 0#2 => .ok (.vshfl (x.extractLsb' 16 6) (x.extractLsb' 10 6) (x.extractLsb' 4 6) (x.extractLsb' 3 1) (x.extractLsb' 2 1))
  | 1#2 => .ok (.vbcl (x.extractLsb' 16 6) (x.extractLsb' 10 6) (x.extractLsb' 4 6) (x.extractLsb' 3 1) (x.extractLsb' 2 1))
  | 2#2 => .ok (.vrotl (x.extractLsb' 16 6) (x.extractLsb' 10 6) (x.extractLsb' 4 6) (x.extractLsb' 3 1) (x.extractLsb' 2 1))
  | _ => .ok (.vperm (x.extractLsb' 16 6) (x.extractLsb' 10 6) (x.extractLsb' 4 6) (x.extractLsb' 3 1) (x.extractLsb' 2 1))

/-- Opcode 0x1A: VREDADD, VREDMIN, VREDMAX, VREDOR. -/
def decodeOp1A (x : BitVec 22) : Except Reject Instr :=
  match x.extractLsb' 0 2 with
  | 0#2 => fieldsOk (x.extractLsb' 2 1 == 0#1 && x.extractLsb' 4 6 == 0#6) (.vredadd (x.extractLsb' 16 6) (x.extractLsb' 10 6) (x.extractLsb' 3 1))
  | 1#2 => fieldsOk (x.extractLsb' 2 1 == 0#1 && x.extractLsb' 4 6 == 0#6) (.vredmin (x.extractLsb' 16 6) (x.extractLsb' 10 6) (x.extractLsb' 3 1))
  | 2#2 => fieldsOk (x.extractLsb' 2 1 == 0#1 && x.extractLsb' 4 6 == 0#6) (.vredmax (x.extractLsb' 16 6) (x.extractLsb' 10 6) (x.extractLsb' 3 1))
  | _ => fieldsOk (x.extractLsb' 2 1 == 0#1 && x.extractLsb' 4 6 == 0#6) (.vredor (x.extractLsb' 16 6) (x.extractLsb' 10 6) (x.extractLsb' 3 1))

/-- Opcode 0x1B: VSCANADD, VSCANMAX, VSCANMIN, VSCANADDX. -/
def decodeOp1B (x : BitVec 22) : Except Reject Instr :=
  match x.extractLsb' 0 2 with
  | 0#2 => fieldsOk (x.extractLsb' 2 1 == 0#1 && x.extractLsb' 4 6 == 0#6) (.vscanadd (x.extractLsb' 16 6) (x.extractLsb' 10 6) (x.extractLsb' 3 1))
  | 1#2 => fieldsOk (x.extractLsb' 2 1 == 0#1 && x.extractLsb' 4 6 == 0#6) (.vscanmax (x.extractLsb' 16 6) (x.extractLsb' 10 6) (x.extractLsb' 3 1))
  | 2#2 => fieldsOk (x.extractLsb' 2 1 == 0#1 && x.extractLsb' 4 6 == 0#6) (.vscanmin (x.extractLsb' 16 6) (x.extractLsb' 10 6) (x.extractLsb' 3 1))
  | _ => fieldsOk (x.extractLsb' 2 1 == 0#1 && x.extractLsb' 4 6 == 0#6) (.vscanaddx (x.extractLsb' 16 6) (x.extractLsb' 10 6) (x.extractLsb' 3 1))

/-- Opcode 0x1C: VCLZ, VPOPC, VBREV, VSEXT. -/
def decodeOp1C (x : BitVec 22) : Except Reject Instr :=
  match x.extractLsb' 0 2 with
  | 0#2 => fieldsOk (x.extractLsb' 2 1 == 0#1 && x.extractLsb' 4 6 == 0#6) (.vclz (x.extractLsb' 16 6) (x.extractLsb' 10 6) (x.extractLsb' 3 1))
  | 1#2 => fieldsOk (x.extractLsb' 2 1 == 0#1 && x.extractLsb' 4 6 == 0#6) (.vpopc (x.extractLsb' 16 6) (x.extractLsb' 10 6) (x.extractLsb' 3 1))
  | 2#2 => fieldsOk (x.extractLsb' 2 1 == 0#1 && x.extractLsb' 4 6 == 0#6) (.vbrev (x.extractLsb' 16 6) (x.extractLsb' 10 6) (x.extractLsb' 3 1))
  | _ => fieldsOk (x.extractLsb' 2 1 == 0#1) (.vsext (x.extractLsb' 16 6) (x.extractLsb' 10 6) (x.extractLsb' 4 6) (x.extractLsb' 3 1))

/-- Opcode 0x1D: VPK16, VUPKL16, VUPKH16, VBYTE. -/
def decodeOp1D (x : BitVec 22) : Except Reject Instr :=
  match x.extractLsb' 0 2 with
  | 0#2 => .ok (.vpk16 (x.extractLsb' 16 6) (x.extractLsb' 10 6) (x.extractLsb' 4 6) (x.extractLsb' 3 1) (x.extractLsb' 2 1))
  | 1#2 => fieldsOk (x.extractLsb' 2 1 == 0#1 && x.extractLsb' 4 6 == 0#6) (.vupkl16 (x.extractLsb' 16 6) (x.extractLsb' 10 6) (x.extractLsb' 3 1))
  | 2#2 => fieldsOk (x.extractLsb' 2 1 == 0#1 && x.extractLsb' 4 6 == 0#6) (.vupkh16 (x.extractLsb' 16 6) (x.extractLsb' 10 6) (x.extractLsb' 3 1))
  | _ => .ok (.vbyte (x.extractLsb' 16 6) (x.extractLsb' 10 6) (x.extractLsb' 4 6) (x.extractLsb' 3 1) (x.extractLsb' 2 1))

/-- Opcode 0x20: VFADD, VFSUB. -/
def decodeOp20 (x : BitVec 22) : Except Reject Instr :=
  match x.extractLsb' 0 1 with
  | 0#1 => .ok (.vfadd (x.extractLsb' 16 6) (x.extractLsb' 10 6) (x.extractLsb' 4 6) (x.extractLsb' 1 3))
  | _ => .ok (.vfsub (x.extractLsb' 16 6) (x.extractLsb' 10 6) (x.extractLsb' 4 6) (x.extractLsb' 1 3))

/-- Opcode 0x21: VFMUL, VFDIV. -/
def decodeOp21 (x : BitVec 22) : Except Reject Instr :=
  match x.extractLsb' 0 1 with
  | 0#1 => .ok (.vfmul (x.extractLsb' 16 6) (x.extractLsb' 10 6) (x.extractLsb' 4 6) (x.extractLsb' 1 3))
  | _ => .ok (.vfdiv (x.extractLsb' 16 6) (x.extractLsb' 10 6) (x.extractLsb' 4 6) (x.extractLsb' 1 3))

/-- Opcode 0x22: VFMA, VFMS. -/
def decodeOp22 (x : BitVec 22) : Except Reject Instr :=
  match x.extractLsb' 0 1 with
  | 0#1 => .ok (.vfma (x.extractLsb' 16 6) (x.extractLsb' 10 6) (x.extractLsb' 4 6) (x.extractLsb' 1 3))
  | _ => .ok (.vfms (x.extractLsb' 16 6) (x.extractLsb' 10 6) (x.extractLsb' 4 6) (x.extractLsb' 1 3))

/-- Opcode 0x23: VFMIN, VFMAX. -/
def decodeOp23 (x : BitVec 22) : Except Reject Instr :=
  match x.extractLsb' 0 1 with
  | 0#1 => fieldsOk (x.extractLsb' 1 3 == 0#3) (.vfmin (x.extractLsb' 16 6) (x.extractLsb' 10 6) (x.extractLsb' 4 6))
  | _ => fieldsOk (x.extractLsb' 1 3 == 0#3) (.vfmax (x.extractLsb' 16 6) (x.extractLsb' 10 6) (x.extractLsb' 4 6))

/-- Opcode 0x24: VFCMP_EQ, VFCMP_LT, VFCMP_LE, VFCMP_UN, VFCMP_NE. -/
def decodeOp24 (x : BitVec 22) : Except Reject Instr :=
  match x.extractLsb' 1 3 with
  | 0#3 => fieldsOk (x.extractLsb' 0 1 == 0#1 && x.extractLsb' 19 3 == 0#3) (.vfcmpEq (x.extractLsb' 16 3) (x.extractLsb' 10 6) (x.extractLsb' 4 6))
  | 1#3 => fieldsOk (x.extractLsb' 0 1 == 0#1 && x.extractLsb' 19 3 == 0#3) (.vfcmpLt (x.extractLsb' 16 3) (x.extractLsb' 10 6) (x.extractLsb' 4 6))
  | 2#3 => fieldsOk (x.extractLsb' 0 1 == 0#1 && x.extractLsb' 19 3 == 0#3) (.vfcmpLe (x.extractLsb' 16 3) (x.extractLsb' 10 6) (x.extractLsb' 4 6))
  | 3#3 => fieldsOk (x.extractLsb' 0 1 == 0#1 && x.extractLsb' 19 3 == 0#3) (.vfcmpUn (x.extractLsb' 16 3) (x.extractLsb' 10 6) (x.extractLsb' 4 6))
  | 4#3 => fieldsOk (x.extractLsb' 0 1 == 0#1 && x.extractLsb' 19 3 == 0#3) (.vfcmpNe (x.extractLsb' 16 3) (x.extractLsb' 10 6) (x.extractLsb' 4 6))
  | _ => .error .function

/-- Opcode 0x25: VFREDADD, VFREDMAX. -/
def decodeOp25 (x : BitVec 22) : Except Reject Instr :=
  match x.extractLsb' 0 1 with
  | 0#1 => fieldsOk (x.extractLsb' 4 6 == 0#6) (.vfredadd (x.extractLsb' 16 6) (x.extractLsb' 10 6) (x.extractLsb' 1 3))
  | _ => fieldsOk (x.extractLsb' 1 9 == 0#9) (.vfredmax (x.extractLsb' 16 6) (x.extractLsb' 10 6))

/-- Opcode 0x26: VFSCANADD, VFSCANMAX. -/
def decodeOp26 (x : BitVec 22) : Except Reject Instr :=
  match x.extractLsb' 0 1 with
  | 0#1 => fieldsOk (x.extractLsb' 4 6 == 0#6) (.vfscanadd (x.extractLsb' 16 6) (x.extractLsb' 10 6) (x.extractLsb' 1 3))
  | _ => fieldsOk (x.extractLsb' 1 9 == 0#9) (.vfscanmax (x.extractLsb' 16 6) (x.extractLsb' 10 6))

/-- Opcode 0x27: VSFU_RCP, VSFU_RSQ, VSFU_SQRT, VSFU_EX2, VSFU_LG2, VSFU_SIN, VSFU_COS, VSFU_TANH, VSFU_SIGM. -/
def decodeOp27 (x : BitVec 22) : Except Reject Instr :=
  match x.extractLsb' 4 6 with
  | 0#6 => fieldsOk (x.extractLsb' 0 1 == 0#1) (.vsfuRcp (x.extractLsb' 16 6) (x.extractLsb' 10 6) (x.extractLsb' 1 3))
  | 1#6 => fieldsOk (x.extractLsb' 0 1 == 0#1) (.vsfuRsq (x.extractLsb' 16 6) (x.extractLsb' 10 6) (x.extractLsb' 1 3))
  | 2#6 => fieldsOk (x.extractLsb' 0 1 == 0#1) (.vsfuSqrt (x.extractLsb' 16 6) (x.extractLsb' 10 6) (x.extractLsb' 1 3))
  | 3#6 => fieldsOk (x.extractLsb' 0 1 == 0#1) (.vsfuEx2 (x.extractLsb' 16 6) (x.extractLsb' 10 6) (x.extractLsb' 1 3))
  | 4#6 => fieldsOk (x.extractLsb' 0 1 == 0#1) (.vsfuLg2 (x.extractLsb' 16 6) (x.extractLsb' 10 6) (x.extractLsb' 1 3))
  | 5#6 => fieldsOk (x.extractLsb' 0 1 == 0#1) (.vsfuSin (x.extractLsb' 16 6) (x.extractLsb' 10 6) (x.extractLsb' 1 3))
  | 6#6 => fieldsOk (x.extractLsb' 0 1 == 0#1) (.vsfuCos (x.extractLsb' 16 6) (x.extractLsb' 10 6) (x.extractLsb' 1 3))
  | 7#6 => fieldsOk (x.extractLsb' 0 1 == 0#1) (.vsfuTanh (x.extractLsb' 16 6) (x.extractLsb' 10 6) (x.extractLsb' 1 3))
  | 8#6 => fieldsOk (x.extractLsb' 0 1 == 0#1) (.vsfuSigm (x.extractLsb' 16 6) (x.extractLsb' 10 6) (x.extractLsb' 1 3))
  | _ => .error .function

/-- Opcode 0x28: VFABS, VFCLS. -/
def decodeOp28 (x : BitVec 22) : Except Reject Instr :=
  match x.extractLsb' 0 1 with
  | 0#1 => fieldsOk (x.extractLsb' 1 9 == 0#9) (.vfabs (x.extractLsb' 16 6) (x.extractLsb' 10 6))
  | _ => fieldsOk (x.extractLsb' 1 9 == 0#9) (.vfcls (x.extractLsb' 16 6) (x.extractLsb' 10 6))

/-- Opcode 0x29: VCVT. -/
def decodeOp29 (x : BitVec 22) : Except Reject Instr :=
  fieldsOk (x.extractLsb' 0 1 == 0#1) (.vcvt (x.extractLsb' 16 6) (x.extractLsb' 10 6) (x.extractLsb' 7 3) (x.extractLsb' 4 3) (x.extractLsb' 1 3))

/-- Opcode 0x2A: VQNT. -/
def decodeOp2A (x : BitVec 22) : Except Reject Instr :=
  fieldsOk (x.extractLsb' 0 1 == 0#1) (.vqnt (x.extractLsb' 16 6) (x.extractLsb' 10 6) (x.extractLsb' 4 6) (x.extractLsb' 1 3))

/-- Opcode 0x2B: VDQNT. -/
def decodeOp2B (x : BitVec 22) : Except Reject Instr :=
  fieldsOk (x.extractLsb' 0 1 == 0#1) (.vdqnt (x.extractLsb' 16 6) (x.extractLsb' 10 6) (x.extractLsb' 4 6) (x.extractLsb' 1 3))

/-- Opcode 0x2C: VLQENC, VLQDEC, VLQINS, VLQERR. -/
def decodeOp2C (x : BitVec 22) : Except Reject Instr :=
  match x.extractLsb' 0 2 with
  | 0#2 => .ok (.vlqenc (x.extractLsb' 16 6) (x.extractLsb' 10 6) (x.extractLsb' 4 6) (x.extractLsb' 3 1) (x.extractLsb' 2 1))
  | 1#2 => .ok (.vlqdec (x.extractLsb' 16 6) (x.extractLsb' 10 6) (x.extractLsb' 4 6) (x.extractLsb' 3 1) (x.extractLsb' 2 1))
  | 2#2 => .ok (.vlqins (x.extractLsb' 16 6) (x.extractLsb' 10 6) (x.extractLsb' 4 6) (x.extractLsb' 3 1) (x.extractLsb' 2 1))
  | _ => .ok (.vlqerr (x.extractLsb' 16 6) (x.extractLsb' 10 6) (x.extractLsb' 4 6) (x.extractLsb' 3 1) (x.extractLsb' 2 1))

/-- Opcode 0x2D: COLL, CBULK, COMPACT, QPUSH, QSTAT, EPOLL, ECANCEL. -/
def decodeOp2D (x : BitVec 22) : Except Reject Instr :=
  match x.extractLsb' 18 4 with
  | 0#4 => fieldsOk (x.extractLsb' 0 1 == 0#1) (.coll (x.extractLsb' 12 6) (x.extractLsb' 6 6) (x.extractLsb' 5 1) (x.extractLsb' 4 1) (x.extractLsb' 2 2) (x.extractLsb' 1 1))
  | 1#4 => fieldsOk (x.extractLsb' 0 1 == 0#1) (.cbulk (x.extractLsb' 12 6) (x.extractLsb' 6 6) (x.extractLsb' 5 1) (x.extractLsb' 4 1) (x.extractLsb' 2 2) (x.extractLsb' 1 1))
  | 2#4 => fieldsOk (x.extractLsb' 0 1 == 0#1) (.compact (x.extractLsb' 12 6) (x.extractLsb' 6 6) (x.extractLsb' 5 1) (x.extractLsb' 4 1) (x.extractLsb' 2 2) (x.extractLsb' 1 1))
  | 3#4 => fieldsOk (x.extractLsb' 0 6 == 0#6) (.qpush (x.extractLsb' 12 6) (x.extractLsb' 6 6))
  | 4#4 => fieldsOk (x.extractLsb' 0 6 == 0#6 && x.extractLsb' 12 6 == 0#6) (.qstat (x.extractLsb' 6 6))
  | 5#4 => fieldsOk (x.extractLsb' 0 6 == 0#6) (.epoll (x.extractLsb' 12 6) (x.extractLsb' 6 6))
  | 6#4 => fieldsOk (x.extractLsb' 0 6 == 0#6) (.ecancel (x.extractLsb' 12 6) (x.extractLsb' 6 6))
  | _ => .error .function

/-- Opcode 0x2E: CAPENT, CAPEXIT, KLD, KST, KAMO, KMOVS, KMOVK, CAPSTAT. -/
def decodeOp2E (x : BitVec 22) : Except Reject Instr :=
  match x.extractLsb' 0 4 with
  | 0#4 => fieldsOk (x.extractLsb' 4 6 == 0#6 && x.extractLsb' 16 6 == 0#6) (.capent (x.extractLsb' 10 6))
  | 1#4 => fieldsOk (x.extractLsb' 4 18 == 0#18) .capexit
  | 2#4 => fieldsOk (x.extractLsb' 6 4 == 0#4 && x.extractLsb' 13 3 == 0#3 && x.extractLsb' 19 3 == 0#3) (.kld (x.extractLsb' 16 3) (x.extractLsb' 10 3) (x.extractLsb' 4 2))
  | 3#4 => fieldsOk (x.extractLsb' 6 4 == 0#4 && x.extractLsb' 13 3 == 0#3 && x.extractLsb' 19 3 == 0#3) (.kst (x.extractLsb' 16 3) (x.extractLsb' 10 3) (x.extractLsb' 4 2))
  | 4#4 => fieldsOk (x.extractLsb' 9 1 == 0#1 && x.extractLsb' 13 3 == 0#3 && x.extractLsb' 19 3 == 0#3) (.kamo (x.extractLsb' 16 3) (x.extractLsb' 10 3) (x.extractLsb' 8 1) (x.extractLsb' 4 4))
  | 5#4 => fieldsOk (x.extractLsb' 4 6 == 0#6 && x.extractLsb' 13 3 == 0#3) (.kmovs (x.extractLsb' 16 6) (x.extractLsb' 10 3))
  | 6#4 => fieldsOk (x.extractLsb' 4 6 == 0#6 && x.extractLsb' 19 3 == 0#3) (.kmovk (x.extractLsb' 16 3) (x.extractLsb' 10 6))
  | 7#4 => fieldsOk (x.extractLsb' 4 12 == 0#12) (.capstat (x.extractLsb' 16 6))
  | _ => .error .function

/-- Opcode 0x30: SLD. -/
def decodeOp30 (x : BitVec 22) : Except Reject Instr :=
  .ok (.sld (x.extractLsb' 16 6) (x.extractLsb' 10 6) (x.extractLsb' 4 6) (x.extractLsb' 2 2) (x.extractLsb' 0 2))

/-- Opcode 0x31: SST. -/
def decodeOp31 (x : BitVec 22) : Except Reject Instr :=
  .ok (.sst (x.extractLsb' 16 6) (x.extractLsb' 10 6) (x.extractLsb' 4 6) (x.extractLsb' 2 2) (x.extractLsb' 0 2))

/-- Opcode 0x32: VLD. -/
def decodeOp32 (x : BitVec 22) : Except Reject Instr :=
  .ok (.vld (x.extractLsb' 16 6) (x.extractLsb' 10 6) (x.extractLsb' 4 6) (x.extractLsb' 2 2) (x.extractLsb' 0 2))

/-- Opcode 0x33: VST. -/
def decodeOp33 (x : BitVec 22) : Except Reject Instr :=
  .ok (.vst (x.extractLsb' 16 6) (x.extractLsb' 10 6) (x.extractLsb' 4 6) (x.extractLsb' 2 2) (x.extractLsb' 0 2))

/-- Opcode 0x34: VLDG. -/
def decodeOp34 (x : BitVec 22) : Except Reject Instr :=
  .ok (.vldg (x.extractLsb' 16 6) (x.extractLsb' 10 6) (x.extractLsb' 4 6) (x.extractLsb' 2 2) (x.extractLsb' 0 2))

/-- Opcode 0x35: VSTS. -/
def decodeOp35 (x : BitVec 22) : Except Reject Instr :=
  .ok (.vsts (x.extractLsb' 16 6) (x.extractLsb' 10 6) (x.extractLsb' 4 6) (x.extractLsb' 2 2) (x.extractLsb' 0 2))

/-- Opcode 0x36: BLD. -/
def decodeOp36 (x : BitVec 22) : Except Reject Instr :=
  .ok (.bld (x.extractLsb' 16 6) (x.extractLsb' 10 6) (x.extractLsb' 4 6) (x.extractLsb' 2 2) (x.extractLsb' 0 2))

/-- Opcode 0x37: BST. -/
def decodeOp37 (x : BitVec 22) : Except Reject Instr :=
  .ok (.bst (x.extractLsb' 16 6) (x.extractLsb' 10 6) (x.extractLsb' 4 6) (x.extractLsb' 2 2) (x.extractLsb' 0 2))

/-- Opcode 0x38: BLDG. -/
def decodeOp38 (x : BitVec 22) : Except Reject Instr :=
  .ok (.bldg (x.extractLsb' 16 6) (x.extractLsb' 10 6) (x.extractLsb' 4 6) (x.extractLsb' 2 2) (x.extractLsb' 0 2))

/-- Opcode 0x39: BSTS. -/
def decodeOp39 (x : BitVec 22) : Except Reject Instr :=
  .ok (.bsts (x.extractLsb' 16 6) (x.extractLsb' 10 6) (x.extractLsb' 4 6) (x.extractLsb' 2 2) (x.extractLsb' 0 2))

/-- Opcode 0x3A: AMO_ADD, AMO_AND, AMO_OR, AMO_XOR, AMO_MIN, AMO_MAX, AMO_MINU, AMO_MAXU, AMO_XCHG, AMO_CAS, AMO_FADD32, AMO_FADD16X2, AMO_FMIN32, AMO_FMAX32. -/
def decodeOp3A (x : BitVec 22) : Except Reject Instr :=
  match x.extractLsb' 6 4 with
  | 0#4 => .ok (.amoAdd (x.extractLsb' 16 6) (x.extractLsb' 10 6) (x.extractLsb' 4 2) (x.extractLsb' 2 2) (x.extractLsb' 0 2))
  | 1#4 => .ok (.amoAnd (x.extractLsb' 16 6) (x.extractLsb' 10 6) (x.extractLsb' 4 2) (x.extractLsb' 2 2) (x.extractLsb' 0 2))
  | 2#4 => .ok (.amoOr (x.extractLsb' 16 6) (x.extractLsb' 10 6) (x.extractLsb' 4 2) (x.extractLsb' 2 2) (x.extractLsb' 0 2))
  | 3#4 => .ok (.amoXor (x.extractLsb' 16 6) (x.extractLsb' 10 6) (x.extractLsb' 4 2) (x.extractLsb' 2 2) (x.extractLsb' 0 2))
  | 4#4 => .ok (.amoMin (x.extractLsb' 16 6) (x.extractLsb' 10 6) (x.extractLsb' 4 2) (x.extractLsb' 2 2) (x.extractLsb' 0 2))
  | 5#4 => .ok (.amoMax (x.extractLsb' 16 6) (x.extractLsb' 10 6) (x.extractLsb' 4 2) (x.extractLsb' 2 2) (x.extractLsb' 0 2))
  | 6#4 => .ok (.amoMinu (x.extractLsb' 16 6) (x.extractLsb' 10 6) (x.extractLsb' 4 2) (x.extractLsb' 2 2) (x.extractLsb' 0 2))
  | 7#4 => .ok (.amoMaxu (x.extractLsb' 16 6) (x.extractLsb' 10 6) (x.extractLsb' 4 2) (x.extractLsb' 2 2) (x.extractLsb' 0 2))
  | 8#4 => .ok (.amoXchg (x.extractLsb' 16 6) (x.extractLsb' 10 6) (x.extractLsb' 4 2) (x.extractLsb' 2 2) (x.extractLsb' 0 2))
  | 9#4 => .ok (.amoCas (x.extractLsb' 16 6) (x.extractLsb' 10 6) (x.extractLsb' 4 2) (x.extractLsb' 2 2) (x.extractLsb' 0 2))
  | 10#4 => fieldsOk (x.extractLsb' 2 2 == 2#2) (.amoFadd32 (x.extractLsb' 16 6) (x.extractLsb' 10 6) (x.extractLsb' 4 2) (x.extractLsb' 0 2))
  | 11#4 => fieldsOk (x.extractLsb' 2 2 == 2#2) (.amoFadd16x2 (x.extractLsb' 16 6) (x.extractLsb' 10 6) (x.extractLsb' 4 2) (x.extractLsb' 0 2))
  | 12#4 => fieldsOk (x.extractLsb' 2 2 == 2#2) (.amoFmin32 (x.extractLsb' 16 6) (x.extractLsb' 10 6) (x.extractLsb' 4 2) (x.extractLsb' 0 2))
  | 13#4 => fieldsOk (x.extractLsb' 2 2 == 2#2) (.amoFmax32 (x.extractLsb' 16 6) (x.extractLsb' 10 6) (x.extractLsb' 4 2) (x.extractLsb' 0 2))
  | _ => .error .function

/-- Opcode 0x3B: VAMO_ADD, VAMO_AND, VAMO_OR, VAMO_XOR, VAMO_MIN, VAMO_MAX, VAMO_MINU, VAMO_MAXU, VAMO_XCHG, VAMO_CAS, VAMO_FADD32, VAMO_FADD16X2, VAMO_FMIN32, VAMO_FMAX32. -/
def decodeOp3B (x : BitVec 22) : Except Reject Instr :=
  match x.extractLsb' 6 4 with
  | 0#4 => .ok (.vamoAdd (x.extractLsb' 16 6) (x.extractLsb' 10 6) (x.extractLsb' 4 2) (x.extractLsb' 2 2) (x.extractLsb' 0 2))
  | 1#4 => .ok (.vamoAnd (x.extractLsb' 16 6) (x.extractLsb' 10 6) (x.extractLsb' 4 2) (x.extractLsb' 2 2) (x.extractLsb' 0 2))
  | 2#4 => .ok (.vamoOr (x.extractLsb' 16 6) (x.extractLsb' 10 6) (x.extractLsb' 4 2) (x.extractLsb' 2 2) (x.extractLsb' 0 2))
  | 3#4 => .ok (.vamoXor (x.extractLsb' 16 6) (x.extractLsb' 10 6) (x.extractLsb' 4 2) (x.extractLsb' 2 2) (x.extractLsb' 0 2))
  | 4#4 => .ok (.vamoMin (x.extractLsb' 16 6) (x.extractLsb' 10 6) (x.extractLsb' 4 2) (x.extractLsb' 2 2) (x.extractLsb' 0 2))
  | 5#4 => .ok (.vamoMax (x.extractLsb' 16 6) (x.extractLsb' 10 6) (x.extractLsb' 4 2) (x.extractLsb' 2 2) (x.extractLsb' 0 2))
  | 6#4 => .ok (.vamoMinu (x.extractLsb' 16 6) (x.extractLsb' 10 6) (x.extractLsb' 4 2) (x.extractLsb' 2 2) (x.extractLsb' 0 2))
  | 7#4 => .ok (.vamoMaxu (x.extractLsb' 16 6) (x.extractLsb' 10 6) (x.extractLsb' 4 2) (x.extractLsb' 2 2) (x.extractLsb' 0 2))
  | 8#4 => .ok (.vamoXchg (x.extractLsb' 16 6) (x.extractLsb' 10 6) (x.extractLsb' 4 2) (x.extractLsb' 2 2) (x.extractLsb' 0 2))
  | 9#4 => .ok (.vamoCas (x.extractLsb' 16 6) (x.extractLsb' 10 6) (x.extractLsb' 4 2) (x.extractLsb' 2 2) (x.extractLsb' 0 2))
  | 10#4 => fieldsOk (x.extractLsb' 2 2 == 2#2) (.vamoFadd32 (x.extractLsb' 16 6) (x.extractLsb' 10 6) (x.extractLsb' 4 2) (x.extractLsb' 0 2))
  | 11#4 => fieldsOk (x.extractLsb' 2 2 == 2#2) (.vamoFadd16x2 (x.extractLsb' 16 6) (x.extractLsb' 10 6) (x.extractLsb' 4 2) (x.extractLsb' 0 2))
  | 12#4 => fieldsOk (x.extractLsb' 2 2 == 2#2) (.vamoFmin32 (x.extractLsb' 16 6) (x.extractLsb' 10 6) (x.extractLsb' 4 2) (x.extractLsb' 0 2))
  | 13#4 => fieldsOk (x.extractLsb' 2 2 == 2#2) (.vamoFmax32 (x.extractLsb' 16 6) (x.extractLsb' 10 6) (x.extractLsb' 4 2) (x.extractLsb' 0 2))
  | _ => .error .function

/-- Opcode 0x3C: FENCE, BAR, TBAR, ARRIVE, AWAIT, AINIT, FENCE_CODE, IFLUSH, TSREAD, FESET, FETEST. -/
def decodeOp3C (x : BitVec 22) : Except Reject Instr :=
  match x.extractLsb' 0 4 with
  | 0#4 => fieldsOk (x.extractLsb' 4 12 == 0#12 && x.extractLsb' 19 3 == 0#3) (.fence (x.extractLsb' 18 1) (x.extractLsb' 16 2))
  | 1#4 => fieldsOk (x.extractLsb' 4 18 == 0#18) .bar
  | 2#4 => fieldsOk (x.extractLsb' 4 18 == 0#18) .tbar
  | 3#4 => fieldsOk (x.extractLsb' 16 6 == 0#6) (.arrive (x.extractLsb' 10 6) (x.extractLsb' 4 6))
  | 4#4 => fieldsOk (x.extractLsb' 16 6 == 0#6) (.await (x.extractLsb' 10 6) (x.extractLsb' 4 6))
  | 5#4 => fieldsOk (x.extractLsb' 16 6 == 0#6) (.ainit (x.extractLsb' 10 6) (x.extractLsb' 4 6))
  | 6#4 => fieldsOk (x.extractLsb' 4 12 == 0#12 && x.extractLsb' 18 4 == 0#4) (.fenceCode (x.extractLsb' 16 2))
  | 7#4 => fieldsOk (x.extractLsb' 4 18 == 0#18) .iflush
  | 8#4 => fieldsOk (x.extractLsb' 4 12 == 0#12) (.tsread (x.extractLsb' 16 6))
  | 9#4 => fieldsOk (x.extractLsb' 17 5 == 0#5) (.feset (x.extractLsb' 16 1) (x.extractLsb' 10 6) (x.extractLsb' 4 6))
  | 10#4 => fieldsOk (x.extractLsb' 4 6 == 0#6) (.fetest (x.extractLsb' 16 6) (x.extractLsb' 10 6))
  | _ => .error .function

/-- Opcode 0x3D: TCOPY, TCOPYM, MXLDB, MXOP, MXFENCE, MXWAIT, MXACQ, MXREL, BFORM, BJOIN, BBRK, MSMA, MSMF, MSMRD, PLNGO, PLNSTOP. -/
def decodeOp3D (x : BitVec 22) : Except Reject Instr :=
  match x.extractLsb' 18 4 with
  | 0#4 => fieldsOk (x.extractLsb' 0 1 == 0#1) (.tcopy (x.extractLsb' 12 6) (x.extractLsb' 6 6) (x.extractLsb' 5 1) (x.extractLsb' 4 1) (x.extractLsb' 2 2) (x.extractLsb' 1 1))
  | 1#4 => fieldsOk (x.extractLsb' 0 1 == 0#1) (.tcopym (x.extractLsb' 12 6) (x.extractLsb' 6 6) (x.extractLsb' 5 1) (x.extractLsb' 4 1) (x.extractLsb' 2 2) (x.extractLsb' 1 1))
  | 2#4 => fieldsOk (x.extractLsb' 0 1 == 0#1 && x.extractLsb' 4 1 == 0#1) (.mxldb (x.extractLsb' 12 6) (x.extractLsb' 6 6) (x.extractLsb' 5 1) (x.extractLsb' 2 2) (x.extractLsb' 1 1))
  | 3#4 => fieldsOk (x.extractLsb' 0 1 == 0#1 && x.extractLsb' 4 1 == 0#1) (.mxop (x.extractLsb' 12 6) (x.extractLsb' 6 6) (x.extractLsb' 5 1) (x.extractLsb' 2 2) (x.extractLsb' 1 1))
  | 4#4 => fieldsOk (x.extractLsb' 0 6 == 0#6 && x.extractLsb' 12 6 == 0#6) (.mxfence (x.extractLsb' 6 6))
  | 5#4 => fieldsOk (x.extractLsb' 0 12 == 0#12) (.mxwait (x.extractLsb' 12 6))
  | 6#4 => fieldsOk (x.extractLsb' 0 18 == 0#18) .mxacq
  | 7#4 => fieldsOk (x.extractLsb' 0 18 == 0#18) .mxrel
  | 8#4 => fieldsOk (x.extractLsb' 0 12 == 0#12) (.bform (x.extractLsb' 12 6))
  | 9#4 => fieldsOk (x.extractLsb' 0 12 == 0#12) (.bjoin (x.extractLsb' 12 6))
  | 10#4 => fieldsOk (x.extractLsb' 0 18 == 0#18) .bbrk
  | 11#4 => fieldsOk (x.extractLsb' 0 12 == 0#12) (.msma (x.extractLsb' 12 6))
  | 12#4 => fieldsOk (x.extractLsb' 0 18 == 0#18) .msmf
  | 13#4 => fieldsOk (x.extractLsb' 0 1 == 0#1 && x.extractLsb' 5 1 == 0#1) (.msmrd (x.extractLsb' 12 6) (x.extractLsb' 6 6) (x.extractLsb' 4 1) (x.extractLsb' 2 2) (x.extractLsb' 1 1))
  | 14#4 => fieldsOk (x.extractLsb' 0 6 == 0#6) (.plngo (x.extractLsb' 12 6) (x.extractLsb' 6 6))
  | _ => fieldsOk (x.extractLsb' 0 18 == 0#18) .plnstop

/-- Opcode 0x3E: TRAP, TRET, LAUNCH, LWAIT, EXIT, JIGHINT, BRKPT. -/
def decodeOp3E (x : BitVec 22) : Except Reject Instr :=
  match x.extractLsb' 0 4 with
  | 0#4 => .ok (.trap (x.extractLsb' 4 18))
  | 1#4 => fieldsOk (x.extractLsb' 4 18 == 0#18) .tret
  | 2#4 => fieldsOk (x.extractLsb' 4 6 == 0#6) (.launch (x.extractLsb' 16 6) (x.extractLsb' 10 6))
  | 3#4 => fieldsOk (x.extractLsb' 4 6 == 0#6 && x.extractLsb' 16 6 == 0#6) (.lwait (x.extractLsb' 10 6))
  | 4#4 => fieldsOk (x.extractLsb' 4 18 == 0#18) .exit
  | 5#4 => fieldsOk (x.extractLsb' 18 4 == 0#4) (.jighint (x.extractLsb' 16 2) (x.extractLsb' 10 6) (x.extractLsb' 4 6))
  | 6#4 => .ok (.brkpt (x.extractLsb' 4 18))
  | _ => .error .function

/-- Opcode 0x3F: NOP. -/
def decodeOp3F (x : BitVec 22) : Except Reject Instr :=
  fieldsOk (x.extractLsb' 0 22 == 0#22) .nop

/-- The instruction of an opcode and its operand bits (R109), reserved values not yet refused. -/
def decodeShape (op : BitVec 6) (x : BitVec 22) : Except Reject Instr :=
  match op with
  | 0x01#6 => decodeOp01 x
  | 0x02#6 => decodeOp02 x
  | 0x03#6 => decodeOp03 x
  | 0x04#6 => decodeOp04 x
  | 0x05#6 => decodeOp05 x
  | 0x06#6 => decodeOp06 x
  | 0x07#6 => decodeOp07 x
  | 0x08#6 => decodeOp08 x
  | 0x09#6 => decodeOp09 x
  | 0x0A#6 => decodeOp0A x
  | 0x0B#6 => decodeOp0B x
  | 0x0C#6 => decodeOp0C x
  | 0x0D#6 => decodeOp0D x
  | 0x0E#6 => decodeOp0E x
  | 0x0F#6 => decodeOp0F x
  | 0x10#6 => decodeOp10 x
  | 0x11#6 => decodeOp11 x
  | 0x12#6 => decodeOp12 x
  | 0x13#6 => decodeOp13 x
  | 0x14#6 => decodeOp14 x
  | 0x15#6 => decodeOp15 x
  | 0x16#6 => decodeOp16 x
  | 0x17#6 => decodeOp17 x
  | 0x18#6 => decodeOp18 x
  | 0x19#6 => decodeOp19 x
  | 0x1A#6 => decodeOp1A x
  | 0x1B#6 => decodeOp1B x
  | 0x1C#6 => decodeOp1C x
  | 0x1D#6 => decodeOp1D x
  | 0x20#6 => decodeOp20 x
  | 0x21#6 => decodeOp21 x
  | 0x22#6 => decodeOp22 x
  | 0x23#6 => decodeOp23 x
  | 0x24#6 => decodeOp24 x
  | 0x25#6 => decodeOp25 x
  | 0x26#6 => decodeOp26 x
  | 0x27#6 => decodeOp27 x
  | 0x28#6 => decodeOp28 x
  | 0x29#6 => decodeOp29 x
  | 0x2A#6 => decodeOp2A x
  | 0x2B#6 => decodeOp2B x
  | 0x2C#6 => decodeOp2C x
  | 0x2D#6 => decodeOp2D x
  | 0x2E#6 => decodeOp2E x
  | 0x30#6 => decodeOp30 x
  | 0x31#6 => decodeOp31 x
  | 0x32#6 => decodeOp32 x
  | 0x33#6 => decodeOp33 x
  | 0x34#6 => decodeOp34 x
  | 0x35#6 => decodeOp35 x
  | 0x36#6 => decodeOp36 x
  | 0x37#6 => decodeOp37 x
  | 0x38#6 => decodeOp38 x
  | 0x39#6 => decodeOp39 x
  | 0x3A#6 => decodeOp3A x
  | 0x3B#6 => decodeOp3B x
  | 0x3C#6 => decodeOp3C x
  | 0x3D#6 => decodeOp3D x
  | 0x3E#6 => decodeOp3E x
  | 0x3F#6 => decodeOp3F x
  | _ => .error .opcode

/-- The instruction of an opcode and its operand bits: reserved values refused (R92). -/
def decodeBody (op : BitVec 6) (x : BitVec 22) : Except Reject Instr :=
  match decodeShape op x with
  | .ok i => if i.wf then .ok i else .error .value
  | .error e => .error e

/-- Reads one instruction word (R89). -/
def decode (w : Word) : Except Reject Decoded :=
  match decodeBody (w.extractLsb' 22 6) (w.extractLsb' 0 22) with
  | .ok i => .ok ⟨w.getLsbD 31, w.extractLsb' 28 3, i⟩
  | .error e => .error e

/-- The opcode of a word, which ILLEGAL_OP reports (R352). -/
def opcodeOf (w : Word) : BitVec 6 := w.extractLsb' 22 6

/-- The word of four bytes, the first at the lowest address (R89). -/
def wordOfBytes (b0 b1 b2 b3 : Byte) : Word := b3 ++ b2 ++ b1 ++ b0

/-- The four bytes of a word, lowest address first (R89). -/
def bytesOfWord (w : Word) : List Byte :=
  [w.extractLsb' 0 8, w.extractLsb' 8 8, w.extractLsb' 16 8, w.extractLsb' 24 8]

/-- Reads the instruction at the head of a list of bytes and gives the bytes after it. -/
def decodeBytes : List Byte → Except Reject (Decoded × List Byte)
  | b0 :: b1 :: b2 :: b3 :: rest =>
    match decode (wordOfBytes b0 b1 b2 b3) with
    | .ok i => .ok (i, rest)
    | .error e => .error e
  | _ => .error .opcode

/-- The instruction that the decoder reads from bits w numbered as spec/opcode_table.json numbers them. Every row has 32 bits. -/
def decodeTableWord (nbits w : Nat) : Option Instr :=
  if nbits ≤ 32 then
    match decodeBytes (bytesOfWord (BitVec.ofNat 32 (w % 2 ^ nbits))) with
    | .ok (i, _) => some i.instr
    | .error _ => none
  else none

/-- Bits 27:0 of an instruction's word (R105, R109); an event has none. -/
def encode : Instr → Option (BitVec 28)
  | .sadd d a b => some (0x01#6 ++ d ++ a ++ b ++ 0#4)
  | .ssub d a b => some (0x01#6 ++ d ++ a ++ b ++ 1#4)
  | .smul d a b => some (0x01#6 ++ d ++ a ++ b ++ 2#4)
  | .smulh d a b => some (0x01#6 ++ d ++ a ++ b ++ 3#4)
  | .smulhu d a b => some (0x01#6 ++ d ++ a ++ b ++ 4#4)
  | .sand d a b => some (0x01#6 ++ d ++ a ++ b ++ 5#4)
  | .sor d a b => some (0x01#6 ++ d ++ a ++ b ++ 6#4)
  | .sxor d a b => some (0x01#6 ++ d ++ a ++ b ++ 7#4)
  | .sshl d a b => some (0x01#6 ++ d ++ a ++ b ++ 8#4)
  | .sshr d a b => some (0x01#6 ++ d ++ a ++ b ++ 9#4)
  | .ssra d a b => some (0x01#6 ++ d ++ a ++ b ++ 10#4)
  | .smin d a b => some (0x01#6 ++ d ++ a ++ b ++ 11#4)
  | .smax d a b => some (0x01#6 ++ d ++ a ++ b ++ 12#4)
  | .sminu d a b => some (0x01#6 ++ d ++ a ++ b ++ 13#4)
  | .smaxu d a b => some (0x01#6 ++ d ++ a ++ b ++ 14#4)
  | .sslt d a b => some (0x01#6 ++ d ++ a ++ b ++ 15#4)
  | .ssltu d a b => some (0x02#6 ++ d ++ a ++ b ++ 0#4)
  | .sdiv d a b => some (0x02#6 ++ d ++ a ++ b ++ 1#4)
  | .sdivu d a b => some (0x02#6 ++ d ++ a ++ b ++ 2#4)
  | .srem d a b => some (0x02#6 ++ d ++ a ++ b ++ 3#4)
  | .sremu d a b => some (0x02#6 ++ d ++ a ++ b ++ 4#4)
  | .sclz d a => some (0x02#6 ++ d ++ a ++ 5#10)
  | .spopc d a => some (0x02#6 ++ d ++ a ++ 6#10)
  | .sbrev d a => some (0x02#6 ++ d ++ a ++ 7#10)
  | .ssext d a wc => some (0x02#6 ++ d ++ a ++ wc ++ 8#4)
  | .szext d a wc => some (0x02#6 ++ d ++ a ++ wc ++ 9#4)
  | .saddi d a imm => some (0x03#6 ++ d ++ a ++ imm)
  | .sandi d a imm => some (0x04#6 ++ d ++ a ++ imm)
  | .sori d a imm => some (0x05#6 ++ d ++ a ++ imm)
  | .sxori d a imm => some (0x06#6 ++ d ++ a ++ imm)
  | .sshiShl d a amt => some (0x07#6 ++ d ++ a ++ 0#4 ++ amt)
  | .sshiShr d a amt => some (0x07#6 ++ d ++ a ++ 4#4 ++ amt)
  | .sshiSra d a amt => some (0x07#6 ++ d ++ a ++ 8#4 ++ amt)
  | .sshiRor d a amt => some (0x07#6 ++ d ++ a ++ 12#4 ++ amt)
  | .smovk d imm => some (0x08#6 ++ d ++ imm)
  | .smovks d imm => some (0x09#6 ++ d ++ imm)
  | .brcEqz a off => some (0x0A#6 ++ 0#4 ++ a ++ off)
  | .brcNez a off => some (0x0A#6 ++ 1#4 ++ a ++ off)
  | .brcLtz a off => some (0x0A#6 ++ 2#4 ++ a ++ off)
  | .brcGez a off => some (0x0A#6 ++ 3#4 ++ a ++ off)
  | .brcAny m off => some (0x0A#6 ++ 32#7 ++ m ++ off)
  | .brcAll m off => some (0x0A#6 ++ 40#7 ++ m ++ off)
  | .brcNone m off => some (0x0A#6 ++ 48#7 ++ m ++ off)
  | .brcSplit m off => some (0x0A#6 ++ 56#7 ++ m ++ off)
  | .jmp off => some (0x0B#6 ++ off)
  | .call off => some (0x0C#6 ++ off)
  | .jmpr a => some (0x0D#6 ++ 0#6 ++ a ++ 0#10)
  | .callr a => some (0x0D#6 ++ 0#6 ++ a ++ 1#10)
  | .ret a => some (0x0D#6 ++ 0#6 ++ a ++ 2#10)
  | .mand d a b => some (0x0E#6 ++ 0#3 ++ d ++ 0#3 ++ a ++ 0#3 ++ b ++ 0#4)
  | .mor d a b => some (0x0E#6 ++ 0#3 ++ d ++ 0#3 ++ a ++ 0#3 ++ b ++ 1#4)
  | .mxor d a b => some (0x0E#6 ++ 0#3 ++ d ++ 0#3 ++ a ++ 0#3 ++ b ++ 2#4)
  | .mandn d a b => some (0x0E#6 ++ 0#3 ++ d ++ 0#3 ++ a ++ 0#3 ++ b ++ 3#4)
  | .mnot d a => some (0x0E#6 ++ 0#3 ++ d ++ 0#3 ++ a ++ 4#10)
  | .mpopc d a => some (0x0E#6 ++ d ++ 0#3 ++ a ++ 5#10)
  | .mffs d a => some (0x0E#6 ++ d ++ 0#3 ++ a ++ 6#10)
  | .mtos d a => some (0x0E#6 ++ d ++ 0#3 ++ a ++ 7#10)
  | .stom d a => some (0x0E#6 ++ 0#3 ++ d ++ a ++ 8#10)
  | .mact d => some (0x0E#6 ++ 0#3 ++ d ++ 9#16)
  | .regang => some (0x0F#6 ++ 0#22)
  | .setfmt a => some (0x0F#6 ++ 0#6 ++ a ++ 1#10)
  | .getfmt d => some (0x0F#6 ++ d ++ 2#16)
  | .setrm mode => some (0x0F#6 ++ 0#15 ++ mode ++ 3#4)
  | .yield => some (0x0F#6 ++ 4#22)
  | .getcr d num => some (0x0F#6 ++ d ++ num ++ 5#4)
  | .setcr d num => some (0x0F#6 ++ d ++ num ++ 6#4)
  | .sqmap a => some (0x0F#6 ++ 0#6 ++ a ++ 7#10)
  | .fragid d => some (0x0F#6 ++ d ++ 8#16)
  | .waitc lc sc ec => some (0x10#6 ++ lc ++ sc ++ 0#4 ++ ec)
  | .vadd d a b ha hb => some (0x11#6 ++ d ++ a ++ b ++ ha ++ hb ++ 0#2)
  | .vsub d a b ha hb => some (0x11#6 ++ d ++ a ++ b ++ ha ++ hb ++ 1#2)
  | .vadds d a b ha hb => some (0x11#6 ++ d ++ a ++ b ++ ha ++ hb ++ 2#2)
  | .vsubs d a b ha hb => some (0x11#6 ++ d ++ a ++ b ++ ha ++ hb ++ 3#2)
  | .vmul d a b ha hb => some (0x12#6 ++ d ++ a ++ b ++ ha ++ hb ++ 0#2)
  | .vmulh d a b ha hb => some (0x12#6 ++ d ++ a ++ b ++ ha ++ hb ++ 1#2)
  | .vmulhu d a b ha hb => some (0x12#6 ++ d ++ a ++ b ++ ha ++ hb ++ 2#2)
  | .vmad d a b ha hb => some (0x12#6 ++ d ++ a ++ b ++ ha ++ hb ++ 3#2)
  | .vand d a b ha hb => some (0x13#6 ++ d ++ a ++ b ++ ha ++ hb ++ 0#2)
  | .vor d a b ha hb => some (0x13#6 ++ d ++ a ++ b ++ ha ++ hb ++ 1#2)
  | .vxor d a b ha hb => some (0x13#6 ++ d ++ a ++ b ++ ha ++ hb ++ 2#2)
  | .vandn d a b ha hb => some (0x13#6 ++ d ++ a ++ b ++ ha ++ hb ++ 3#2)
  | .vshl d a b ha hb => some (0x14#6 ++ d ++ a ++ b ++ ha ++ hb ++ 0#2)
  | .vshr d a b ha hb => some (0x14#6 ++ d ++ a ++ b ++ ha ++ hb ++ 1#2)
  | .vsra d a b ha hb => some (0x14#6 ++ d ++ a ++ b ++ ha ++ hb ++ 2#2)
  | .vrot d a b ha hb => some (0x14#6 ++ d ++ a ++ b ++ ha ++ hb ++ 3#2)
  | .vmin d a b ha hb => some (0x15#6 ++ d ++ a ++ b ++ ha ++ hb ++ 0#2)
  | .vmax d a b ha hb => some (0x15#6 ++ d ++ a ++ b ++ ha ++ hb ++ 1#2)
  | .vminu d a b ha hb => some (0x15#6 ++ d ++ a ++ b ++ ha ++ hb ++ 2#2)
  | .vmaxu d a b ha hb => some (0x15#6 ++ d ++ a ++ b ++ ha ++ hb ++ 3#2)
  | .vceq m a b ha hb => some (0x16#6 ++ 0#3 ++ m ++ a ++ b ++ ha ++ hb ++ 0#2)
  | .vclt m a b ha hb => some (0x16#6 ++ 0#3 ++ m ++ a ++ b ++ ha ++ hb ++ 1#2)
  | .vcltu m a b ha hb => some (0x16#6 ++ 0#3 ++ m ++ a ++ b ++ ha ++ hb ++ 2#2)
  | .vcle m a b ha hb => some (0x16#6 ++ 0#3 ++ m ++ a ++ b ++ ha ++ hb ++ 3#2)
  | .vbcs d a ha => some (0x17#6 ++ d ++ a ++ 0#6 ++ ha ++ 0#3)
  | .vmovm d a b ha hb => some (0x17#6 ++ d ++ a ++ 0#3 ++ b ++ ha ++ hb ++ 1#2)
  | .vlane d a ha => some (0x17#6 ++ d ++ a ++ 0#6 ++ ha ++ 2#3)
  | .vtos d a b ha hb => some (0x17#6 ++ d ++ a ++ b ++ ha ++ hb ++ 3#2)
  | .vaddi d a imm => some (0x18#6 ++ d ++ a ++ imm)
  | .vshfl d a b ha hb => some (0x19#6 ++ d ++ a ++ b ++ ha ++ hb ++ 0#2)
  | .vbcl d a b ha hb => some (0x19#6 ++ d ++ a ++ b ++ ha ++ hb ++ 1#2)
  | .vrotl d a b ha hb => some (0x19#6 ++ d ++ a ++ b ++ ha ++ hb ++ 2#2)
  | .vperm d a b ha hb => some (0x19#6 ++ d ++ a ++ b ++ ha ++ hb ++ 3#2)
  | .vredadd d a ha => some (0x1A#6 ++ d ++ a ++ 0#6 ++ ha ++ 0#3)
  | .vredmin d a ha => some (0x1A#6 ++ d ++ a ++ 0#6 ++ ha ++ 1#3)
  | .vredmax d a ha => some (0x1A#6 ++ d ++ a ++ 0#6 ++ ha ++ 2#3)
  | .vredor d a ha => some (0x1A#6 ++ d ++ a ++ 0#6 ++ ha ++ 3#3)
  | .vscanadd d a ha => some (0x1B#6 ++ d ++ a ++ 0#6 ++ ha ++ 0#3)
  | .vscanmax d a ha => some (0x1B#6 ++ d ++ a ++ 0#6 ++ ha ++ 1#3)
  | .vscanmin d a ha => some (0x1B#6 ++ d ++ a ++ 0#6 ++ ha ++ 2#3)
  | .vscanaddx d a ha => some (0x1B#6 ++ d ++ a ++ 0#6 ++ ha ++ 3#3)
  | .vclz d a ha => some (0x1C#6 ++ d ++ a ++ 0#6 ++ ha ++ 0#3)
  | .vpopc d a ha => some (0x1C#6 ++ d ++ a ++ 0#6 ++ ha ++ 1#3)
  | .vbrev d a ha => some (0x1C#6 ++ d ++ a ++ 0#6 ++ ha ++ 2#3)
  | .vsext d a wc ha => some (0x1C#6 ++ d ++ a ++ wc ++ ha ++ 3#3)
  | .vpk16 d a b ha hb => some (0x1D#6 ++ d ++ a ++ b ++ ha ++ hb ++ 0#2)
  | .vupkl16 d a ha => some (0x1D#6 ++ d ++ a ++ 0#6 ++ ha ++ 1#3)
  | .vupkh16 d a ha => some (0x1D#6 ++ d ++ a ++ 0#6 ++ ha ++ 2#3)
  | .vbyte d a b ha hb => some (0x1D#6 ++ d ++ a ++ b ++ ha ++ hb ++ 3#2)
  | .vfadd d a b rm => some (0x20#6 ++ d ++ a ++ b ++ rm ++ 0#1)
  | .vfsub d a b rm => some (0x20#6 ++ d ++ a ++ b ++ rm ++ 1#1)
  | .vfmul d a b rm => some (0x21#6 ++ d ++ a ++ b ++ rm ++ 0#1)
  | .vfdiv d a b rm => some (0x21#6 ++ d ++ a ++ b ++ rm ++ 1#1)
  | .vfma d a b rm => some (0x22#6 ++ d ++ a ++ b ++ rm ++ 0#1)
  | .vfms d a b rm => some (0x22#6 ++ d ++ a ++ b ++ rm ++ 1#1)
  | .vfmin d a b => some (0x23#6 ++ d ++ a ++ b ++ 0#4)
  | .vfmax d a b => some (0x23#6 ++ d ++ a ++ b ++ 1#4)
  | .vfcmpEq m a b => some (0x24#6 ++ 0#3 ++ m ++ a ++ b ++ 0#4)
  | .vfcmpLt m a b => some (0x24#6 ++ 0#3 ++ m ++ a ++ b ++ 2#4)
  | .vfcmpLe m a b => some (0x24#6 ++ 0#3 ++ m ++ a ++ b ++ 4#4)
  | .vfcmpUn m a b => some (0x24#6 ++ 0#3 ++ m ++ a ++ b ++ 6#4)
  | .vfcmpNe m a b => some (0x24#6 ++ 0#3 ++ m ++ a ++ b ++ 8#4)
  | .vfredadd d a rm => some (0x25#6 ++ d ++ a ++ 0#6 ++ rm ++ 0#1)
  | .vfredmax d a => some (0x25#6 ++ d ++ a ++ 1#10)
  | .vfscanadd d a rm => some (0x26#6 ++ d ++ a ++ 0#6 ++ rm ++ 0#1)
  | .vfscanmax d a => some (0x26#6 ++ d ++ a ++ 1#10)
  | .vsfuRcp d a rm => some (0x27#6 ++ d ++ a ++ 0#6 ++ rm ++ 0#1)
  | .vsfuRsq d a rm => some (0x27#6 ++ d ++ a ++ 1#6 ++ rm ++ 0#1)
  | .vsfuSqrt d a rm => some (0x27#6 ++ d ++ a ++ 2#6 ++ rm ++ 0#1)
  | .vsfuEx2 d a rm => some (0x27#6 ++ d ++ a ++ 3#6 ++ rm ++ 0#1)
  | .vsfuLg2 d a rm => some (0x27#6 ++ d ++ a ++ 4#6 ++ rm ++ 0#1)
  | .vsfuSin d a rm => some (0x27#6 ++ d ++ a ++ 5#6 ++ rm ++ 0#1)
  | .vsfuCos d a rm => some (0x27#6 ++ d ++ a ++ 6#6 ++ rm ++ 0#1)
  | .vsfuTanh d a rm => some (0x27#6 ++ d ++ a ++ 7#6 ++ rm ++ 0#1)
  | .vsfuSigm d a rm => some (0x27#6 ++ d ++ a ++ 8#6 ++ rm ++ 0#1)
  | .vfabs d a => some (0x28#6 ++ d ++ a ++ 0#10)
  | .vfcls d a => some (0x28#6 ++ d ++ a ++ 1#10)
  | .vcvt d a src dst rm => some (0x29#6 ++ d ++ a ++ src ++ dst ++ rm ++ 0#1)
  | .vqnt d a b rm => some (0x2A#6 ++ d ++ a ++ b ++ rm ++ 0#1)
  | .vdqnt d a b rm => some (0x2B#6 ++ d ++ a ++ b ++ rm ++ 0#1)
  | .vlqenc d a b ha hb => some (0x2C#6 ++ d ++ a ++ b ++ ha ++ hb ++ 0#2)
  | .vlqdec d a b ha hb => some (0x2C#6 ++ d ++ a ++ b ++ ha ++ hb ++ 1#2)
  | .vlqins d a b ha hb => some (0x2C#6 ++ d ++ a ++ b ++ ha ++ hb ++ 2#2)
  | .vlqerr d a b ha hb => some (0x2C#6 ++ d ++ a ++ b ++ ha ++ hb ++ 3#2)
  | .coll sa sb acq rel scope hold => some (0x2D#6 ++ 0#4 ++ sa ++ sb ++ acq ++ rel ++ scope ++ hold ++ 0#1)
  | .cbulk sa sb acq rel scope hold => some (0x2D#6 ++ 1#4 ++ sa ++ sb ++ acq ++ rel ++ scope ++ hold ++ 0#1)
  | .compact sa sb acq rel scope hold => some (0x2D#6 ++ 2#4 ++ sa ++ sb ++ acq ++ rel ++ scope ++ hold ++ 0#1)
  | .qpush sa sb => some (0x2D#6 ++ 3#4 ++ sa ++ sb ++ 0#6)
  | .qstat sb => some (0x2D#6 ++ 256#10 ++ sb ++ 0#6)
  | .epoll sa sb => some (0x2D#6 ++ 5#4 ++ sa ++ sb ++ 0#6)
  | .ecancel sa sb => some (0x2D#6 ++ 6#4 ++ sa ++ sb ++ 0#6)
  | .capent a => some (0x2E#6 ++ 0#6 ++ a ++ 0#10)
  | .capexit => some (0x2E#6 ++ 1#22)
  | .kld d a sz => some (0x2E#6 ++ 0#3 ++ d ++ 0#3 ++ a ++ 0#4 ++ sz ++ 2#4)
  | .kst d a sz => some (0x2E#6 ++ 0#3 ++ d ++ 0#3 ++ a ++ 0#4 ++ sz ++ 3#4)
  | .kamo d a sz fn => some (0x2E#6 ++ 0#3 ++ d ++ 0#3 ++ a ++ 0#1 ++ sz ++ fn ++ 4#4)
  | .kmovs d a => some (0x2E#6 ++ d ++ 0#3 ++ a ++ 5#10)
  | .kmovk d a => some (0x2E#6 ++ 0#3 ++ d ++ a ++ 6#10)
  | .capstat d => some (0x2E#6 ++ d ++ 7#16)
  | .sld t a off sz ord => some (0x30#6 ++ t ++ a ++ off ++ sz ++ ord)
  | .sst t a off sz ord => some (0x31#6 ++ t ++ a ++ off ++ sz ++ ord)
  | .vld t a off sz ord => some (0x32#6 ++ t ++ a ++ off ++ sz ++ ord)
  | .vst t a off sz ord => some (0x33#6 ++ t ++ a ++ off ++ sz ++ ord)
  | .vldg t a off sz ord => some (0x34#6 ++ t ++ a ++ off ++ sz ++ ord)
  | .vsts t a off sz ord => some (0x35#6 ++ t ++ a ++ off ++ sz ++ ord)
  | .bld t a off sz ord => some (0x36#6 ++ t ++ a ++ off ++ sz ++ ord)
  | .bst t a off sz ord => some (0x37#6 ++ t ++ a ++ off ++ sz ++ ord)
  | .bldg t a off sz ord => some (0x38#6 ++ t ++ a ++ off ++ sz ++ ord)
  | .bsts t a off sz ord => some (0x39#6 ++ t ++ a ++ off ++ sz ++ ord)
  | .amoAdd d a ord sz sc => some (0x3A#6 ++ d ++ a ++ 0#4 ++ ord ++ sz ++ sc)
  | .amoAnd d a ord sz sc => some (0x3A#6 ++ d ++ a ++ 1#4 ++ ord ++ sz ++ sc)
  | .amoOr d a ord sz sc => some (0x3A#6 ++ d ++ a ++ 2#4 ++ ord ++ sz ++ sc)
  | .amoXor d a ord sz sc => some (0x3A#6 ++ d ++ a ++ 3#4 ++ ord ++ sz ++ sc)
  | .amoMin d a ord sz sc => some (0x3A#6 ++ d ++ a ++ 4#4 ++ ord ++ sz ++ sc)
  | .amoMax d a ord sz sc => some (0x3A#6 ++ d ++ a ++ 5#4 ++ ord ++ sz ++ sc)
  | .amoMinu d a ord sz sc => some (0x3A#6 ++ d ++ a ++ 6#4 ++ ord ++ sz ++ sc)
  | .amoMaxu d a ord sz sc => some (0x3A#6 ++ d ++ a ++ 7#4 ++ ord ++ sz ++ sc)
  | .amoXchg d a ord sz sc => some (0x3A#6 ++ d ++ a ++ 8#4 ++ ord ++ sz ++ sc)
  | .amoCas d a ord sz sc => some (0x3A#6 ++ d ++ a ++ 9#4 ++ ord ++ sz ++ sc)
  | .amoFadd32 d a ord sc => some (0x3A#6 ++ d ++ a ++ 10#4 ++ ord ++ 2#2 ++ sc)
  | .amoFadd16x2 d a ord sc => some (0x3A#6 ++ d ++ a ++ 11#4 ++ ord ++ 2#2 ++ sc)
  | .amoFmin32 d a ord sc => some (0x3A#6 ++ d ++ a ++ 12#4 ++ ord ++ 2#2 ++ sc)
  | .amoFmax32 d a ord sc => some (0x3A#6 ++ d ++ a ++ 13#4 ++ ord ++ 2#2 ++ sc)
  | .vamoAdd d a ord sz sc => some (0x3B#6 ++ d ++ a ++ 0#4 ++ ord ++ sz ++ sc)
  | .vamoAnd d a ord sz sc => some (0x3B#6 ++ d ++ a ++ 1#4 ++ ord ++ sz ++ sc)
  | .vamoOr d a ord sz sc => some (0x3B#6 ++ d ++ a ++ 2#4 ++ ord ++ sz ++ sc)
  | .vamoXor d a ord sz sc => some (0x3B#6 ++ d ++ a ++ 3#4 ++ ord ++ sz ++ sc)
  | .vamoMin d a ord sz sc => some (0x3B#6 ++ d ++ a ++ 4#4 ++ ord ++ sz ++ sc)
  | .vamoMax d a ord sz sc => some (0x3B#6 ++ d ++ a ++ 5#4 ++ ord ++ sz ++ sc)
  | .vamoMinu d a ord sz sc => some (0x3B#6 ++ d ++ a ++ 6#4 ++ ord ++ sz ++ sc)
  | .vamoMaxu d a ord sz sc => some (0x3B#6 ++ d ++ a ++ 7#4 ++ ord ++ sz ++ sc)
  | .vamoXchg d a ord sz sc => some (0x3B#6 ++ d ++ a ++ 8#4 ++ ord ++ sz ++ sc)
  | .vamoCas d a ord sz sc => some (0x3B#6 ++ d ++ a ++ 9#4 ++ ord ++ sz ++ sc)
  | .vamoFadd32 d a ord sc => some (0x3B#6 ++ d ++ a ++ 10#4 ++ ord ++ 2#2 ++ sc)
  | .vamoFadd16x2 d a ord sc => some (0x3B#6 ++ d ++ a ++ 11#4 ++ ord ++ 2#2 ++ sc)
  | .vamoFmin32 d a ord sc => some (0x3B#6 ++ d ++ a ++ 12#4 ++ ord ++ 2#2 ++ sc)
  | .vamoFmax32 d a ord sc => some (0x3B#6 ++ d ++ a ++ 13#4 ++ ord ++ 2#2 ++ sc)
  | .fence uo scope => some (0x3C#6 ++ 0#3 ++ uo ++ scope ++ 0#16)
  | .bar => some (0x3C#6 ++ 1#22)
  | .tbar => some (0x3C#6 ++ 2#22)
  | .arrive a b => some (0x3C#6 ++ 0#6 ++ a ++ b ++ 3#4)
  | .await a b => some (0x3C#6 ++ 0#6 ++ a ++ b ++ 4#4)
  | .ainit a b => some (0x3C#6 ++ 0#6 ++ a ++ b ++ 5#4)
  | .fenceCode scope => some (0x3C#6 ++ 0#4 ++ scope ++ 6#16)
  | .iflush => some (0x3C#6 ++ 7#22)
  | .tsread d => some (0x3C#6 ++ d ++ 8#16)
  | .feset val a b => some (0x3C#6 ++ 0#5 ++ val ++ a ++ b ++ 9#4)
  | .fetest d a => some (0x3C#6 ++ d ++ a ++ 10#10)
  | .tcopy sa sb acq rel scope hold => some (0x3D#6 ++ 0#4 ++ sa ++ sb ++ acq ++ rel ++ scope ++ hold ++ 0#1)
  | .tcopym sa sb acq rel scope hold => some (0x3D#6 ++ 1#4 ++ sa ++ sb ++ acq ++ rel ++ scope ++ hold ++ 0#1)
  | .mxldb sa sb acq scope hold => some (0x3D#6 ++ 2#4 ++ sa ++ sb ++ acq ++ 0#1 ++ scope ++ hold ++ 0#1)
  | .mxop sa sb acq scope hold => some (0x3D#6 ++ 3#4 ++ sa ++ sb ++ acq ++ 0#1 ++ scope ++ hold ++ 0#1)
  | .mxfence sb => some (0x3D#6 ++ 256#10 ++ sb ++ 0#6)
  | .mxwait sa => some (0x3D#6 ++ 5#4 ++ sa ++ 0#12)
  | .mxacq => some (0x3D#6 ++ 1572864#22)
  | .mxrel => some (0x3D#6 ++ 1835008#22)
  | .bform sa => some (0x3D#6 ++ 8#4 ++ sa ++ 0#12)
  | .bjoin sa => some (0x3D#6 ++ 9#4 ++ sa ++ 0#12)
  | .bbrk => some (0x3D#6 ++ 2621440#22)
  | .msma sa => some (0x3D#6 ++ 11#4 ++ sa ++ 0#12)
  | .msmf => some (0x3D#6 ++ 3145728#22)
  | .msmrd sa sb rel scope hold => some (0x3D#6 ++ 13#4 ++ sa ++ sb ++ 0#1 ++ rel ++ scope ++ hold ++ 0#1)
  | .plngo sa sb => some (0x3D#6 ++ 14#4 ++ sa ++ sb ++ 0#6)
  | .plnstop => some (0x3D#6 ++ 3932160#22)
  | .trap num => some (0x3E#6 ++ num ++ 0#4)
  | .tret => some (0x3E#6 ++ 1#22)
  | .launch d a => some (0x3E#6 ++ d ++ a ++ 2#10)
  | .lwait a => some (0x3E#6 ++ 0#6 ++ a ++ 3#10)
  | .exit => some (0x3E#6 ++ 4#22)
  | .jighint mode a b => some (0x3E#6 ++ 0#4 ++ mode ++ a ++ b ++ 5#4)
  | .brkpt num => some (0x3E#6 ++ num ++ 6#4)
  | .nop => some (0x3F#6 ++ 0#22)
  | .fetchFault _ => none
  | .loadCompletion _ => none
  | .storeCompletion _ => none
  | .remoteResponse _ _ => none
  | .inboundDomainRequest _ => none
  | .hostDeviceAccess _ => none
  | .hostRequestFailure _ => none
  | .copyRowLanding _ => none
  | .engineCommandCompletion _ => none
  | .deferredFaultDelivery _ => none
  | .bondFormation _ => none
  | .capsuleStepCommit _ => none
  | .eventWindowStart _ => none
  | .fragmentPromotion _ => none
  | .yieldExpiry _ => none
  | .warpRetirement _ => none
  | .launchRecordAdmission => none
  | .teamPlacement => none
  | .runSliceExpiry _ => none
  | .waitSliceExpiry _ => none
  | .lwaitPreemption _ => none
  | .teamSave _ => none
  | .teamResume _ => none
  | .deadContextDrainComplete _ => none
  | .dieLossDeclaration _ => none
  | .queueDescriptorWrite _ _ _ _ => none
  | .managementRegisterWrite _ _ _ => none
  | .translationInvalidation => none
  | .hostKill => none
  | .clearRateHint => none
  | .cmdNoEffect _ => none
  | .deviceReset _ => none
  | .thermalShutdown => none
  | .engineCommandStart _ => none
  | .managementCommandCompletion => none

/-- The word of an instruction with its chain bit and stall count (R89). -/
def encodeWord (chain : Bool) (stall : BitVec 3) (i : Instr) : Option Word :=
  (encode i).map (fun x => BitVec.ofBool chain ++ stall ++ x)

/-- The word that the assembler writes for a NOP that is neither chained nor stalled (R110). -/
def nopWord : Word := 0x0FC00000#32

end Sys2Proof
end

