-- ==== Sys2Proof/Machine/Uses.lean ====
section
/-! DEFINITION. What each instruction uses: its pipe (R94), the latency class of its register results (R109), and the registers
it reads and writes. The rules of a group (R92), CHECK (R98) and the queues (R282) are stated over this table. -/

namespace Sys2Proof.Machine

/-- The pipes (R94). -/
inductive Pipe where
  | s | vi | vf | x | me
  /-- NOP belongs to no pipe. -/
  | none
deriving DecidableEq, Repr

/-- What an instruction uses. `lat` is 0 where no register result has a fixed latency. -/
structure Uses where
  pipe : Pipe
  lat : Nat
  reads : List Reg
  writes : List Reg
deriving DecidableEq, Repr

/-- The register that a control number names for R92 and R98. -/
def crReg (num : BitVec 12) : List Reg :=
  if num = 0#12 then [.fmt] else if num = 1#12 then [.fstat] else if num = 0x18#12 then [.qmap] else [.cr num.toNat]

/-- The vector registers of one access: a pair for 64 bits (R216, R219). -/
def vecPair (sz : BitVec 2) (t : BitVec 6) : List Reg :=
  if sz = 3#2 then [.v t.toNat, .v (t.toNat + 1)] else [.v t.toNat]

/-- The vector registers of a CAS (R219). -/
def vecCas (sz : BitVec 2) (d : BitVec 6) : List Reg :=
  if sz = 3#2 then [.v d.toNat, .v (d.toNat + 1), .v (d.toNat + 2), .v (d.toNat + 3)] else [.v d.toNat, .v (d.toNat + 1)]

/-- What an instruction uses (R94, R109 and its own entry); an event uses nothing. -/
def uses : Instr → Uses
  | .sadd d a b => ⟨.s, 1, [.s a.toNat, .s b.toNat], [.s d.toNat]⟩
  | .ssub d a b => ⟨.s, 1, [.s a.toNat, .s b.toNat], [.s d.toNat]⟩
  | .smul d a b => ⟨.s, 1, [.s a.toNat, .s b.toNat], [.s d.toNat]⟩
  | .smulh d a b => ⟨.s, 1, [.s a.toNat, .s b.toNat], [.s d.toNat]⟩
  | .smulhu d a b => ⟨.s, 1, [.s a.toNat, .s b.toNat], [.s d.toNat]⟩
  | .sand d a b => ⟨.s, 1, [.s a.toNat, .s b.toNat], [.s d.toNat]⟩
  | .sor d a b => ⟨.s, 1, [.s a.toNat, .s b.toNat], [.s d.toNat]⟩
  | .sxor d a b => ⟨.s, 1, [.s a.toNat, .s b.toNat], [.s d.toNat]⟩
  | .sshl d a b => ⟨.s, 1, [.s a.toNat, .s b.toNat], [.s d.toNat]⟩
  | .sshr d a b => ⟨.s, 1, [.s a.toNat, .s b.toNat], [.s d.toNat]⟩
  | .ssra d a b => ⟨.s, 1, [.s a.toNat, .s b.toNat], [.s d.toNat]⟩
  | .smin d a b => ⟨.s, 1, [.s a.toNat, .s b.toNat], [.s d.toNat]⟩
  | .smax d a b => ⟨.s, 1, [.s a.toNat, .s b.toNat], [.s d.toNat]⟩
  | .sminu d a b => ⟨.s, 1, [.s a.toNat, .s b.toNat], [.s d.toNat]⟩
  | .smaxu d a b => ⟨.s, 1, [.s a.toNat, .s b.toNat], [.s d.toNat]⟩
  | .sslt d a b => ⟨.s, 1, [.s a.toNat, .s b.toNat], [.s d.toNat]⟩
  | .ssltu d a b => ⟨.s, 1, [.s a.toNat, .s b.toNat], [.s d.toNat]⟩
  | .sdiv d a b => ⟨.s, 8, [.s a.toNat, .s b.toNat], [.s d.toNat]⟩
  | .sdivu d a b => ⟨.s, 8, [.s a.toNat, .s b.toNat], [.s d.toNat]⟩
  | .srem d a b => ⟨.s, 8, [.s a.toNat, .s b.toNat], [.s d.toNat]⟩
  | .sremu d a b => ⟨.s, 8, [.s a.toNat, .s b.toNat], [.s d.toNat]⟩
  | .sclz d a => ⟨.s, 1, [.s a.toNat], [.s d.toNat]⟩
  | .spopc d a => ⟨.s, 1, [.s a.toNat], [.s d.toNat]⟩
  | .sbrev d a => ⟨.s, 1, [.s a.toNat], [.s d.toNat]⟩
  | .ssext d a _ => ⟨.s, 1, [.s a.toNat], [.s d.toNat]⟩
  | .szext d a _ => ⟨.s, 1, [.s a.toNat], [.s d.toNat]⟩
  | .saddi d a _ => ⟨.s, 1, [.s a.toNat], [.s d.toNat]⟩
  | .sandi d a _ => ⟨.s, 1, [.s a.toNat], [.s d.toNat]⟩
  | .sori d a _ => ⟨.s, 1, [.s a.toNat], [.s d.toNat]⟩
  | .sxori d a _ => ⟨.s, 1, [.s a.toNat], [.s d.toNat]⟩
  | .sshiShl d a _ => ⟨.s, 1, [.s a.toNat], [.s d.toNat]⟩
  | .sshiShr d a _ => ⟨.s, 1, [.s a.toNat], [.s d.toNat]⟩
  | .sshiSra d a _ => ⟨.s, 1, [.s a.toNat], [.s d.toNat]⟩
  | .sshiRor d a _ => ⟨.s, 1, [.s a.toNat], [.s d.toNat]⟩
  | .smovk d _ => ⟨.s, 1, [], [.s d.toNat]⟩
  | .smovks d _ => ⟨.s, 1, [.s d.toNat], [.s d.toNat]⟩
  | .brcEqz a _ => ⟨.s, 0, [.s a.toNat], []⟩
  | .brcNez a _ => ⟨.s, 0, [.s a.toNat], []⟩
  | .brcLtz a _ => ⟨.s, 0, [.s a.toNat], []⟩
  | .brcGez a _ => ⟨.s, 0, [.s a.toNat], []⟩
  | .brcAny m _ => ⟨.s, 0, [.m m.toNat], []⟩
  | .brcAll m _ => ⟨.s, 0, [.m m.toNat], []⟩
  | .brcNone m _ => ⟨.s, 0, [.m m.toNat], []⟩
  | .brcSplit m _ => ⟨.s, 0, [.m m.toNat], []⟩
  | .jmp _ => ⟨.s, 0, [], []⟩
  | .call _ => ⟨.s, 1, [], [.s 63]⟩
  | .jmpr a => ⟨.s, 0, [.s a.toNat], []⟩
  | .callr a => ⟨.s, 1, [.s a.toNat], [.s 63]⟩
  | .ret a => ⟨.s, 0, [.s a.toNat], []⟩
  | .mand d a b => ⟨.s, 1, [.m a.toNat, .m b.toNat], [.m d.toNat]⟩
  | .mor d a b => ⟨.s, 1, [.m a.toNat, .m b.toNat], [.m d.toNat]⟩
  | .mxor d a b => ⟨.s, 1, [.m a.toNat, .m b.toNat], [.m d.toNat]⟩
  | .mandn d a b => ⟨.s, 1, [.m a.toNat, .m b.toNat], [.m d.toNat]⟩
  | .mnot d a => ⟨.s, 1, [.m a.toNat], [.m d.toNat]⟩
  | .mpopc d a => ⟨.s, 1, [.m a.toNat], [.s d.toNat]⟩
  | .mffs d a => ⟨.s, 1, [.m a.toNat], [.s d.toNat]⟩
  | .mtos d a => ⟨.s, 1, [.m a.toNat], [.s d.toNat]⟩
  | .stom d a => ⟨.s, 1, [.s a.toNat], [.m d.toNat]⟩
  | .mact d => ⟨.s, 1, [], [.m d.toNat]⟩
  | .regang => ⟨.s, 0, [], []⟩
  | .setfmt a => ⟨.s, 1, [.s a.toNat], [.fmt]⟩
  | .getfmt d => ⟨.s, 1, [.fmt], [.s d.toNat]⟩
  | .setrm _ => ⟨.s, 1, [.fmt], [.fmt]⟩
  | .yield => ⟨.s, 0, [], []⟩
  | .getcr d num => ⟨.s, 1, crReg num, [.s d.toNat]⟩
  | .setcr d num => ⟨.s, 1, [.s d.toNat], crReg num⟩
  | .sqmap a => ⟨.s, 1, [.s a.toNat], [.qmap]⟩
  | .fragid d => ⟨.s, 1, [], [.s d.toNat]⟩
  | .waitc _ _ _ => ⟨.s, 0, [], []⟩
  | .vadd d a b _ _ => ⟨.vi, 2, [.v a.toNat, .v b.toNat], [.v d.toNat]⟩
  | .vsub d a b _ _ => ⟨.vi, 2, [.v a.toNat, .v b.toNat], [.v d.toNat]⟩
  | .vadds d a b _ _ => ⟨.vi, 2, [.v a.toNat, .v b.toNat], [.v d.toNat]⟩
  | .vsubs d a b _ _ => ⟨.vi, 2, [.v a.toNat, .v b.toNat], [.v d.toNat]⟩
  | .vmul d a b _ _ => ⟨.vi, 4, [.v a.toNat, .v b.toNat], [.v d.toNat]⟩
  | .vmulh d a b _ _ => ⟨.vi, 4, [.v a.toNat, .v b.toNat], [.v d.toNat]⟩
  | .vmulhu d a b _ _ => ⟨.vi, 4, [.v a.toNat, .v b.toNat], [.v d.toNat]⟩
  | .vmad d a b _ _ => ⟨.vi, 4, [.v a.toNat, .v b.toNat, .v d.toNat], [.v d.toNat]⟩
  | .vand d a b _ _ => ⟨.vi, 2, [.v a.toNat, .v b.toNat], [.v d.toNat]⟩
  | .vor d a b _ _ => ⟨.vi, 2, [.v a.toNat, .v b.toNat], [.v d.toNat]⟩
  | .vxor d a b _ _ => ⟨.vi, 2, [.v a.toNat, .v b.toNat], [.v d.toNat]⟩
  | .vandn d a b _ _ => ⟨.vi, 2, [.v a.toNat, .v b.toNat], [.v d.toNat]⟩
  | .vshl d a b _ _ => ⟨.vi, 2, [.v a.toNat, .v b.toNat], [.v d.toNat]⟩
  | .vshr d a b _ _ => ⟨.vi, 2, [.v a.toNat, .v b.toNat], [.v d.toNat]⟩
  | .vsra d a b _ _ => ⟨.vi, 2, [.v a.toNat, .v b.toNat], [.v d.toNat]⟩
  | .vrot d a b _ _ => ⟨.vi, 2, [.v a.toNat, .v b.toNat], [.v d.toNat]⟩
  | .vmin d a b _ _ => ⟨.vi, 2, [.v a.toNat, .v b.toNat], [.v d.toNat]⟩
  | .vmax d a b _ _ => ⟨.vi, 2, [.v a.toNat, .v b.toNat], [.v d.toNat]⟩
  | .vminu d a b _ _ => ⟨.vi, 2, [.v a.toNat, .v b.toNat], [.v d.toNat]⟩
  | .vmaxu d a b _ _ => ⟨.vi, 2, [.v a.toNat, .v b.toNat], [.v d.toNat]⟩
  | .vceq m a b _ _ => ⟨.vi, 2, [.v a.toNat, .v b.toNat], [.m m.toNat]⟩
  | .vclt m a b _ _ => ⟨.vi, 2, [.v a.toNat, .v b.toNat], [.m m.toNat]⟩
  | .vcltu m a b _ _ => ⟨.vi, 2, [.v a.toNat, .v b.toNat], [.m m.toNat]⟩
  | .vcle m a b _ _ => ⟨.vi, 2, [.v a.toNat, .v b.toNat], [.m m.toNat]⟩
  | .vbcs d a _ => ⟨.vi, 2, [.s a.toNat], [.v d.toNat]⟩
  | .vmovm d a b _ _ => ⟨.vi, 2, [.v a.toNat, .m b.toNat, .v d.toNat], [.v d.toNat]⟩
  | .vlane d a _ => ⟨.vi, 2, [.s a.toNat], [.v d.toNat]⟩
  | .vtos d a b _ _ => ⟨.vi, 4, [.v a.toNat, .s b.toNat], [.s d.toNat]⟩
  | .vaddi d a _ => ⟨.vi, 2, [.v a.toNat], [.v d.toNat]⟩
  | .vshfl d a b _ _ => ⟨.vi, 4, [.v a.toNat, .s b.toNat], [.v d.toNat]⟩
  | .vbcl d a b _ _ => ⟨.vi, 4, [.v a.toNat, .s b.toNat], [.v d.toNat]⟩
  | .vrotl d a b _ _ => ⟨.vi, 4, [.v a.toNat, .s b.toNat], [.v d.toNat]⟩
  | .vperm d a b _ _ => ⟨.vi, 4, [.v a.toNat, .v b.toNat], [.v d.toNat]⟩
  | .vredadd d a _ => ⟨.vi, 8, [.v a.toNat], [.v d.toNat]⟩
  | .vredmin d a _ => ⟨.vi, 8, [.v a.toNat], [.v d.toNat]⟩
  | .vredmax d a _ => ⟨.vi, 8, [.v a.toNat], [.v d.toNat]⟩
  | .vredor d a _ => ⟨.vi, 8, [.v a.toNat], [.v d.toNat]⟩
  | .vscanadd d a _ => ⟨.vi, 8, [.v a.toNat], [.v d.toNat]⟩
  | .vscanmax d a _ => ⟨.vi, 8, [.v a.toNat], [.v d.toNat]⟩
  | .vscanmin d a _ => ⟨.vi, 8, [.v a.toNat], [.v d.toNat]⟩
  | .vscanaddx d a _ => ⟨.vi, 8, [.v a.toNat], [.v d.toNat]⟩
  | .vclz d a _ => ⟨.vi, 2, [.v a.toNat], [.v d.toNat]⟩
  | .vpopc d a _ => ⟨.vi, 2, [.v a.toNat], [.v d.toNat]⟩
  | .vbrev d a _ => ⟨.vi, 2, [.v a.toNat], [.v d.toNat]⟩
  | .vsext d a _ _ => ⟨.vi, 2, [.v a.toNat], [.v d.toNat]⟩
  | .vpk16 d a b _ _ => ⟨.vi, 2, [.v a.toNat, .v b.toNat], [.v d.toNat]⟩
  | .vupkl16 d a _ => ⟨.vi, 2, [.v a.toNat], [.v d.toNat]⟩
  | .vupkh16 d a _ => ⟨.vi, 2, [.v a.toNat], [.v d.toNat]⟩
  | .vbyte d a b _ _ => ⟨.vi, 2, [.v a.toNat, .v b.toNat], [.v d.toNat]⟩
  | .vfadd d a b _ => ⟨.vf, 4, [.v a.toNat, .v b.toNat, .fmt], [.v d.toNat]⟩
  | .vfsub d a b _ => ⟨.vf, 4, [.v a.toNat, .v b.toNat, .fmt], [.v d.toNat]⟩
  | .vfmul d a b _ => ⟨.vf, 4, [.v a.toNat, .v b.toNat, .fmt], [.v d.toNat]⟩
  | .vfdiv d a b _ => ⟨.vf, 8, [.v a.toNat, .v b.toNat, .fmt], [.v d.toNat]⟩
  | .vfma d a b _ => ⟨.vf, 4, [.v a.toNat, .v b.toNat, .fmt, .v d.toNat], [.v d.toNat]⟩
  | .vfms d a b _ => ⟨.vf, 4, [.v a.toNat, .v b.toNat, .fmt, .v d.toNat], [.v d.toNat]⟩
  | .vfmin d a b => ⟨.vf, 4, [.v a.toNat, .v b.toNat, .fmt], [.v d.toNat]⟩
  | .vfmax d a b => ⟨.vf, 4, [.v a.toNat, .v b.toNat, .fmt], [.v d.toNat]⟩
  | .vfcmpEq m a b => ⟨.vf, 4, [.v a.toNat, .v b.toNat], [.m m.toNat]⟩
  | .vfcmpLt m a b => ⟨.vf, 4, [.v a.toNat, .v b.toNat], [.m m.toNat]⟩
  | .vfcmpLe m a b => ⟨.vf, 4, [.v a.toNat, .v b.toNat], [.m m.toNat]⟩
  | .vfcmpUn m a b => ⟨.vf, 4, [.v a.toNat, .v b.toNat], [.m m.toNat]⟩
  | .vfcmpNe m a b => ⟨.vf, 4, [.v a.toNat, .v b.toNat], [.m m.toNat]⟩
  | .vfredadd d a _ => ⟨.vf, 8, [.v a.toNat, .fmt], [.v d.toNat]⟩
  | .vfredmax d a => ⟨.vf, 8, [.v a.toNat, .fmt], [.v d.toNat]⟩
  | .vfscanadd d a _ => ⟨.vf, 8, [.v a.toNat, .fmt], [.v d.toNat]⟩
  | .vfscanmax d a => ⟨.vf, 8, [.v a.toNat, .fmt], [.v d.toNat]⟩
  | .vsfuRcp d a _ => ⟨.x, 8, [.v a.toNat, .fmt], [.v d.toNat]⟩
  | .vsfuRsq d a _ => ⟨.x, 8, [.v a.toNat, .fmt], [.v d.toNat]⟩
  | .vsfuSqrt d a _ => ⟨.x, 8, [.v a.toNat, .fmt], [.v d.toNat]⟩
  | .vsfuEx2 d a _ => ⟨.x, 8, [.v a.toNat, .fmt], [.v d.toNat]⟩
  | .vsfuLg2 d a _ => ⟨.x, 8, [.v a.toNat, .fmt], [.v d.toNat]⟩
  | .vsfuSin d a _ => ⟨.x, 8, [.v a.toNat, .fmt], [.v d.toNat]⟩
  | .vsfuCos d a _ => ⟨.x, 8, [.v a.toNat, .fmt], [.v d.toNat]⟩
  | .vsfuTanh d a _ => ⟨.x, 8, [.v a.toNat, .fmt], [.v d.toNat]⟩
  | .vsfuSigm d a _ => ⟨.x, 8, [.v a.toNat, .fmt], [.v d.toNat]⟩
  | .vfabs d a => ⟨.vf, 4, [.v a.toNat, .fmt], [.v d.toNat]⟩
  | .vfcls d a => ⟨.vf, 4, [.v a.toNat, .fmt], [.v d.toNat]⟩
  | .vcvt d a _ _ _ => ⟨.x, 8, [.v a.toNat, .fmt], [.v d.toNat]⟩
  | .vqnt d a b _ => ⟨.x, 8, [.v a.toNat, .v b.toNat, .fmt], [.v d.toNat]⟩
  | .vdqnt d a b _ => ⟨.x, 8, [.v a.toNat, .v b.toNat, .fmt], [.v d.toNat]⟩
  | .vlqenc d a b _ _ => ⟨.x, 8, [.v a.toNat, .v b.toNat], [.v d.toNat]⟩
  | .vlqdec d a b _ _ => ⟨.x, 8, [.v a.toNat, .v b.toNat, .fmt], [.v d.toNat]⟩
  | .vlqins d a b _ _ => ⟨.x, 8, [.v a.toNat, .v b.toNat, .v d.toNat], [.v d.toNat]⟩
  | .vlqerr d a b _ _ => ⟨.x, 8, [.v a.toNat, .v b.toNat, .fmt, .v d.toNat], [.v d.toNat]⟩
  | .coll sa sb _ _ _ _ => ⟨.me, 0, [.s sa.toNat, .s (sa.toNat + 1), .s (sa.toNat + 2), .s (sa.toNat + 3), .s sb.toNat, .fmt], []⟩
  | .cbulk sa sb _ _ _ _ => ⟨.me, 0, [.s sa.toNat, .s (sa.toNat + 1), .s (sa.toNat + 2), .s (sa.toNat + 3), .s sb.toNat, .fmt], []⟩
  | .compact sa sb _ _ _ _ => ⟨.me, 0, [.s sa.toNat, .s (sa.toNat + 1), .s sb.toNat], []⟩
  | .qpush sa _ => ⟨.me, 0, [.v sa.toNat], []⟩
  | .qstat sb => ⟨.me, 0, [], [.s sb.toNat]⟩
  | .epoll sa sb => ⟨.me, 0, [.s sa.toNat], [.s sb.toNat]⟩
  | .ecancel sa sb => ⟨.me, 0, [.s sa.toNat], [.s sb.toNat]⟩
  | .capent a => ⟨.me, 0, [.s a.toNat], []⟩
  | .capexit => ⟨.me, 0, [], []⟩
  | .kld d a _ => ⟨.me, 0, [.k a.toNat], [.k d.toNat]⟩
  | .kst d a _ => ⟨.me, 0, [.k a.toNat, .k d.toNat], []⟩
  | .kamo d a _ fn => ⟨.me, 0, [.k a.toNat, .k d.toNat] ++ (if fn = 9#4 then [.k (d.toNat + 1)] else []), [.k d.toNat]⟩
  | .kmovs d a => ⟨.me, 1, [.k a.toNat], [.s d.toNat]⟩
  | .kmovk d a => ⟨.me, 1, [.s a.toNat], [.k d.toNat]⟩
  | .capstat d => ⟨.me, 1, [], [.s d.toNat]⟩
  | .sld t a _ _ _ => ⟨.me, 0, [.s a.toNat], [.s t.toNat]⟩
  | .sst t a _ _ _ => ⟨.me, 0, [.s t.toNat] ++ [.s a.toNat], []⟩
  | .vld t a _ sz _ => ⟨.me, 0, [.s a.toNat], vecPair sz t⟩
  | .vst t a _ sz _ => ⟨.me, 0, vecPair sz t ++ [.s a.toNat], []⟩
  | .vldg t a off sz _ => ⟨.me, 0, [.s off.toNat, .v a.toNat], vecPair sz t⟩
  | .vsts t a off sz _ => ⟨.me, 0, vecPair sz t ++ [.s off.toNat, .v a.toNat], []⟩
  | .bld t a _ sz _ => ⟨.me, 0, [.s a.toNat], vecPair sz t⟩
  | .bst t a _ sz _ => ⟨.me, 0, vecPair sz t ++ [.s a.toNat], []⟩
  | .bldg t a off sz _ => ⟨.me, 0, [.s off.toNat, .v a.toNat], vecPair sz t⟩
  | .bsts t a off sz _ => ⟨.me, 0, vecPair sz t ++ [.s off.toNat, .v a.toNat], []⟩
  | .amoAdd d a _ _ _ => ⟨.me, 0, [.s a.toNat, .s d.toNat], [.s d.toNat]⟩
  | .amoAnd d a _ _ _ => ⟨.me, 0, [.s a.toNat, .s d.toNat], [.s d.toNat]⟩
  | .amoOr d a _ _ _ => ⟨.me, 0, [.s a.toNat, .s d.toNat], [.s d.toNat]⟩
  | .amoXor d a _ _ _ => ⟨.me, 0, [.s a.toNat, .s d.toNat], [.s d.toNat]⟩
  | .amoMin d a _ _ _ => ⟨.me, 0, [.s a.toNat, .s d.toNat], [.s d.toNat]⟩
  | .amoMax d a _ _ _ => ⟨.me, 0, [.s a.toNat, .s d.toNat], [.s d.toNat]⟩
  | .amoMinu d a _ _ _ => ⟨.me, 0, [.s a.toNat, .s d.toNat], [.s d.toNat]⟩
  | .amoMaxu d a _ _ _ => ⟨.me, 0, [.s a.toNat, .s d.toNat], [.s d.toNat]⟩
  | .amoXchg d a _ _ _ => ⟨.me, 0, [.s a.toNat, .s d.toNat], [.s d.toNat]⟩
  | .amoCas d a _ _ _ => ⟨.me, 0, [.s a.toNat, .s d.toNat, .s (d.toNat + 1)], [.s d.toNat]⟩
  | .amoFadd32 d a _ _ => ⟨.me, 0, [.s a.toNat, .s d.toNat], [.s d.toNat]⟩
  | .amoFadd16x2 d a _ _ => ⟨.me, 0, [.s a.toNat, .s d.toNat], [.s d.toNat]⟩
  | .amoFmin32 d a _ _ => ⟨.me, 0, [.s a.toNat, .s d.toNat], [.s d.toNat]⟩
  | .amoFmax32 d a _ _ => ⟨.me, 0, [.s a.toNat, .s d.toNat], [.s d.toNat]⟩
  | .vamoAdd d a _ sz _ => ⟨.me, 0, [.v a.toNat, .v (a.toNat + 1)] ++ vecPair sz d, vecPair sz d⟩
  | .vamoAnd d a _ sz _ => ⟨.me, 0, [.v a.toNat, .v (a.toNat + 1)] ++ vecPair sz d, vecPair sz d⟩
  | .vamoOr d a _ sz _ => ⟨.me, 0, [.v a.toNat, .v (a.toNat + 1)] ++ vecPair sz d, vecPair sz d⟩
  | .vamoXor d a _ sz _ => ⟨.me, 0, [.v a.toNat, .v (a.toNat + 1)] ++ vecPair sz d, vecPair sz d⟩
  | .vamoMin d a _ sz _ => ⟨.me, 0, [.v a.toNat, .v (a.toNat + 1)] ++ vecPair sz d, vecPair sz d⟩
  | .vamoMax d a _ sz _ => ⟨.me, 0, [.v a.toNat, .v (a.toNat + 1)] ++ vecPair sz d, vecPair sz d⟩
  | .vamoMinu d a _ sz _ => ⟨.me, 0, [.v a.toNat, .v (a.toNat + 1)] ++ vecPair sz d, vecPair sz d⟩
  | .vamoMaxu d a _ sz _ => ⟨.me, 0, [.v a.toNat, .v (a.toNat + 1)] ++ vecPair sz d, vecPair sz d⟩
  | .vamoXchg d a _ sz _ => ⟨.me, 0, [.v a.toNat, .v (a.toNat + 1)] ++ vecPair sz d, vecPair sz d⟩
  | .vamoCas d a _ sz _ => ⟨.me, 0, [.v a.toNat, .v (a.toNat + 1)] ++ vecCas sz d, vecPair sz d⟩
  | .vamoFadd32 d a _ _ => ⟨.me, 0, [.v a.toNat, .v (a.toNat + 1), .v d.toNat], [.v d.toNat]⟩
  | .vamoFadd16x2 d a _ _ => ⟨.me, 0, [.v a.toNat, .v (a.toNat + 1), .v d.toNat], [.v d.toNat]⟩
  | .vamoFmin32 d a _ _ => ⟨.me, 0, [.v a.toNat, .v (a.toNat + 1), .v d.toNat], [.v d.toNat]⟩
  | .vamoFmax32 d a _ _ => ⟨.me, 0, [.v a.toNat, .v (a.toNat + 1), .v d.toNat], [.v d.toNat]⟩
  | .fence _ _ => ⟨.me, 0, [], []⟩
  | .bar => ⟨.me, 0, [], []⟩
  | .tbar => ⟨.me, 0, [], []⟩
  | .arrive a b => ⟨.me, 0, [.s a.toNat, .s b.toNat], []⟩
  | .await a b => ⟨.me, 0, [.s a.toNat, .s b.toNat], []⟩
  | .ainit a b => ⟨.me, 0, [.s a.toNat, .s b.toNat], []⟩
  | .fenceCode _ => ⟨.me, 0, [], []⟩
  | .iflush => ⟨.me, 0, [], []⟩
  | .tsread d => ⟨.me, 0, [], [.s d.toNat]⟩
  | .feset _ a b => ⟨.me, 0, [.s a.toNat, .s b.toNat], []⟩
  | .fetest d a => ⟨.me, 0, [.s a.toNat], [.s d.toNat]⟩
  | .tcopy sa sb _ _ _ _ => ⟨.me, 0, [.s sa.toNat, .s (sa.toNat + 1), .s (sa.toNat + 2), .s (sa.toNat + 3), .s sb.toNat], []⟩
  | .tcopym sa sb _ _ _ _ => ⟨.me, 0, [.s sa.toNat, .s (sa.toNat + 1), .s (sa.toNat + 2), .s (sa.toNat + 3), .s sb.toNat], []⟩
  | .mxldb sa sb _ _ _ => ⟨.me, 0, [.s sa.toNat, .s (sa.toNat + 1), .s sb.toNat, .fmt], []⟩
  | .mxop sa sb _ _ _ => ⟨.me, 0, [.s sa.toNat, .s (sa.toNat + 1), .s sb.toNat, .fmt], []⟩
  | .mxfence sb => ⟨.me, 0, [], [.s sb.toNat]⟩
  | .mxwait sa => ⟨.me, 0, [.s sa.toNat], []⟩
  | .mxacq => ⟨.me, 0, [], []⟩
  | .mxrel => ⟨.me, 0, [], []⟩
  | .bform sa => ⟨.me, 0, [.s sa.toNat], []⟩
  | .bjoin sa => ⟨.me, 0, [.s sa.toNat], []⟩
  | .bbrk => ⟨.me, 0, [], []⟩
  | .msma sa => ⟨.me, 0, [.s sa.toNat], []⟩
  | .msmf => ⟨.me, 0, [], []⟩
  | .msmrd sa sb _ _ _ => ⟨.me, 0, [.s sa.toNat, .s (sa.toNat + 1), .s sb.toNat, .fmt], []⟩
  | .plngo sa sb => ⟨.me, 0, [.s sa.toNat, .s (sa.toNat + 1), .s sb.toNat, .fmt], []⟩
  | .plnstop => ⟨.me, 0, [], []⟩
  | .trap _ => ⟨.me, 0, [], []⟩
  | .tret => ⟨.me, 0, [], []⟩
  | .launch d a => ⟨.me, 0, [.s a.toNat], [.s d.toNat]⟩
  | .lwait a => ⟨.me, 0, [.s a.toNat], []⟩
  | .exit => ⟨.me, 0, [], []⟩
  | .jighint _ a b => ⟨.me, 0, [.s a.toNat, .s b.toNat], []⟩
  | .brkpt _ => ⟨.me, 0, [], []⟩
  | .nop => ⟨.none, 0, [], []⟩
  | .fetchFault _ => ⟨.none, 0, [], []⟩
  | .loadCompletion _ => ⟨.none, 0, [], []⟩
  | .storeCompletion _ => ⟨.none, 0, [], []⟩
  | .remoteResponse _ _ => ⟨.none, 0, [], []⟩
  | .inboundDomainRequest _ => ⟨.none, 0, [], []⟩
  | .hostDeviceAccess _ => ⟨.none, 0, [], []⟩
  | .hostRequestFailure _ => ⟨.none, 0, [], []⟩
  | .copyRowLanding _ => ⟨.none, 0, [], []⟩
  | .engineCommandCompletion _ => ⟨.none, 0, [], []⟩
  | .deferredFaultDelivery _ => ⟨.none, 0, [], []⟩
  | .bondFormation _ => ⟨.none, 0, [], []⟩
  | .capsuleStepCommit _ => ⟨.none, 0, [], []⟩
  | .eventWindowStart _ => ⟨.none, 0, [], []⟩
  | .fragmentPromotion _ => ⟨.none, 0, [], []⟩
  | .yieldExpiry _ => ⟨.none, 0, [], []⟩
  | .warpRetirement _ => ⟨.none, 0, [], []⟩
  | .launchRecordAdmission => ⟨.none, 0, [], []⟩
  | .teamPlacement => ⟨.none, 0, [], []⟩
  | .runSliceExpiry _ => ⟨.none, 0, [], []⟩
  | .waitSliceExpiry _ => ⟨.none, 0, [], []⟩
  | .lwaitPreemption _ => ⟨.none, 0, [], []⟩
  | .teamSave _ => ⟨.none, 0, [], []⟩
  | .teamResume _ => ⟨.none, 0, [], []⟩
  | .deadContextDrainComplete _ => ⟨.none, 0, [], []⟩
  | .dieLossDeclaration _ => ⟨.none, 0, [], []⟩
  | .queueDescriptorWrite _ _ _ _ => ⟨.none, 0, [], []⟩
  | .managementRegisterWrite _ _ _ => ⟨.none, 0, [], []⟩
  | .translationInvalidation => ⟨.none, 0, [], []⟩
  | .hostKill => ⟨.none, 0, [], []⟩
  | .clearRateHint => ⟨.none, 0, [], []⟩
  | .cmdNoEffect _ => ⟨.none, 0, [], []⟩
  | .deviceReset _ => ⟨.none, 0, [], []⟩
  | .thermalShutdown => ⟨.none, 0, [], []⟩
  | .engineCommandStart _ => ⟨.none, 0, [], []⟩
  | .managementCommandCompletion => ⟨.none, 0, [], []⟩

end Sys2Proof.Machine
end

