-- ==== Sys2Proof/Machine/Units.lean ====
section
/-! DEFINITION. Looking units up by identity, and reading registers as a group reads them (R93, R97, R106, R116, R282). -/

namespace Sys2Proof.Machine

namespace State

def frag? (s : State) (i : Nat) : Option Frag := Table.get? s.frags i
def warp? (s : State) (i : Nat) : Option Warp := Table.get? s.warps i
def wg? (s : State) (i : Nat) : Option Wg := Table.get? s.wgs i
def team? (s : State) (i : Nat) : Option Team := Table.get? s.teams i
def grid? (s : State) (i : Nat) : Option Grid := Table.get? s.grids i
def core (s : State) (i : Nat) : Core := Table.getD s.cores i {}
def ctx (s : State) (c : Nat) : Ctx := Table.getD s.ctxs c {}
def queue (s : State) (q : Nat) : Queue := Table.getD s.queues q {}

def setFrag (s : State) (i : Nat) (f : Frag) : State := { s with frags := Table.set s.frags i f }
def setWarp (s : State) (i : Nat) (w : Warp) : State := { s with warps := Table.set s.warps i w }
def setWg (s : State) (i : Nat) (g : Wg) : State := { s with wgs := Table.set s.wgs i g }
def setTeam (s : State) (i : Nat) (t : Team) : State := { s with teams := Table.set s.teams i t }
def setGrid (s : State) (i : Nat) (g : Grid) : State := { s with grids := Table.set s.grids i g }
def setCore (s : State) (i : Nat) (c : Core) : State := { s with cores := Table.put {} s.cores i c }
def setCtx (s : State) (i : Nat) (c : Ctx) : State := { s with ctxs := Table.set s.ctxs i c }
def setQueue (s : State) (i : Nat) (q : Queue) : State := { s with queues := Table.put {} s.queues i q }

def modFrag (s : State) (i : Nat) (f : Frag → Frag) : State := { s with frags := Table.modify s.frags i f }
def modWarp (s : State) (i : Nat) (f : Warp → Warp) : State := { s with warps := Table.modify s.warps i f }
def modWg (s : State) (i : Nat) (f : Wg → Wg) : State := { s with wgs := Table.modify s.wgs i f }
def modTeam (s : State) (i : Nat) (f : Team → Team) : State := { s with teams := Table.modify s.teams i f }
def modGrid (s : State) (i : Nat) (f : Grid → Grid) : State := { s with grids := Table.modify s.grids i f }
def modCore (s : State) (i : Nat) (f : Core → Core) : State := s.setCore i (f (s.core i))
def modCtx (s : State) (i : Nat) (f : Ctx → Ctx) : State := s.setCtx i (f (s.ctx i))
def modCmd (s : State) (i : Nat) (f : Cmd → Cmd) : State := { s with cmds := Table.modify s.cmds i f }
def modOp (s : State) (i : Nat) (f : Op → Op) : State := { s with ops := Table.modify s.ops i f }
def modIssue (s : State) (f : Issue → Issue) : State := { s with issue := s.issue.map f }

/-- A new identity; identities rise in issue order (R101). -/
def fresh (s : State) : Nat × State := (s.serial, { s with serial := s.serial + 1 })

/-- The grid of a workgroup, by identity. -/
def gridOfWg (s : State) (g : Wg) : Nat := ((s.team? g.team).map Team.grid).getD 0

/-- The context of a workgroup. -/
def ctxOfWg (s : State) (g : Wg) : Nat := ((s.grid? (s.gridOfWg g)).map Grid.ctx).getD 0

/-- The context of a warp. -/
def ctxOfWarp (s : State) (w : Warp) : Nat := ((s.wg? w.wg).map s.ctxOfWg).getD 0

/-- The live fragments of a warp, ascending by identity. -/
def fragsOf (s : State) (w : Nat) : List (Nat × Frag) := s.frags.filter (fun p => p.2.warp == w)

/-- The warps of a workgroup, its planer's registers apart. -/
def warpsOf (s : State) (g : Nat) : List (Nat × Warp) := s.warps.filter (fun p => p.2.wg == g && p.2.planer.isNone)

/-- The workgroups of a team. -/
def wgsOf (s : State) (t : Nat) : List (Nat × Wg) := s.wgs.filter (fun p => p.2.team == t)

/-- The member m of a team. -/
def member? (s : State) (t m : Nat) : Option (Nat × Wg) := (s.wgsOf t).find? (fun p => p.2.member == m)

/-- Workgroups of a team (R30). -/
def teamSize (s : State) (t : Nat) : Nat :=
  (((s.team? t).bind (fun x => s.grid? x.grid)).map (fun g => g.record.team)).getD 1

/-- The interrupt vector of a context's notices (R378): that of its valid entry of the context table, else 0. -/
def ctxEntry (s : State) (c : Nat) : Option CtxEntry :=
  (s.ctxTable.vals.find? (fun e => e.valid && e.ctxid.toNat == c))

def evvec (s : State) (c : Nat) : Nat := ((s.ctxEntry c).map (fun e => e.evvec.toNat)).getD 0

/-- Posts an MSI-X interrupt. -/
def post (s : State) (vector : Nat) (n : Notice) : State := { s with interrupts := s.interrupts ++ [(vector, n)] }

end State

/-- The team's fragments issue. -/
def TeamState.goesOn : TeamState → Bool
  | .resident | .chosen => true
  | .waiting | .saving | .saved => false

/-- The team holds its cores. -/
def TeamState.onCores : TeamState → Bool
  | .resident | .chosen | .saving => true
  | .waiting | .saved => false

/-- The fragment has ceased to be ready, and is so again from a tick at the earliest (R341, R342). -/
def Frag.readyFrom (f : Frag) (tick : Nat) : Frag := { f with readySince := max tick f.notBefore, promoted := none }

/-- The lanes 0 to width - 1 (R27). -/
def widthMask (w : Warp) : Lanes := Lanes.below w.width

/-- Active of a fragment (R27). -/
def activeOf (w : Warp) (f : Frag) : Lanes := f.lm &&& widthMask w

/-- A word's surroundings while its group issues: the group, its fragment, warp and workgroup with their identities. -/
structure View where
  i : Issue
  fid : Nat
  f : Frag
  wid : Nat
  w : Warp
  gid : Nat
  g : Wg
deriving DecidableEq, Repr

/-- The surroundings of fragment fid under issue i. -/
def State.viewOf (s : State) (i : Issue) : Option View :=
  match s.frag? i.frag with
  | none => none
  | some f =>
    match s.warp? f.warp with
    | none => none
    | some w =>
      match s.wg? w.wg with
      | none => none
      | some g => some ⟨i, i.frag, f, f.warp, w, w.wg, g⟩

/-- The surroundings of the word being executed. -/
def State.view? (s : State) : Option View := s.issue.bind s.viewOf

/-- A fragment's next group is one of the capsule's body: it is inside the body, and in no handler entered from it (R308, R319). -/
def Capsule.runs (c : Capsule) (fid : Nat) (f : Frag) : Bool := c.frag == fid && c.hnd == f.hnd

/-- A body word ends its group (R90). -/
def endsGroup (p : Dword × Word) : Bool := !p.2.getLsbD 31 || p.1.toNat % 12 == 8

/-- The number of the step whose group holds an address of a body: its position, counted on from the number of the first (R311). -/
def Capsule.stepAt (c : Capsule) (pc : Dword) : Nat := c.first + ((c.body.takeWhile (fun p => p.1 != pc)).filter endsGroup).length

/-- The body that the scan admitted holds a word at an address (R309). -/
def Capsule.admits (c : Capsule) (a : Dword) : Bool := c.body.any (fun p => p.1 == a)

/-- The fragment runs a capsule body. -/
def View.inBody (v : View) : Bool := v.w.capsule.any (fun c => c.runs v.fid v.f)

/-- The word executes in the planer slot (R280). -/
def View.inPlaner (v : View) : Bool := v.w.planer.isSome

def View.active (v : View) : Lanes := activeOf v.w v.f

/-- The tick of the group (R95). -/
def View.t (v : View) : Nat := v.f.t

/-- The address of the packet that holds the group (R90). -/
def packetAddr (pc : Dword) : Dword := BitVec.ofNat 64 (pc.toNat - pc.toNat % 12)

/-- The group that follows in fall-through order (R90, R123). -/
def View.nextGroup (v : View) : Dword := v.i.pc + BitVec.ofNat 64 (4 * v.i.words)

/-- s0 to s63, whichever bank holds them (R26). -/
def View.sReg (v : View) (n : Nat) : Dword := if n < 48 then Table.getD v.w.s n 0 else Table.getD v.f.s n 0

def View.k (v : View) (n : Nat) : Dword := Table.getD v.w.k n 0

/-- A scalar field: s outside a capsule body and k inside one (R106, R116). -/
def View.s (v : View) (n : Nat) : Dword := if v.inBody then v.k n else v.sReg n

def View.m (v : View) (n : Nat) : Lanes := Table.getD v.f.m n 0

/-- The register vn is mapped as a queue (R137). -/
def mapped (w : Warp) (n : Nat) : Bool := decide (56 ≤ n) && w.qmap.getLsbD (n - 56)

/-- Lane i of vn: of the entry the word popped, where vn is mapped (R282). -/
def View.v (v : View) (n i : Nat) : Word :=
  if mapped v.w n then
    match v.i.popped.find? (fun p => p.1 == v.i.word && p.2.1 == n - 56) with
    | some p => Table.getD p.2.2 i 0
    | none => 0
  else Table.getD v.w.v (64 * n + i) 0

/-- FMT as visible at issue (R67, R77, R133). -/
def View.fmt (v : View) : Word := v.f.fmt

/-- FMT.RM, FMT.VF and FMT.QF (R75). -/
def fmtRM (x : Word) : Nat := bitsAt x 0 3
def fmtVF (x : Word) : Nat := bitsAt x 3 2
def fmtQF (x : Word) : Nat := bitsAt x 5 3
def fmtMA (x : Word) : BitVec 4 := x.extractLsb' 8 4
def fmtMB (x : Word) : BitVec 4 := x.extractLsb' 12 4
def fmtSA (x : Word) : BitVec 8 := x.extractLsb' 16 8
def fmtSB (x : Word) : BitVec 8 := x.extractLsb' 24 8

/-- The rounding mode of a rounding field (R67). -/
def View.rm (v : View) (rm : BitVec 3) : Rm := Rm.ofCode (if rm = 0 then fmtRM v.fmt else rm.toNat)

end Sys2Proof.Machine
end

