-- ==== Sys2Proof/Machine/Phys.lean ====
section
/-! DEFINITION. The physical map (R182, R194, R198), bytes of memory and bench, and the dies a request names (R20, R21). Memory is
keyed by canonical address: one key for a byte, whichever window names it (R199). -/

namespace Sys2Proof.Machine

/-- Bytes of one stack's linear range (R182). -/
def stackBytes : Nat := 0xC00000000
/-- The end of the linear window. -/
def linearEnd : Nat := 0x6000000000
/-- The interleaved window. -/
def interBase : Nat := 0x8000000000
def interEnd : Nat := 0xE000000000
/-- CMEM. -/
def cmemBase : Nat := 0xF000000000
def cmemEnd : Nat := 0xF004000000
/-- The domain window. -/
def domainBase : Nat := 0x4000000000000
def domainEnd : Nat := 0x8000000000000
/-- Host memory, from there on. -/
def hostEnd : Nat := 0x10000000000000

/-- The linear address of a byte of the interleaved window (R198). -/
def interToLinear (a : Nat) : Nat :=
  let g := (a - interBase) / 4096
  let r := g % 1024
  (r / 128) * stackBytes + ((g / 1024) * 128 + r % 128) * 4096 + (a - interBase) % 4096

/-- The stack was skipped at boot (R385). -/
def State.skipped (s : State) (stack : Nat) : Bool := s.boot.rate.getD stack 0 == 3

/-- A byte of a device's own map below 2^40, canonical; none where nothing is fitted (R182, R385). -/
def ownCanon (skipped : Nat → Bool) (a : Nat) : Option Nat :=
  if a < linearEnd then (if skipped (a / stackBytes) then none else some a)
  else if interBase ≤ a ∧ a < interEnd then
    (if (List.range 8).any skipped then none else some (interToLinear a))
  else if cmemBase ≤ a ∧ a < cmemEnd then some a
  else none

/-- The canonical address of a physical address, or none outside the map of R182: an own-device domain address is local, and a device without a
routing entry is not reached (R381), nor one whose port is absent (R385; assumption log 85). The bytes of a stack of a die declared lost stand
until a reset (assumption log 100). -/
def State.canon (s : State) (a : Nat) : Option Nat :=
  if a < domainBase then ownCanon s.skipped a
  else if a < domainEnd then
    let d := (a - domainBase) / 2 ^ 40
    let low := a % 2 ^ 40
    if d = s.devnum.toNat then ownCanon s.skipped low
    else
      match Table.get? s.routes d with
      | none => none
      | some p => if s.boot.absent.contains p then none else (ownCanon (fun _ => false) low).map (fun x => domainBase + d * 2 ^ 40 + x)
  else if a < hostEnd then some a
  else none

/-- What kind of storage a canonical address lies in. -/
inductive Store where
  | hbm | cmem | remote | host
deriving DecidableEq, Repr

def storeOf (a : Nat) : Store :=
  if a < linearEnd then .hbm else if a < domainBase then .cmem else if a < domainEnd then .remote else .host

/-- The device's own memory (R234). -/
def ownMem (a : Nat) : Bool := decide (a < domainBase)

/-- The Yefort port of a canonical address of another device (R205). -/
def State.portOf (s : State) (a : Nat) : Nat := Table.getD s.routes ((a - domainBase) / 2 ^ 40) 0

/-- The port of a location, where it lies on another device. -/
def State.locPort (s : State) (l : Loc) : Option Nat :=
  match l with
  | .phys a => if storeOf a = .remote then some (s.portOf a) else none
  | .bench _ _ => none

/-- The DIEMASK bits that a request to a location sets (R20, R21): its home's B-die, or the I-die of its port with that die's B-die. -/
def State.dieBits (s : State) (l : Loc) : BitVec 8 :=
  match l with
  | .bench _ _ => 0
  | .phys a =>
    match storeOf a with
    | .hbm => if a / stackBytes < 4 then 4 else 8
    | .cmem => if (a - cmemBase) / 2 ^ 25 = 0 then 4 else 8
    | .host => 0x14
    | .remote => if s.portOf a < 9 then 0x14 else 0x28

/-- The DIEMASK bits of a core (R21). -/
def coreDies (core : Nat) : BitVec 8 := if core < 384 then 5 else 10

/-- A byte of memory by canonical address; an unlisted byte reads as 0 (assumption log 3). -/
def State.readByte (s : State) (a : Nat) : Byte := Table.getD s.mem a 0

def State.writeByte (s : State) (a : Nat) (x : Byte) : State := { s with mem := Table.put 0 s.mem a x }

/-- A byte at a location. -/
def State.readLoc (s : State) (l : Loc) : Byte :=
  match l with
  | .phys a => s.readByte a
  | .bench g o => ((s.wg? g).map (fun w => Table.getD w.bench o 0)).getD 0

def State.writeLoc (s : State) (l : Loc) (x : Byte) : State :=
  match l with
  | .phys a => s.writeByte a x
  | .bench g o => s.modWg g (fun w => { w with bench := Table.put 0 w.bench o x })

/-- The little-endian value of bytes at locations (R216). -/
def State.readLocs (s : State) : List Loc → Nat
  | [] => 0
  | l :: r => (s.readLoc l).toNat + 256 * s.readLocs r

/-- Writes the low bytes of a value, little-endian (R216). -/
def State.writeLocs (s : State) : List Loc → Nat → State
  | [], _ => s
  | l :: r, x => (s.writeLoc l (BitVec.ofNat 8 x)).writeLocs r (x / 256)

/-- Writes a list of bytes at locations. -/
def State.writeBytes (s : State) : List Loc → List Byte → State
  | l :: r, b :: t => (s.writeLoc l b).writeBytes r t
  | _, _ => s

/-- The locations of n bytes of a bench allocation. -/
def benchLocs (wg off n : Nat) : List Loc := (List.range n).map (fun j => .bench wg (off + j))

/-- A value of n bytes at a physical address, each byte found by itself; none where a byte lies outside the map. -/
def State.physLocs (s : State) (a n : Nat) : Option (List Loc) :=
  allSome ((List.range n).map (fun j => (s.canon (a + j)).map Loc.phys))

/-- Memory is in its canonical form. -/
abbrev Memory.wf (m : List Host.Cell) : Prop := Table.wf (0 : Byte) m = true

/-- The DIEMASK bits that requests to locations set. -/
def State.dieBitsOf (s : State) (ls : List Loc) : BitVec 8 := ls.foldl (fun a l => a ||| s.dieBits l) 0

/-- A request of a context would set the DIEMASK bit of a lost die (R372). -/
def State.namesLost (s : State) (ls : List Loc) : Bool :=
  (s.dieBitsOf ls &&& s.lostDies.zeroExtend 8) != 0

/-- Sets the DIEMASK bits of a context for requests (R21). -/
def State.markDies (s : State) (c : Nat) (bits : BitVec 8) : State :=
  if bits = 0 then s else s.modCtx c (fun x => { x with diemask := x.diemask ||| bits })

end Sys2Proof.Machine
end

