-- ==== Sys2Proof/Machine/Translate.lean ====
section
/-! DEFINITION. Address translation (R23, R201, R359, R360): a walk as a recursion on the list of levels. -/

namespace Sys2Proof.Machine

/-- A walk that stopped: reason and level (R360). -/
structure WalkFault where
  reason : Nat
  level : Nat
deriving DecidableEq, Repr

/-- DETAIL of a translation fault (R352): level in bits 2:0, reason in bits 5:3. -/
def WalkFault.detail (w : WalkFault) : BitVec 18 := BitVec.ofNat 18 (w.level + 8 * w.reason)

/-- One level of the walk (R359). -/
structure Level where
  num : Nat
  /-- The lowest bit of its index, which is also the size of a leaf's page. -/
  shift : Nat
  bits : Nat
  leafOk : Bool
  /-- Bytes of the next level's table; 0 at the last level. -/
  nextSize : Nat
deriving DecidableEq, Repr

/-- The five levels (R359). -/
def levels : List Level :=
  [⟨0, 48, 9, false, 4096⟩, ⟨1, 39, 9, false, 16384⟩, ⟨2, 28, 11, true, 512⟩, ⟨3, 22, 6, true, 256⟩, ⟨4, 17, 5, true, 0⟩]

/-- A virtual address is canonical (R23): bits 63:57 equal bit 56. -/
def canonicalVa (va : Dword) : Bool :=
  let top := bitsAt va 56 8
  top == 0 || top == 255

/-- n bytes at a lie wholly in the device's own HBM (R360). -/
def State.inHbm (s : State) (a n : Nat) : Bool :=
  match s.canon a, s.canon (a + n - 1) with
  | some x, some y => decide (x < linearEnd) && decide (y < linearEnd)
  | _, _ => false

/-- A physical address names HBM of the device itself, fitted or not (R201, R360): through either window, or through the domain window. -/
def State.namesHbm (s : State) (a : Nat) : Bool :=
  let low := if domainBase ≤ a ∧ a < domainEnd ∧ (a - domainBase) / 2 ^ 40 = s.devnum.toNat then a % 2 ^ 40 else a
  decide (low < linearEnd) || (decide (interBase ≤ low) && decide (low < interEnd))

/-- Eight bytes at a physical address, as the walker reads them. -/
def State.readPhys64 (s : State) (a : Nat) : Nat :=
  match s.physLocs a 8 with
  | some ls => s.readLocs ls
  | none => 0

/-- The page kind of a leaf entry (R359). -/
def kindOf (c : Nat) : Kind := if c = 1 then .so else if c = 2 then .uo else .rc

/-- The walk from a table of one level on (R359, R360). The conditions of an entry are examined in the order of their reasons. -/
def State.walkFrom (s : State) (va : Dword) : List Level → Nat → Except WalkFault Page
  | [], _ => .error ⟨3, 4⟩
  | l :: rest, table =>
    if !s.inHbm table (8 * 2 ^ l.bits) then .error ⟨6, l.num⟩
    else
      let e := s.readPhys64 (table + 8 * bitsAt va l.shift l.bits)
      let leaf := e / 2 % 2 == 1
      let addr := e / 2 ^ 8 % 2 ^ 44 * 2 ^ 8
      let kind := e / 2 ^ 52 % 4
      let comp := e / 2 ^ 54 % 2 == 1
      if e % 2 = 0 then .error ⟨0, l.num⟩
      else if e / 2 ^ 59 ≠ 0 ∨ e / 4 % 64 ≠ 0 ∨ (leaf = false ∧ e / 2 ^ 52 % 128 ≠ 0) ∨ (leaf = true ∧ kind = 3) then .error ⟨1, l.num⟩
      else if (leaf = true ∧ l.leafOk = true ∧ addr % 2 ^ l.shift ≠ 0) ∨ (leaf = false ∧ l.nextSize ≠ 0 ∧ addr % l.nextSize ≠ 0) then
        .error ⟨2, l.num⟩
      else if leaf then
        (if !l.leafOk then .error ⟨3, l.num⟩
         else if comp && !(s.namesHbm addr) then .error ⟨4, l.num⟩
         else .ok ⟨addr, l.shift, kindOf kind, comp, e / 2 ^ 56 % 2 == 1, e / 2 ^ 57 % 2 == 1, e / 2 ^ 58 % 2 == 1⟩)
      else if l.nextSize = 0 then .error ⟨3, l.num⟩
      else s.walkFrom va rest addr

/-- The walk of a virtual address by the tables as they stand. A context without a valid entry of the context table has no translation. -/
def State.walk (s : State) (c : Nat) (va : Dword) : Except WalkFault Page :=
  if !canonicalVa va then .error ⟨5, 0⟩
  else
    match s.ctxEntry c with
    | none => .error ⟨0, 0⟩
    | some e => s.walkFrom va levels (e.ptroot.toNat * 4096)

/-- A kept translation covers a virtual address (R361). -/
def Kept.covers (k : Kept) (c : Nat) (va : Dword) : Bool := k.ctx == c && k.va.toNat / 2 ^ k.page.shift == va.toNat / 2 ^ k.page.shift

/-- The page of a virtual address in a context: of a translation kept from an earlier walk, or of a walk (R361). -/
def State.translate (s : State) (c : Nat) (va : Dword) : Except WalkFault Page :=
  match s.kept.find? (fun k => k.covers c va) with
  | some k => .ok k.page
  | none => s.walk c va

/-- A translation is kept (R361), in place of an earlier one for the address. -/
def State.keepTranslation (s : State) (c : Nat) (va : Dword) : State :=
  match s.walk c va with
  | .ok p => { s with kept := ⟨c, va, p⟩ :: s.kept.filter (fun k => !k.covers c va) }
  | .error _ => { s with kept := s.kept.filter (fun k => !k.covers c va) }

/-- A translation invalidation of a context completes (R361, R380). -/
def State.forgetTranslations (s : State) (c : Nat) : State := { s with kept := s.kept.filter (fun k => k.ctx != c) }

/-- The physical address of a virtual address on its page. -/
def Page.phys (p : Page) (va : Dword) : Nat := p.pa + va.toNat % 2 ^ p.shift

end Sys2Proof.Machine
end

