-- ==== Sys2Proof/Machine/Access.lean ====
section
/-! DEFINITION. The checks of an access (R183, R191, R210, R211), lane by lane and byte by byte: the locations an access
reaches with its page kind and address class, or the first fault of R211 that it meets. -/

namespace Sys2Proof.Machine

/-- What an access needs of its page (R201). -/
inductive Need where
  | read | write | both | exec
deriving DecidableEq, Repr

/-- A lane whose checks have passed. -/
structure LaneOk where
  locs : List Loc
  kind : Kind
  cls : Scope
deriving DecidableEq, Repr

/-- A failed check: its place in the order of R211, the byte that fails, and what the trap records. -/
structure Bad where
  order : Nat
  byte : Nat
  code : BitVec 8
  detail : BitVec 18 := 0
deriving DecidableEq, Repr

/-- The first failed check in R211's order, and the first byte that fails it. -/
def firstBad : List Bad → Option Bad
  | [] => none
  | b :: r =>
    match firstBad r with
    | none => some b
    | some c => if c.order < b.order ∨ (c.order = b.order ∧ c.byte < b.byte) then some c else some b

/-- The trap of a failed check on an access at address a. -/
def Bad.trap (b : Bad) (a : Dword) : Trap := { code := b.code, detail := b.detail, addr := a + BitVec.ofNat 64 b.byte }

/-- The allocation that a bench address names, with its workgroup and offset (R183); none where its form or member is bad. -/
def State.benchPlace (s : State) (gid : Nat) (g : Wg) (a : Dword) : Option (Nat × Wg × Nat) :=
  let x := a.toNat
  if x < 2 ^ 19 then some (gid, g, x)
  else if 2 ^ 22 ≤ x ∧ x < 2 ^ 23 then
    let m := x / 2 ^ 19 % 8
    if m = g.member then some (gid, g, x % 2 ^ 19)
    else if m < s.teamSize g.team then (s.member? g.team m).map (fun p => (p.1, p.2, x % 2 ^ 19))
    else none
  else none

/-- Checks 1 and 2 on n bytes at a bench address with an alignment (R211), and the locations. -/
def State.benchAccess (s : State) (gid : Nat) (g : Wg) (a : Dword) (n align : Nat) : Except Bad LaneOk :=
  match s.benchPlace gid g a with
  | none => .error ⟨1, 0, Code.benchRange, 0⟩
  | some p =>
    if p.2.1.benchSize < p.2.2 + n then .error ⟨1, p.2.1.benchSize - p.2.2, Code.benchRange, 0⟩
    else if align ≠ 0 ∧ a.toNat % align ≠ 0 then .error ⟨2, 0, Code.benchAlign, 0⟩
    else .ok ⟨benchLocs p.1 p.2.2 n, .rc, .team⟩

/-- A virtual address lies in the TWIN region of a context (R191). -/
def State.inTwin (s : State) (c : Nat) (a : Dword) : Bool :=
  match (s.ctx c).twin with
  | some t => decide (t ≤ a.toNat) && decide (a.toNat < t + 2 ^ 32)
  | none => false

/-- A virtual address lies in a team's own window (R191). -/
def State.inOwnWindow (s : State) (g : Wg) (a : Dword) : Bool :=
  match s.team? g.team with
  | some t => t.window.isSome && decide (t.base ≤ a.toNat) && decide (a.toNat < t.base + 2 ^ 22)
  | none => false

/-- The byte of a bench that a window address names (R191). -/
def State.windowByte (s : State) (g : Wg) (a : Dword) : Option Loc :=
  match s.team? g.team with
  | none => none
  | some t =>
    if s.inOwnWindow g a then
      let x := a.toNat - t.base
      match s.member? g.team (x / 2 ^ 19) with
      | some p => if x / 2 ^ 19 < s.teamSize g.team ∧ x % 2 ^ 19 < p.2.benchSize then some (.bench p.1 (x % 2 ^ 19)) else none
      | none => none
    else none

/-- The rights a page denies (R352): bit 0 read, 1 write, 2 execute. -/
def Page.denied (p : Page) (n : Need) : BitVec 18 :=
  match n with
  | .read => if p.rd then 0 else 1
  | .write => if p.wr then 0 else 2
  | .both => (if p.rd then 0 else 1) ||| (if p.wr then 0 else 2)
  | .exec => if p.ex then 0 else 4

/-- The address class of a physical location (R210). -/
def clsOf (a : Nat) : Scope := if ownMem a then .dev else .sys

/-- One byte of a virtual access: its location, kind and class, or its fault. -/
structure ByteOk where
  loc : Loc
  kind : Kind
  cls : Scope
deriving DecidableEq, Repr

/-- The wider of two scopes (R210). -/
def Scope.num : Scope → Nat
  | .wg => 0 | .team => 1 | .dev => 2 | .sys => 3

def Scope.max (a b : Scope) : Scope := if a.num < b.num then b else a

/-- Checks 1, 3, 4 and 7 on byte j of an access at a, given the walk of its page (R211). -/
def State.byteCheck (s : State) (c : Nat) (g : Wg) (need : Need) (walk : Except WalkFault Page) (a : Dword) (j : Nat) :
    Except Bad ByteOk :=
  if s.inTwin c a then
    match s.windowByte g a with
    | some l => .ok ⟨l, .rc, .team⟩
    | none => .error ⟨1, j, Code.benchRange, 0⟩
  else
    match walk with
    | .error w => .error ⟨3, j, Code.translationFault, w.detail⟩
    | .ok p =>
      if p.denied need ≠ 0 then .error ⟨4, j, Code.accessFault, p.denied need⟩
      else
        match s.canon (p.phys a) with
        | none => .error ⟨7, j, Code.physRange, 0⟩
        | some x => .ok ⟨.phys x, p.kind, clsOf x⟩

/-- The walk of byte j's page: that of the first byte while both lie in one 128 KiB block. -/
def State.walkOf (s : State) (c : Nat) (a : Dword) (first : Except WalkFault Page) (j : Nat) : Except WalkFault Page :=
  let b := a + BitVec.ofNat 64 j
  if b.toNat / 2 ^ 17 = a.toNat / 2 ^ 17 then first else s.translate c b

/-- The kind of the page of a byte, faults aside: for check 5. -/
def State.byteKind (s : State) (c : Nat) (walk : Except WalkFault Page) (a : Dword) : Kind :=
  if s.inTwin c a then .rc else match walk with
    | .ok p => p.kind
    | .error _ => .rc

/-- Splits results into failures and locations. -/
def bads {α : Type} : List (Except Bad α) → List Bad
  | [] => []
  | .error b :: r => b :: bads r
  | .ok _ :: r => bads r

def oks {α : Type} : List (Except Bad α) → List α
  | [] => []
  | .ok x :: r => x :: oks r
  | .error _ :: r => oks r

/-- The atomic functions that reach host memory (R197). -/
def hostAtomic (fn : BitVec 4) : Bool := fn == 0#4 || fn == 8#4 || fn == 9#4

/-- All checks of R211 on n bytes at a virtual address. `atomic` is the function of an atomic. -/
def State.virtAccess (s : State) (c : Nat) (g : Wg) (need : Need) (atomic : Option (BitVec 4)) (a : Dword) (n : Nat) :
    Except Bad LaneOk :=
  let first := s.translate c a
  let idx := List.range n
  let res := idx.map (fun j => s.byteCheck c g need (s.walkOf c a first j) (a + BitVec.ofNat 64 j) j)
  let k0 := s.byteKind c first a
  let mixed := idx.filterMap (fun j =>
    if s.byteKind c (s.walkOf c a first j) (a + BitVec.ofNat 64 j) = k0 then none
    else some (⟨5, j, Code.mixedKind, 0⟩ : Bad))
  let unaligned := a.toNat % n != 0
  let window := idx.filterMap (fun j =>
    if s.inTwin c (a + BitVec.ofNat 64 j) && unaligned then some (⟨2, j, Code.benchAlign, 0⟩ : Bad) else none)
  let align : List Bad := if atomic.isSome && unaligned then [⟨6, 0, Code.atomicAlign, 0⟩] else []
  let unsup : List Bad :=
    match atomic with
    | none => []
    | some fn =>
      (oks res).filterMap (fun b => match b.loc with
        | .phys x => if storeOf x = .host ∧ hostAtomic fn = false then
            some (⟨8, 0, Code.unsupportedAtomic, fn.zeroExtend 18⟩ : Bad) else none
        | .bench _ _ => none)
  match firstBad (bads res ++ window ++ mixed ++ align ++ unsup) with
  | some b => .error b
  | none => .ok ⟨(oks res).map ByteOk.loc, k0, (oks res).foldl (fun m b => m.max b.cls) .wg⟩

/-- What an operation needs of its pages. -/
def AccessOp.need : AccessOp → Need
  | .load | .tagLoad _ | .fetest | .tsread => .read
  | .store | .tagStore _ | .arrive _ | .ainit _ | .feset _ _ => .write
  | .amo _ => .both

/-- The function of an atomic. -/
def AccessOp.atomic : AccessOp → Option (BitVec 4)
  | .amo fn => some fn
  | _ => none

/-- The bytes of the naturally aligned part, of at most 16 bytes, that n bytes at an address begin with (R200, R209). -/
def partBytes (a n : Nat) : Nat := ([16, 8, 4, 2].find? (fun p => a % p == 0 && decide (p ≤ n))).getD 1

/-- The naturally aligned parts of n bytes at address a, which stand at `off` in their access: places and sizes (R200, R209). -/
def alignedParts : Nat → Nat → Nat → Nat → List (Nat × Nat)
  | 0, _, _, _ => []
  | fuel + 1, a, off, n =>
    if n = 0 then []
    else (off, partBytes a n) :: alignedParts fuel (a + partBytes a n) (off + partBytes a n) (n - partBytes a n)

/-- The parts of a lane's access whose checks have passed: one for each word of FESET and FETEST, in ascending order, those of FETEST
within the allocation (R230), the naturally aligned parts of a plain load or store (R200, R209), and else one. -/
def State.partsOf (s : State) (r : MemReq) (l : LaneReq) (who : Lanes) (ok : LaneOk) : List LaneAcc :=
  let word (j : Nat) (locs : List Loc) : LaneAcc := ⟨j, locs, ok.kind, l.data, l.new, who, 0⟩
  let piece (p : Nat × Nat) : LaneAcc :=
    { lane := l.lane, locs := (ok.locs.drop p.1).take p.2, kind := ok.kind, data := l.data >>> (8 * p.1), new := 0, who := who, off := p.1 }
  match r.op, ok.locs.head? with
  | .feset _ n, some (.bench g o) => (List.range n).map (fun j => word j (benchLocs g (o + 4 * j) 4))
  | .fetest, some (.bench g o) =>
    ((List.range 64).filter (fun j => o + 4 * j + 4 ≤ ((s.wg? g).map Wg.benchSize).getD 0)).map (fun j => word j (benchLocs g (o + 4 * j) 4))
  | .load, some _ | .store, some _ => (alignedParts r.size l.addr.toNat 0 r.size).map piece
  | _, _ => [word l.lane ok.locs]

/-- The lanes whose program order a lane's access takes (R48, R209). -/
def MemReq.who (r : MemReq) (active : Lanes) (lane : Nat) : Lanes := if r.vector then Lanes.ofPred (fun i => i == lane) else active

/-- The checks of one lane of a request (R211): its parts, with the scope of its address class (R210). -/
def State.laneCheck (s : State) (gid : Nat) (g : Wg) (active : Lanes) (r : MemReq) (l : LaneReq) : Except Trap (List LaneAcc × Scope) :=
  let res :=
    if r.bench then
      match r.op with
      | .feset _ n => s.benchAccess gid g l.addr (4 * max n 1) 4
      | .fetest => s.benchAccess gid g l.addr 4 4
      | .arrive _ | .ainit _ => s.benchAccess gid g l.addr 16 16
      | _ => s.benchAccess gid g l.addr r.size r.size
    else s.virtAccess (s.ctxOfWg g) g r.op.need r.op.atomic l.addr r.size
  match res with
  | .ok ok => .ok (s.partsOf r l (r.who active l.lane) ok, ok.cls)
  | .error b => .error (b.trap l.addr)

/-- The scope of the address class of a virtual byte, whether or not the access may touch it (R210); the narrowest where it names
nothing. -/
def State.byteClass (s : State) (c : Nat) (a : Dword) : Scope :=
  if s.inTwin c a then .team
  else
    match s.translate c a with
    | .ok p => (s.canon (p.phys a)).elim .wg clsOf
    | .error _ => .wg

/-- The scope of the address classes that a lane names, a faulting lane among them (R210). -/
def State.laneClass (s : State) (g : Wg) (r : MemReq) (l : LaneReq) : Scope :=
  if r.bench then .team
  else (List.range r.size).foldl (fun m j => m.max (s.byteClass (s.ctxOfWg g) (l.addr + BitVec.ofNat 64 j))) .wg

/-- A request with its lanes checked: those that pass, and the lanes that fault with the trap of the lowest (R211, R212). -/
structure Checked where
  pass : List LaneAcc
  scope : Scope
  failed : List LaneReq
  trap : Option Trap
deriving DecidableEq, Repr

/-- Lanes checked one by one: the parts of those that pass, the widest scope among all (R210), those that fail and the lowest one's
trap. -/
def gatherLanes (f : LaneReq → Except Trap (List LaneAcc × Scope)) (cls : LaneReq → Scope) (ls : List LaneReq) : Checked :=
  ls.foldr (fun l acc =>
    match f l with
    | .ok a => { acc with pass := a.1 ++ acc.pass, scope := acc.scope.max a.2 }
    | .error t => { acc with failed := l :: acc.failed, scope := acc.scope.max (cls l), trap := some t }) ⟨[], .wg, [], none⟩

/-- Checks every lane of a request (R211). -/
def State.check (s : State) (gid : Nat) (g : Wg) (active : Lanes) (r : MemReq) : Checked :=
  gatherLanes (s.laneCheck gid g active r) (s.laneClass g r) r.lanes

end Sys2Proof.Machine
end

