-- ==== Sys2Proof/Machine/Memory.lean ====
section
/-! DEFINITION. What a memory operation does when it is performed (R185, R188, R189, R216, R217, R220, R227, R230). -/

namespace Sys2Proof.Machine

/-- The new value of an atomic, or none where nothing is written (R220): bits is its size, v its value or compare, new the CAS value. -/
def amoNew (fn : BitVec 4) (bits m v new : Nat) : Option Nat :=
  let w := 2 ^ bits
  let a := m % w
  let b := v % w
  match fn.toNat with
  | 0 => some ((a + b) % w)
  | 1 => some (a &&& b)
  | 2 => some (a ||| b)
  | 3 => some (a ^^^ b)
  | 4 => some (if signedBits bits a ≤ signedBits bits b then a else b)
  | 5 => some (if signedBits bits a ≤ signedBits bits b then b else a)
  | 6 => some (min a b)
  | 7 => some (max a b)
  | 8 => some b
  | 9 => if a = b then some (new % w) else none
  | 10 => some (fAdd .fp32 .rne a b).bits
  | 11 => some ((fAdd .bf16 .rne (a % 2 ^ 16) (b % 2 ^ 16)).bits + (fAdd .bf16 .rne (a / 2 ^ 16) (b / 2 ^ 16)).bits * 2 ^ 16)
  | 12 => some (minMax .fp32 false a b).bits
  | _ => some (minMax .fp32 true a b).bits

/-- The 32-bit bench words that locations touch, by workgroup and word number (R185). -/
def benchWords (ls : List Loc) : List (Nat × Nat) :=
  (ls.filterMap (fun l => match l with
    | .bench g o => some (g, o / 4)
    | .phys _ => none)).eraseDups

/-- The tag of a bench word: full or empty (R185). -/
def State.tag (s : State) (p : Nat × Nat) : Bool := ((s.wg? p.1).map (fun g => Table.getD g.tags p.2 false)).getD false

def State.setTag (s : State) (full : Bool) (p : Nat × Nat) : State :=
  s.modWg p.1 (fun g => { g with tags := Table.put false g.tags p.2 full })

def State.setTags (s : State) (full : Bool) (ps : List (Nat × Nat)) : State := ps.foldl (fun s p => s.setTag full p) s

/-- The four words of the arrival word at a location: TARGET, COUNT, GEN and STATE (R188). -/
def State.arrivalField (s : State) (l : Loc) (i : Nat) : Nat :=
  match l with
  | .bench g o => s.readLocs (benchLocs g (o + 4 * i) 4)
  | .phys a => s.readLocs ((List.range 4).map (fun j => .phys (a + 4 * i + j)))

def State.setArrivalField (s : State) (l : Loc) (i x : Nat) : State :=
  match l with
  | .bench g o => s.writeLocs (benchLocs g (o + 4 * i) 4) x
  | .phys _ => s

/-- The arrival word is initialised with a target (R189). -/
def State.arrivalReady (s : State) (l : Loc) : Bool := s.arrivalField l 3 % 2 == 1 && s.arrivalField l 0 != 0

/-- An arrival of n bytes at an initialised word (R189); one of no bytes changes no field (R225). -/
def State.arrive (s : State) (l : Loc) (n : Nat) : State :=
  if n = 0 then s
  else if s.arrivalReady l then
    let target := s.arrivalField l 0
    let c := s.arrivalField l 1 + n
    (s.setArrivalField l 2 ((s.arrivalField l 2 + c / target) % 2 ^ 32)).setArrivalField l 1 (c % target)
  else s

/-- AINIT (R188, R227): GEN is kept. -/
def State.ainit (s : State) (l : Loc) (target : Nat) : State :=
  ((s.setArrivalField l 0 target).setArrivalField l 1 0).setArrivalField l 3 1

/-- AWAIT's condition (R190). -/
def State.generationPassed (s : State) (l : Loc) (gen : BitVec 32) : Bool :=
  let d := (s.arrivalField l 2 + 2 ^ 32 - gen.toNat) % 2 ^ 32
  decide (1 ≤ d) && decide (d < 2 ^ 31)

/-- The next free value (assumption log 4). -/
def State.nextFree (s : State) : Nat × State := (s.free, { s with free := s.free + 1 })

/-- The timebase as the next reading finds it (R229): never lower than before, and below 2^64. -/
def State.advanceTime (s : State) : State :=
  let f := s.nextFree
  { f.2 with timebase := s.timebase + Config.timeAdvance f.1 % (2 ^ 64 - s.timebase) }

/-- One part of an operation performed: the state after it, and what it reads: a part of a load its bytes in their place in the value, and
FETEST bit j of its result from word j. -/
def State.performLane (s : State) (op : AccessOp) (size : Nat) (l : LaneAcc) : State × Option Nat :=
  match op with
  | .load => (s, some (256 ^ l.off * s.readLocs l.locs))
  | .store => (s.writeLocs l.locs l.data.toNat, none)
  | .tagLoad empty =>
    (if empty then s.setTags false (benchWords l.locs) else s, some (s.readLocs l.locs))
  | .tagStore _ => ((s.writeLocs l.locs l.data.toNat).setTags true (benchWords l.locs), none)
  | .amo fn =>
    let m := s.readLocs l.locs
    (match amoNew fn (8 * size) m l.data.toNat l.new.toNat with
      | some x => s.writeLocs l.locs x
      | none => s, some m)
  | .arrive n => (match l.locs with | [] => s | a :: _ => s.arrive a n, none)
  | .ainit t => (match l.locs with | [] => s | a :: _ => s.ainit a t, none)
  | .feset full _ => (s.setTags full (benchWords l.locs), none)
  | .fetest => (s, some (if (benchWords l.locs).any s.tag then 2 ^ l.lane else 0))
  | .tsread => (s.advanceTime, some s.advanceTime.timebase)

/-- A lane of a waiting mode can proceed: every word it covers has the tag it waits for (R185). -/
def State.tagReady (s : State) (op : AccessOp) (l : LaneAcc) : Bool :=
  match op with
  | .tagLoad _ => (benchWords l.locs).all s.tag
  | .tagStore true => (benchWords l.locs).all (fun p => !s.tag p)
  | _ => true

/-- The operation's lanes wait one by one on tags (R185). -/
def AccessOp.waits : AccessOp → Bool
  | .tagLoad _ => true
  | .tagStore w => w
  | _ => false

/-- Whether the operation is counted in LC; the others are counted in SC (R100). -/
def AccessOp.inLC : AccessOp → Bool
  | .load | .tagLoad _ | .amo _ | .fetest | .tsread => true
  | .store | .tagStore _ | .arrive _ | .ainit _ | .feset _ _ => false

/-- The locations of an operation's lanes. -/
def Op.locs (o : Op) : List Loc := o.lanes.flatMap LaneAcc.locs

end Sys2Proof.Machine
end

