-- ==== Sys2Proof/Machine/Order.lean ====
section
/-! DEFINITION. What is ordered before what (R230, R233, R235 to R241): the local orders of a lane, the operations that later accesses have
passed, and what comes after each of these. -/

namespace Sys2Proof.Machine

/-! ### Local orders (R230, R233, R235 to R238) -/

/-- A part is on a UO page; on an SO page. -/
def LaneAcc.isUO (l : LaneAcc) : Bool := l.kind == .uo
def LaneAcc.isSO (l : LaneAcc) : Bool := l.kind == .so

/-- The number by which the agenda names a part: its lane or word, with its place in an access that is not naturally aligned. -/
def LaneAcc.number (l : LaneAcc) : Nat := l.lane + 64 * l.off

/-- Every part is on a UO page. -/
def Op.isUO (o : Op) : Bool := !o.lanes.isEmpty && o.lanes.all LaneAcc.isUO

/-- An action on tags alone (R230). -/
def AccessOp.tagOnly : AccessOp → Bool
  | .feset _ _ | .fetest => true
  | _ => false

/-- An action that reads or changes tags (R185, R230). -/
def AccessOp.onTags : AccessOp → Bool
  | .tagLoad _ | .tagStore _ | .feset _ _ | .fetest => true
  | _ => false

/-- It reads data, and answers with it. -/
def AccessOp.readsData : AccessOp → Bool
  | .load | .tagLoad _ | .amo _ => true
  | _ => false

/-- It only reads. -/
def AccessOp.readsOnly : AccessOp → Bool
  | .load | .fetest | .tsread => true
  | _ => false

/-- It reads nothing and waits for nothing. -/
def AccessOp.putsOnly : AccessOp → Bool
  | .store | .tagStore false | .ainit _ | .feset _ _ => true
  | _ => false

/-- Two parts name a common byte, or both act on the tag of a common word; what acts on tags alone meets nothing else (R230, R244). -/
def touches (a b : AccessOp) (l m : LaneAcc) : Bool :=
  (a.onTags && b.onTags && (benchWords l.locs).any (fun w => (benchWords m.locs).contains w)) ||
    (!a.tagOnly && !b.tagOnly && l.locs.any (fun x => m.locs.contains x))

/-- A fence of the warp that stands between two parts covers both (R223, R238). -/
def FenceRec.covers (f : FenceRec) (warp : Nat) (l m : LaneAcc) : Bool :=
  f.warp == warp && (f.active &&& l.who &&& m.who) != 0 && (f.uo || !(l.isUO || m.isUO))

/-- A FENCE of some lanes of a warp, issued between two identities, stands behind a part and before what follows it of these lanes (R223, R238). -/
def State.fencedOff (s : State) (i j warp : Nat) (lanes : Lanes) (l : LaneAcc) : Bool :=
  s.fences.any (fun p => decide (i < p.1) && decide (p.1 < j) && p.2.warp == warp && (p.2.active &&& l.who &&& lanes) != 0 && (p.2.uo || !l.isUO))

/-- The fences issued between two operations of a warp that cover two of their parts. -/
def State.fencesBetween (s : State) (i j warp : Nat) (l m : LaneAcc) : List FenceRec :=
  (s.fences.filter (fun p => decide (i < p.1) && decide (p.1 < j) && p.2.covers warp l m)).map Prod.snd

/-- The orders of R238 between a part l of an earlier operation x and a part m of a later one y that the performing of the two always keeps: a common
location, and those of SO pages and of TSREAD. -/
def firmlyOrdered (x y : Op) (l m : LaneAcc) : Bool :=
  touches x.op y.op l m || (l.isSO && m.isSO) || (x.op == .tsread && y.op == .tsread)

/-- An acquire, a release or a fence orders part l of x before part m of y (R238). -/
def State.syncOrdered (s : State) (i j : Nat) (x y : Op) (l m : LaneAcc) : Bool :=
  (!(l.isUO || m.isUO) && (x.acq || y.rel)) || !(s.fencesBetween i j y.warp l m).isEmpty

/-- A store within a configuration comes before a later access within it to a common byte, in any lane (R297). -/
def tokenBefore (x y : Op) (l m : LaneAcc) : Bool := x.token && y.token && x.op == .store && touches x.op y.op l m

/-- Two parts may be ordered at all: those of a common lane (R48), and a store's and a later access's within a configuration (R297). -/
def mayOrder (x y : Op) (l m : LaneAcc) : Bool := (l.who &&& m.who) != 0 || tokenBefore x y l m

/-- Part l of the earlier operation x is ordered before part m of the later operation y (R235 to R238, R297). -/
def State.ordered (s : State) (i j : Nat) (x y : Op) (l m : LaneAcc) : Bool :=
  mayOrder x y l m && (firmlyOrdered x y l m || s.syncOrdered i j x y l m)

/-- The part has been left behind: what a FENCE, an acquire or a release orders after it passes it (R232). -/
def State.isLeft (s : State) (i : Nat) (l : LaneAcc) : Bool := s.debts.any (fun d => d.left && d.op == i && d.part == l.number)

/-- Part m of y stands behind part l of an earlier operation x that is outstanding: always where firmlyOrdered says so, else where something orders the
two and l has not been left behind. An operation whose fragment has its values before it is performed stands before all that they may lead to
(R237). -/
def State.waitsFor (s : State) (i j : Nat) (x y : Op) (l m : LaneAcc) : Bool :=
  mayOrder x y l m && (firmlyOrdered x y l m || (s.syncOrdered i j x y l m && !s.isLeft i l) ||
    (!x.told.isEmpty && (l.who &&& m.who) != 0 && !(l.isUO || m.isUO)))

/-- The operations of the warp that were issued before identity j and hold a part that p ties to part m. -/
def State.tied (s : State) (j : Nat) (y : Op) (m : LaneAcc) (p : Nat → Op → LaneAcc → Bool) : List (Nat × Op) :=
  s.ops.filter (fun q => decide (q.1 < j) && q.2.warp == y.warp && q.2.lanes.any (fun l => mayOrder q.2 y l m && p q.1 q.2 l))

/-- An uncommitted step of the warp's capsule, issued before identity j, whose access meets part m of y: its lanes' own earlier access to a
common location (R233, R311). -/
def State.stepBefore (s : State) (j : Nat) (y : Op) (m : LaneAcc) : Bool :=
  match (s.warp? y.warp).bind Warp.capsule with
  | none => false
  | some c => c.steps.any (fun st => decide (st.op < j) && st.mem.isSome &&
      (((s.frag? st.frag).elim 0 Frag.lm) &&& m.who) != 0 &&
      touches ((st.mem.map MemReq.op).getD .load) y.op ⟨0, st.locs, .rc, 0, 0, 0, 0⟩ m)

/-- No outstanding part stands before part m of y (R232, R238). -/
def State.mayPerform (s : State) (j : Nat) (y : Op) (m : LaneAcc) : Bool :=
  (s.tied j y m (fun i x l => s.waitsFor i j x y l m)).isEmpty && !s.stepBefore j y m

/-- An access of the instruction itself that an earlier part of it must come before: the words of FESET, and parts that name a common
byte and do not only read it (R217, R221, R230). Of lanes of one .fe load on a common word the lowest is served first, which R209 leaves open
(assumption log 72). -/
def Op.partOpen (o : Op) (m : LaneAcc) : Bool :=
  (o.lanes.takeWhile (fun l => l != m)).all (fun l =>
    match o.op with
    | .feset _ _ => false
    | .load | .fetest => true
    | _ => !touches o.op o.op l m)

/-- An access that an instruction makes outside the operations, at its issue or on its own: of a record, an arrival word, or a capsule's
step. -/
def ownAccessOf (warp : Nat) (active : Lanes) (op : AccessOp) (acq rel : Bool) (kind : Kind) (locs : List Loc) : Op :=
  { warp := warp, wg := 0, ctx := 0, active := active, op := op, size := 0, dest := .none, acq := acq, rel := rel, scope := .dev,
    lanes := [⟨0, locs, kind, 0, 0, active, 0⟩] }

/-- Nothing outstanding of these lanes stands before such an access issued at identity j. -/
def State.ownMayPerform (s : State) (j : Nat) (y : Op) : Bool := y.lanes.all (fun m => s.mayPerform j y m)

/-- A release of some lanes that is no access: a barrier, a LAUNCH, an ARRIVE at its check. -/
def releaseOf (warp : Nat) (active : Lanes) : Op := ownAccessOf warp active .store false true .rc []

/-- Nothing stands before a release of these lanes at identity j, which orders no access of a UO page but one that a FENCE.UO covers (R235, R238). -/
def State.quietBefore (s : State) (warp j : Nat) (active : Lanes) : Bool := s.ownMayPerform j (releaseOf warp active)

/-! ### What comes after an operation left behind (R232, R239, R240) -/

/-- Two agents share the instance of a scope, each named by its workgroup, 0 for the host and other devices (R232). -/
def State.covers (s : State) (sc : Scope) (a b : Nat) : Bool :=
  match sc with
  | .wg => a == b
  | .team => a == b || (match s.wg? a, s.wg? b with
      | some x, some y => x.team == y.team
      | _, _ => false)
  | .dev => a != 0 && b != 0
  | .sys => true

/-- A release that stands before or at an access of the past has workgroup g in its instance. -/
def State.reaches (s : State) (e : Past) (g : Nat) : Bool := e.via.any (fun v => s.covers v e.op.wg g)

/-- Part m of y, issued at identity j, follows an access of the past in its lanes' order (R237, R238). -/
def State.pastBefore (s : State) (e : Past) (j : Nat) (y : Op) (m : LaneAcc) : Bool :=
  e.early.isNone && decide (e.id < j) && e.op.warp == y.warp && e.op.lanes.any (fun l =>
    if e.ctl then (l.who &&& m.who) != 0 && !m.isUO && !y.op.readsOnly else s.ordered e.id j e.op y l m)

/-- Part m of y, an acquire, reads what an access of the past released, or is served on a full tag that it set (R239). -/
def State.linked (s : State) (e : Past) (y : Op) (m : LaneAcc) : Bool :=
  y.acq && y.op.readsData && !m.isUO && s.reaches e y.wg && s.covers y.scope e.op.wg y.wg &&
    (m.locs.any e.live.contains ||
      (match y.op with
        | .tagLoad _ => (benchWords m.locs).any e.tags.contains
        | _ => false))

/-- Part m of y comes after what the trail is of (R240). -/
def State.isAfter (s : State) (t : Trail) (j : Nat) (y : Op) (m : LaneAcc) : Bool :=
  t.after.any (fun e => s.pastBefore e j y m || s.linked e y m)

/-- Nothing is left behind, and no packet that has changed is held as it once stood. -/
def State.untrailed (s : State) : Bool := s.debts.isEmpty && s.old.all (fun p => p.changes.isEmpty)

/-- Every trail changed. -/
def State.mapTrails (s : State) (f : Trail → Trail) : State :=
  if s.untrailed then s
  else { s with
    debts := s.debts.map (fun d => { d with trail := f d.trail, code := f d.code })
    old := s.old.map (fun p => { p with changes := p.changes.map (fun c => { c with trail := f c.trail }) }) }

def Trail.add (t : Trail) (es : List Past) : Trail := { t with after := es ++ t.after }

def Trail.hold (t : Trail) (c : Carrier) : Trail := if t.held.contains c then t else { t with held := c :: t.held }

/-- An acquire of some lanes of a warp that is no access, where the machine stands now; as a FENCE, just before its own identity. -/
def acquireAt (warp wg : Nat) (lanes : Lanes) (serial : Nat) : Past :=
  { id := serial - 1, op := { ownAccessOf warp lanes .load true false .rc [] with wg := wg } }

def fenceAt (warp wg : Nat) (lanes : Lanes) (id : Nat) : Past :=
  { id := id - 1, op := { ownAccessOf warp lanes .load false false .rc [] with wg := wg } }

/-- What some bytes hold is written anew, by no atomic (R239). -/
def Trail.kill (t : Trail) (ls : List Loc) : Trail :=
  { t with after := t.after.map (fun e => if e.live.isEmpty then e else { e with live := e.live.filter (fun l => !ls.contains l) }) }

/-- The tags of some words are set or emptied. -/
def Trail.killTags (t : Trail) (ws : List (Nat × Nat)) : Trail :=
  { t with after := t.after.map (fun e => if e.tags.isEmpty then e else { e with tags := e.tags.filter (fun w => !ws.contains w) }) }

/-- The arrivals that a word has counted in a generation are forgotten (R188, R227). -/
def Trail.killGen (t : Trail) (g : Loc × Nat) : Trail :=
  { t with after := t.after.map (fun e => if e.gens.isEmpty then e else { e with gens := e.gens.filter (· != g) }) }

/-- Bytes are written by what is no operation. -/
def State.overwritten (s : State) (ls : List Loc) : State := s.mapTrails (fun t => t.kill ls)

/-- A part's performing writes its bytes now: a CAS that fails does not (R220). -/
def State.writesNow (s : State) (o : Op) (l : LaneAcc) : Bool :=
  match o.op with
  | .store | .tagStore _ | .ainit _ => true
  | .arrive n => n != 0
  | .amo fn => (amoNew fn (8 * o.size) (s.readLocs l.locs) l.data.toNat l.new.toNat).isSome
  | _ => false

/-- What the performing of a part wipes out of a trail. -/
def State.wipe (s : State) (o : Op) (l : LaneAcc) (t : Trail) : Trail :=
  let t := if s.writesNow o l && o.op.atomic.isNone then t.kill l.locs else t
  let t := match o.op with
    | .tagLoad true | .tagStore _ | .feset _ _ => t.killTags (benchWords l.locs)
    | _ => t
  match o.op, l.locs with
  | .ainit _, a :: _ => t.killGen (a, s.arrivalField a 2)
  | _, _ => t

/-- The scopes of the releases that a part is or stands behind, for what the trail is of: its own, and for a store those of the FENCEs of its lanes
(R239; assumption log 9). -/
def State.releases (s : State) (t : Trail) (id : Nat) (o : Op) (l : LaneAcc) : List Scope :=
  ((if o.rel && !l.isUO then [o.scope] else []) ++
    (if o.op == .store then t.after.flatMap (fun e =>
      if e.early.isNone && !e.ctl && e.op.warp == o.warp then
        e.op.lanes.flatMap (fun k => (s.fencesBetween e.id id o.warp k l).map FenceRec.scope)
      else [])
     else [])).eraseDups

/-- What the performing of a part adds to a trail that it comes after. -/
def State.pastOf (s : State) (t : Trail) (id : Nat) (key : Option Nat) (o : Op) (l : LaneAcc) : Past :=
  let via := s.releases t id o l
  { id := id, op := { o with lanes := [l] }, via := via, early := key
    live := if via.isEmpty || !s.writesNow o l then [] else
      match o.op with
      | .arrive _ | .ainit _ => []
      | _ => l.locs
    tags := if via.isEmpty then [] else
      match o.op with
      | .tagStore _ => benchWords l.locs
      | _ => []
    gens :=
      match o.op, l.locs with
      | .arrive n, a :: _ => if n != 0 && s.arrivalReady a then [(a, s.arrivalField a 2)] else []
      | _, _ => [] }

/-- The FENCEs of a part's lanes that were issued after it, with its lanes in each (R238). -/
def State.fencesAfter (s : State) (id warp : Nat) (l : LaneAcc) : List (Nat × FenceRec) :=
  s.fences.filter (fun p => decide (id < p.1) && p.2.warp == warp && (p.2.active &&& l.who) != 0 && (p.2.uo || !l.isUO))

/-- A part that reads what accesses of the past have written under a release in whose instance it is (R239): the FENCEs behind it acquire. -/
def State.seenBy (s : State) (id : Nat) (key : Option Nat) (o : Op) (l : LaneAcc) (t : Trail) : Trail :=
  let gs := ((t.after.filter (fun e => l.locs.any e.live.contains && s.reaches e o.wg)).map (fun e => e.op.wg)).eraseDups
  if gs.isEmpty || !o.op.readsData then t
  else
    let fs := (s.fencesAfter id o.warp l).filter (fun p => gs.any (fun g => s.covers p.2.scope g o.wg))
    { t with
      after := fs.map (fun p => fenceAt o.warp o.wg (p.2.active &&& l.who) p.1) ++ t.after
      seen := ⟨o.warp, o.wg, l, gs, key⟩ :: t.seen }

/-- The performing of a part as a trail sees it: what it reads, what it writes, and that it comes after. -/
def State.traced (s : State) (id : Nat) (key : Option Nat) (o : Op) (l : LaneAcc) (t : Trail) : Trail :=
  let u := s.wipe o l (s.seenBy id key o l t)
  if s.isAfter t id o l then u.add [s.pastOf t id key o l] else u

/-- What comes after a FENCE.CODE behind a part, as it begins: the FENCE.CODEs issued since (R228). -/
def State.codeTrail (s : State) (id : Nat) (o : Op) (l : LaneAcc) : Trail :=
  { after := ((s.fences.filter (fun p => decide (id < p.1) && p.2.code && p.2.warp == o.warp && (p.2.active &&& l.who) != 0)).map
      (fun p => fenceAt o.warp o.wg (p.2.active &&& l.who) p.1)) }

/-- A write changes packets that are held as they once stood (R228). -/
def State.changeCode (s : State) (id : Nat) (o : Op) (l : LaneAcc) (t : Trail) : State :=
  if s.old.isEmpty then s
  else { s with old := s.old.map (fun p =>
    if p.locs.any l.locs.contains then { p with changes := ⟨id, o.warp, l.who, t⟩ :: p.changes } else p) }

/-- A part is performed, or for a part left behind its own debt is done: what follows from that for all that comes after others. It stands before the
effect, whose bytes it looks at. -/
def State.note (s : State) (id : Nat) (key : Option Nat) (o : Op) (l : LaneAcc) : State :=
  if s.debts.isEmpty && s.old.isEmpty then s
  else
    let own := s.debts.find? (fun d => d.op == id && d.part == l.number)
    let u := ({ s with debts := s.debts.filter (fun d => !(d.op == id && d.part == l.number)) } : State).mapTrails (s.traced id key o l)
    if s.writesNow o l then u.changeCode id o l ((own.map Debt.code).getD (s.codeTrail id o l)) else u

/-- A load takes what own stores will write, and the rest of its bytes from memory: it comes after the stores, and after whatever else its lanes, and
what it reads, order it after (R234). -/
def State.noteForward (s : State) (id : Nat) (o : Op) (l : LaneAcc) (rest : List Loc) : State :=
  let m := { l with locs := rest }
  s.mapTrails (fun t =>
    let u := s.seenBy id none o m t
    if t.after.any (fun e => s.pastBefore e id o l || s.linked e o m) then u.add [{ id := id, op := { o with lanes := [l] } }] else u)

/-- The operation left behind meets a part: a common location, or both on SO pages. -/
def Debt.meets (d : Debt) (y : Op) (m : LaneAcc) : Bool := d.acc.lanes.any (fun l => firmlyOrdered d.acc y l m)

/-- An atomic left behind has read its bytes: nobody else writes them before it does (R220). -/
def Debt.locks (d : Debt) (ls : List Loc) : Bool :=
  d.left && d.acc.op.atomic.isSome && d.acc.lanes.any (fun l => l.locs.any ls.contains)

/-- Part m of y may not be performed yet: it comes after an operation left behind that it meets, or would write what an atomic left behind has
read (R232, R240, R241). -/
def State.barred (s : State) (id : Nat) (y : Op) (m : LaneAcc) : Bool :=
  s.debts.any (fun d => d.op != id && d.meets y m && ((!y.op.readsOnly && d.locks m.locs) || s.isAfter d.trail id y m))

/-- The same for a load that takes what some of these operations will write. -/
def State.barredBut (s : State) (but : List Nat) (id : Nat) (y : Op) (m : LaneAcc) : Bool :=
  s.debts.any (fun d => !but.contains d.op && d.op != id && d.meets y m && s.isAfter d.trail id y m)

/-- An access outside the operations may be made now, as one issued at identity j: nothing of its lanes stands before it, and it passes nothing that it
meets. -/
def State.ownMayAct (s : State) (j : Nat) (y : Op) : Bool := s.ownMayPerform j y && y.lanes.all (fun m => !s.barred j y m)

/-- A release of some lanes at identity j, or of what has been handed on under one of some carriers, hands on to a carrier (R240). -/
def State.releaseTo (s : State) (warp j : Nat) (lanes : Lanes) (c : Carrier) : State :=
  s.mapTrails (fun t => if (releaseOf warp lanes).lanes.any (s.isAfter t j (releaseOf warp lanes)) then t.hold c else t)

/-- What is held under some carriers is handed on to another. -/
def State.passOn (s : State) (p : Carrier → Bool) (c : Carrier) : State := s.mapTrails (fun t => if t.held.any p then t.hold c else t)

/-- Some lanes acquire what is held under some carriers (R239). -/
def State.handTo (s : State) (p : Carrier → Bool) (warp wg : Nat) (lanes : Lanes) : State :=
  s.mapTrails (fun t => if t.held.any p then t.add [acquireAt warp wg lanes s.serial] else t)

def Carrier.isCmd (id : Nat) : Carrier → Bool
  | .cmd i _ _ _ _ _ => i == id
  | _ => false

/-- The lanes of a warp, of some that learn that commands have ended, that acquire what such a command's carrier holds: the issuing lanes where it
writes, all of its workgroup where it has REL (R243). -/
def Carrier.learnt (ended : Nat → Bool) (warp wg : Nat) (lanes : Lanes) : Carrier → Lanes
  | .cmd id w g active rel writes =>
    if !(writes && ended id) then 0 else if rel && g == wg then lanes else if w == warp then active &&& lanes else 0
  | _ => 0

/-- Some lanes learn that commands have ended: by WAITC or EPOLL (R243). -/
def State.learnEnds (s : State) (ended : Nat → Bool) (warp wg : Nat) (lanes : Lanes) : State :=
  s.mapTrails (fun t => t.add (((t.held.map (Carrier.learnt ended warp wg lanes)).filter (· != 0)).map (fun ls => acquireAt warp wg ls s.serial)))

/-- Some lanes pass generations of an arrival word: they acquire what was counted in these (R226, R239). -/
def State.learnCounts (s : State) (passed : Loc × Nat → Bool) (warp wg : Nat) (lanes : Lanes) : State :=
  s.mapTrails (fun t =>
    if t.after.any (fun e => e.gens.any passed && s.reaches e wg && s.covers .team e.op.wg wg) then t.add [acquireAt warp wg lanes s.serial] else t)

/-- Lanes of warps of some workgroups arrive at a barrier, which completes: what comes before one of the arrivals comes before every release
(R224, R239). -/
def State.learnArrivals (s : State) (at_ : List (Nat × Nat × Lanes)) : State :=
  s.mapTrails (fun t =>
    if at_.any (fun a => (releaseOf a.1 a.2.2).lanes.any (s.isAfter t s.serial (releaseOf a.1 a.2.2))) then
      t.add (at_.map (fun a => acquireAt a.1 a.2.1 a.2.2 s.serial))
    else t)

/-- Members of a split have fused: what their loads and atomics come after comes before the stores and atomics of the fused lanes (R49, R237). -/
def State.learnFusion (s : State) (warp wg : Nat) (lanes : Lanes) : State :=
  s.mapTrails (fun t =>
    if t.after.any (fun e => e.early.isNone && e.op.warp == warp && e.op.op.inLC && e.op.lanes.any (fun l => (l.who &&& lanes) != 0 && !l.isUO)) then
      t.add [{ acquireAt warp wg lanes s.serial with ctl := true }]
    else t)

/-- Some bytes are met by an operation left behind of which what is held under some carriers comes after. -/
def State.heldMeets (s : State) (p : Carrier → Bool) (ls : List Loc) : Bool :=
  s.debts.any (fun d => d.trail.held.any p && d.acc.lanes.any (fun l => l.locs.any ls.contains))

end Sys2Proof.Machine
end

