-- ==== Sys2Proof/Machine/Perform.lean ====
section
/-! DEFINITION. When a memory operation may be performed (R205, R206, R238), how it enters and leaves the wait sets (R41, R100, R102), and its parts by
themselves (R209, R232, R234). -/

namespace Sys2Proof.Machine

/-- A fragment waits for what acquires: none of its later accesses but those of UO pages comes before that (R235, R238, R243). -/
def Frag.acquires (f : Frag) : Bool :=
  f.waitOps.any f.ec.members.contains ||
    (match f.wait with
      | some (.waitc ids) => ids.any f.ec.members.contains
      | some (.bar _) | some (.tbar _) | some (.await _ _) | some (.lwait _) | some .capexit | some .returnSlot => true
      | _ => false)

/-- The word being issued may read locations now: nothing outstanding of its lanes is ordered before the reading (R218, R223, R233). -/
def State.mayRead (s : State) (v : View) (ls : List Loc) : Bool :=
  s.ownMayAct s.serial (ownAccessOf v.wid v.active .load false false .rc ls)

/-- The registers that a destination names (R216). -/
def Dest.regs (d : Dest) (size : Nat) : List Reg :=
  match d with
  | .none => []
  | .vec n => if size = 8 then [.v n, .v (n + 1)] else [.v n]
  | .scal n => [.s n]
  | .kreg n => [.k n]

/-- Writes a result into its destination (R41, R43, R216): a private scalar goes to every live fragment whose sets hold the operation. -/
def State.writeDest (s : State) (id warp size : Nat) (d : Dest) (lane x : Nat) : State :=
  match d with
  | .none => s
  | .vec n =>
    s.modWarp warp (fun w =>
      let v := Table.put 0 w.v (64 * n + lane) (BitVec.ofNat 32 x)
      let c := Table.put 0 w.carried n 0
      { w with
        v := if size = 8 then Table.put 0 v (64 * (n + 1) + lane) (BitVec.ofNat 32 (x / 2 ^ 32)) else v
        carried := if size = 8 then Table.put 0 c (n + 1) 0 else c })
  | .scal n =>
    if n < 48 then s.modWarp warp (fun w => { w with s := Table.put 0 w.s n (BitVec.ofNat 64 x) })
    else { s with frags := s.frags.map (fun p =>
      if p.2.lc.members.contains id || p.2.ec.members.contains id then
        (p.1, { p.2 with s := Table.put 0 p.2.s n (BitVec.ofNat 64 x) }) else p) }
  | .kreg n => s.modWarp warp (fun w => { w with k := Table.put 0 w.k n (BitVec.ofNat 64 x) })

def OpSet.leave (o : OpSet) (id : Nat) : OpSet := { o with members := o.members.filter (· != id) }

/-- An operation enters a set, newest first (R100); a WAITC count never exceeds 63. -/
def OpSet.enter (o : OpSet) (id : Nat) : OpSet := { members := id :: o.members, recent := (id :: o.recent).take 64 }

/-- The operation leaves every set that holds it (R41, R100). -/
def State.leaveSets (s : State) (id : Nat) : State :=
  { s with frags := s.frags.map (fun p =>
      (p.1, { p.2 with lc := p.2.lc.leave id, sc := p.2.sc.leave id, ec := p.2.ec.leave id })) }

/-- Fences that no outstanding operation precedes any more are done, where nothing is left behind and no packet held as it once stood (R228, R240). -/
def State.dropFences (s : State) : State :=
  if s.debts.isEmpty && s.old.isEmpty then
    { s with fences := s.fences.filter (fun p => s.ops.any (fun o => decide (o.1 < p.1) && o.2.warp == p.2.warp)) }
  else s

/-- The lines of 128 bytes that locations lie in where they are another device's, in order (R205). -/
def State.linesAt (s : State) (ls : List Loc) : List (Nat × Nat) :=
  (ls.filterMap (fun x => match x with
    | .phys a => (s.locPort x).map (fun p => (p, a / 128))
    | .bench _ _ => none)).eraseDups

/-- The lines that lanes request of other devices, in ascending lane order (R205). -/
def State.linesOf (s : State) (lanes : List LaneAcc) : List (Nat × Nat) := s.linesAt (lanes.flatMap LaneAcc.locs)

/-- The key of a core's slots for a port; engine commands use those of core 768 (R206, R381). -/
def slotKey (core port : Nat) : Nat := 32 * core + port

def State.slotsUsed (s : State) (core port : Nat) : Nat := Table.getD s.slots (slotKey core port) 0

def State.setSlots (s : State) (core port n : Nat) : State := { s with slots := Table.put 0 s.slots (slotKey core port) n }

/-- Sends each line for which its port has a free slot (R206). -/
def State.sendLines (s : State) (core : Nat) : List Line → State × List Line
  | [] => (s, [])
  | l :: r =>
    if !l.sent && decide (s.slotsUsed core l.port < Config.portSlots) then
      let t := (s.setSlots core l.port (s.slotsUsed core l.port + 1)).sendLines core r
      (t.1, { l with sent := true } :: t.2)
    else
      let t := s.sendLines core r
      (t.1, l :: t.2)

/-- Requests for lines, not sent yet. -/
def newLines (ps : List (Nat × Nat)) : List Line := ps.map (fun p => ⟨p.1, p.2, false, false⟩)

/-- A port that an earlier instruction of the core still has unsent requests on, or that has no free slot, stalls an
instruction that needs it (R206). -/
def State.portStalls (s : State) (core port : Nat) : Bool :=
  decide (Config.portSlots ≤ s.slotsUsed core port) ||
    s.ops.any (fun p => ((s.wg? p.2.wg).map Wg.core).getD 0 == core && p.2.lines.any (fun l => l.port == port && !l.sent))

/-- Sends the waiting requests of a core, in issue order and in ascending lane order (R206). -/
def State.sendWaiting (s : State) (core : Nat) : State :=
  s.ops.keys.foldl (fun s i =>
    match Table.get? s.ops i with
    | none => s
    | some o =>
      if ((s.wg? o.wg).map Wg.core).getD Config.cores == core && o.lines.any (fun l => !l.sent) then
        let t := s.sendLines core o.lines
        t.1.modOp i (fun o => { o with lines := t.2 })
      else s) s

/-- Lines of a command still without an answer. -/
def Cmd.waitsRemote (c : Cmd) : Bool := c.lines.any (fun l => !l.answered)

/-- Sends the waiting requests of engine commands, in issue order (R206, R381). -/
def State.sendCmds (s : State) : State :=
  s.cmds.keys.foldl (fun s i =>
    match Table.get? s.cmds i with
    | none => s
    | some c =>
      if c.lines.any (fun l => !l.sent) then
        let t := s.sendLines c.slotCore c.lines
        t.1.modCmd i (fun c => { c with lines := t.2 })
      else s) s

/-- A port on which an earlier command has unsent requests, or that has no free slot for engine commands, holds a command back (R206,
R381). -/
def State.enginePortStalls (s : State) (port : Nat) : Bool :=
  decide (Config.portSlots ≤ s.slotsUsed Config.cores port) ||
    s.cmds.any (fun p => p.2.slotCore == Config.cores && p.2.lines.any (fun l => l.port == port && !l.sent))

/-- A command requests lines from slots of a core, or of the engines, each as a slot of its port frees (R205, R206, R381). -/
def State.requestFor (s : State) (id core : Nat) (lines : List (Nat × Nat)) : State :=
  let t := s.sendLines core (newLines lines)
  t.1.modCmd id (fun c => { c with lines := t.2, slotCore := core })

/-- The lines can be requested by the engines, and answered, now: every port has a free slot for each of them (R206, R381). -/
def State.enginePortsTake (s : State) (lines : List (Nat × Nat)) : Bool :=
  lines.all (fun p => !s.enginePortStalls p.1 &&
    decide (s.slotsUsed Config.cores p.1 + (lines.filter (fun q => q.1 == p.1)).length ≤ Config.portSlots))

/-- Lines still without an answer. -/
def Op.waitsRemote (o : Op) : Bool := o.lines.any (fun l => !l.answered)

/-! ### Accesses performed early (R235, R237) -/

/-- The registers that carry a value by which something is decided or addressed no longer matter, or matter again. -/
def Early.untaint (e : Early) (rs : List Reg) : Early := { e with taint := e.taint.filter (fun r => !rs.contains r) }

/-- The operation is one of which the access performed early has parts: it is issued by the same lanes, does the same, and has every one of them,
with every part of its own that comes before one (R217, R221). -/
def Early.isOf (e : Early) (o : Op) : Bool :=
  e.due.isNone && !e.gone && e.fits && e.acc.warp == o.warp && e.acc.active == o.active && e.acc.op == o.op && e.acc.size == o.size &&
    e.acc.acq == o.acq && e.acc.rel == o.rel && e.acc.scope == o.scope && e.acc.token == o.token && e.acc.lanes.all (fun l =>
      o.lanes.contains l && ({ o with lanes := o.lanes.filter (fun k => k == l || !e.acc.lanes.contains k) } : Op).partOpen l &&
        (o.op.atomic.isNone || o.lanes.all (fun k => e.acc.lanes.contains k || !touches o.op o.op k l)))

/-- What has been performed early of an operation that issues, oldest first, no part twice. -/
def claimed (es : List Early) (o : Op) : List Early :=
  es.foldl (fun l e => if e.isOf o && !l.any (fun x => x.acc.lanes.any e.acc.lanes.contains) then l ++ [e] else l) []

/-- A part of the operation that issues is performed only after an access performed early that it comes before (R233, R238). -/
def State.behindEarly (s : State) (id : Nat) (o : Op) (own : List Early) (e : Early) : Bool :=
  e.acc.warp == o.warp && o.lanes.any (fun l => !own.any (fun x => decide (x.key < e.key) && x.acc.lanes.contains l) &&
    e.acc.lanes.any (fun m => s.ordered id (id + 1) o e.acc l m))

/-- The accesses performed early as an operation issues: those that are its parts wait to be taken, and what has gone ahead of it against their order
does not come true. A load whose parts were all performed before another access carries no dependence to it. -/
def State.meetEarly (s : State) (id : Nat) (o : Op) : List Early :=
  let own := claimed s.early o
  s.early.map (fun e =>
    if own.contains e then { e with due := some id }
    else if e.due.isSome then e
    else
      let before := (own.filter (fun x => decide (x.key < e.key))).flatMap (fun x => x.acc.lanes)
      let e := if !o.lanes.isEmpty && o.lanes.all before.contains then e.untaint (o.dest.regs o.size) else e
      { e with gone := e.gone || s.behindEarly id o own e })

/-- What has been performed early meets locations of the lanes' own earlier access: it does not come true (R233). -/
def State.dropEarlyAt (s : State) (warp : Nat) (lanes : Lanes) (ls : List Loc) : State :=
  { s with early := s.early.map (fun e =>
      { e with gone := e.gone || (e.acc.warp == warp && e.acc.lanes.any (fun m => (m.who &&& lanes) != 0 && m.locs.any ls.contains)) }) }

/-- The lanes acquire: what of theirs has been performed early does not come true, but of UO pages (R235, R238). -/
def State.dropEarlyBehind (s : State) (warp : Nat) (lanes : Lanes) : State :=
  { s with early := s.early.map (fun e =>
      { e with gone := e.gone || (e.acc.warp == warp && (e.acc.active &&& lanes) != 0 && !e.acc.isUO) }) }

/-- Members of a split fuse: what the fused fragment stores depends on every load of each (R49, R237). -/
def State.dropEarlyFused (s : State) (warp : Nat) : State :=
  { s with early := s.early.map (fun e => { e with gone := e.gone || (e.acc.warp == warp && !e.acc.isUO && !e.acc.op.readsOnly) }) }

/-- An engine command has ended: what has been performed early remembers that (R243). -/
def State.endedBefore (s : State) (id : Nat) : State :=
  if s.early.isEmpty then s else { s with early := s.early.map (fun e => { e with ended := id :: e.ended }) }

/-- Takes an operation into the tables: its identity, its set, its destination as uncovered, and its remote requests (R100, R102,
R205, R206). -/
def State.addOp (s : State) (fid core : Nat) (o : Op) (regs : List Reg) : Nat × State :=
  let n := s.fresh
  let sent := n.2.sendLines core (newLines (s.linesOf o.lanes))
  let o' := { o with lines := sent.2, arrived := n.1 }
  let s1 : State := { sent.1 with
    ops := Table.set sent.1.ops n.1 o'
    early := sent.1.meetEarly n.1 o' }
  let s2 := s1.modFrag fid (fun f =>
    let f := { f with uncovered := f.uncovered ++ regs.map (fun r => (n.1, r)) }
    if o.op.inLC then { f with lc := f.lc.enter n.1 } else { f with sc := f.sc.enter n.1 })
  (n.1, s2.markDies o.ctx (s.dieBitsOf o.locs))

/-- The trail as an access performed early becomes an operation. -/
def Trail.claim (t : Trail) (key id : Nat) : Trail :=
  { t with
    after := t.after.map (fun e => if e.early == some key then { e with id := id, early := none } else e)
    seen := t.seen.map (fun x => if x.early == some key then { x with early := none } else x) }

/-! ### Performing an operation -/

/-- Performs parts in ascending order, of the operation with an identity or of an access performed early under a number: the state after them and what
they read, by lane. -/
def State.performParts (s : State) (id : Nat) (key : Option Nat) (o : Op) : List LaneAcc → State × List (Nat × Nat)
  | [] => (s, [])
  | l :: r =>
    let p := (s.note id key o l).performLane o.op o.size l
    let t := p.1.performParts id key o r
    (t.1, match p.2 with
      | some x => (l.lane, x) :: t.2
      | none => t.2)

/-- What the parts of one lane have read together (R200, R216). -/
def laneValue (xs : List (Nat × Nat)) (lane : Nat) : Nat := ((xs.filter (fun p => p.1 == lane)).map Prod.snd).foldl (· + ·) 0

/-- Writes what the parts of an operation have read (R216): FETEST's bits make one value (R230). -/
def State.writeResults (s : State) (id : Nat) (o : Op) (xs : List (Nat × Nat)) : State :=
  match o.op with
  | .fetest => s.writeDest id o.warp o.size o.dest 0 ((xs.map Prod.snd).foldl (· + ·) 0)
  | _ => xs.foldl (fun s p => s.writeDest id o.warp o.size o.dest p.1 (laneValue xs p.1)) s

/-- What has been performed early of an operation that has issued becomes part of it. -/
def State.takeEarly (s : State) (e : Early) : State :=
  match (if e.gone then none else e.due).bind (fun id => (Table.get? s.ops id).map (fun o => (id, o))) with
  | none => s
  | some (id, o) =>
    let s := if o.op.waits then s.writeResults id o e.got else s
    let o' : Op := { o with
      lanes := o.lanes.filter (fun l => !e.acc.lanes.contains l), got := if o.op.waits then o.got else o.got ++ e.got
      begun := if o.op.atomic.isSome then o.begun ++ e.acc.locs else o.begun }
    ({ s with ops := Table.set s.ops id o', early := s.early.filter (fun x => x != e) } : State).mapTrails (fun t => t.claim e.key id)

/-- Performs lanes in ascending order and writes what each reads into its destination, after what earlier parts have read (R216, R217,
R221). -/
def State.performLanes (s : State) (id : Nat) (o : Op) (ls : List LaneAcc) : State :=
  let p := s.performParts id none o ls
  p.1.writeResults id o (o.got ++ p.2)

/-- An operation has performed its last lane: it leaves its set (R100). -/
def State.finishOp (s : State) (id : Nat) : State :=
  ({ s.leaveSets id with ops := Table.erase s.ops id } : State).dropFences

/-- A waiting access on a common word was presented before this lane's (R186): an access is presented once nothing is ordered before it,
and its place is that of its issue (assumption log 72). -/
def State.olderWaiter (s : State) (id : Nat) (o : Op) (l : LaneAcc) : Bool :=
  s.ops.any (fun p => p.1 != id && p.2.op.waits && decide (p.2.arrived < o.arrived) &&
    p.2.lanes.any (fun m => s.tagReady p.2.op m && s.mayPerform p.1 p.2 m &&
      (benchWords m.locs).any (fun w => (benchWords l.locs).contains w)))

/-- The lanes of a waiting access that may be served now, the lowest first (R185, R186). -/
def State.readyLanes (s : State) (id : Nat) (o : Op) : List LaneAcc :=
  o.lanes.filter (fun l => s.tagReady o.op l && s.mayPerform id o l && !s.barred id o l && o.partOpen l && !s.olderWaiter id o l)

/-- Lanes of one VAMO that name a location of a part are performed so far only in part: no other access of its fragment falls between
them (R221). -/
def State.amidAtomic (s : State) (id : Nat) (o : Op) (l : LaneAcc) : Bool :=
  s.ops.any (fun p => p.1 != id && p.2.warp == o.warp && p.2.op.atomic.isSome && (p.2.active &&& o.active) != 0 &&
    p.2.lanes.any (fun m => touches p.2.op o.op m l && m.locs.any p.2.begun.contains))

/-- A lane of an atomic may be performed once every lane of it that names the same location may be (R221). -/
def State.atomicOpen (s : State) (id : Nat) (o : Op) (l : LaneAcc) : Bool :=
  o.op.atomic.isNone || o.lanes.all (fun m => !touches o.op o.op l m || s.mayPerform id o m)

/-- A part reads what its fragment has been told (R235, R237). -/
def Op.tellsTrue (o : Op) (l : LaneAcc) (x : Option Nat) : Bool :=
  o.told.all (fun p => p.1 != l.number || x == some p.2)

/-- Every part reads what its fragment has been told, where all are performed together. -/
def State.readsTold (s : State) (o : Op) : Bool :=
  o.told.isEmpty || (((s.performParts 0 none o o.lanes).2).zip o.lanes).all (fun p => o.tellsTrue p.2 (some p.1.2))

/-- The operation can go on: its parts may be performed, its responses are in, and a waiting access has a lane to serve. -/
def State.opReady (s : State) (id : Nat) (o : Op) : Bool :=
  !o.waitsRemote &&
    (if o.op.waits then o.lanes.isEmpty || !(s.readyLanes id o).isEmpty
     else o.lanes.all (fun l => s.mayPerform id o l && !s.barred id o l && !s.amidAtomic id o l) && s.readsTold o)

/-- One part of a waiting access is served, and what it reads is written at once (R185). -/
def State.serve (s : State) (id : Nat) (o : Op) (l : LaneAcc) : State × Bool :=
  let rest := o.lanes.filter (fun m => m.lane != l.lane)
  let s' := s.performLanes id o [l]
  ({ s' with ops := Table.set s'.ops id { o with lanes := rest } }, rest.isEmpty)

/-- Performs an operation that may be performed: at once, or one lane of a waiting access (R185). The Bool says that its last lane
is done. -/
def State.performOp (s : State) (id : Nat) (o : Op) : State × Bool :=
  if o.op.waits then
    match s.readyLanes id o with
    | [] => (s, o.lanes.isEmpty)
    | l :: _ => s.serve id o l
  else (s.performLanes id o o.lanes, true)

/-! ### Parts by themselves (R209, R221, R230, R232, R234) -/

/-- The responses to the lines of a part are in (R205). -/
def State.partAnswered (s : State) (o : Op) (l : LaneAcc) : Bool :=
  (s.linesOf [l]).all (fun p => o.lines.all (fun x => x.answered || !(x.port == p.1 && x.line == p.2)))

/-- A part is done: what it has read is kept for the end of its operation. -/
def State.partDone (s : State) (id : Nat) (o : Op) (l : LaneAcc) (x : Option Nat) : State :=
  let o' : Op := { o with
    lanes := o.lanes.filter (fun m => m != l), got := o.got ++ (x.map (fun x => (l.lane, x))).toList
    begun := if o.op.atomic.isSome then o.begun ++ l.locs else o.begun }
  { s with ops := Table.set s.ops id o' }

/-- One part of an operation is performed by itself. -/
def State.performPart (s : State) (id : Nat) (o : Op) (l : LaneAcc) : State :=
  if o.op.waits then (s.serve id o l).1
  else
    let p := (s.note id none o l).performLane o.op o.size l
    if o.tellsTrue l p.2 then p.1.partDone id o l p.2 else s

/-- The part of an operation that a number names, where the operation may go on with it. -/
def State.openPart (s : State) (id n : Nat) : Option (Op × LaneAcc) :=
  match Table.get? s.ops id with
  | none => none
  | some o =>
    match o.lanes.find? (fun l => l.number == n) with
    | none => none
    | some l =>
      if s.partAnswered o l && o.partOpen l && !s.amidAtomic id o l then some (o, l) else none

/-- One part by itself (R209): a waiting access's where its turn has come. -/
def State.partAlone (s : State) (id n : Nat) : State :=
  match s.openPart id n with
  | none => s
  | some (o, l) =>
    if o.op.waits then (if (s.readyLanes id o).contains l then s.performPart id o l else s)
    else if s.mayPerform id o l && !s.barred id o l && s.atomicOpen id o l then s.performPart id o l
    else s

/-- A byte that a part of an outstanding store will write: where, and of which operation. -/
structure Forward where
  loc : Loc
  id : Nat
  op : Op
  part : LaneAcc
deriving DecidableEq, Repr

/-- What it will write there. -/
def Forward.byte (f : Forward) : Byte := BitVec.ofNat 8 (f.part.data.toNat / 256 ^ (f.part.locs.findIdx (· == f.loc)))

/-- The bytes of a load part that outstanding stores of its own lanes will write: none where the latest operation to write, or read, one of its bytes is
no plain store of these lanes (R234). -/
def State.forwards (s : State) (j : Nat) (y : Op) (m : LaneAcc) : List Forward :=
  let ps := (s.ops.filter (fun q => decide (q.1 < j) && q.2.warp == y.warp)).flatMap (fun q =>
    (q.2.lanes.filter (fun l => mayOrder q.2 y l m && touches q.2.op y.op l m)).map (fun l => (q.1, q.2, l)))
  let fs := m.locs.filterMap (fun x => (ps.reverse.find? (fun p => p.2.2.locs.contains x)).map (fun p => (⟨x, p.1, p.2.1, p.2.2⟩ : Forward)))
  if fs.all (fun f => f.op.op == .store && (f.part.who &&& m.who) != 0) then fs else []

/-- What a load part reads where some of its bytes come from own stores. -/
def State.readOver (s : State) (fs : List Forward) (ls : List Loc) : Nat :=
  ls.foldr (fun x n => (((fs.find? (fun f => f.loc == x)).map Forward.byte).getD (s.readLoc x)).toNat + 256 * n) 0

/-- What comes after a part of an operation, before any of it has been performed. -/
def State.newDebt (s : State) (id : Nat) (o : Op) (l : LaneAcc) (left : Bool) : Debt :=
  let acc : Op := { o with lanes := [l] }
  { op := id, part := l.number, acc := acc, left := left, trail := { after := [{ id := id, op := acc }] }, code := s.codeTrail id o l }

/-- The operations that a part comes before are kept from now on. -/
def State.trackPart (s : State) (id : Nat) (o : Op) (l : LaneAcc) (left : Bool) : State :=
  if s.debts.any (fun d => d.op == id && d.part == l.number) then
    { s with debts := s.debts.map (fun d => if d.op == id && d.part == l.number then { d with left := d.left || left } else d) }
  else { s with debts := s.newDebt id o l left :: s.debts }

/-- A load takes what outstanding stores of its own lanes will write, before any other agent can see it, and the rest of its bytes from memory (R234). -/
def State.forward (s : State) (id n : Nat) : State :=
  match s.openPart id n with
  | none => s
  | some (o, m) =>
    let fs := s.forwards id o m
    let rest := m.locs.filter (fun x => !fs.any (fun f => f.loc == x))
    let x := 256 ^ m.off * s.readOver fs m.locs
    let waits (i : Nat) (z : Op) (l : LaneAcc) : Bool :=
      (l.isSO && m.isSO) || (l.who &&& m.who) == 0 || (s.syncOrdered i id z o l m && !s.isLeft i l) || (!z.told.isEmpty && !(l.isUO || m.isUO))
    if o.op == .load && !fs.isEmpty && (s.tied id o m waits).isEmpty && !s.stepBefore id o m && !s.barredBut (fs.map Forward.id) id o m &&
        o.tellsTrue m (some x) then
      ((fs.foldl (fun s f => s.trackPart f.id f.op f.part false) s).noteForward id o m rest).partDone id o m (some x)
    else s

/-- Accesses that come after a part may pass it (R232): whatever stands before it has been passed as well. An atomic has read its bytes then, which
it must be able to. -/
def State.mayLeave (s : State) (id : Nat) (o : Op) (l : LaneAcc) : Bool :=
  let earlier := o.lanes.takeWhile (fun k => k != l)
  (o.op.putsOnly || o.op.atomic.isSome) && o.told.isEmpty && !s.stepBefore id o l && !s.isLeft id l &&
    (s.tied id o l (fun i x k => s.waitsFor i id x o k l && !s.isLeft i k)).isEmpty &&
    earlier.all (fun k => s.isLeft id k || !(touches o.op o.op k l || o.op.tagOnly)) &&
    (o.op.atomic.isNone || (s.partAnswered o l && !s.barred id o l && !s.amidAtomic id o l &&
      (s.tied id o l (fun _ x k => firmlyOrdered x o k l)).isEmpty))

/-- An atomic left behind has read: what it acquires it has acquired (R239). -/
def State.noteRead (s : State) (id : Nat) (o : Op) (l : LaneAcc) : State :=
  if o.op.atomic.isNone then s
  else s.mapTrails (fun t =>
    let u := s.seenBy id none o l t
    if s.isAfter t id o l then u.add [{ id := id, op := { o with lanes := [l] } }] else u)

/-- Part n of an operation is left behind. -/
def State.leavePart (s : State) (id : Nat) (o : Op) (l : LaneAcc) : State :=
  if s.mayLeave id o l then (s.noteRead id o l).trackPart id o l true else s

end Sys2Proof.Machine
end

