-- ==== Sys2Proof/Machine/CapRecord.lean ====
section
/-! DEFINITION. Capsule records (R307) and the actions on them at their home unit: grants, commits, displacement and posting
(R310, R311, R314 to R317). A record is named by the canonical address of its first byte. -/

namespace Sys2Proof.Machine

/-- n bytes of a record from byte off on. -/
def recLocs (r off n : Nat) : List Loc := (List.range n).map (fun j => .phys (r + off + j))

/-- The control word of a record (R307). -/
structure CapCtl where
  owner : BitVec 32
  state : Nat
  step : Nat
  gen : BitVec 16
deriving DecidableEq, Repr

/-- The control word as a number. -/
def State.capWord (s : State) (r : Nat) : Nat := s.readLocs (recLocs r 0 8)

def State.capCtl (s : State) (r : Nat) : CapCtl :=
  let x := s.capWord r
  ⟨BitVec.ofNat 32 x, x / 2 ^ 32 % 256, x / 2 ^ 40 % 256, BitVec.ofNat 16 (x / 2 ^ 48)⟩

def State.setCapCtl (s : State) (r : Nat) (c : CapCtl) : State :=
  s.writeLocs (recLocs r 0 8) (c.owner.toNat + c.state * 2 ^ 32 + c.step * 2 ^ 40 + c.gen.toNat * 2 ^ 48)

/-- KSNAP as registers (R307). -/
def State.ksnap (s : State) (r : Nat) : Table Dword :=
  (List.range 8).foldl (fun t n => Table.put 0 t n (BitVec.ofNat 64 (s.readLocs (recLocs r (8 + 8 * n) 8)))) []

def State.setKsnapReg (s : State) (r n : Nat) (x : Dword) : State := s.writeLocs (recLocs r (8 + 8 * n) 8) x.toNat

def State.setKsnap (s : State) (r : Nat) (k : Table Dword) : State :=
  (List.range 8).foldl (fun s n => s.setKsnapReg r n (Table.getD k n 0)) s

def State.capEntry (s : State) (r : Nat) : Dword := BitVec.ofNat 64 (s.readLocs (recLocs r 72 8))
def State.setCapEntry (s : State) (r : Nat) (a : Dword) : State := s.writeLocs (recLocs r 72 8) a.toNat

/-- The reserved bytes 127:80 of a record are zero (R310). -/
def State.capReservedZero (s : State) (r : Nat) : Bool := (recLocs r 80 48).all (fun l => s.readLoc l == 0)

/-- The record shows that this runner's step may commit (R311). Any runner that adopts passes while STATE is 3 (assumption log 103). -/
def capOwns (ctl : CapCtl) (w : Warp) (c : Capsule) (number : Nat) : Bool :=
  ctl.step == number &&
    (if c.adopting then ctl.state == 3 else ctl.state == 1 && ctl.owner == w.capid) && decide (number < 16)

/-- A warp's capsule changed. -/
def State.modCapsule (s : State) (wid : Nat) (f : Capsule → Capsule) : State :=
  s.modWarp wid (fun w => { w with capsule := w.capsule.map f })

/-- What a step writes into a k register: its own write, or what its memory access read (R312). -/
def CapStep.kWrite (st : CapStep) (got : Option Nat) : Option (Nat × Dword) :=
  match st.mem, got with
  | some r, some x => (match r.dest with
    | .kreg n => some (n, BitVec.ofNat 64 x)
    | _ => none)
  | _, _ => st.write

/-- What the commits and grants of a record have handed on (R313). -/
def Carrier.ofRecord (r : Nat) (c : Carrier) : Bool := c == .record r

/-- An action on a record at its home unit, of some lanes of a warp, meets nothing left behind that it or an earlier action on the record comes after
(R240, R313). -/
def State.recordClear (s : State) (wid j : Nat) (lanes : Lanes) (r : Nat) (ls : List Loc) : Bool :=
  s.ownMayAct j (ownAccessOf wid lanes (.amo 8) true true .rc (recLocs r 0 128)) && !s.heldMeets (Carrier.ofRecord r) (recLocs r 0 128 ++ ls)

/-- A step may commit: nothing of its lanes before it is outstanding, since a commit is a release and its access an access of the lanes
(R233, R313). -/
def State.mayCommit (s : State) (wid : Nat) (w : Warp) (st : CapStep) : Bool :=
  let lanes := (s.frag? st.frag).elim 0 (activeOf w)
  let op := (st.mem.map MemReq.op).getD .load
  s.ownMayAct st.op (ownAccessOf wid lanes op true true .rc st.locs) &&
    w.capsule.all (fun c => s.recordClear wid st.op lanes c.record st.locs)

/-- A step's memory access as one of its lanes, and its one part (R312). -/
def stepOp (wid wg : Nat) (lanes : Lanes) (r : MemReq) (locs : List Loc) : Op × LaneAcc :=
  let q := r.lanes.headD ⟨0, 0, 0, 0⟩
  let l : LaneAcc := ⟨0, locs, .rc, q.data, q.new, lanes, 0⟩
  ({ ownAccessOf wid lanes r.op false false .rc [] with wg := wg, size := r.size, lanes := [l] }, l)

/-- A step's memory access, if it has one, and what it reads (R312). -/
def State.stepAccess (s : State) (st : CapStep) : State × Option Nat :=
  match st.mem with
  | none => (s, none)
  | some r => s.performLane r.op r.size (stepOp 0 0 0 r st.locs).2

/-- A step's memory access has its place in happens-before (R240). -/
def State.noteStep (s : State) (wid wg : Nat) (lanes : Lanes) (st : CapStep) : State :=
  match st.mem with
  | none => s
  | some r => s.note st.op none (stepOp wid wg lanes r st.locs).1 (stepOp wid wg lanes r st.locs).2

/-- An action on a record, of some lanes of a warp: it acquires what the commits before it have released (R313). The record's bytes are written. -/
def State.acquireRecord (s : State) (wid wg : Nat) (lanes : Lanes) (r : Nat) : State :=
  (s.overwritten (recLocs r 0 80)).handTo (Carrier.ofRecord r) wid wg lanes

/-- A commit or a CAPEXIT, issued at identity j, also releases what happens before it (R313). -/
def State.joinRecord (s : State) (wid wg j : Nat) (lanes : Lanes) (r : Nat) : State :=
  (s.acquireRecord wid wg lanes r).releaseTo wid j lanes (.record r)

/-- The record takes a step's commit (R311): it shows the runner and the step's number, and STEP, which the step's own access may have
written (assumption log 83), comes to 16 at most. -/
def State.recordTakes (s : State) (w : Warp) (c : Capsule) (st : CapStep) : Bool :=
  capOwns (s.capCtl c.record) w c st.number && decide (((s.stepAccess st).1.capCtl c.record).step < 16)

/-- A step that has issued, or a word since the step before it, writes a k register. -/
def CapStep.writesK (st : CapStep) (n : Nat) : Bool :=
  (st.kWrite (some 0)).any (fun p => p.1 == n) || (Table.get? st.moved n).isSome

/-- Registers with later writes of some of them. -/
def overlay (ks later : Table Dword) : Table Dword := later.foldl (fun t p => Table.put 0 t p.1 p.2) ks

/-- The fragment's pending writes of k registers are dropped: of all, or of one. -/
def Frag.dropK (f : Frag) (only : Option Nat) : Frag :=
  { f with pend := f.pend.filter (fun p => match p.val with
    | .kreg n _ => only.any (fun m => m != n)
    | _ => true) }

/-- The k register that a memory step has read into, where no step after it writes that register: of two writes of one register the step
issued later has the last word (R102; assumption log 83). -/
def State.landK (s : State) (wid : Nat) (c : Capsule) (n : Nat) (x : Dword) : State :=
  if (c.steps.drop 1).any (fun st => st.writesK n) || (Table.get? c.moved n).isSome then s
  else (s.modWarp wid (fun w => { w with k := Table.put 0 w.k n x })).modFrag c.frag (fun f => f.dropK (some n))

/-- The oldest uncommitted step of a capsule commits in one action at the home unit (R311): its access, its k write, STEP, KSNAP
and ENTRY, in this order. -/
def State.commitStep (s : State) (wid : Nat) (c : Capsule) (st : CapStep) : State :=
  let lanes := (s.frag? st.frag).elim 0 Frag.lm
  let wg := ((s.warp? wid).map Warp.wg).getD 0
  let m := ((s.noteStep wid wg lanes st).joinRecord wid wg st.op lanes c.record).stepAccess st
  let write := st.kWrite m.2
  let before := overlay c.ks st.moved
  let ks := match write with
    | some p => Table.put 0 before p.1 p.2
    | none => before
  let ctl := m.1.capCtl c.record
  let s := ((m.1.setKsnap c.record ks).setCapCtl c.record { ctl with step := ctl.step + 1 }).setCapEntry c.record st.next
  let s := match st.mem, write with
    | some _, some p => s.landK wid c p.1 p.2
    | _, _ => s
  (((s.modCapsule wid (fun c => { c with steps := c.steps.drop 1, ks := ks, entry := st.next })).leaveSets st.op).dropEarlyAt wid
    lanes st.locs).dropEarlyBehind wid lanes

/-- Uncommitted steps are dropped: they take no effect, k0 to k7 are those of the last committed step with what other words have written
since (R311). -/
def State.dropSteps (s : State) (wid : Nat) (c : Capsule) : State :=
  let s := c.steps.foldl (fun s st => s.leaveSets st.op) s
  let moved := (c.steps.map CapStep.moved ++ [c.moved]).foldl (fun t m => m.foldl (fun t p => Table.set t p.1 p.2) t) []
  ((s.modWarp wid (fun w => { w with k := overlay c.ks moved })).modCapsule wid (fun c =>
    { c with steps := [], moved := moved })).modFrag c.frag
    (fun f => f.dropK none)

/-- Where a capsule's first uncommitted step stands. -/
def Capsule.pending (c : Capsule) : Dword := (c.steps.head?.map CapStep.pc).getD c.entry

/-- CAP_RECORD at a refused commit (R311). -/
def Capsule.refusal (c : Capsule) : Trap := { code := Code.capRecord, addr := c.va }

/-- A refused commit whose fragment cannot take its CAP_RECORD at once, for it is in a handler or is being saved: it stands at the first
refused step, where the trap meets it. -/
def State.holdRefusal (s : State) (c : Capsule) : State :=
  s.modFrag c.frag (fun f =>
    let f := if c.runs c.frag f then { f with pc := c.pending } else { f with tsave0 := c.pending }
    { f with heldTraps := f.heldTraps ++ [⟨c.refusal, false⟩] })

/-- Every issued step of a warp's capsule commits, or is dropped where the record refuses it (R315, R316). -/
def State.commitAll (s : State) (wid : Nat) : Nat → State
  | 0 => s
  | n + 1 =>
    match s.warp? wid with
    | none => s
    | some w =>
      match w.capsule with
      | none => s
      | some c =>
        match c.steps with
        | [] => s
        | st :: _ =>
          if s.recordTakes w c st then (s.commitStep wid c st).commitAll wid n else (s.dropSteps wid c).holdRefusal c

/-- The state byte of a record goes from one value to another. -/
def State.capShift (s : State) (r a b : Nat) : State :=
  let ctl := s.capCtl r
  if ctl.state = a then s.setCapCtl r { ctl with state := b } else s

/-- An adopter stops: its steps commit, the record is displaced again, and it stands at its own CAPENT with its own k (R316). -/
def State.dropAdoption (s : State) (wid : Nat) : State :=
  let s := s.commitAll wid 16
  match s.warp? wid with
  | none => s
  | some w =>
    match w.capsule with
    | none => s
    | some c =>
      if c.adopting then
        let s := s.capShift c.record 3 2
        let s := s.setWarp wid { w with k := c.savedK, capsule := none }
        s.modFrag c.frag (fun f =>
          let f := f.dropK none
          if f.hnd && !c.hnd then { f with tsave0 := c.ownPc } else { f with pc := c.ownPc, wait := none })
      else s

/-- A holder's record is displaced, where it still shows the holder: not one that an adopter has completed (R315 to R317). -/
def State.displaceRecord (s : State) (wid : Nat) (c : Capsule) : State :=
  match s.warp? wid with
  | none => s
  | some w => if w.returnSlot.isNone && (s.capCtl c.record).owner == w.capid then s.capShift c.record 1 2 else s

/-- Pre-emption of a warp that holds or adopts a capsule (R315, R316): a holder in its trap handler keeps STATE 1. -/
def State.displace (s : State) (wid : Nat) : State :=
  match (s.warp? wid).bind Warp.capsule with
  | none => s
  | some c =>
    if c.adopting then s.dropAdoption wid
    else if (s.fragsOf wid).any (fun p => p.2.hnd) then s
    else (s.commitAll wid 16).displaceRecord wid c

/-- The record of a dying context's warp (R316, R370): an adopter's or holder's capsule becomes displaced. -/
def State.capsuleDies (s : State) (wid : Nat) : State :=
  match (s.warp? wid).bind Warp.capsule with
  | none => s
  | some c => if c.adopting then s.dropAdoption wid else s.displaceRecord wid c

/-- CAPEXIT's effect once every step has committed (R314, R316). -/
def State.capExit (s : State) (wid : Nat) (fid : Nat) (next : Dword) : State :=
  match s.warp? wid with
  | none => s
  | some w =>
    match w.capsule with
    | none => s
    | some c =>
      let s := s.joinRecord wid w.wg s.serial ((s.frag? fid).elim 0 Frag.lm) c.record
      let ctl := s.capCtl c.record
      if c.adopting then
        let owner := s.warps.find? (fun p => p.2.capid == ctl.owner && p.2.planer.isNone && !p.2.retired)
        let s := match owner with
          | some p =>
            if (s.ctx (s.ctxOfWarp p.2)).dead.isSome then s
            else s.modWarp p.1 (fun x => { x with returnSlot := some w.k })
          | none => s
        let s := s.setCapCtl c.record { ctl with state := 0 }
        let count := bitsAt w.capstat 8 8
        let stat := w.capstat + (if count < 255 then 256 else 0)
        (s.modWarp wid (fun x => { x with k := c.savedK, capsule := none, capstat := stat })).modFrag fid
          (fun f => { f with pc := c.ownPc })
      else
        let s := s.setCapCtl c.record { ctl with state := 0 }
        (s.modWarp wid (fun x => { x with capsule := none, capstat := x.capstat &&& 0xFFFE })).modFrag fid
          (fun f => { f with pc := next })

end Sys2Proof.Machine
end

