-- ==== Sys2Proof/Machine/Lease.lean ====
section
/-! DEFINITION. What engine commands share: tokens and the end of a command (R257, R258), deferred faults (R255), engine leases
(R263, R270) and MSM reservations (R275). -/

namespace Sys2Proof.Machine

/-- The live fragment that takes a deferred fault of a command issued for some lanes (R255): of those lanes the lowest still held,
else the warp's lowest live lane. -/
def State.deferTarget (s : State) (warp : Nat) (active : Lanes) : Option Nat :=
  let fs := s.fragsOf warp
  let holder (i : Nat) : Option Nat := (fs.find? (fun p => p.2.lm.has i)).map Prod.fst
  match (active.toList.filterMap holder).head? with
  | some f => some f
  | none => ((List.range 64).filterMap holder).head?

/-- Delivers a deferred fault (R255, R389): held for a fragment, or an interrupt where the warp has retired. -/
def State.deferTrap (s : State) (ctx warp : Nat) (active : Lanes) (t : Trap) (n : Notice) : State :=
  if (s.ctx ctx).dead.isSome then s
  else
    match s.deferTarget warp active with
    | some f => s.modFrag f (fun x => { x with heldTraps := x.heldTraps ++ [⟨t, true⟩] })
    | none => s.post (s.evvec ctx) n

/-- A command writes memory, or releases what comes before it. -/
def CmdKind.writes : CmdKind → Bool
  | .tcopy _ _ _ _ _ _ _ _ _ _ _ => true
  | .msmrd _ _ _ _ _ _ _ => true
  | .coll _ _ _ _ _ _ _ _ _ => true
  | .cbulk _ _ _ _ _ _ _ _ => true
  | .compact _ _ => true
  | _ => false

/-- What hands on what a command comes after. -/
def Cmd.carrier (c : Cmd) (id : Nat) : Carrier := .cmd id c.warp c.wg c.active c.rel c.kind.writes

/-- A token arrives at a tag (R257): the oldest held command of the workgroup with that tag takes it. The Bool says that the
token was discarded because the count stood at 255. Every access of the command that posts it happens before every access of the one that
takes it (R243). -/
def State.addToken (s : State) (wg tag pre : Nat) : State × Bool :=
  match s.cmds.find? (fun p => p.2.wg == wg && p.2.tag == tag && p.2.state == .held) with
  | some p => ((s.modCmd p.1 (fun c => { c with state := .queued })).passOn (Carrier.isCmd pre) (p.2.carrier p.1), false)
  | none =>
    match s.wg? wg with
    | none => (s, false)
    | some g =>
      let n := Table.getD g.tokens tag 0
      if 255 ≤ n then (s, true)
      else ((s.setWg wg { g with tokens := Table.put 0 g.tokens tag (n + 1) }).passOn (Carrier.isCmd pre) (.token wg tag), false)

/-- Every listed command has left EC. -/
def State.cmdsEnded (s : State) (ids : List Nat) : Bool :=
  ids.all (fun i => match Table.get? s.cmds i with
    | none => true
    | some c => c.ended)

/-- Accumulators of a core held by reservations (R275). -/
def State.msmUsed (s : State) (core : Nat) : Nat :=
  s.warps.foldl (fun n p =>
    if p.2.msmHeld && p.2.planer.isNone && ((s.wg? p.2.wg).map Wg.core).getD 768 == core &&
        ((s.wg? p.2.wg).bind (fun g => s.team? g.team)).map Team.state != some .saved then n + p.2.msmSize else n) 0

/-- A command leaves EC (R100). A command without a tag is forgotten; one with a tag is kept for EPOLL. -/
def State.leaveEC (s : State) (id : Nat) (final : CmdState) : State :=
  let s := s.leaveSets id
  match Table.get? s.cmds id with
  | none => s
  | some c =>
    if c.tag = 0 then { s with cmds := Table.erase s.cmds id }
    else { s with cmds := Table.set s.cmds id { c with state := final, ended := true } }

/-- Grants MSM requests of a core from the head of its FIFO while they fit (R275), at most as many as `fuel` says. A second request of one warp that is granted replaces
its reservation (assumption log 74). -/
def State.grantUpTo (s : State) (core : Nat) : Nat → State
  | 0 => s
  | fuel + 1 =>
    match (s.core core).msmFifo with
    | [] => s
    | (w, cmd, n) :: rest =>
      if s.msmUsed core + n ≤ Config.msmSize then
        let s := s.modCore core (fun c => { c with msmFifo := rest })
        let s := s.modWarp w (fun x => { x with msmHeld := true, msmSize := n, msm := [], msmFree := none })
        (s.leaveEC cmd .done).grantUpTo core fuel
      else s

/-- Grants every MSM request of a core that its turn and the free accumulators allow (R275). -/
def State.grantMsm (s : State) (core : Nat) : State := s.grantUpTo core (s.core core).msmFifo.length

/-- Releases a warp's MSM reservation (R275). -/
def State.releaseMsm (s : State) (core wid : Nat) : State :=
  (s.modWarp wid (fun w => { w with msmHeld := false, msmSize := 0, msm := [], msmFree := none })).grantMsm core

/-- An MSMF takes effect once the commands that named the reservation have retired (R275). -/
def State.settleMsmf (s : State) (core wid : Nat) : State :=
  match (s.warp? wid).bind Warp.msmFree with
  | some ids => if s.cmdsEnded ids then s.releaseMsm core wid else s
  | none => s

/-- A command completes: its token is posted, then it leaves EC (R257, R258). -/
def State.endCmd (s : State) (id : Nat) : State :=
  match Table.get? s.cmds id with
  | none => s
  | some c =>
    let t := if c.next = 0 then (s, false) else s.addToken c.wg c.next id
    let fault := match c.fault with
      | some f => some f
      | none => if t.2 then some { code := Code.engTagOvf, detail := BitVec.ofNat 18 c.next } else none
    let s := if c.fault.isNone && t.2 then
        t.1.deferTrap c.ctx c.warp c.active { code := Code.engTagOvf, detail := BitVec.ofNat 18 c.next }
          (.deferred { code := Code.engTagOvf, detail := BitVec.ofNat 18 c.next })
      else t.1
    let s := s.leaveEC id (if fault.isSome then .faulted else .done)
    s.settleMsmf c.core c.warp

/-- Gives the free engine of a core to a warp; an engine that passes to another workgroup holds no tile for MXOP (R263, R270). -/
def State.giveLease (s : State) (core wid : Nat) : State :=
  let g := (s.warp? wid).map Warp.wg
  s.modCore core (fun c =>
    { c with owner := some wid, lastWg := g, width8 := if c.lastWg = g then c.width8 else none })

/-- The lease of a core passes to its FIFO's head, or the engine is free (R263). -/
def State.passLease (s : State) (core : Nat) : State :=
  match (s.core core).fifo with
  | [] => s.modCore core (fun c => { c with owner := none })
  | (w, cmd) :: rest => ((s.modCore core (fun c => { c with fifo := rest })).giveLease core w).leaveEC cmd .done

/-- The formed bond of more than one core that a core's engine lies in, by its leader (R265). -/
def State.bondOf (s : State) (core : Nat) : Option (Nat × Bond) :=
  s.bonds.find? (fun p => p.2.formed && p.2.members.contains core)

/-- A BFORM or BJOIN of the core's engine has issued and not yet formed (R266). -/
def State.bondPending (s : State) (core : Nat) : Bool :=
  (match Table.get? s.bonds core with
    | some b => !b.formed
    | none => false) || (s.core core).joined.isSome

/-- A bond is gone: its channels are free, and where it had formed its members' engines discard their tiles (R268, R270). -/
def State.dropBond (s : State) (leader : Nat) : State :=
  match Table.get? s.bonds leader with
  | none => s
  | some b =>
    let s : State := { s with bonds := Table.erase s.bonds leader }
    (if b.formed then b.members else []).foldl (fun s c => s.modCore c (fun x => { x with tile := [], tileFmt := none, tileScale := 0, width8 := none })) s

end Sys2Proof.Machine
end

