-- ==== Sys2Proof/Machine/JigState.lean ====
section
/-! DEFINITION. The jig table and configuration of a core (R292, R296, R301, R302) and the counts of JIGSTAT (R304). A program sees
no more of the jig than JIGSTAT: what a mapped loop computes is what ordinary execution computes (R289). -/

namespace Sys2Proof.Machine

/-- A field of JIGSTAT one higher, at most its largest value (R304). -/
def bumpField (x : Dword) (lo w : Nat) : Dword :=
  if bitsAt x lo w + 1 < 2 ^ w then x + BitVec.ofNat 64 (2 ^ lo) else x

/-- Counts a mapping, a drop or a refusal of reason n (R304). -/
def jigMaps (g : Wg) : Wg := { g with jigstat := bumpField g.jigstat 0 16 }
def jigDrops (g : Wg) : Wg := { g with jigstat := bumpField g.jigstat 16 16 }
def jigRefuse (n : Nat) (g : Wg) : Wg := { g with jigstat := bumpField g.jigstat (32 + 4 * n) 4 }

/-- The same loop (R291). -/
def sameLoop (a b : Loop) : Bool := a.ctx == b.ctx && a.entry == b.entry && a.back == b.back

/-- An address lies in a hint's region, both ends included (R305). -/
def Hint.covers (h : Hint) (a : Dword) : Bool := decide (h.start.toNat ≤ a.toNat) && decide (a.toNat ≤ h.stop.toNat)

/-- The mode of the region of a loop's entry: of the hint written last (R305); none where no hint governs it. -/
def regionMode (hs : List Hint) (entry : Dword) : Option (BitVec 2) := ((hs.reverse.find? (fun h => h.covers entry))).map Hint.mode

/-- The heat at which a workgroup attempts a mapping of a loop; 0 where it attempts none (R292, R293, R303, R305). -/
def mapHeat (g : Wg) (hs : List Hint) (entry : Dword) : Nat :=
  let thresh := bitsAt g.jigcfg 0 16
  let mode := regionMode hs entry
  if thresh = 0 || mode == some 0#2 || (g.jigcfg.getLsbD 16 && mode != some 2#2) then 0
  else if mode = some 2#2 then 1 else thresh

/-- A group of a configuration's loop is at an address. -/
def JigConfig.holds (c : JigConfig) (pc : Dword) : Bool := c.starts.contains pc

/-- A group of the loop in its entry packet is at an address (R292). -/
def JigConfig.atEntry (c : JigConfig) (pc : Dword) : Bool := c.holds pc && packetAddr pc == c.loop.entry

/-- A fragment arrives at the entry with its next group (R292): at the first group of the entry packet, or at another one of it where it
does not come from an earlier group of that packet. -/
def JigConfig.arrives (c : JigConfig) (f : Frag) : Bool :=
  c.atEntry f.pc && (c.starts.head? == some f.pc || f.packet.all (fun p => p.1 != f.pc))

/-- A fragment of the context that comes to the entry may be served (R292, R293): its workgroup would allow an attempt, and no write of
it is pending. -/
def State.jigTakes (s : State) (cfg : JigConfig) (f : Frag) (g : Wg) : Bool :=
  let heat := mapHeat g (s.ctx cfg.loop.ctx).hints cfg.loop.entry
  let have_ := (((s.core g.core).loops.find? (fun l => sameLoop l cfg.loop)).map Loop.heat).getD 0
  heat != 0 && decide (heat ≤ have_) && f.pend.all (fun p => decide (p.vis ≤ f.t))

/-- The configuration that serves a fragment at its next group (R292, R293, R296): one that takes it up at an arrival at the entry, and keeps
it within the body. -/
def State.jigServes (s : State) (fid : Nat) (f : Frag) (w : Warp) (g : Wg) (ctx : Nat) : Option JigConfig :=
  match (s.core g.core).config with
  | none => none
  | some cfg =>
    if cfg.loop.ctx != ctx || f.hnd || w.planer.isSome || !cfg.holds f.pc || !(cfg.served.isNone || cfg.served == some fid) then none
    else if cfg.arrives f then (if s.jigTakes cfg f g then some cfg else none)
    else if cfg.served.isSome then some cfg
    else none

/-- A core's configuration serves a fragment. -/
def State.jigServed (s : State) (core fid : Nat) : Bool := ((s.core core).config.bind JigConfig.served) == some fid

/-- A configuration is unloaded and counted (R295, R296, R300, R301, R304); its loop's heat is reset where the rule says so. -/
def State.jigUnload (s : State) (core : Nat) (resetHeat : Bool) : State :=
  match (s.core core).config with
  | none => s
  | some cfg =>
    let g := match cfg.served.bind s.frag? with
      | some f => ((s.warp? f.warp).map Warp.wg).getD cfg.wg
      | none => cfg.wg
    let s := s.modCore core (fun c => { c with
      config := none,
      loops := if resetHeat then c.loops.map (fun l => if sameLoop l cfg.loop then { l with heat := 0 } else l) else c.loops })
    s.modWg g jigDrops

/-- Unloads the configuration that serves a fragment (R300, R301). -/
def State.jigUnloadServing (s : State) (core fid : Nat) (resetHeat : Bool) : State :=
  match (s.core core).config with
  | some cfg => if cfg.served = some fid then s.jigUnload core resetHeat else s
  | none => s

/-- A core's configuration is marked to go at the next iteration boundary of the fragment that it serves, or is unloaded at once where that one
is not within the body (R296, R301). One that yields resets its loop's heat. -/
def State.jigEnds (s : State) (core : Nat) (mark : JigConfig → JigConfig) : State :=
  match (s.core core).config with
  | none => s
  | some cfg =>
    if (cfg.served.bind s.frag?).any (fun (f : Frag) => cfg.holds f.pc && cfg.starts.head? != some f.pc) then
      s.modCore core (fun c => { c with config := some (mark cfg) })
    else s.jigUnload core (mark cfg).yields

/-- The configuration of a core is invalidated (R301), where it is of one context, or of any. -/
def State.jigInvalidate (s : State) (core : Nat) (ctx : Option Nat) : State :=
  if (s.core core).config.any (fun cfg => ctx.all (fun c => cfg.loop.ctx == c)) then s.jigEnds core (fun cfg => { cfg with doomed := true }) else s

/-- The configuration of a core yields to a promoted fragment (R296). -/
def State.jigYield (s : State) (core : Nat) : State := s.jigEnds core (fun cfg => { cfg with yields := true })

/-- A fragment that a configuration serves splits (R299): the configuration serves the lanes that fall through. A trap that follows the
group unloads it (R300), and so does an invalidation of that iteration (R306); one that is to yield does so at the iteration's end (R296). -/
def State.jigSplit (s : State) (core fid stays : Nat) (traps : Bool) : State :=
  match (s.core core).config with
  | none => s
  | some cfg =>
    if cfg.served = some fid then
      let s := s.modCore core (fun c => { c with config := some { cfg with served := some stays } })
      if traps || cfg.doomed then s.jigUnload core traps else s
    else s

/-- The context ceases to be resident on a core: its jig table there is discarded, its configuration with it, and nothing is counted
(R302, R304). -/
def State.jigForget (s : State) (core ctx : Nat) : State :=
  s.modCore core (fun c => { c with
    config := c.config.filter (fun cfg => cfg.loop.ctx != ctx)
    loops := c.loops.filter (fun l => l.ctx != ctx) })

end Sys2Proof.Machine
end

