-- ==== Sys2Proof/Machine/Ops.lean ====
section
/-! DEFINITION. The operations that instructions share: a fragment's ticks and the visibility of its results (R95 to R99), death of
a context (R370, R371), taking a trap and returning from one (R320, R322, R357), and the control registers (R327). -/

namespace Sys2Proof.Machine

/-- The order in which writes of one tick are applied: a contribution of flags after a write of FSTAT (R82). -/
def Pend.key (p : Pend) : Nat :=
  2 * p.vis + (match p.val with
    | .flags _ => 1
    | _ => 0)

/-- Pending writes in the order in which they become visible, the later issued after the earlier (R97). -/
def insertPend (p : Pend) : List Pend → List Pend
  | [] => [p]
  | q :: r => if p.key < q.key then p :: q :: r else q :: insertPend p r

/-- Adds a pending write to a fragment; Vmax covers it (R95). -/
def Frag.addPend (f : Frag) (p : Pend) : Frag :=
  { f with pend := insertPend p f.pend, vmax := max f.vmax p.vis }

/-- A flag contribution to ENGSTAT, at the engine's place (R83). -/
def orEngstat (lo : Nat) (fl : BitVec 5) (g : Wg) : Wg :=
  { g with engstat := g.engstat ||| BitVec.ofNat 32 (fl.toNat * 2 ^ lo) }

/-- The places of ME, PL and CO in ENGSTAT (R83). -/
def engME : Nat := 0
def engPL : Nat := 8
def engCO : Nat := 16

/-- A fragment's trap register written by SETCR (R319, R355, R358): FAULTMASK keeps pending lanes only, and RPL 0 discards the record. -/
def Frag.setTrapReg (f : Frag) (num : Nat) (x : Dword) : Frag :=
  match num with
  | 0x009 => { f with tsave0 := x }
  | 0x00A => { f with tsave1 := x, replay := if x.getLsbD 2 then f.replay else none }
  | 0x00B => { f with tsave2 := x &&& 0x3FFFFFF#64 }
  | 0x00C => { f with tsave3 := x }
  | 0x00D => { f with faultmask := match f.replay with
      | some r => x &&& r.pending
      | none => 0 }
  | 0x00E => { f with tnext := x }
  | _ => f

/-- A pending write becomes visible (R97). -/
def State.applyPend (s : State) (fid wid : Nat) (p : PendVal) : State :=
  match p with
  | .vec n vals => s.modWarp wid (fun w => { w with v := vals.foldl (fun t q => Table.put 0 t (64 * n + q.1) q.2) w.v })
  | .scal n x =>
    if n < 48 then s.modWarp wid (fun w => { w with s := Table.put 0 w.s n x })
    else s.modFrag fid (fun f => { f with s := Table.put 0 f.s n x })
  | .mask n sel x => s.modFrag fid (fun f =>
      { f with m := Table.put 0 f.m n ((Table.getD f.m n 0 &&& ~~~sel) ||| (x &&& sel)) })
  | .kreg n x => s.modWarp wid (fun w => { w with k := Table.put 0 w.k n x })
  | .fmt x => s.modFrag fid (fun f => { f with fmt := x })
  | .fstat x => s.modFrag fid (fun f => { f with fstat := x })
  | .flags x =>
    s.modFrag fid (fun f => { f with fstat := f.fstat ||| x })
  | .qmap x => s.modWarp wid (fun w => { w with qmap := x })
  | .carried n x => s.modWarp wid (fun w => { w with carried := Table.put 0 w.carried n x })
  | .ctl n x =>
    if n = 0x011 then s.modWarp wid (fun w => { w with dbg := (x.setWidth 32) &&& 1 })
    else s.modFrag fid (fun f => f.setTrapReg n x)

/-- Pending writes applied in order. -/
def State.applyPends (s : State) (fid wid : Nat) (ps : List Pend) : State :=
  ps.foldl (fun s p => s.applyPend fid wid p.val) s

/-- A fragment's tick becomes t: every result whose vis is not above it becomes visible (R95, R97). -/
def State.setTick (s : State) (fid t : Nat) : State :=
  match s.frag? fid with
  | none => s
  | some f =>
    let s := s.setFrag fid { f with t := t, pend := f.pend.filter (fun p => decide (t < p.vis)) }
    s.applyPends fid f.warp (f.pend.filter (fun p => decide (p.vis ≤ t)))

/-- A visibility point outside a group: every result so far becomes readable (R95, R96). -/
def State.visiblePoint (s : State) (fid : Nat) : State :=
  match s.frag? fid with
  | none => s
  | some f => s.setTick fid (max f.t f.vmax)

/-- The warps of a context. -/
def State.warpsOfCtx (s : State) (c : Nat) : List (Nat × Warp) := s.warps.filter (fun p => s.ctxOfWarp p.2 == c)

/-- What one core holds for dead warps is freed: its lease, its place in FIFOs, its planer slot and its jig table (R371). -/
def State.freeCore (s : State) (c : Nat) (dead : List Nat) (deadWgs : List Nat) (core : Nat) : State :=
  let s := s.modCore core (fun k => { k with
    fifo := k.fifo.filter (fun p => !dead.contains p.1),
    msmFifo := k.msmFifo.filter (fun p => !dead.contains p.1),
    joined := k.joined.filter (fun j => !dead.contains j.warp) })
  let s := if ((s.core core).owner.map dead.contains).getD false then s.passLease core else s
  let s := if ((s.core core).planerWg.map deadWgs.contains).getD false then
      s.modCore core (fun k => { k with planerWg := none, planer := .stopped, planerWarp := none, queues := [], program := [] })
    else s
  s.jigForget core c

/-- Every core sends what waits for a slot (R206): slots have been freed. -/
def State.sendAll (s : State) : State :=
  (((s.ops.filterMap (fun p => (s.wg? p.2.wg).map Wg.core)).eraseDups).foldl State.sendWaiting s).sendCmds

/-- A context becomes dead with a cause (R370, R371): nothing of it issues or accesses memory any more, its commands and
operations are discarded, and what it held is freed. Its grids stay until the drain completes. -/
def State.killContext (s : State) (c : Nat) (cause : BitVec 8) (addr : Option Nat) : State :=
  if (s.ctx c).dead.isSome then s
  else
    let ws := s.warpsOfCtx c
    let s := ws.foldl (fun s p => s.capsuleDies p.1) s
    let wids := ws.map Prod.fst
    let gids := (s.wgs.filter (fun p => s.ctxOfWg p.2 == c)).map Prod.fst
    let tids := (s.teams.filter (fun p => ((s.grid? p.2.grid).map Grid.ctx).getD c == c)).map Prod.fst
    let s := (s.ops.filter (fun p => p.2.ctx == c)).foldl (fun s p =>
      p.2.lines.foldl (fun s l =>
        let core := ((s.wg? p.2.wg).map Wg.core).getD 0
        if l.sent && !l.answered then s.setSlots core l.port (s.slotsUsed core l.port - 1) else s) s) s
    let s := (s.cmds.filter (fun p => p.2.ctx == c)).foldl (fun s p =>
      p.2.lines.foldl (fun s l =>
        if l.sent && !l.answered then s.setSlots p.2.slotCore l.port (s.slotsUsed p.2.slotCore l.port - 1) else s) s) s
    let s : State := { s with
      ops := s.ops.filter (fun p => p.2.ctx != c),
      cmds := s.cmds.filter (fun p => p.2.ctx != c),
      fences := s.fences.filter (fun p => !wids.contains p.2.warp),
      debts := s.debts.filter (fun d => d.acc.ctx != c),
      old := s.old.filter (fun p => p.ctx != c),
      bonds := s.bonds.filter (fun p => !tids.contains p.2.team) }
    let cores := (gids.filterMap (fun g => (s.wg? g).map Wg.core)).eraseDups
    let s := s.modCtx c (fun x => { x with dead := some cause, deadAt := s.tick, failedAddr := addr, lost := s.lostDies &&& x.diemask.setWidth 6 })
    let s := cores.foldl (fun s k => s.freeCore c wids gids k) s
    let s : State := { s with
      frags := s.frags.filter (fun p => !wids.contains p.2.warp),
      warps := s.warps.filter (fun p => !wids.contains p.1),
      wgs := s.wgs.filter (fun p => !gids.contains p.1),
      teams := s.teams.filter (fun p => !tids.contains p.1),
      queues := s.queues.map (fun p => if p.2.ctxid.toNat = c then (p.1, { p.2 with en := false }) else p) }
    (cores.foldl (fun s k => s.grantMsm k) s).sendAll

/-- A request of a context would name a lost die: the context becomes dead before the request is sent (R372). The bits that the request would
have set stand in DIEMASK, so that the notice names the die (R371; assumption log 98). -/
def State.dieOfRequest (s : State) (c : Nat) (ls : List Loc) : State := (s.markDies c (s.dieBitsOf ls)).killContext c Code.dieLost none

/-- TSAVE1 at trap entry (R319). STEP is the position of the saved pc in the body, counted from 1 (assumption log 12). A fault of an adopter's scan comes before the
adoption, with ADOPT 0 (assumption log 105). -/
def trapStatus (w : Warp) (fid : Nat) (pc : Dword) (t : Trap) (rpl defer : Bool) : Dword :=
  let cap := match w.capsule with
    | some c => if c.frag = fid then (min (c.stepAt pc + 1) 16) * 2 ^ 8 + (if c.adopting then 2 ^ 7 else 0) + 2 ^ 6 else 0
    | none => 0
  BitVec.ofNat 64 (t.evt.toNat * 2 ^ 20 + cap + (if defer then 2 ^ 5 else 0) + (if rpl then 2 ^ 2 else 0) + t.word % 4)

/-- TVEC, bits 1:0 ignored (R327). -/
def Wg.handler (g : Wg) : Dword := g.tvec &&& ~~~(3#64)

/-- The planer stops at a fault: its state becomes faulted with what it would have raised (R283, R352). -/
def State.planerFault (s : State) (core : Nat) (t : Trap) : State :=
  s.modCore core (fun c => { c with planer := .faulted, planerTrap := t })

/-- Taking a trap (R320, R357): the fragment's trap registers are written, its handler bit set and its pc moved to TVEC; a trap in
a handler, or without one, makes the context dead. `pc` is TSAVE0; `replay` carries a partial-class trap's record and TNEXT. -/
def State.takeTrap (s : State) (fid : Nat) (t : Trap) (pc : Dword) (replay : Option (Replay × Dword)) (defer : Bool) : State :=
  match s.frag? fid with
  | none => s
  | some f =>
    match s.warp? f.warp with
    | none => s
    | some w =>
      match s.wg? w.wg with
      | none => s
      | some g =>
        match w.planer with
        | some core => s.planerFault core t
        | none =>
          let c := s.ctxOfWg g
          if f.hnd || g.handler == 0 then s.killContext c t.code none
          else
            ((s.jigUnloadServing g.core fid (!defer)).visiblePoint fid).modFrag fid (fun f => { f with
              tsave0 := pc
              tsave1 := trapStatus w fid pc t replay.isSome defer
              tsave2 := BitVec.ofNat 64 (t.code.toNat + t.detail.toNat * 256)
              tsave3 := t.addr
              faultmask := match replay with
                | some r => r.1.pending
                | none => 0
              tnext := match replay with
                | some r => r.2
                | none => 0
              replay := replay.map Prod.fst
              hnd := true
              pc := g.handler
              stoodAt := if f.thenAt.isSome then some (f.stoodAt.getD s.tick) else none
              packet := []
              notBefore := max f.notBefore (s.tick + 1)
              readySince := max f.notBefore (s.tick + 1)
              promoted := none })

/-- The reserved bits of TSAVE1 (R319). -/
def tsave1Reserved : Dword := 0xFFFFFFFFFF0F0018#64

/-- What TRET finds wrong with TSAVE1 (R322). -/
def Frag.badStatus (f : Frag) : Bool :=
  (f.tsave1 &&& tsave1Reserved) != 0 || (f.tsave1.getLsbD 2 && bitsAt f.tsave1 0 2 == 3) ||
    (f.tsave1.getLsbD 2 && f.replay.isNone)

/-- Refers a class of flag to its event counter (R84): INV, SATO, UNF and SHELL. -/
def eventFlag (n : Nat) : BitVec 5 :=
  match n with
  | 0 => fINV
  | 1 => fSATO
  | 2 => fUNF
  | _ => fSHELL

/-- EVTCTL.EVTWIN (R84). -/
def Wg.evtwin (g : Wg) : Nat := bitsAt g.evtctl 0 16

/-- Events of one class counted one by one (R85, R87): the workgroup, and whether the class fired. -/
def countClass (g : Wg) (cls n : Nat) : Wg × Bool :=
  let old := (Table.getD g.evtcnt cls 0).toNat
  let new := min (old + n) (2 ^ 32 - 1)
  let lim := (Table.getD g.evtlim cls 0).toNat
  let fires := decide (0 < n) && decide (lim < new) && !g.evtstat.getLsbD cls
  let g := { g with evtcnt := Table.put 0 g.evtcnt cls (BitVec.ofNat 32 new) }
  (if fires then { g with evtstat := g.evtstat ||| BitVec.ofNat 32 (2 ^ cls + 2 ^ (cls + 4)) } else g, fires)

/-- Events counted for a workgroup: the classes that fired (R85, R87). Nothing is counted while EVTWIN is 0. -/
def countEvents (g : Wg) (evs : List (Nat × Nat)) : Wg × BitVec 4 :=
  if g.evtwin = 0 then (g, 0)
  else evs.foldl (fun (acc : Wg × BitVec 4) e =>
    let r := countClass acc.1 e.1 e.2
    (r.1, if r.2 then acc.2 ||| BitVec.ofNat 4 (2 ^ e.1) else acc.2)) (g, 0)

/-- The classes whose action is the given code of EVTCTL.ACT (R84). -/
def actionClasses (g : Wg) (fired : BitVec 4) (act : Nat) : BitVec 4 :=
  (List.range 4).foldl (fun (a : BitVec 4) n =>
    if fired.getLsbD n && bitsAt g.evtctl (16 + 2 * n) 2 == act then a ||| BitVec.ofNat 4 (2 ^ n) else a) 0

/-- The trap is the EVENT_LIMIT of a tick. -/
def Trap.limitOf (t : Trap) (tick : Nat) : Bool := t.code == Code.eventLimit && t.tick == tick

/-- Adds classes to the EVENT_LIMIT trap of a tick; another trap stays as it is, one of an older tick too. -/
def Trap.joinLimit (tick : Nat) (cls : BitVec 4) (t : Trap) : Trap := if t.limitOf tick then { t with evt := t.evt ||| cls } else t

/-- Adds classes to the EVENT_LIMIT trap of a tick that a fragment holds, will take, or has taken (R87). -/
def Frag.joinLimit (f : Frag) (tick : Nat) (cls : BitVec 4) : Frag :=
  if f.heldTraps.any (fun h => h.trap.limitOf tick) then
    { f with heldTraps := f.heldTraps.map (fun h => { h with trap := h.trap.joinLimit tick cls }) }
  else
    match f.due with
    | some d => { f with due := some { d with trap := d.trap.joinLimit tick cls } }
    | none =>
      if f.hnd && bitsAt f.tsave2 0 8 == Code.eventLimit.toNat then
        { f with tsave1 := f.tsave1 ||| BitVec.ofNat 64 (cls.toNat * 2 ^ 20) }
      else f

/-- Adds classes to an EVENT_LIMIT interrupt that has been posted (R87). -/
def Notice.joinLimit (cls : BitVec 4) : Notice → Notice
  | .eventLimit c => .eventLimit (c ||| cls)
  | n => n

/-- The EVENT_LIMIT trap that a fragment was to take goes over to another (R87): to one that it divides into, or that it fuses into. -/
def Wg.moveLimit (g : Wg) (old new : Nat) : Wg := { g with evtTrap := g.evtTrap.map (fun p => if p.2 = old then (p.1, new) else p) }

/-- A fragment takes the EVENT_LIMIT trap of a workgroup of this tick (R87). -/
def State.limitAt (s : State) (gid fid : Nat) : State := s.modWg gid (fun g => { g with evtTrap := some (s.tick, fid) })

/-- Classes of an EVENT_LIMIT interrupt of a workgroup: those of one tick make one interrupt (R87). -/
def State.postLimit (s : State) (gid : Nat) (cls : BitVec 4) : State :=
  match s.wg? gid with
  | none => s
  | some g =>
    match g.evtIrq.filter (fun p => p.1 == s.tick) with
    | some p => { s with interrupts := s.interrupts.mapIdx (fun i q => if i = p.2 then (q.1, q.2.joinLimit cls) else q) }
    | none => (s.post (s.evvec (s.ctxOfWg g)) (.eventLimit cls)).modWg gid (fun x => { x with evtIrq := some (s.tick, s.interrupts.length) })

/-- Events counted for a workgroup (R85, R87): host interrupts are posted, and classes whose action is the trap are answered, where no
EVENT_LIMIT of the same tick takes them in. -/
def State.fireEvents (s : State) (gid : Nat) (evs : List (Nat × Nat)) : State × BitVec 4 :=
  match s.wg? gid with
  | none => (s, 0)
  | some g =>
    let r := countEvents g evs
    let host := actionClasses r.1 r.2 2
    let trap := actionClasses r.1 r.2 1
    let s := s.setWg gid r.1
    let s := if host = 0 then s else s.postLimit gid host
    match g.evtTrap with
    | some (t, f) =>
      if t = s.tick then
        (if trap = 0 then s else if (s.frag? f).isSome then s.modFrag f (fun x => x.joinLimit s.tick trap) else s.postLimit gid trap, 0)
      else (s, trap)
    | none => (s, trap)

/-- An EVENT_LIMIT trap of this tick is delivered as a deferred fault is (R87, R389): the fragment that will take it takes in later classes of
the tick, and without one there is one interrupt for the tick, which is noted under an identity that no fragment has. -/
def State.deferLimit (s : State) (ctx warp gid : Nat) (active : Lanes) (t : Trap) : State :=
  match s.deferTarget warp active with
  | some f => (s.limitAt gid f).deferTrap ctx warp active t (.eventLimit t.evt)
  | none => if (s.ctx ctx).dead.isSome then s else (s.fresh.2.limitAt gid s.fresh.1).postLimit gid t.evt

/-- A new event window starts: the counters and FIRED are cleared (R86). -/
def Wg.newWindow (g : Wg) : Wg := { g with evtcnt := [], evtstat := g.evtstat &&& 0xFFFFFFF0#32, window := 0 }

/-- The current event window of a workgroup is over (R86). -/
def Wg.windowOver (g : Wg) : Bool := g.evtwin != 0 && decide (g.evtwin * 1024 ≤ g.window)

/-- The next event window starts where the current one is over (R86). A SETCR to EVTCNTn or EVTSTAT that becomes visible at the same tick has
been written before, and the start clears what it wrote: which comes first the spec leaves open (assumption log 88). -/
def Wg.startWindow (g : Wg) : Wg :=
  if g.windowOver then { g.newWindow with window := g.window % (g.evtwin * 1024) } else g

/-- A SETCR to a per-workgroup register takes effect (R84, R86, R87, R135, R303, R304, R327). -/
def Wg.setCr (g : Wg) (num : Nat) (x : Dword) : Wg :=
  let w : Word := x.setWidth 32
  match num with
  | 0x008 => { g with tvec := x }
  | 0x010 => { g with ctl := w &&& 3 }
  | 0x020 => { g with engstat := w &&& 0x001F1F1F#32 }
  | 0x021 => { g with evtcnt := Table.put 0 g.evtcnt 0 w }
  | 0x022 => { g with evtcnt := Table.put 0 g.evtcnt 1 w }
  | 0x023 => { g with evtcnt := Table.put 0 g.evtcnt 2 w }
  | 0x024 => { g with evtcnt := Table.put 0 g.evtcnt 3 w }
  | 0x025 => { g with evtlim := Table.put 0 g.evtlim 0 w }
  | 0x026 => { g with evtlim := Table.put 0 g.evtlim 1 w }
  | 0x027 => { g with evtlim := Table.put 0 g.evtlim 2 w }
  | 0x028 => { g with evtlim := Table.put 0 g.evtlim 3 w }
  | 0x029 => { g with evtctl := w &&& 0x00FFFFFF#32 }.newWindow
  | 0x02A => { g with evtstat := w &&& 0xFF#32 }
  | 0x030 => { g with jigcfg := w &&& 0x0001FFFF#32 }
  | 0x031 => { g with jigstat := x }
  | _ => g

/-- A per-workgroup register as GETCR reads it (R327). -/
def Wg.cr (g : Wg) (num : Nat) : Option Dword :=
  match num with
  | 0x008 => some g.tvec
  | 0x010 => some (g.ctl.setWidth 64)
  | 0x020 => some (g.engstat.setWidth 64)
  | 0x021 => some ((Table.getD g.evtcnt 0 0).setWidth 64)
  | 0x022 => some ((Table.getD g.evtcnt 1 0).setWidth 64)
  | 0x023 => some ((Table.getD g.evtcnt 2 0).setWidth 64)
  | 0x024 => some ((Table.getD g.evtcnt 3 0).setWidth 64)
  | 0x025 => some ((Table.getD g.evtlim 0 0).setWidth 64)
  | 0x026 => some ((Table.getD g.evtlim 1 0).setWidth 64)
  | 0x027 => some ((Table.getD g.evtlim 2 0).setWidth 64)
  | 0x028 => some ((Table.getD g.evtlim 3 0).setWidth 64)
  | 0x029 => some (g.evtctl.setWidth 64)
  | 0x02A => some (g.evtstat.setWidth 64)
  | 0x030 => some (g.jigcfg.setWidth 64)
  | 0x031 => some g.jigstat
  | _ => none

/-- The per-workgroup registers that SETCR may write (R327). -/
def wgWritable (num : Nat) : Bool :=
  [0x008, 0x010, 0x020, 0x021, 0x022, 0x023, 0x024, 0x025, 0x026, 0x027, 0x028, 0x029, 0x02A, 0x030, 0x031].contains num

/-- The fragment and warp registers that SETCR may write, FMT and FSTAT among them (R327). -/
def ownWritable (num : Nat) : Bool := [0x000, 0x001, 0x009, 0x00A, 0x00B, 0x00C, 0x00D, 0x00E, 0x011].contains num

/-- A control register as GETCR reads it at its issue (R135, R136, R327); none for an unassigned number. -/
def State.readCr (s : State) (v : View) (num : Nat) : Option Dword :=
  let team := s.team? v.g.team
  let grid := team.bind (fun t => s.grid? t.grid)
  match num with
  | 0x000 => some (v.f.fmt.setWidth 64)
  | 0x001 => some (v.f.fstat.setWidth 64)
  | 0x009 => some v.f.tsave0
  | 0x00A => some v.f.tsave1
  | 0x00B => some v.f.tsave2
  | 0x00C => some v.f.tsave3
  | 0x00D => some v.f.faultmask
  | 0x00E => some v.f.tnext
  | 0x011 => some (v.w.dbg.setWidth 64)
  | 0x018 => some (v.w.qmap.setWidth 64)
  | 0x040 => some (BitVec.ofNat 64 ((team.map Team.base).getD 0))
  | 0x041 => some (BitVec.ofNat 64 v.g.member)
  | 0x042 => some (BitVec.ofNat 64 (s.teamSize v.g.team))
  | 0x043 => some (BitVec.ofNat 64 ((team.map Team.number).getD 0))
  | 0x044 => some (BitVec.ofNat 64 ((grid.map Grid.gridid).getD 0))
  | 0x045 => some (BitVec.ofNat 64 ((grid.map Grid.depth).getD 0))
  | 0x046 => some (BitVec.ofNat 64 v.w.idx)
  | 0x047 => some (BitVec.ofNat 64 v.w.width)
  | 0x048 => some (BitVec.ofNat 64 v.g.core)
  | 0x049 => some (v.w.capid.setWidth 64)
  | 0x04A => some (v.w.capstat.setWidth 64)
  | 0x04B => some ((s.ctx (s.ctxOfWg v.g)).diemask.setWidth 64)
  | n =>
    match Table.get? v.g.crOld n with
    | some x => if (v.g.cr n).isSome then some x else none
    | none => v.g.cr n

end Sys2Proof.Machine
end

