-- ==== Sys2Proof/Machine/Flags.lean ====
section
/-! DEFINITION. Flags and event counts of vector results: contributions to FSTAT (R81, R82), the elements that count an event
(R85), and the element formats of FMT.VF (R61, R147, R167). -/

namespace Sys2Proof.Machine

/-- The flags raised by any of some results. -/
def orFlags (fs : List (BitVec 5)) : BitVec 5 := fs.foldl (fun a f => a ||| f) 0

/-- How many results raise the condition of an event class (R85). -/
def flagCount (cls : Nat) (fs : List (BitVec 5)) : Nat := (fs.filter (fun f => (f &&& eventFlag cls) != 0)).length

/-- A pending write of the word being executed, visible lat ticks after its group (R95). -/
def State.putPend (s : State) (v : View) (lat : Nat) (x : PendVal) : State := s.modFrag v.fid (fun f => f.addPend ⟨v.t + lat, x⟩)

/-- Each result that raises a class counts one event (R85). -/
def State.raiseEvents (s : State) (fs : List (BitVec 5)) : State :=
  let evs := ([0, 1, 2, 3].map (fun c => (c, flagCount c fs))).filter (fun e => e.2 != 0)
  if evs.isEmpty then s else s.modIssue (fun i => { i with events := i.events ++ evs })

/-- The flags of a word's results become part of FSTAT when the results become visible (R82): a contribution stands there, whether or
not it sets a flag, as CHECK sees one at the destination. Each result that raises a class counts one event (R85). -/
def State.raiseFlags (s : State) (v : View) (lat : Nat) (fs : List (BitVec 5)) : State :=
  (s.putPend v lat (.flags (orFlags fs))).raiseEvents fs

/-- The flags behind registers of a planer (R83). -/
def View.carriedBy (v : View) (srcs : List (BitVec 6)) : BitVec 5 := orFlags (srcs.map (fun a => Table.getD v.w.carried a.toNat 0))

/-- A planer's result in v[D] carries its own flags and those behind its sources (R83, R181; assumption log 71). -/
def State.carry (s : State) (v : View) (lat : Nat) (d : BitVec 6) (srcs : List (BitVec 6)) (own : BitVec 5) : State :=
  if v.inPlaner then s.putPend v lat (.carried d.toNat (own ||| v.carriedBy srcs)) else s

/-- An element of a lane (R61, R167). -/
def elem (x : Word) (w e : Nat) : Nat := x.toNat / 2 ^ (w * e) % 2 ^ w

/-- A lane made of elements of one width, the first lowest (R167). -/
def packElems (w : Nat) : List Nat → Nat
  | [] => 0
  | x :: r => x + 2 ^ w * packElems w r

/-- The element format that FMT.VF selects (R75, R147). -/
def vfFmt (fmt : Word) : Fmt :=
  match fmtVF fmt with
  | 0 => .fp32
  | 1 => .bf16
  | _ => .fp16

/-- Elements in a lane of a format: one, or two packed (R61). -/
def Fmt.count (f : Fmt) : Nat := if f = .fp32 then 1 else 2

/-- A lane computed element by element: its value and each element's flags (R147, R160). -/
def elementwise (f : Fmt) (op : Nat → FRes) : Word × List (BitVec 5) :=
  let rs := (List.range f.count).map op
  (BitVec.ofNat 32 (packElems f.width (rs.map FRes.bits)), rs.map FRes.flags)

/-- Two subtrees combined; an absent leaf passes the other on (R157). -/
def comb {α : Type} (op : α → α → α) : Option α → Option α → Option α
  | none, b => b
  | a, none => a
  | some a, some b => some (op a b)

/-- One level of the reduction tree (R157). -/
def treeLevel {α : Type} (op : α → α → α) : List (Option α) → List (Option α)
  | a :: b :: r => comb op a b :: treeLevel op r
  | l => l

/-- The value of the reduction tree after n levels (R157); a tree of at most 2^n leaves is complete. -/
def treeReduce {α : Type} (op : α → α → α) : Nat → List (Option α) → Option α
  | 0, l => (l.head?).getD none
  | n + 1, l => treeReduce op n (treeLevel op l)

/-- The tree over leaves 0 to n - 1, those that p admits (R157); n levels are enough for n leaves. -/
def treeOf {α : Type} (op : α → α → α) (n : Nat) (leaf : Nat → α) (p : Nat → Bool) : Option α :=
  treeReduce op n ((List.range n).map (fun i => if p i then some (leaf i) else none))

/-- A floating-point leaf: a signalling NaN is quieted and sets INV (R164). -/
def floatLeaf (f : Fmt) (c : Nat) : FRes := if (decodeF f c).isSnan then ⟨f.nanCode, fINV⟩ else ⟨c, 0⟩

/-- An operation of a floating-point tree, with the flags of everything below it (R158, R164). -/
def floatComb (op : Nat → Nat → FRes) (a b : FRes) : FRes :=
  let r := op a.bits b.bits
  ⟨r.bits, a.flags ||| b.flags ||| r.flags⟩

end Sys2Proof.Machine
end

