-- ==== Sys2Proof/Machine/Operands.lean ====
section
/-! DEFINITION. The operand forms: scalar, vector and mask results (R93, R97, R106, R116), branch targets (R91, R123, R124), and
the accesses that the M, AM and SYNC formats name, with every address and operand read at issue (R107, R209, R215, R219, R222). -/

namespace Sys2Proof.Machine

/-- Writes a scalar field: s outside a capsule body, k inside one, where the write belongs to the step (R106, R116, R311). -/
def State.putScalar (s : State) (v : View) (lat : Nat) (d : BitVec 6) (x : Dword) : State :=
  if v.inBody then (s.putPend v lat (.kreg d.toNat x)).modIssue (fun i => { i with kwrite := some (d.toNat, x) })
  else s.putPend v lat (.scal d.toNat x)

/-- Writes the active lanes of a vector register (R143). -/
def State.putVec (s : State) (v : View) (lat : Nat) (d : BitVec 6) (f : Nat → Word) : State :=
  s.putPend v lat (.vec d.toNat (v.active.toList.map (fun i => (i, f i))))

/-- Writes the active lanes of a vector register with results that raise flags (R81, R85). -/
def State.putVecFlags (s : State) (v : View) (lat : Nat) (d : BitVec 6) (f : Nat → Word × List (BitVec 5)) : State :=
  (s.putVec v lat d (fun i => (f i).1)).raiseFlags v lat (v.active.toList.flatMap (fun i => (f i).2))

/-- The conversions that a planer may run as well: there their flags stay with the result (R83, R181). -/
def State.putConverted (s : State) (v : View) (lat : Nat) (d : BitVec 6) (srcs : List (BitVec 6))
    (f : Nat → Word × List (BitVec 5)) : State :=
  let fs := v.active.toList.flatMap (fun i => (f i).2)
  if v.inPlaner then ((s.putVec v lat d (fun i => (f i).1)).carry v lat d srcs (orFlags fs)).raiseEvents fs
  else s.putVecFlags v lat d f

/-- Writes the bits of a mask that sel selects. -/
def State.putMask (s : State) (v : View) (lat : Nat) (d : BitVec 3) (sel x : Lanes) : State :=
  s.putPend v lat (.mask d.toNat sel x)

/-- Writes every bit of a mask within the warp's width, the bits above it as zero (R129, R130). -/
def State.putWholeMask (s : State) (v : View) (d : BitVec 3) (x : Lanes) : State :=
  s.putMask v 1 d (BitVec.allOnes 64) (x &&& widthMask v.w)

/-- A scalar result of two sources and class L1 (R118). -/
def State.scalar2 (s : State) (v : View) (d a b : BitVec 6) (f : Dword → Dword → Dword) : State :=
  s.putScalar v 1 d (f (v.s a.toNat) (v.s b.toNat))

/-- A vector result of two sources, lane by lane (R150). -/
def State.vector2 (s : State) (v : View) (lat : Nat) (d a b : BitVec 6) (f : Word → Word → Word) : State :=
  s.putVec v lat d (fun i => f (v.v a.toNat i) (v.v b.toNat i))

/-- A vector result of one source, lane by lane (R151, R152). -/
def State.vector1 (s : State) (v : View) (lat : Nat) (d a : BitVec 6) (f : Word → Word) : State :=
  s.putVec v lat d (fun i => f (v.v a.toNat i))

/-- A compare: bits of active lanes are written, the others keep their values (R154, R163). -/
def State.compare (s : State) (v : View) (lat : Nat) (d : BitVec 3) (f : Nat → Bool) : State :=
  s.putMask v lat d v.active (Lanes.ofPred f)

/-- The target of a B- or L-format branch: packets from the group's own packet (R91, R123, R124). -/
def View.target {n : Nat} (v : View) (off : BitVec n) : Dword := packetAddr v.i.pc + 12 * off.signExtend 64

/-- Bytes of an access by its SZ code (R107). -/
def szBytes (sz : BitVec 2) : Nat := 2 ^ sz.toNat

/-- The low bytes of a value. -/
def lowBytes (n : Nat) (x : Dword) : Dword := BitVec.ofNat 64 (x.toNat % 2 ^ (8 * n))

/-- Two vector registers as one 64-bit value of lane i, n the lower (R216, R219). -/
def View.pair (v : View) (n i : Nat) : Dword := v.v (n + 1) i ++ v.v n i

/-- The store data of lane i (R216). -/
def View.storeData (v : View) (t : BitVec 6) (sz : BitVec 2) (i : Nat) : Dword :=
  if sz = 3#2 then v.pair t.toNat i else lowBytes (szBytes sz) ((v.v t.toNat i).setWidth 64)

/-- The scaled offset of the M format (R107). -/
def offset (off : BitVec 6) (sz : BitVec 2) : Dword := off.signExtend 64 * BitVec.ofNat 64 (szBytes sz)

/-- The address of lane i of a consecutive access (R215). -/
def View.rowAddr (v : View) (a off : BitVec 6) (sz : BitVec 2) (i : Nat) : Dword :=
  v.s a.toNat + offset off sz + BitVec.ofNat 64 (i * szBytes sz)

/-- The address of lane i of a gather or scatter: OFF6 names the base and A the index (R107, R215). -/
def View.indexAddr (v : View) (a off : BitVec 6) (sz : BitVec 2) (i : Nat) : Dword :=
  v.s off.toNat + (v.v a.toNat i).signExtend 64 * BitVec.ofNat 64 (szBytes sz)

/-- One access for each active lane (R209). -/
def View.eachLane (v : View) (f : Nat → LaneReq) : List LaneReq := v.active.toList.map f

/-- SLD and SST: one access (R215). -/
def View.scalarReq (v : View) (t a off : BitVec 6) (sz ord : BitVec 2) (store : Bool) : MemReq :=
  { op := if store then .store else .load
    bench := false
    size := szBytes sz
    dest := if store then .none else .scal t.toNat
    acq := !store && ord == 1#2
    rel := store && ord == 2#2
    lanes := [{ lane := v.active.low, addr := v.s a.toNat + offset off sz,
                data := if store then lowBytes (szBytes sz) (v.s t.toNat) else 0 }] }

/-- VLD, VST, VLDG and VSTS (R215, R218). -/
def View.globalReq (v : View) (t : BitVec 6) (sz ord : BitVec 2) (addr : Nat → Dword) (store : Bool) : MemReq :=
  { op := if store then .store else .load
    bench := false
    size := szBytes sz
    dest := if store then .none else .vec t.toNat
    acq := !store && ord == 1#2
    rel := store && ord == 2#2
    vector := true
    lanes := v.eachLane (fun i => { lane := i, addr := addr i, data := if store then v.storeData t sz i else 0 }) }

/-- What a bench load does in its mode: plain, LDF or LDFE (R107, R185). -/
def benchLoadOp (ord : BitVec 2) : AccessOp := if ord = 0#2 then .load else .tagLoad (ord == 2#2)

/-- What a bench store does in its mode: plain, STEF or STF (R107, R185). -/
def benchStoreOp (ord : BitVec 2) : AccessOp := if ord = 0#2 then .store else .tagStore (ord == 1#2)

/-- BLD, BST, BLDG and BSTS (R215, R218). -/
def View.benchReq (v : View) (t : BitVec 6) (sz ord : BitVec 2) (addr : Nat → Dword) (store : Bool) : MemReq :=
  { op := if store then benchStoreOp ord else benchLoadOp ord
    bench := true
    size := szBytes sz
    dest := if store then .none else .vec t.toNat
    acq := !store && ord != 0#2
    rel := store && ord != 0#2
    scope := some .team
    vector := true
    lanes := v.eachLane (fun i => { lane := i, addr := addr i, data := if store then v.storeData t sz i else 0 }) }

/-- A scope code (R108). -/
def Scope.ofCode (c : BitVec 2) : Scope :=
  match c.toNat with
  | 0 => .wg
  | 1 => .team
  | 2 => .dev
  | _ => .sys

/-- AMO (R219, R221): the value or compare in s[D], a CAS's new value in s[D+1]. -/
def View.amoReq (v : View) (fn : BitVec 4) (d a : BitVec 6) (ord sz sc : BitVec 2) : MemReq :=
  { op := .amo fn
    bench := false
    size := szBytes sz
    dest := .scal d.toNat
    acq := ord.getLsbD 0
    rel := ord.getLsbD 1
    scope := some (Scope.ofCode sc)
    lanes := [{ lane := v.active.low, addr := v.s a.toNat, data := lowBytes (szBytes sz) (v.s d.toNat),
                new := if fn = 9#4 then lowBytes (szBytes sz) (v.s (d.toNat + 1)) else 0 }] }

/-- VAMO (R219, R221): addresses in the pair v[A], v[A+1]; values and CAS operands from v[D] on. -/
def View.vamoReq (v : View) (fn : BitVec 4) (d a : BitVec 6) (ord sz sc : BitVec 2) : MemReq :=
  { op := .amo fn
    bench := false
    size := szBytes sz
    dest := .vec d.toNat
    acq := ord.getLsbD 0
    rel := ord.getLsbD 1
    scope := some (Scope.ofCode sc)
    vector := true
    lanes := v.eachLane (fun i => {
      lane := i, addr := v.pair a.toNat i, data := v.storeData d sz i,
      new := if fn = 9#4 then
          (if sz = 3#2 then v.pair (d.toNat + 2) i else (v.v (d.toNat + 1) i).setWidth 64)
        else 0 }) }

/-- Bits 31:0 of a scalar register: the bench addresses, counts, targets and generations of SYNC (R222). -/
def View.low32 (v : View) (a : BitVec 6) : Nat := (v.s a.toNat).toNat % 2 ^ 32

/-- A SYNC form that names a bench word (R222, R225, R227, R230). -/
def View.wordReq (v : View) (a : BitVec 6) (op : AccessOp) (size : Nat) (dest : Dest) (rel : Bool) : MemReq :=
  { op := op
    bench := true
    size := size
    dest := dest
    rel := rel
    scope := some .team
    lanes := [{ lane := v.active.low, addr := BitVec.ofNat 64 (v.low32 a) }] }

/-- A memory step of a capsule (R312). -/
def View.stepReq (v : View) (op : AccessOp) (d a : BitVec 3) (size : Nat) : MemReq :=
  { op := op
    bench := false
    size := size
    dest := match op with
      | .store => .none
      | _ => .kreg d.toNat
    lanes := [{ lane := v.active.low, addr := v.k a.toNat,
                data := match op with
                  | .load => 0
                  | _ => lowBytes size (v.k d.toNat)
                new := match op with
                  | .amo fn => if fn = 9#4 then lowBytes size (v.k (d.toNat + 1)) else 0
                  | _ => 0 }] }

/-- A link register (R252). -/
structure Link where
  tag : Nat
  next : Nat
  /-- A reserved bit is set. -/
  bad : Bool
deriving DecidableEq, Repr

def View.link (v : View) (sb : BitVec 6) : Link :=
  let x := (v.s sb.toNat).toNat
  ⟨x % 256, x / 256 % 256, decide (x / 2 ^ 16 ≠ 0)⟩

/-- Word j of a pair or quad descriptor (R250). -/
def View.desc (v : View) (sa : BitVec 6) (j : Nat) : Dword := v.s (sa.toNat + j)

end Sys2Proof.Machine
end

