-- ==== Sys2Proof/Machine/Fetch.lean ====
section
/-! DEFINITION. Instruction fetch (R90, R91, R390), the bodies that capsules and planers run (R279, R309), and the rules that make
a group well formed (R92). -/

namespace Sys2Proof.Machine

/-- Why a byte of code cannot be fetched: DETAIL of FETCH_FAULT and the byte's address (R390). -/
structure FetchFail where
  detail : BitVec 18
  addr : Dword
deriving DecidableEq, Repr

/-- One byte of code (R390). The TWIN region holds no translation (R191). -/
def State.fetchByte (s : State) (c : Nat) (a : Dword) : Except FetchFail Loc :=
  if s.inTwin c a then .error ⟨0, a⟩
  else
    match s.translate c a with
    | .error w => .error ⟨w.detail, a⟩
    | .ok p =>
      if p.ex then
        match s.canon (p.phys a) with
        | some x => .ok (.phys x)
        | none => .error ⟨0x80, a⟩
      else .error ⟨0x40, a⟩

/-- The four bytes of a word of code, the first failing byte in ascending order where one fails (R390). A word that lies in one
page needs one walk. -/
def State.fetchLocs (s : State) (c : Nat) (a : Dword) : Except FetchFail (List Loc) :=
  let rec go : List Nat → Except FetchFail (List Loc)
    | [] => .ok []
    | j :: r =>
      match s.fetchByte c (a + BitVec.ofNat 64 j) with
      | .error e => .error e
      | .ok l =>
        match go r with
        | .error e => .error e
        | .ok ls => .ok (l :: ls)
  go [0, 1, 2, 3]

/-- A fetched group: its words and the locations they were read from. -/
structure Fetched where
  words : List Word
  locs : List Loc
deriving DecidableEq, Repr

/-- Position of a word in its packet (R90). -/
def packetIndex (a : Dword) : Nat := a.toNat % 12 / 4

/-- The words of the group at an address, from a source of words (R90): up to the first with C clear, never past word 2. -/
def groupFrom (word : Dword → Except FetchFail (Word × List Loc)) : Nat → Dword → Except FetchFail Fetched
  | 0, _ => .ok ⟨[], []⟩
  | n + 1, a =>
    match word a with
    | .error e => .error e
    | .ok w =>
      if w.1.getLsbD 31 && packetIndex a != 2 then
        match groupFrom word n (a + 4) with
        | .error e => .error e
        | .ok r => .ok ⟨w.1 :: r.words, w.2 ++ r.locs⟩
      else .ok ⟨[w.1], w.2⟩

/-- A word of code from memory. -/
def State.fetchWord (s : State) (c : Nat) (a : Dword) : Except FetchFail (Word × List Loc) :=
  match s.fetchLocs c a with
  | .error e => .error e
  | .ok ls => .ok (BitVec.ofNat 32 (s.readLocs ls), ls)

/-- The word at an address among words kept by address. -/
def bodyWord (b : List (Dword × Word)) (a : Dword) : Option Word := (b.find? (fun p => p.1 == a)).map Prod.snd

/-- The word of a fragment's code: of the capsule body read at CAPENT (R309), or from memory. -/
def State.codeWord (s : State) (c : Nat) (body : List (Dword × Word)) (a : Dword) : Except FetchFail (Word × List Loc) :=
  match bodyWord body a with
  | some w => .ok (w, [])
  | none => s.fetchWord c a

/-- The group at an address, from a body or from memory. -/
def State.fetchGroup (s : State) (c : Nat) (body : List (Dword × Word)) (a : Dword) : Except FetchFail Fetched :=
  groupFrom (s.codeWord c body) 3 a

/-- The words that a core holds fetched for a context (R228). -/
def State.heldWords (s : State) (core ctx : Nat) : List (Dword × Word) :=
  (s.packets.filter (fun p => p.core == core && p.ctx == ctx)).flatMap Packet.words

/-- The words that a fragment has at hand of ordinary code: those of the packet it is in, and those its core holds (R228, R245). -/
def State.atHand (s : State) (f : Frag) (w : Warp) : List (Dword × Word) :=
  f.packet ++ (match s.wg? w.wg with
    | some g => s.heldWords g.core (s.ctxOfWg g)
    | none => [])

/-- The words that a fragment does not fetch from memory: those of a planer's program, of a capsule's body or of the configuration that
serves it (R279, R301, R309), and else those it has at hand. -/
def State.bodyOf (s : State) (fid : Nat) (f : Frag) (w : Warp) : List (Dword × Word) :=
  match w.planer with
  | some core =>
    let c := s.core core
    c.program.mapIdx (fun i x => (c.progAddr + BitVec.ofNat 64 (4 * i), x))
  | none =>
    match w.capsule with
    | some c => if c.runs fid f then c.body else s.atHand f w
    | none =>
      match s.wg? w.wg with
      | some g =>
        (match s.jigServes fid f w g (s.ctxOfWg g) with
          | some cfg => cfg.body
          | none => s.atHand f w)
      | none => []

/-- The words of the packet at a fragment's pc, as the fragment fetches it (R90, R245): each packet is fetched whole, from one write
state, and its later groups are of the same fetch. -/
def State.packetAt (s : State) (c : Nat) (body : List (Dword × Word)) (pc : Dword) : List (Dword × Word) :=
  let p := packetAddr pc
  [p, p + 4, p + 8].filterMap (fun a => match s.codeWord c body a with
    | .ok w => some (a, w.1)
    | .error _ => none)

/-- The words of a group as instructions; none for a word that is no encoding. -/
def decodeAll (ws : List Word) : List (Option Instr) :=
  ws.map (fun w => match decode w with
    | .ok d => some d.instr
    | .error _ => none)

/-- The word is a NOP (R110). -/
def isNop (i : Option Instr) : Bool := i == some Instr.nop

/-- A well-formed group's word j breaks R92 by itself or against an earlier word: it is no encoding, chains past word 2, has a stall count before
the last word, shares a pipe, or writes a register that an earlier word writes. -/
def breaksGroup (pc : Dword) (ws : List Word) (is : List (Option Instr)) (j : Nat) : Bool :=
  let w := ws.getD j 0
  match is.getD j none with
  | none => true
  | some i =>
    let u := uses i
    let before := (is.take j).filterMap id
    (packetIndex (pc + BitVec.ofNat 64 (4 * j)) == 2 && w.getLsbD 31) ||
    (decide (j + 1 < ws.length) && w.extractLsb' 28 3 != 0#3) ||
    (u.pipe != .none && before.any (fun x => (uses x).pipe == u.pipe)) ||
    u.writes.any (fun r => before.any (fun x => (uses x).writes.contains r))

end Sys2Proof.Machine
end

