-- ==== Sys2Proof/Machine/Geometry.lean ====
section
/-! DEFINITION. The package core grid (R15 to R17), bond shapes (R265) and the footprints of teams (R30). -/

namespace Sys2Proof.Machine

/-- The C-die of a core (R15). -/
def coreDie (c : Nat) : Nat := c / 384
/-- Package core row (R15). -/
def coreRow (c : Nat) : Nat := coreDie c * 16 + 2 * (c / 4 % 96 / 12) + c % 4 / 2
/-- Package core column (R15). -/
def coreCol (c : Nat) : Nat := 2 * (c / 4 % 12) + c % 2
/-- The core at a row and column of the package core grid (R15). -/
def coreAt (r k : Nat) : Nat := (r / 16 * 96 + r % 16 / 2 * 12 + k / 2) * 4 + r % 2 * 2 + k % 2

/-- Core rows and columns of a bond shape, by its code (R265). -/
def shapeCores (code : Nat) : Nat × Nat :=
  match code with
  | 0 => (1, 1)
  | 1 => (2, 1)
  | 2 => (1, 2)
  | 3 => (2, 2)
  | 4 => (4, 1)
  | 5 => (1, 4)
  | 6 => (4, 2)
  | _ => (2, 4)

/-- The cores of a block with its top left core given, in row-major order; none where it leaves the package grid (R30, R265). -/
def blockCores (top : Nat) (rows cols : Nat) : Option (List Nat) :=
  let r := coreRow top
  let k := coreCol top
  if r + rows ≤ Config.coreRows ∧ k + cols ≤ Config.coreCols then
    some ((List.range rows).flatMap (fun i => (List.range cols).map (fun j => coreAt (r + i) (k + j))))
  else none

/-- Seam-crossing edges of a block of cores: one for each column that holds core rows 15 and 16 (R17). -/
def seamEdges (top rows cols : Nat) : Nat :=
  let r := coreRow top
  if r ≤ 15 ∧ 16 < r + rows then cols else 0

/-- The workgroup of a team on a core. -/
def State.memberOn (s : State) (team core : Nat) : Option (Nat × Wg) :=
  (s.wgsOf team).find? (fun p => p.2.core == core)

/-- Where a footprint may lie (R30): the columns or rows of its clusters it must fill. -/
inductive Fit where
  /-- Any place within the package grid whose rows and columns neighbour each other. -/
  | anywhere
  /-- Exactly one cluster. -/
  | cluster
  /-- Two vertically adjacent clusters. -/
  | stacked
  /-- Two horizontally adjacent clusters. -/
  | abreast
deriving DecidableEq, Repr

/-- A footprint of R30. -/
structure Footprint where
  rows : Nat
  cols : Nat
  fit : Fit
deriving DecidableEq, Repr

/-- The footprints of a team size and a declared bond shape, 8 for none, in R30's order; empty where the shape is not allowed. -/
def footprints (size bond : Nat) : List Footprint :=
  match size, bond with
  | 1, 0 => [⟨1, 1, .anywhere⟩]
  | 1, 8 => [⟨1, 1, .anywhere⟩]
  | 2, 1 => [⟨2, 1, .anywhere⟩]
  | 2, 2 => [⟨1, 2, .anywhere⟩]
  | 2, 8 => [⟨2, 1, .anywhere⟩, ⟨1, 2, .anywhere⟩]
  | 4, 3 => [⟨2, 2, .cluster⟩]
  | 4, 4 => [⟨4, 1, .stacked⟩]
  | 4, 5 => [⟨1, 4, .abreast⟩]
  | 4, 8 => [⟨2, 2, .cluster⟩, ⟨4, 1, .stacked⟩, ⟨1, 4, .abreast⟩]
  | 8, 6 => [⟨4, 2, .stacked⟩]
  | 8, 7 => [⟨2, 4, .abreast⟩]
  | 8, 8 => [⟨4, 2, .stacked⟩, ⟨2, 4, .abreast⟩]
  | _, _ => []

/-- A block of cores lies as its footprint requires: clusters are two cores on a side and begin at even rows and columns (R15, R30). -/
def fits (f : Footprint) (top : Nat) : Bool :=
  let r := coreRow top
  let k := coreCol top
  match f.fit with
  | .anywhere => true
  | .cluster => decide (r % 2 = 0) && decide (k % 2 = 0)
  | .stacked => decide (r % 2 = 0) && (decide (f.cols = 1) || decide (k % 2 = 0))
  | .abreast => decide (k % 2 = 0) && (decide (f.rows = 1) || decide (r % 2 = 0))

end Sys2Proof.Machine
end

