-- ==== Sys2Proof/Machine/Records.lean ====
section
/-! DEFINITION. Launch records (R331 to R333) and the checks of an FMT value (R76). -/

namespace Sys2Proof.Machine

/-- Both matrix formats lie in one width class (R75): codes 0 and 1 are 16 bits wide. -/
def wide16 (m : BitVec 4) : Bool := decide (m < 2#4)

/-- A value of FMT that SETFMT accepts (R76); `rm0` allows RM 000, as a launch record does (R333). -/
def fmtOk (x : Word) (rm0 : Bool) : Bool :=
  (if fmtRM x = 0 then rm0 else decide (fmtRM x < 6)) && decide (fmtVF x < 3) && decide (fmtQF x < 6) &&
    decide (fmtMA x < 6#4) && decide (fmtMB x < 7#4) && (wide16 (fmtMA x) == wide16 (fmtMB x))

/-- A launch record as eight 64-bit words (R331). -/
abbrev RecordWords := List Dword

/-- Bits of one word of a record. -/
def recBits (r : RecordWords) (w lo n : Nat) : Nat := bitsAt (r.getD w 0) lo n

/-- VER (R331). -/
def recVersion (r : RecordWords) : Nat := recBits r 0 0 8

/-- DONE at the position the record's version gives (R333). -/
def recDone (r : RecordWords) : Nat := if recVersion r = 1 then recBits r 6 24 12 else recBits r 6 48 12

/-- USER, which a version 1 record does not have (R332, R333). -/
def recUser (r : RecordWords) : Word := if recVersion r = 1 then 0 else BitVec.ofNat 32 (recBits r 7 0 32)

/-- The event indices that a record waits for (R331, R332). -/
def recWaits (r : RecordWords) : List Nat :=
  if recVersion r = 1 then [recBits r 6 0 12, recBits r 6 12 12]
  else [recBits r 6 0 12, recBits r 6 12 12, recBits r 6 24 12, recBits r 6 36 12]

/-- A bit reserved for the record's version is set (R331, R332). -/
def recReserved (r : RecordWords) : Bool :=
  if recVersion r = 1 then
    recBits r 0 14 18 != 0 || recBits r 0 48 16 != 0 || recBits r 4 51 13 != 0 || recBits r 5 32 32 != 0 || recBits r 6 36 28 != 0
  else
    recBits r 0 18 5 != 0 || recBits r 0 25 7 != 0 || recBits r 0 48 16 != 0 || recBits r 4 51 13 != 0 ||
      recBits r 5 56 8 != 0 || recBits r 6 60 4 != 0 || recBits r 7 32 32 != 0

/-- The record's fields, version 1 in the form R332 gives it. -/
def recParse (r : RecordWords) : Record :=
  let v1 := recVersion r == 1
  { cls := BitVec.ofNat 2 (recBits r 0 8 2)
    width := 16 * 2 ^ recBits r 0 10 2
    team := 2 ^ recBits r 0 12 2
    bond := if v1 then 8 else BitVec.ofNat 4 (recBits r 0 14 4)
    check := !v1 && recBits r 0 23 1 == 1
    bken := !v1 && recBits r 0 24 1 == 1
    wglanes := recBits r 0 32 16
    entry := r.getD 1 0
    args := r.getD 2 0
    tvec := r.getD 3 0
    teams := recBits r 4 0 32
    bench := recBits r 4 32 19
    fmt := let x : Word := BitVec.ofNat 32 (recBits r 5 0 32); if fmtRM x = 0 then x ||| 1 else x
    msm := if v1 then 0 else recBits r 5 32 17
    regs := if v1 then 64 else recBits r 5 49 7
    waits := (recWaits r).filter (· != 0)
    done := recDone r
    user := recUser r }

/-- The record is valid (R333): `evcount` bounds its event indices. -/
def recValid (r : RecordWords) (evcount : Nat) : Bool :=
  let p := recParse r
  let v1 := recVersion r == 1
  (recVersion r == 1 || recVersion r == 2) && !recReserved r && decide (recBits r 0 10 2 < 3) &&
    (!v1 || (decide (recBits r 0 10 2 ≠ 0) && decide (recBits r 0 12 2 < 3))) &&
    decide (1 ≤ p.wglanes) && decide (p.wglanes ≤ 16 * p.width) &&
    decide (p.bench ≤ Config.benchBytes) && decide (p.bench % 16 = 0) && decide (p.msm ≤ Config.msmSize) &&
    decide (1 ≤ p.regs) && decide (p.regs ≤ 64) && decide (1 ≤ p.teams) &&
    !(footprints p.team p.bond.toNat).isEmpty && fmtOk (BitVec.ofNat 32 (recBits r 5 0 32)) true &&
    decide (p.entry.toNat % 12 = 0) && decide (p.done ≤ evcount) && p.waits.all (fun w => decide (w ≤ evcount))

/-- A record given to LAUNCH is valid: it waits for nothing and names no class above its parent's (R35, R323, R333). -/
def recChildValid (r : RecordWords) (evcount parentCls : Nat) : Bool :=
  recValid r evcount && (recWaits r).all (· == 0) && decide (parentCls ≤ recBits r 0 8 2)

end Sys2Proof.Machine
end

