-- ==== Sys2Proof/Machine/Descriptors.lean ====
section
/-! DEFINITION. What engine commands check at issue (R252, R253): their descriptors, the addresses they will access, their leases,
bonds and reservations. A command that passes gives what it will do. -/

namespace Sys2Proof.Machine

/-- A fault found at issue; `access` marks the access checks, which R353 decides after every other issue check of the group. -/
structure Found where
  access : Bool
  trap : Trap
deriving DecidableEq, Repr

def Found.issue (t : Trap) : Found := ⟨false, t⟩
def Found.acc (t : Trap) : Found := ⟨true, t⟩

/-- The word of an instruction without its chain and stall fields: 0 for an event. -/
def codeOf (i : Instr) : BitVec 28 := (encode i).getD 0

/-- ILLEGAL_OP, which reports the word's OP (R352). -/
def illegalOp (i : Instr) : Found := .issue { code := Code.illegalOp, detail := ((codeOf i).extractLsb' 22 6).zeroExtend 18 }

/-- ENG_DESC, which reports SUB and OP (R352). -/
def engDesc (i : Instr) : Found :=
  .issue { code := Code.engDesc,
           detail := ((codeOf i).extractLsb' 22 6).zeroExtend 18 ||| (((codeOf i).extractLsb' 18 4).zeroExtend 18 <<< 6) }

/-- A fault that records nothing but its code. -/
def plainFault (c : BitVec 8) : Found := .issue { code := c }

/-- A link that raises ENG_DESC (R252). -/
def Link.refused (l : Link) (hold : BitVec 1) : Bool := l.bad || (hold == 1#1 && l.tag == 0)

/-- The parts of a range that each lie in one 4 KiB granule: within one, every byte meets the same checks (R182, R198, R359). -/
def granules : Nat → Dword → Nat → List (Dword × Nat)
  | 0, _, _ => []
  | fuel + 1, a, n =>
    if n = 0 then []
    else
      let k := min n (4096 - a.toNat % 4096)
      (a, k) :: granules fuel (a + BitVec.ofNat 64 k) (n - k)

/-- The granules of n bytes. -/
def granulesOf (a : Dword) (n : Nat) : List (Dword × Nat) := granules (n / 4096 + 2) a n

/-- A granule that passes its checks: its bytes and the kind of its page. -/
structure GranuleOk where
  locs : List Loc
  kind : Kind
  compressed : Bool
deriving DecidableEq, Repr

/-- Checks 1, 3, 4 and 7 of R211 on one granule. A copy may not name its own team's window (R191, R260);
COLL and CBULK reach benches there (R285, R286; assumption log 75). -/
def State.granuleCheck (s : State) (c : Nat) (g : Wg) (copy : Bool) (need : Option Need) (a : Dword) (n : Nat) :
    Except Bad GranuleOk :=
  let denied (p : Page) : BitVec 18 := match need with
    | some x => p.denied x
    | none => 0
  if s.inTwin c a then
    if copy && s.inOwnWindow g a then .error ⟨4, 0, Code.accessFault, if need = some .write then 2 else 1⟩
    else if copy then .error ⟨1, 0, Code.benchRange, 0⟩
    else
      match allSome ((List.range n).map (fun j => s.windowByte g (a + BitVec.ofNat 64 j))) with
      | some ls => .ok ⟨ls, .rc, false⟩
      | none =>
        .error ⟨1, ((List.range n).find? (fun j => (s.windowByte g (a + BitVec.ofNat 64 j)).isNone)).getD 0, Code.benchRange, 0⟩
  else
    match s.translate c a with
    | .error w => .error ⟨3, 0, Code.translationFault, w.detail⟩
    | .ok p =>
      if denied p ≠ 0 then .error ⟨4, 0, Code.accessFault, denied p⟩
      else
        match s.canon (p.phys a) with
        | none => .error ⟨7, 0, Code.physRange, 0⟩
        | some x => .ok ⟨(List.range n).map (fun j => .phys (x + j)), p.kind, p.compressed⟩

/-- The place of each byte of a range that was checked at issue, as its granule decodes now (R380): none in a granule that a change of
the tables has since left without one (assumption log 79). -/
def State.rangePlaces (s : State) (c : Nat) (g : Wg) (copy : Bool) (need : Option Need) (a : Dword) (n : Nat) : List (Option Loc) :=
  (granulesOf a n).flatMap (fun q => match s.granuleCheck c g copy need q.1 q.2 with
    | .ok r => r.locs.map some
    | .error _ => List.replicate q.2 none)

/-- A failed check of a command with the address it reports (R211). -/
structure BadAt where
  bad : Bad
  addr : Dword
deriving DecidableEq, Repr

/-- The failed checks of a range, in ascending address order; an access of `unit` bytes that spans page kinds fails check 5. -/
def State.rangeBads (s : State) (c : Nat) (g : Wg) (copy : Bool) (need : Option Need) (unit : Nat) (a : Dword) (n : Nat) : List BadAt :=
  let qs := granulesOf a n
  let rs := qs.map (fun q => (q.1, s.granuleCheck c g copy need q.1 q.2))
  let fails := rs.filterMap (fun r => match r.2 with
    | .error b => some (⟨b, r.1 + BitVec.ofNat 64 b.byte⟩ : BadAt)
    | .ok _ => none)
  let kinds := rs.filterMap (fun r => match r.2 with
    | .ok k => some (r.1, k.kind)
    | .error _ => none)
  let mixed := (kinds.zip (kinds.drop 1)).filterMap (fun p =>
    if p.1.2 ≠ p.2.2 ∧ (p.2.1 - a).toNat % unit ≠ 0 then some (⟨⟨5, 0, Code.mixedKind, 0⟩, p.2.1⟩ : BadAt) else none)
  fails ++ mixed

/-- The first failed check in R211's order; among equals the one listed first (R253). -/
def firstBadAt : List BadAt → Option BadAt
  | [] => none
  | b :: r =>
    match firstBadAt r with
    | none => some b
    | some c => if c.bad.order < b.bad.order then some c else some b

def BadAt.found (b : BadAt) : Found := .acc { code := b.bad.code, detail := b.bad.detail, addr := b.addr }

/-- A bench address in the form a trap reports it: the own form in the issuing workgroup, else the team form (R183). -/
def benchName (own member off : Nat) : Dword :=
  if own = member then BitVec.ofNat 64 off else BitVec.ofNat 64 (2 ^ 22 + member * 2 ^ 19 + off)

/-- The first row of a bench region of equal rows whose bytes leave an allocation of the given size. -/
def benchRowsBad (own member size off stride rows bytes : Nat) : Option BadAt :=
  ((List.range rows).find? (fun k => decide (size < off + k * stride + bytes))).map
    (fun k => ⟨⟨1, 0, Code.benchRange, 0⟩, benchName own member (max size (off + k * stride))⟩)

/-- The first fault of a list of optional ones. -/
def firstFault (xs : List (Option Found)) : Option Found := (xs.filterMap id).head?

/-- A fault where c holds. -/
def faultIf (c : Bool) (f : Found) : Option Found := if c then some f else none

/-! ### Copies (R260) -/

/-- A copy descriptor (R260). -/
structure CopyDesc where
  src : Dword
  dst : Dword
  rowBytes : Nat
  rows : Nat
  sstride : Int
  dstride : Int
  aoff : Nat
  aw : Bool
  dir : BitVec 2
  mmask : BitVec 8
  reserved : Nat
deriving DecidableEq, Repr

def View.copyDesc (v : View) (sa : BitVec 6) : CopyDesc :=
  let w2 := v.desc sa 2
  let w3 := v.desc sa 3
  { src := v.desc sa 0, dst := v.desc sa 1, rowBytes := bitsAt w2 0 16, rows := bitsAt w2 16 16,
    sstride := (w2.extractLsb' 32 32).toInt, dstride := (w3.extractLsb' 0 32).toInt, aoff := bitsAt w3 32 19,
    aw := w3.getLsbD 51, dir := w3.extractLsb' 52 2, mmask := w3.extractLsb' 54 8, reserved := bitsAt w3 62 2 }

/-- A field outside its limits (R260). -/
def CopyDesc.refused (d : CopyDesc) (multi : Bool) : Bool :=
  decide (d.rowBytes < 4) || d.rowBytes % 4 != 0 || d.rows == 0 || d.sstride % 4 != 0 || d.dstride % 4 != 0 ||
    d.aoff % 16 != 0 || d.dir == 3#2 || d.reserved != 0 || (d.aw && d.dir == 1#2) ||
    (d.dir != 0#2 && decide (2 ^ 19 ≤ d.src.toNat)) || ((d.mmask != 0) != multi) ||
    (multi && (d.dir == 1#2 || decide (2 ^ 22 ≤ d.dst.toNat ∧ d.dst.toNat < 2 ^ 23)))

/-- The address of a row: both strides are signed and sums wrap (R260). -/
def rowAt (base : Dword) (stride : Int) (row : Nat) : Dword := base + BitVec.ofInt 64 (stride * row)

/-- The members that receive a copy: the one DST names, or those of MMASK (R260). -/
def CopyDesc.receivers (d : CopyDesc) (g : Wg) (multi : Bool) : List Nat :=
  if multi then (List.range 8).filter (fun m => d.mmask.getLsbD m)
  else if d.dst.toNat < 2 ^ 19 then [g.member] else [d.dst.toNat / 2 ^ 19 % 8]

/-- The allocation of member m of a team, with its workgroup and an offset. -/
def State.memberPlace (s : State) (team m off : Nat) : Option (Nat × Wg × Nat) :=
  if m < s.teamSize team then (s.member? team m).map (fun p => (p.1, p.2, off)) else none

/-- Where a row of a receiver lies (R183, R261): its address is decoded as a bench address, and an own-form one names an offset of the
receiver; one that names another member than the receiver reaches none. -/
def State.receiverPlace (s : State) (gid : Nat) (g : Wg) (m : Nat) (a : Dword) : Option (Nat × Wg × Nat) :=
  if a.toNat < 2 ^ 19 ∧ m ≠ g.member then s.memberPlace g.team m a.toNat
  else (s.benchPlace gid g a).bind (fun p => if p.2.1.member = m then some p else none)

/-- The failed checks of the rows of a bench region (R260): where each row's address decodes to, and its size there. -/
def rowsBad (place : Dword → Option (Nat × Wg × Nat)) (base : Dword) (stride : Int) (rows bytes : Nat) : Option BadAt :=
  let fail (a : Dword) : BadAt := ⟨⟨1, 0, Code.benchRange, 0⟩, a⟩
  (List.range rows).findSome? (fun r =>
    let a := rowAt base stride r
    match place a with
    | none => some (fail a)
    | some p =>
      if p.2.1.benchSize < p.2.2 + bytes then some (fail (a + BitVec.ofNat 64 (p.2.1.benchSize - p.2.2)))
      else none)

/-- The failed check of a receiver's arrival word, named in team form (R262). -/
def State.arrivalBad (s : State) (g : Wg) (m aoff : Nat) : Option BadAt :=
  match s.member? g.team m with
  | some p => if p.2.benchSize < aoff + 16 then
      some ⟨⟨1, 0, Code.benchRange, 0⟩, BitVec.ofNat 64 (2 ^ 22 + m * 2 ^ 19 + max aoff p.2.benchSize)⟩ else none
  | none => none

/-- The address checks of a copy (R253, R260): the source's before the destination's. -/
def State.copyBads (s : State) (v : View) (d : CopyDesc) (multi : Bool) : List BadAt :=
  let c := s.ctxOfWg v.g
  let glob (base : Dword) (stride : Int) (need : Need) : List BadAt :=
    (List.range d.rows).flatMap (fun r => s.rangeBads c v.g true (some need) d.rowBytes (rowAt base stride r) d.rowBytes)
  let src := if d.dir = 0#2 then glob d.src d.sstride .read
    else (rowsBad (s.benchPlace v.gid v.g) d.src d.sstride d.rows d.rowBytes).toList
  let dst := if d.dir = 1#2 then glob d.dst d.dstride .write
    else (d.receivers v.g multi).flatMap (fun m =>
      (rowsBad (s.receiverPlace v.gid v.g m) d.dst d.dstride d.rows d.rowBytes).toList ++
        (if d.aw then (s.arrivalBad v.g m d.aoff).toList else []))
  src ++ dst

/-- TCOPY and TCOPYM at issue (R252, R253, R260). -/
def State.copyFault (s : State) (v : View) (i : Instr) (sa sb : BitVec 6) (hold : BitVec 1) (multi : Bool) : Option Found :=
  let d := v.copyDesc sa
  if (v.link sb).refused hold || d.refused multi then some (engDesc i)
  else (firstBadAt (s.copyBads v d multi)).map BadAt.found

def CopyDesc.kind (d : CopyDesc) (g : Wg) (multi : Bool) : CmdKind :=
  .tcopy d.src d.dst d.rowBytes d.rows d.sstride d.dstride d.aoff d.aw d.dir
    (if multi then d.mmask else BitVec.ofNat 8 (2 ^ (d.receivers g multi).headD 0)) multi

/-! ### Leases, bonds and matrix commands (R263 to R276) -/

/-- The issuing warp owns its core's matrix engine (R263). -/
def State.ownsEngine (s : State) (v : View) : Bool := (s.core v.g.core).owner == some v.wid

/-- The core's engine is a follower of a formed bond (R264). -/
def State.isFollower (s : State) (core : Nat) : Bool := (s.bondOf core).any (fun p => p.1 != core)

/-- The core leads a formed bond of more than one core (R264, R266). -/
def State.leadsBond (s : State) (core : Nat) : Bool := (s.bondOf core).any (fun p => p.1 == core)

/-- ENG_NOT_OWNER and ENG_BONDED (R264). -/
def State.leaseFault (s : State) (v : View) : Option Found :=
  if !s.ownsEngine v then some (plainFault Code.engNotOwner)
  else if s.isFollower v.g.core then some (plainFault Code.engBonded)
  else none

/-- Core rows and columns of the bond that a core leads: 8×8 where it lies in none (R265). -/
def State.bondSize (s : State) (leader : Nat) : Nat × Nat :=
  match s.bondOf leader with
  | some p => shapeCores p.2.shape
  | none => (1, 1)

/-- The cores of a bond's row of cores, or of its column, from the leader on (R270, R271). -/
def topEdge (leader cols : Nat) : List Nat := (List.range cols).map (fun j => coreAt (coreRow leader) (coreCol leader + j))
def leftEdge (leader rows : Nat) : List Nat := (List.range rows).map (fun i => coreAt (coreRow leader + i) (coreCol leader))
def bottomEdge (leader rows cols : Nat) : List Nat :=
  (List.range cols).map (fun j => coreAt (coreRow leader + rows - 1) (coreCol leader + j))

/-- Bytes of an element and the dot width W of a width class (R269). -/
def elemBytes (m : BitVec 4) : Nat := if wide16 m then 2 else 1
def dotWidth (m : BitVec 4) : Nat := if wide16 m then 32 else 64

/-- LQ2 as a matrix format (R75). -/
def isLq2 (m : BitVec 4) : Bool := m == 6#4

/-- The failed range check of equal bench rows at the member on a core. -/
def State.memberRowsBad (s : State) (v : View) (core off stride rows bytes : Nat) : Option BadAt :=
  match s.memberOn v.g.team core with
  | some p => benchRowsBad v.g.member p.2.member p.2.benchSize off stride rows bytes
  | none => none

/-- MXLDB at issue (R264, R269, R270). A BBRK that has issued and not completed leaves the bond formed, so the command is one of the bond
(assumption log 77). -/
def State.mxldbFault (s : State) (v : View) (i : Instr) (sa sb : BitVec 6) (hold : BitVec 1) : Option Found :=
  let w0 := v.desc sa 0
  let w1 := v.desc sa 1
  let mb := fmtMB v.fmt
  match s.leaseFault v with
  | some f => some f
  | none =>
    if (v.link sb).refused hold || bitsAt w0 19 13 != 0 || bitsAt w0 51 13 != 0 || bitsAt w1 19 45 != 0 ||
        (!isLq2 mb && bitsAt w0 32 19 != 0) then some (engDesc i)
    else
      let rc := s.bondSize v.g.core
      let k := 8 * rc.1 * dotWidth mb
      let bads := (topEdge v.g.core rc.2).flatMap (fun c =>
        if isLq2 mb then
          (s.memberRowsBad v c (bitsAt w0 0 19) (bitsAt w1 0 19) (k / 8) 16).toList ++
            (s.memberRowsBad v c (bitsAt w0 32 19) 16 (k / 32) 16).toList
        else (s.memberRowsBad v c (bitsAt w0 0 19) (bitsAt w1 0 19) k (8 * elemBytes mb)).toList)
      (firstBadAt bads).map BadAt.found

/-- Accumulators that a warp's reservation offers to a command issued now (R275): none once MSMF has issued. -/
def msmOffered (w : Warp) : Nat := if w.msmHeld && w.msmFree.isNone then w.msmSize else 0

/-- The reservation size of the lease holder of a core (R271). -/
def State.holderMsm (s : State) (core : Nat) : Nat :=
  (((s.core core).owner.bind s.warp?).map msmOffered).getD 0

/-- MXOP at issue (R264, R269, R271); beside a BBRK that has not completed it is one of the bond (assumption log 77). -/
def State.mxopFault (s : State) (v : View) (i : Instr) (sa sb : BitVec 6) (hold : BitVec 1) : Option Found :=
  let w0 := v.desc sa 0
  let w1 := v.desc sa 1
  let rows := bitsAt w0 32 16
  match s.leaseFault v with
  | some f => some f
  | none =>
    if (v.link sb).refused hold || bitsAt w0 19 13 != 0 || bitsAt w1 19 45 != 0 || rows == 0 || decide (8192 < rows) ||
        (s.core v.g.core).width8 != some (!wide16 (fmtMA v.fmt)) then some (engDesc i)
    else
      let rc := s.bondSize v.g.core
      match firstBadAt ((leftEdge v.g.core rc.1).flatMap (fun c =>
          (s.memberRowsBad v c (bitsAt w0 0 19) (bitsAt w1 0 19) rows 512).toList)) with
      | some b => some b.found
      | none =>
        faultIf ((bottomEdge v.g.core rc.1 rc.2).any (fun c => decide (s.holderMsm c < bitsAt w0 48 16 + 8 * rows)))
          (plainFault Code.msmRange)

/-- MSMRD at issue (R276). -/
def State.msmrdFault (v : View) (i : Instr) (sa sb : BitVec 6) (hold : BitVec 1) : Option Found :=
  let w0 := v.desc sa 0
  let w1 := v.desc sa 1
  let rows := bitsAt w0 32 16
  if (v.link sb).refused hold || bitsAt w0 19 13 != 0 || bitsAt w1 19 13 != 0 || bitsAt w1 39 25 != 0 || rows == 0 ||
      decide (8192 < rows) || decide (5 < bitsAt w1 35 3) then some (engDesc i)
  else
    match benchRowsBad v.g.member v.g.member v.g.benchSize (bitsAt w0 0 19) (bitsAt w1 0 19) rows
        (8 * ((CvtFmt.ofIndex (bitsAt w1 32 3)).width / 8)) with
    | some b => some b.found
    | none => faultIf (decide (msmOffered v.w < bitsAt w0 48 16 + 8 * rows)) (plainFault Code.msmRange)

/-- The cores of the bond that a leader asks for, where every one holds a member of its team (R265). -/
def State.bondCores (s : State) (team leader shape : Nat) : Option (List Nat) :=
  match blockCores leader (shapeCores shape).1 (shapeCores shape).2 with
  | none => none
  | some cs => if cs.all (fun c => (s.memberOn team c).isSome) then some cs else none

/-- BFORM at issue (R264 to R266). -/
def State.bformFault (s : State) (v : View) (i : Instr) (sa : BitVec 6) : Option Found :=
  let x := v.s sa.toNat
  match s.leaseFault v with
  | some f => some f
  | none =>
    if bitsAt x 3 61 ≠ 0 then some (engDesc i)
    else if (s.bondCores v.g.team v.g.core (bitsAt x 0 3)).isNone then some (plainFault Code.bondShape)
    else faultIf (s.leadsBond v.g.core || s.bondPending v.g.core) (plainFault Code.bondLive)

/-- BJOIN at issue (R264, R266). -/
def State.bjoinFault (s : State) (v : View) (i : Instr) (sa : BitVec 6) : Option Found :=
  let x := v.s sa.toNat
  if !s.ownsEngine v then some (plainFault Code.engNotOwner)
  else if bitsAt x 3 61 ≠ 0 then some (engDesc i)
  else if s.teamSize v.g.team ≤ bitsAt x 0 3 then some (plainFault Code.bondShape)
  else if (s.bondOf v.g.core).isSome || s.bondPending v.g.core then some (plainFault Code.bondLive)
  else
    match (s.member? v.g.team (bitsAt x 0 3)).bind (fun p => Table.get? s.bonds p.2.core) with
    | some b => faultIf (b.team == v.g.team && !b.members.contains v.g.core) (plainFault Code.bondMismatch)
    | none => none

/-- MXREL at issue (R263, R264). A BFORM or BJOIN of the engine that has not formed does not hold it back, and stays (assumption log 78). -/
def State.mxrelFault (s : State) (v : View) : Option Found :=
  if !s.ownsEngine v then some (plainFault Code.engNotOwner)
  else faultIf ((s.bondOf v.g.core).isSome) (plainFault Code.engBonded)

/-- How many batches ago a batch number was closed: 0 for the latest; numbers run from 1 to 0xFFFF_FFFF and wrap to 1 (R274). -/
def batchAge (next n : Nat) : Nat := (next + 2 * 0xFFFFFFFF - 1 - n) % 0xFFFFFFFF

/-- MXWAIT at issue (R274). -/
def State.mxwaitFault (v : View) (i : Instr) (sa : BitVec 6) : Option Found :=
  let x := v.s sa.toNat
  let n := bitsAt x 0 32
  if bitsAt x 32 32 ≠ 0 then some (engDesc i)
  else if n = 0 then none
  else
    let age := batchAge v.w.batchNext n
    faultIf (decide (v.w.batchesClosed ≤ age) || decide (2 ^ 31 ≤ age)) (plainFault Code.batchRange)

/-- MSMA at issue (R275). -/
def State.msmaFault (v : View) (sa : BitVec 6) : Option Found :=
  let n := (v.s sa.toNat).toNat
  if n = 0 ∨ Config.msmSize < n then some (plainFault Code.msmSize)
  else faultIf v.w.msmHeld (plainFault Code.msmHoldAndWait)

/-! ### The planer (R278, R279) -/

/-- A word of the planer subset within its limits (R279), n words long at address p. -/
def planerWord (p a : Dword) (len : Nat) (i : Instr) : Bool :=
  let u := uses i
  let s16 (r : Reg) : Bool := match r with
    | .s n => decide (n < 16)
    | .v n => decide (n < 8)
    | _ => true
  let small := u.reads.all s16 && u.writes.all s16
  let inside (off : Int) : Bool :=
    let t := (packetAddr a).toNat + 12 * off
    decide ((p.toNat : Int) ≤ t) && decide (t < p.toNat + 12 * ((len + 2) / 3 : Nat))
  match i with
  | .sadd _ _ _ | .ssub _ _ _ | .smul _ _ _ | .smulh _ _ _ | .smulhu _ _ _ | .sand _ _ _ | .sor _ _ _ | .sxor _ _ _
  | .sshl _ _ _ | .sshr _ _ _ | .ssra _ _ _ | .smin _ _ _ | .smax _ _ _ | .sminu _ _ _ | .smaxu _ _ _ | .sslt _ _ _
  | .ssltu _ _ _ | .sdiv _ _ _ | .sdivu _ _ _ | .srem _ _ _ | .sremu _ _ _ | .sclz _ _ | .spopc _ _ | .sbrev _ _
  | .ssext _ _ _ | .szext _ _ _ | .saddi _ _ _ | .sandi _ _ _ | .sori _ _ _ | .sxori _ _ _ | .sshiShl _ _ _
  | .sshiShr _ _ _ | .sshiSra _ _ _ | .sshiRor _ _ _ | .smovk _ _ | .smovks _ _ => small
  | .brcEqz _ off | .brcNez _ off | .brcLtz _ off | .brcGez _ off => small && inside off.toInt
  | .jmp off => inside off.toInt
  | .waitc _ _ _ | .nop => true
  | .sld _ _ _ _ ord => small && ord == 0#2
  | .vld _ _ _ _ ord => small && ord == 0#2
  | .bld _ _ _ _ ord => small && ord == 0#2
  | .vcvt _ _ _ _ _ | .vqnt _ _ _ _ | .vlqdec _ _ _ _ _ | .vpk16 _ _ _ _ _ | .vupkl16 _ _ _ | .vupkh16 _ _ _
  | .vbyte _ _ _ _ _ => small
  | .qpush _ _ => true
  | _ => false

/-- The first word that PLNGO rejects (R279): outside the subset or its limits, or not NOP after the last. -/
def planerReject (p : Dword) (len : Nat) (ws : List Word) : Option Nat :=
  (List.range ws.length).find? (fun j =>
    match decode (ws.getD j 0) with
    | .error _ => true
    | .ok d => if j < len then !planerWord p (p + BitVec.ofNat 64 (4 * j)) len d.instr else d.instr != .nop)

/-- Code that cannot be fetched, as an instruction that reads code reports it (R211). -/
def State.codeFault (s : State) (c : Nat) (e : FetchFail) : Found :=
  .acc (if e.detail = 0x40 then { code := Code.accessFault, detail := 4, addr := e.addr }
    else if e.detail = 0x80 then { code := Code.physRange, addr := e.addr }
    else if s.inTwin c e.addr then { code := Code.benchRange, addr := e.addr }
    else { code := Code.translationFault, detail := e.detail, addr := e.addr })

/-- The words of n packets at an address, read under the fetch rights of R211, or the first fault (R279). -/
def State.readCode (s : State) (c : Nat) (a : Dword) : Nat → Except Found (List Word)
  | 0 => .ok []
  | n + 1 =>
    match s.fetchLocs c a with
    | .error e => .error (s.codeFault c e)
    | .ok ls =>
      match s.readCode c (a + 4) n with
      | .error f => .error f
      | .ok ws => .ok (BitVec.ofNat 32 (s.readLocs ls) :: ws)

/-- The locations of n words of code. -/
def State.codeLocs (s : State) (c : Nat) (a : Dword) (n : Nat) : List Loc :=
  (List.range n).flatMap (fun j => match s.fetchLocs c (a + BitVec.ofNat 64 (4 * j)) with
    | .ok ls => ls
    | .error _ => [])

/-- The locations of the words of code that are read before the first of n that cannot be fetched. -/
def State.codeRead (s : State) (c : Nat) (a : Dword) : Nat → List Loc
  | 0 => []
  | n + 1 =>
    match s.fetchLocs c a with
    | .error _ => []
    | .ok ls => ls ++ s.codeRead c (a + 4) n

/-- The words that hold a program of a length, whole packets (R278). -/
def programWords (len : Nat) : Nat := 3 * ((len + 2) / 3)

/-- PLNGO at issue (R278, R279): its fault, or the words of the program. -/
def State.plngoCheck (s : State) (v : View) (i : Instr) (sa : BitVec 6) : Except Found (List Word) :=
  let p := v.desc sa 0
  let len := bitsAt (v.desc sa 1) 0 7
  let c := s.core v.g.core
  if bitsAt (v.desc sa 1) 7 57 ≠ 0 ∨ len = 0 ∨ 64 < len ∨ p.toNat % 12 ≠ 0 then .error (engDesc i)
  else if (c.planerWg.isSome && c.planerWg != some v.gid) || c.planer == .running then .error (plainFault Code.planerBusy)
  else
    match s.readCode (s.ctxOfWg v.g) p (programWords len) with
    | .error f => .error f
    | .ok ws =>
      match planerReject p len ws with
      | some j => .error (.issue { code := Code.planerProg, detail := BitVec.ofNat 18 j, addr := p })
      | none => .ok ws

/-! ### COLL, CBULK and COMPACT (R285 to R287) -/

/-- Bytes of a COLL element (R285). -/
def collBytes (ef : Nat) : Nat := if ef = 0 then 4 else if ef = 1 then 2 else 1

/-- COLL's descriptor (R285). -/
structure CollDesc where
  src : Dword
  dst : Dword
  count : Nat
  group : Nat
  kind : BitVec 3
  ef : BitVec 3
  rm : BitVec 3
  root : Nat
  reserved : Bool
deriving DecidableEq, Repr

def View.collDesc (v : View) (sa : BitVec 6) : CollDesc :=
  let w2 := v.desc sa 2
  let w3 := v.desc sa 3
  { src := v.desc sa 0, dst := v.desc sa 1, count := bitsAt w2 0 32, group := bitsAt w2 32 8, kind := w2.extractLsb' 40 3,
    ef := w2.extractLsb' 43 3, rm := w2.extractLsb' 46 3, root := bitsAt w3 0 22,
    reserved := bitsAt w2 49 15 != 0 || bitsAt w3 22 42 != 0 }

/-- The group's entry in the group table (R382); size 0 where it has none. -/
def State.group (s : State) (n : Nat) : Group := Table.getD s.groups n {}

/-- Elements written at DST of this device (R285). -/
def CollDesc.written (d : CollDesc) (size : Nat) : Nat :=
  match d.kind.toNat with
  | 2 => size * d.count
  | 3 => d.count / size
  | _ => d.count

/-- This device's input is read (R285): only the root of a broadcast has one. -/
def CollDesc.reads (d : CollDesc) (rank : Nat) : Bool := d.kind != 1#3 || d.root == rank

/-- A COLL's descriptor that its group does not admit (R285, R382). A group of SIZE above 4,194,304 is one of that many members (DESIGN CHOICE,
assumption log 113). -/
def CollDesc.refused (d : CollDesc) (gr : Group) : Bool :=
  d.reserved || d.count == 0 || decide (3#3 < d.kind) || decide (2#3 < d.ef) || decide (5#3 < d.rm) || gr.size == 0 ||
    decide (gr.size.toNat ≤ gr.rank.toNat) || (d.kind != 1#3 && d.root != 0) ||
    (d.kind == 1#3 && decide (gr.size.toNat ≤ d.root)) || (d.kind == 3#3 && d.count % gr.size.toNat != 0)

/-- COLL at issue (R253, R285). -/
def State.collFault (s : State) (v : View) (i : Instr) (sa sb : BitVec 6) (hold : BitVec 1) : Option Found :=
  let d := v.collDesc sa
  let gr := s.group d.group
  let es := collBytes d.ef.toNat
  let c := s.ctxOfWg v.g
  if (v.link sb).refused hold || d.refused gr then some (engDesc i)
  else
    (firstBadAt ((if d.reads gr.rank.toNat then s.rangeBads c v.g false (some .read) es d.src (es * d.count) else []) ++
      s.rangeBads c v.g false (some .write) es d.dst (es * d.written gr.size.toNat))).map BadAt.found

/-- CBULK's descriptor (R286). -/
structure BulkDesc where
  dst : Dword
  src : Dword
  count : Nat
  opn : BitVec 3
  ef : BitVec 2
  rm : BitVec 3
  imm : Bool
  operand : Word
  reserved : Bool
deriving DecidableEq, Repr

def View.bulkDesc (v : View) (sa : BitVec 6) : BulkDesc :=
  let w2 := v.desc sa 2
  let w3 := v.desc sa 3
  { dst := v.desc sa 0, src := v.desc sa 1, count := bitsAt w2 0 32, opn := w2.extractLsb' 32 3, ef := w2.extractLsb' 35 2,
    rm := w2.extractLsb' 37 3, imm := w2.getLsbD 40, operand := w3.extractLsb' 0 32,
    reserved := bitsAt w2 41 23 != 0 || bitsAt w3 32 32 != 0 }

def BulkDesc.refused (d : BulkDesc) : Bool :=
  d.reserved || d.dst.toNat % 4 != 0 || d.count == 0 || decide (3#3 < d.opn) || d.ef == 3#2 || decide (5#3 < d.rm)

/-- A granule that lies outside CMEM, though its address translates (R286). -/
def State.notCmem (s : State) (c : Nat) (a : Dword) : Bool :=
  s.inTwin c a ||
    (match s.translate c a with
      | .error _ => false
      | .ok p => match s.canon (p.phys a) with
        | some x => storeOf x != .cmem
        | none => true)

/-- CBULK at issue (R253, R286). -/
def State.bulkFault (s : State) (v : View) (i : Instr) (sa sb : BitVec 6) (hold : BitVec 1) : Option Found :=
  let d := v.bulkDesc sa
  let c := s.ctxOfWg v.g
  if (v.link sb).refused hold || d.refused || (granulesOf d.dst (4 * d.count)).any (fun q => s.notCmem c q.1) then some (engDesc i)
  else
    (firstBadAt ((if d.imm then [] else s.rangeBads c v.g false (some .read) 4 d.src (4 * d.count)) ++
      s.rangeBads c v.g false (some .both) 4 d.dst (4 * d.count))).map BadAt.found

/-- COMPACT at issue (R253, R287): translations are checked, rights are not. In its own team's window it faults as a copy does
(assumption log 75). -/
def State.compactFault (s : State) (v : View) (i : Instr) (sa sb : BitVec 6) (hold : BitVec 1) : Option Found :=
  let start := v.desc sa 0
  let len := (v.desc sa 1).toNat
  let c := s.ctxOfWg v.g
  if (v.link sb).refused hold || start.toNat % 4096 != 0 || len == 0 || len % 4096 != 0 then some (engDesc i)
  else (firstBadAt (s.rangeBads c v.g true none 4096 start len)).map BadAt.found

end Sys2Proof.Machine
end

