-- ==== Sys2Proof/Machine/CapScan.lean ====
section
/-! DEFINITION. What the capsule instructions check at issue: the addresses of records and of memory steps (R310, R312), and the
scan of a body (R309). -/

namespace Sys2Proof.Machine

/-- Checks 3 and 4 of R211, and 5 where `mixed`, on n bytes at a virtual address; then the bytes and their kind, or none where a
byte lies outside the device's own HBM and CMEM. -/
def State.ownAccess (s : State) (c : Nat) (need : Need) (mixed : Bool) (a : Dword) (n : Nat) : Except Found (Option (List Loc × Kind)) :=
  let rs := (granulesOf a n).map (fun q =>
    if s.inTwin c q.1 then (q.1, Except.ok (none, Kind.rc))
    else match s.translate c q.1 with
      | .error w => (q.1, .error (⟨3, 0, Code.translationFault, w.detail⟩ : Bad))
      | .ok p =>
        if p.denied need ≠ 0 then (q.1, .error ⟨4, 0, Code.accessFault, p.denied need⟩)
        else (q.1, .ok ((match s.canon (p.phys q.1) with
          | some x => if ownMem x then some ((List.range q.2).map (fun j => Loc.phys (x + j))) else none
          | none => none), p.kind)))
  let fails := rs.filterMap (fun r => match r.2 with
    | .error b => some (⟨b, r.1⟩ : BadAt)
    | .ok _ => none)
  let oks := rs.filterMap (fun r => match r.2 with
    | .ok k => some (r.1, k)
    | .error _ => none)
  let kinds := (oks.zip (oks.drop 1)).filterMap (fun p =>
    if mixed ∧ p.1.2.2 ≠ p.2.2.2 then some (⟨⟨5, 0, Code.mixedKind, 0⟩, p.2.1⟩ : BadAt) else none)
  match firstBadAt (fails ++ kinds) with
  | some b => .error b.found
  | none =>
    match allSome (oks.map (fun k => k.2.1)) with
    | some ls => .ok (some (ls.flatten, ((oks.map (fun k => k.2.2)).headD .rc)))
    | none => .ok none

/-- The location of a capsule's memory step, or its fault (R312). -/
def State.stepLocs (s : State) (v : View) (r : MemReq) : Except Found (List Loc) :=
  let l := r.lanes.headD ⟨0, 0, 0, 0⟩
  let bad : Found := .acc { code := Code.capAddr, addr := l.addr }
  match s.ownAccess (s.ctxOfWg v.g) r.op.need false l.addr r.size with
  | .error f => .error f
  | .ok none => .error bad
  | .ok (some p) => if l.addr.toNat % r.size ≠ 0 ∨ p.2 = .uo then .error bad else .ok p.1

/-- The body words that R140 and R309 allow: scalar words, forward branches on a scalar condition, WAITC and the memory steps. -/
def bodyForm (i : Instr) : Bool :=
  match i with
  | .sadd _ _ _ | .ssub _ _ _ | .smul _ _ _ | .smulh _ _ _ | .smulhu _ _ _ | .sand _ _ _ | .sor _ _ _ | .sxor _ _ _
  | .sshl _ _ _ | .sshr _ _ _ | .ssra _ _ _ | .smin _ _ _ | .smax _ _ _ | .sminu _ _ _ | .smaxu _ _ _ | .sslt _ _ _
  | .ssltu _ _ _ | .sdiv _ _ _ | .sdivu _ _ _ | .srem _ _ _ | .sremu _ _ _ | .sclz _ _ | .spopc _ _ | .sbrev _ _
  | .ssext _ _ _ | .szext _ _ _ | .saddi _ _ _ | .sandi _ _ _ | .sori _ _ _ | .sxori _ _ _ | .sshiShl _ _ _
  | .sshiShr _ _ _ | .sshiSra _ _ _ | .sshiRor _ _ _ | .smovk _ _ | .smovks _ _ | .waitc _ _ _
  | .kld _ _ _ | .kst _ _ _ | .kamo _ _ _ _ => true
  | .brcEqz _ off | .brcNez _ off | .brcLtz _ off | .brcGez _ off => decide (0 < off.toInt)
  | .jmp off => decide (0 < off.toInt)
  | _ => false

/-- Every scalar field names k0 to k7 (R106). -/
def bodyFields (i : Instr) : Bool :=
  ((uses i).reads ++ (uses i).writes).all (fun r => match r with
    | .s n => decide (n < 8)
    | _ => true)

def bodyWordOk (i : Instr) : Bool := bodyForm i && bodyFields i

/-- The memory steps (R309). -/
def isStep (i : Instr) : Bool :=
  match i with
  | .kld _ _ _ | .kst _ _ _ | .kamo _ _ _ _ => true
  | _ => false

/-- The offset of a branch of a body. -/
def bodyOffset (i : Instr) : Option Int :=
  match i with
  | .brcEqz _ off | .brcNez _ off | .brcLtz _ off | .brcGez _ off => some off.toInt
  | .jmp off => some off.toInt
  | _ => none

/-- A scanned body (R309): its words by address, its first group, its CAPEXIT group and the group after that. -/
structure CapBody where
  body : List (Dword × Word)
  entry : Dword
  exitAt : Dword
  exitNext : Dword
  /-- Where its words were read. -/
  locs : List Loc
deriving DecidableEq, Repr

/-- A scan under way. -/
structure Scan where
  pc : Dword
  locs : List Loc := []
  mem : Nat := 0
  bad : Option Nat := none
  /-- Branches: group number, address of their word's packet, offset in packets. -/
  branches : List (Nat × Dword × Int) := []
  body : List (Dword × Word) := []
  done : Bool := false
  next : Dword := 0
deriving DecidableEq, Repr

/-- Group idx of the body enters the scan (R309). -/
def Scan.group (t : Scan) (idx : Nat) (ws : List Word) : Scan :=
  let is := (decodeAll ws).filter (fun i => !isNop i)
  let next := t.pc + BitVec.ofNat 64 (4 * ws.length)
  let t := { t with body := t.body ++ ws.mapIdx (fun i w => (t.pc + BitVec.ofNat 64 (4 * i), w)), next := next }
  let flag (b : Bool) (t : Scan) : Scan := if b && t.bad.isNone then { t with bad := some idx } else t
  if is.contains (some .capexit) then { flag (is.length != 1) t with done := true }
  else
    match is with
    | [some i] =>
      let mem := t.mem + (if isStep i then 1 else 0)
      let t := flag (!bodyWordOk i || decide (4 < mem)) t
      { t with
        mem := mem
        branches := t.branches ++ (match bodyOffset i with
          | some off => [(idx, packetAddr t.pc, off)]
          | none => [])
        pc := next }
    | _ => { flag true t with pc := next }

/-- The groups of a body from number idx on, at most n of them (R309). A fetch that fails raises its fault, unless an earlier group
has already broken a condition. -/
def State.scanGroups (s : State) (c : Nat) (held : List (Dword × Word)) : Nat → Nat → Scan → Except Found Scan
  | 0, _, t => .ok t
  | n + 1, idx, t =>
    match s.fetchGroup c held t.pc with
    | .error e => if t.bad.isSome then .ok t else .error (s.codeFault c e)
    | .ok g =>
      let t := { t.group idx g.words with locs := t.locs ++ g.locs }
      if t.done then .ok t else s.scanGroups c held n (idx + 1) t

/-- Where the words that a scan reads lie, up to the first that cannot be fetched. -/
def State.scanReads (s : State) (c : Nat) (held : List (Dword × Word)) : Nat → Scan → List Loc
  | 0, t => t.locs
  | n + 1, t =>
    match s.fetchGroup c held t.pc with
    | .error _ => t.locs
    | .ok g =>
      let t := { t.group 0 g.words with locs := t.locs ++ g.locs }
      if t.done then t.locs else s.scanReads c held n t

/-- The first group that breaks a condition, branch ranges among them (R309). -/
def Scan.offender (t : Scan) : Option Nat :=
  if t.done then
    let exitPacket : Int := (packetAddr t.pc).toNat
    let far := (t.branches.find? (fun b =>
      let from_ : Int := b.2.1.toNat
      let target := from_ + 12 * b.2.2
      !(decide (from_ < target) && decide (target ≤ exitPacket)))).map Prod.fst
    match t.bad, far with
    | some a, some b => some (min a b)
    | some a, none => some a
    | none, b => b
  else some (t.bad.getD 16)

/-- CAP_BODY at a group of the scan (R309, R352). -/
def capBodyFault (n : Nat) (va : Dword) : Found := .issue { code := Code.capBody, detail := BitVec.ofNat 18 n, addr := va }

/-- The body at an address, or CAP_BODY (R309): what the core holds fetched of it, and else memory (R228). -/
def State.scanBody (s : State) (c core : Nat) (entry va : Dword) : Except Found CapBody :=
  match s.scanGroups c (s.heldWords core c) 17 0 { pc := entry } with
  | .error f => .error f
  | .ok t =>
    match t.offender with
    | some n => .error (capBodyFault n va)
    | none => .ok ⟨t.body, entry, t.pc, t.next, t.locs⟩

/-- A record that CAPENT accepts (R310): the canonical address of its first byte. What the record holds is looked at once the access may
be made; until then CAPENT waits. -/
def State.capTarget (s : State) (v : View) (va : Dword) : Except Found Nat :=
  let c := s.ctxOfWg v.g
  let bad : Found := .issue { code := Code.capRecord, addr := va }
  match s.ownAccess c .both true va 128 with
  | .error f => .error f
  | .ok none => .error bad
  | .ok (some p) =>
    match p.1 with
    | .phys r :: _ =>
      let ctl := s.capCtl r
      let holdsBad := !s.capReservedZero r || decide (3 < ctl.state) || (ctl.state != 0 && decide (16 < ctl.step))
      if va.toNat % 128 ≠ 0 ∨ p.2 = .uo ∨ (holdsBad && s.mayRead v (recLocs r 0 128)) = true then .error bad
      else .ok r
    | _ => .error bad

/-- The fragment is blocked on a record at its CAPENT, or has adopted its capsule and is still to be served itself (R310). -/
def Frag.contends (f : Frag) (r : Nat) : Bool :=
  f.capKept || (match f.wait with
    | some (.capent x _) => x == r
    | _ => false)

/-- An earlier contender for a record, whose team is resident, is to be served before the fragment (R310). -/
def State.capContended (s : State) (fid : Nat) (f : Frag) (r : Nat) : Bool :=
  s.frags.any (fun p => p.1 != fid && p.2.contends r &&
    (match p.2.capPlace with
      | some q => q.1 == r &&
          (match f.capPlace with
            | some mine => mine.1 != r || decide (q.2 < mine.2)
            | none => true)
      | none => false) &&
    (((s.warp? p.2.warp).bind (fun w => s.wg? w.wg)).bind (fun g => s.team? g.team)).any (fun t => t.state.goesOn))

/-- What CAPENT finds at issue (R309, R310, R316): its record, whether it may be served now, its own body, and the body it adopts. -/
structure CapFound where
  record : Nat
  va : Dword
  served : Bool
  own : CapBody
  adopt : Option CapBody
deriving DecidableEq, Repr

/-- CAPENT's checks (R309, R310, R316) after R45. An adopter's scan that cannot fetch raises the fetch check's fault (assumption log 104). -/
def State.capentCheck (s : State) (v : View) (a : BitVec 6) : Except Found CapFound :=
  let c := s.ctxOfWg v.g
  let va := v.s a.toNat
  match s.capTarget v va with
  | .error f => .error f
  | .ok r =>
    let beside := match s.fetchGroup c (s.bodyOf v.fid v.f v.w) v.i.pc with
      | .ok g => ((decodeAll g.words).filter (fun i => !isNop i)).length != 1
      | .error _ => false
    if beside then .error (capBodyFault 31 va)
    else
      match s.scanBody c v.g.core v.nextGroup va with
      | .error f => .error f
      | .ok own =>
        let ctl := s.capCtl r
        let served := (ctl.state == 0 || ctl.state == 2) && !s.capContended v.fid v.f r && s.mayRead v (recLocs r 0 128)
        if served && ctl.state == 2 then
          match s.scanBody c v.g.core (s.capEntry r) va with
          | .error f => .error f
          | .ok b => .ok ⟨r, va, true, own, some b⟩
        else .ok ⟨r, va, served, own, none⟩

end Sys2Proof.Machine
end

