-- ==== Sys2Proof/Machine/Checks.lean ====
section
/-! DEFINITION. The checks of a word at issue, in the order in which they are decided (R92, R353): whether the form is legal where it
stands, SPLIT_SCALAR, FMT values, jump targets, ownership, descriptors and records, and the accesses of scalar memory words and
engine commands; and CHECK's SCOREBOARD (R98, R102). A word's meaning begins with `word`, which makes them. -/

namespace Sys2Proof.Machine

/-- The forms that a trap handler may not hold (R128, R213, R256, R324). -/
def handlerIllegal (i : Instr) : Bool :=
  match i with
  | .brcSplit _ _ | .regang | .bar | .tbar | .mxacq | .mxwait _ | .msma _ | .bform _ | .bjoin _ | .launch _ _ | .lwait _ => true
  | _ => false

/-- The forms legal inside a capsule body (R140, R309, R314). -/
def bodyLegal (i : Instr) : Bool := i == .capexit || i == .nop || bodyWordOk i

/-- The forms legal only inside a capsule body (R312, R314). -/
def bodyOnly (i : Instr) : Bool := i == .capexit || isStep i

/-- The word writes a register mapped as a queue (R137). -/
def writesQueue (w : Warp) (i : Instr) : Bool :=
  (uses i).writes.any (fun r => match r with
    | .v n => mapped w n
    | _ => false)

/-- The queues whose mapped registers the word reads, each once (R104, R145, R282). -/
def popsOf (w : Warp) (i : Instr) : List Nat :=
  ((uses i).reads.filterMap (fun r => match r with
    | .v n => if mapped w n then some (n - 56) else none
    | _ => none)).eraseDups

/-- SETCR names a register that it may write (R135, R327). -/
def crWritable (n : Nat) : Bool := wgWritable n || ownWritable n

/-- ILLEGAL_OP for a well-formed word (R109, R128, R135, R137, R148, R213, R256, R309, R312, R314, R322, R324). -/
def State.illegalHere (s : State) (v : View) (i : Instr) : Bool :=
  (v.inBody && !bodyLegal i) || (!v.inBody && bodyOnly i) || (v.f.hnd && handlerIllegal i) || writesQueue v.w i ||
    (match i with
      | .getcr _ num => (s.readCr v num.toNat).isNone
      | .setcr _ num => !crWritable num.toNat
      | .qpush _ _ => !v.inPlaner
      | .kmovk _ _ => v.f.hnd && v.f.tsave1.getLsbD 6
      | .capent _ => v.w.capsule.isSome
      | .tret => !v.f.hnd
      | _ => false)

/-- SPLIT_SCALAR's DETAIL for a word that writes shared state (R45, R117, R308, R352). -/
def splitDetail (v : View) (i : Instr) : Option (BitVec 18) :=
  if v.inBody then none
  else
    match i with
    | .capent _ => some 0x3000#18
    | .kmovk d _ => some (0x2000#18 ||| d.zeroExtend 18)
    | .sqmap _ => some 0x1018#18
    | .setcr _ num => if num = 0x011#12 then some 0x1011#18 else none
    | _ => (uses i).writes.findSome? (fun r => match r with
        | .s n => if n < 48 then some (BitVec.ofNat 18 n) else none
        | _ => none)

/-- SPLIT_SCALAR (R45). -/
def State.splitFault (s : State) (v : View) (i : Instr) : Option Found :=
  match splitDetail v i with
  | some d => faultIf (decide (1 < (s.fragsOf v.wid).length)) (.issue { code := Code.splitScalar, detail := d })
  | none => none

/-- The memory request of a scalar memory word or a SYNC form that names an address. -/
def View.scalarMem (v : View) (i : Instr) : Option MemReq :=
  match i with
  | .sld t a off sz ord => some (v.scalarReq t a off sz ord false)
  | .sst t a off sz ord => some (v.scalarReq t a off sz ord true)
  | .amoAdd d a ord sz sc => some (v.amoReq 0 d a ord sz sc)
  | .amoAnd d a ord sz sc => some (v.amoReq 1 d a ord sz sc)
  | .amoOr d a ord sz sc => some (v.amoReq 2 d a ord sz sc)
  | .amoXor d a ord sz sc => some (v.amoReq 3 d a ord sz sc)
  | .amoMin d a ord sz sc => some (v.amoReq 4 d a ord sz sc)
  | .amoMax d a ord sz sc => some (v.amoReq 5 d a ord sz sc)
  | .amoMinu d a ord sz sc => some (v.amoReq 6 d a ord sz sc)
  | .amoMaxu d a ord sz sc => some (v.amoReq 7 d a ord sz sc)
  | .amoXchg d a ord sz sc => some (v.amoReq 8 d a ord sz sc)
  | .amoCas d a ord sz sc => some (v.amoReq 9 d a ord sz sc)
  | .amoFadd32 d a ord sc => some (v.amoReq 10 d a ord 2 sc)
  | .amoFadd16x2 d a ord sc => some (v.amoReq 11 d a ord 2 sc)
  | .amoFmin32 d a ord sc => some (v.amoReq 12 d a ord 2 sc)
  | .amoFmax32 d a ord sc => some (v.amoReq 13 d a ord 2 sc)
  | .arrive a b => some (v.wordReq a (.arrive (v.low32 b)) 16 .none true)
  | .ainit a b => some (v.wordReq a (.ainit (v.low32 b)) 16 .none false)
  | .feset val a b => some (v.wordReq a (.feset (val == 1#1) (v.low32 b)) 4 .none false)
  | .fetest d a => some (v.wordReq a .fetest 4 (.scal d.toNat) false)
  | _ => none

/-- The memory request of a word that makes accesses by the memory pipe, a replay among them (R215, R219, R356). -/
def View.memReq (v : View) (i : Instr) : Option MemReq :=
  match i with
  | .vld t a off sz ord => some (v.globalReq t sz ord (v.rowAddr a off sz) false)
  | .vst t a off sz ord => some (v.globalReq t sz ord (v.rowAddr a off sz) true)
  | .vldg t a off sz ord => some (v.globalReq t sz ord (v.indexAddr a off sz) false)
  | .vsts t a off sz ord => some (v.globalReq t sz ord (v.indexAddr a off sz) true)
  | .bld t a off sz ord => some (v.benchReq t sz ord (v.rowAddr a off sz) false)
  | .bst t a off sz ord => some (v.benchReq t sz ord (v.rowAddr a off sz) true)
  | .bldg t a off sz ord => some (v.benchReq t sz ord (v.indexAddr a off sz) false)
  | .bsts t a off sz ord => some (v.benchReq t sz ord (v.indexAddr a off sz) true)
  | .vamoAdd d a ord sz sc => some (v.vamoReq 0 d a ord sz sc)
  | .vamoAnd d a ord sz sc => some (v.vamoReq 1 d a ord sz sc)
  | .vamoOr d a ord sz sc => some (v.vamoReq 2 d a ord sz sc)
  | .vamoXor d a ord sz sc => some (v.vamoReq 3 d a ord sz sc)
  | .vamoMin d a ord sz sc => some (v.vamoReq 4 d a ord sz sc)
  | .vamoMax d a ord sz sc => some (v.vamoReq 5 d a ord sz sc)
  | .vamoMinu d a ord sz sc => some (v.vamoReq 6 d a ord sz sc)
  | .vamoMaxu d a ord sz sc => some (v.vamoReq 7 d a ord sz sc)
  | .vamoXchg d a ord sz sc => some (v.vamoReq 8 d a ord sz sc)
  | .vamoCas d a ord sz sc => some (v.vamoReq 9 d a ord sz sc)
  | .vamoFadd32 d a ord sc => some (v.vamoReq 10 d a ord 2 sc)
  | .vamoFadd16x2 d a ord sc => some (v.vamoReq 11 d a ord 2 sc)
  | .vamoFmin32 d a ord sc => some (v.vamoReq 12 d a ord 2 sc)
  | .vamoFmax32 d a ord sc => some (v.vamoReq 13 d a ord 2 sc)
  | .tret =>
    if v.f.tsave1.getLsbD 2 then
      v.f.replay.map (fun p => { p.req with lanes := p.req.lanes.filter (fun l => v.active.has l.lane && v.f.faultmask.getLsbD l.lane) })
    else none
  | i => v.scalarMem i

/-- A memory step of a capsule (R312). -/
def View.stepMem (v : View) (i : Instr) : Option MemReq :=
  match i with
  | .kld d a sz => some (v.stepReq .load d a (szBytes sz))
  | .kst d a sz => some (v.stepReq .store d a (szBytes sz))
  | .kamo d a sz fn => some (v.stepReq (.amo fn) d a (if sz = 1#1 then 8 else 4))
  | _ => none

/-- A bench address in the team form (R183). -/
def State.teamForm (s : State) (v : View) (a : Dword) : Dword :=
  match s.benchPlace v.gid v.g a with
  | some p => BitVec.ofNat 64 (2 ^ 22 + p.2.1.member * 2 ^ 19 + p.2.2)
  | none => a

/-- The faults of a scalar memory word's access (R211, R212, R225). -/
def State.scalarMemFault (s : State) (v : View) (i : Instr) : Option Found :=
  match v.scalarMem i with
  | none => none
  | some r =>
    let k := s.check v.gid v.g v.active r
    match k.trap with
    | some t => some (.acc t)
    | none =>
      match i with
      | .arrive a _ =>
        let l := ((k.pass.headD ⟨0, [], .rc, 0, 0, 0, 0⟩).locs.headD (.phys 0))
        faultIf (!s.arrivalReady l && s.ownMayPerform s.serial (ownAccessOf v.wid v.active r.op false true .rc (k.pass.flatMap LaneAcc.locs)))
          (.acc { code := Code.arrivalUninit, addr := s.teamForm v (BitVec.ofNat 64 (v.low32 a)) })
      | _ => none

/-- AWAIT's address checks (R211, R222). -/
def State.awaitFault (s : State) (v : View) (a : BitVec 6) : Option Found :=
  let x := BitVec.ofNat 64 (v.low32 a)
  match s.benchAccess v.gid v.g x 16 16 with
  | .error b => some (.acc (b.trap x))
  | .ok _ => none

/-- The eight words of a launch record. -/
def State.recordWords (s : State) (ls : List Loc) : RecordWords :=
  (List.range 8).map (fun i => BitVec.ofNat 64 (s.readLocs ((ls.drop (8 * i)).take 8)))

/-- The depth of a workgroup's grid and the class and queue it has (R35, R36). -/
def State.gridOf (s : State) (g : Wg) : Option Grid := s.grid? (s.gridOfWg g)

/-- LAUNCH's record at an address: its words, or the fault (R323). -/
def State.launchRecord (s : State) (v : View) (a : Dword) : Except Found (RecordWords × List Loc) :=
  let bad : Found := .issue { code := Code.launchRecord, addr := a }
  if a.toNat % 64 ≠ 0 then .error bad
  else
    match s.granuleCheck (s.ctxOfWg v.g) v.g true (some .read) a 64 with
    | .error b => .error (.acc { code := b.code, detail := b.detail, addr := a })
    | .ok k =>
      let r := s.recordWords k.locs
      let gr := s.gridOf v.g
      let evs := ((gr.map (fun g => (s.queue g.queue).evcount.toNat)).getD 0)
      if !s.mayRead v k.locs || recChildValid r evs ((gr.map Grid.cls).getD 0) then .ok (r, k.locs) else .error bad

/-- LAUNCH at issue (R36, R323). -/
def State.launchFault (s : State) (v : View) (a : BitVec 6) : Option Found :=
  if v.g.member ≠ 0 then some (plainFault Code.launchNotLeader)
  else if ((s.gridOf v.g).map Grid.depth).getD 1 = 10 then some (plainFault Code.launchDepth)
  else
    match s.launchRecord v (v.s a.toNat) with
    | .error f => some f
    | .ok _ => none

/-- EXIT of a warp's last fragment while its engine is in a bond (R268). -/
def State.exitFault (s : State) (v : View) : Option Found :=
  faultIf (decide ((s.fragsOf v.wid).length ≤ 1) && s.ownsEngine v && ((s.bondOf v.g.core).isSome || s.bondPending v.g.core))
    (plainFault Code.bondLive)

/-- A jump target that is no multiple of 4 (R91, R126). -/
def View.jumpFault (v : View) (a : BitVec 6) : Option Found :=
  faultIf ((v.s a.toNat).toNat % 4 != 0) (.issue { code := Code.pcAlign, addr := v.s a.toNat })

/-- A tag operand of 0 (R258, R259). -/
def View.tagFault (v : View) (i : Instr) (sa : BitVec 6) : Option Found := faultIf (bitsAt (v.s sa.toNat) 0 8 == 0) (engDesc i)

/-- The checks of a word's own entry. -/
def State.ownFault (s : State) (v : View) (i : Instr) : Option Found :=
  let fmtBad (x : Dword) : Option Found := faultIf (!fmtOk (x.setWidth 32) false) (plainFault Code.illegalFmt)
  match i with
  | .setfmt a => fmtBad (v.s a.toNat)
  | .setcr d num => if num = 0#12 then fmtBad (v.s d.toNat) else none
  | .setrm m => faultIf (m == 0#3 || decide (5#3 < m)) (plainFault Code.illegalFmt)
  | .jmpr a | .callr a | .ret a => v.jumpFault a
  | .await a _ => s.awaitFault v a
  | .kld _ _ _ | .kst _ _ _ | .kamo _ _ _ _ =>
    (match v.stepMem i with
      | some r => (match s.stepLocs v r with
        | .error f => some f
        | .ok _ => none)
      | none => none)
  | .capent a => (match s.capentCheck v a with
      | .error f => some f
      | .ok _ => none)
  | .tcopy sa sb _ _ _ hold => s.copyFault v i sa sb hold false
  | .tcopym sa sb _ _ _ hold => s.copyFault v i sa sb hold true
  | .mxldb sa sb _ _ hold => s.mxldbFault v i sa sb hold
  | .mxop sa sb _ _ hold => s.mxopFault v i sa sb hold
  | .mxwait sa => State.mxwaitFault v i sa
  | .mxrel => s.mxrelFault v
  | .bform sa => s.bformFault v i sa
  | .bjoin sa => s.bjoinFault v i sa
  | .bbrk => s.leaseFault v
  | .msma sa => State.msmaFault v sa
  | .msmrd sa sb _ _ hold => State.msmrdFault v i sa sb hold
  | .plngo sa _ => (match s.plngoCheck v i sa with
      | .error f => some f
      | .ok _ => none)
  | .coll sa sb _ _ _ hold => s.collFault v i sa sb hold
  | .cbulk sa sb _ _ _ hold => s.bulkFault v i sa sb hold
  | .compact sa sb _ _ _ hold => s.compactFault v i sa sb hold
  | .epoll sa _ | .ecancel sa _ => v.tagFault i sa
  | .tret => faultIf v.f.badStatus (plainFault Code.trapStatus)
  | .launch _ a => s.launchFault v a
  | .lwait a => faultIf (decide (v.g.launchSeq < (v.s a.toNat).toNat)) (plainFault Code.launchHandle)
  | .exit => s.exitFault v
  | .brkpt num => faultIf (v.g.ctl.getLsbD 1) (.issue { code := Code.breakpoint, detail := num })
  | _ => s.scalarMemFault v i

/-- QUEUE_OWNER: a mapped register read by a warp whose workgroup does not own the slot (R282). -/
def State.queueFault (s : State) (v : View) (i : Instr) : Option Found :=
  faultIf (!(popsOf v.w i).isEmpty && (s.core v.g.core).planerWg != some v.gid) (plainFault Code.queueOwner)

/-- The issue-class fault of a word, the first in order (R353). -/
def State.wordTrap (s : State) (v : View) (i : Instr) : Option Found :=
  firstFault [faultIf (s.illegalHere v i) (illegalOp i), s.splitFault v i, s.queueFault v i, s.ownFault v i]

/-! ### CHECK -/

/-- The register that a pending write writes. -/
def PendVal.reg : PendVal → Reg
  | .vec n _ => .v n
  | .scal n _ => .s n
  | .mask n _ _ => .m n
  | .kreg n _ => .k n
  | .fmt _ => .fmt
  | .fstat _ => .fstat
  | .flags _ => .fstat
  | .qmap _ => .qmap
  | .ctl n _ => .cr n
  | .carried n _ => .v n

/-- SCOREBOARD's DETAIL for a register (R352); none for a register that it cannot name. -/
def scoreboardDetail (r : Reg) : Option (BitVec 18) :=
  match r with
  | .v n => some (BitVec.ofNat 18 n)
  | .s n => some (BitVec.ofNat 18 (0x40 + n))
  | .m n => some (BitVec.ofNat 18 (0x80 + n))
  | .fstat => some 0xC0#18
  | .k n => some (BitVec.ofNat 18 (0x100 + n))
  | .fmt => some 0x200#18
  | .qmap => some 0x300#18
  | .cr _ => none

/-- A register field as it is read here: a scalar field of a body names a k register (R106). -/
def View.reg (v : View) (r : Reg) : Reg :=
  match r with
  | .s n => if v.inBody then .k n else .s n
  | r => r

/-- A word reads r too early under CHECK (R98, R102). -/
def View.earlyRead (v : View) (r : Reg) : Bool :=
  v.f.uncovered.any (fun p => p.2 == r) || v.f.pend.any (fun p => p.val.reg == r && decide (v.t < p.vis))

/-- A word writes r too early under CHECK (R98, R102): a SETCR of FSTAT also where a contribution of flags becomes visible later, though a
word that contributes flags is no writer of FSTAT (R82, R92; assumption log 20). -/
def View.earlyWrite (v : View) (lat : Nat) (r : Reg) : Bool :=
  v.f.uncovered.any (fun p => p.2 == r) ||
    (decide (0 < lat) && v.f.pend.any (fun p => p.val.reg == r && decide (v.t + lat < p.vis)))

/-- SCOREBOARD (R98, R102), which CTL.CHECK enables; the planer is not checked (R280) and a queue read never raises it. -/
def View.scoreboard (v : View) (i : Instr) : Option Found :=
  if v.g.ctl.getLsbD 0 && !v.inPlaner then
    let u := uses i
    let reads := (u.reads.filter (fun r => match r with
      | .v n => !mapped v.w n
      | _ => true)).map v.reg
    let bad := (reads.find? v.earlyRead).orElse (fun _ => (u.writes.map v.reg).find? (v.earlyWrite u.lat))
    (bad.bind scoreboardDetail).map (fun d => .issue { code := Code.scoreboard, detail := d })
  else none

/-! ### A word's meaning -/

/-- An issue-class trap of the word being executed: its group has no effect (R351). A CAPENT that faults loses its place (R310). -/
def State.raiseIssue (s : State) (v : View) (i : Instr) (t : Trap) : State :=
  let s := match i with
    | .capent _ => s.modFrag v.fid (fun f => { f with capPlace := none, capKept := false })
    | _ => s
  (s.takeTrap v.fid { t with word := v.i.word } v.i.pc none false).modIssue (fun x => { x with trapped := true })

/-- A word of the group being issued: its trap, or its effect (R93, R353). -/
def word (i : Instr) (s : State) (eff : View → State → State) : Host.Outcome State Fault Refusal :=
  match s.view? with
  | none => .fault (if s.issue.isNone then .noIssuingGroup else .noSuchUnit)
  | some v =>
    match s.wordTrap v i with
    | some f => .next (s.raiseIssue v i f.trap)
    | none => .next (eff v s)

end Sys2Proof.Machine
end

