-- ==== Sys2Proof/Machine/LoadStore.lean ====
section
/-! DEFINITION. Issuing a memory word (R100, R209 to R212, R355, R365) and the ten loads and stores (R215 to R218). -/

namespace Sys2Proof.Machine

/-- The checks of a memory word; a planer's bench address has the own form (R211, R279). -/
def State.checkWord (s : State) (v : View) (r : MemReq) : Checked :=
  gatherLanes (fun l =>
    if v.inPlaner && r.bench && decide (2 ^ 19 ≤ l.addr.toNat) then .error { code := Code.benchRange, addr := l.addr }
    else s.laneCheck v.gid v.g v.active r l) (s.laneClass v.g r) r.lanes

/-- The operation that a request becomes once its lanes are checked. -/
def View.op (v : View) (c : Nat) (r : MemReq) (k : Checked) : Op :=
  { warp := v.wid, wg := v.gid, ctx := c, active := v.active, op := r.op, size := r.size, dest := r.dest, acq := r.acq,
    rel := r.rel, scope := r.scope.getD (k.scope.max r.least), lanes := k.pass }

/-- A memory word issues (R209, R212): its lanes without a fault become an operation, its lanes with one a partial-class trap that
follows the group. A waiting mode blocks its fragment until its last lane completes, and is a visibility point (R96, R218). A
request that names a lost die makes the context dead before it is sent (R372). A word without lanes, which is FESET with a count of 0, is an
operation all the same: it enters SC and changes nothing (R100, R222, R230). -/
def State.issueMem (s : State) (v : View) (r : MemReq) : State :=
  let k := s.checkWord v r
  let c := s.ctxOfWg v.g
  let failed := Lanes.ofPred (fun i => k.failed.any (fun l => l.lane == i))
  let part (s : State) : State := match k.trap with
    | some t => s.modIssue (fun i => { i with
        partialReq := some ({ t with word := v.i.word }, { r with lanes := k.failed, least := k.scope.max r.least }, failed) })
    | none => s
  if s.namesLost (k.pass.flatMap LaneAcc.locs) then s.dieOfRequest c (k.pass.flatMap LaneAcc.locs)
  else if k.pass.isEmpty && !k.failed.isEmpty then part s
  else
    let p := s.addOp v.fid v.g.core (v.op c r k) (r.dest.regs r.size)
    let s := part p.2
    if r.op.waits then s.modIssue (fun i => { i with wait := some (.tag p.1), visible := true }) else s

/-- SLD (R215, R216). -/
def execSld (t a off : BitVec 6) (sz ord : BitVec 2) (s : State) :=
  word (.sld t a off sz ord) s (fun v s => s.issueMem v (v.scalarReq t a off sz ord false))
/-- SST (R215, R216). -/
def execSst (t a off : BitVec 6) (sz ord : BitVec 2) (s : State) :=
  word (.sst t a off sz ord) s (fun v s => s.issueMem v (v.scalarReq t a off sz ord true))
/-- VLD (R215, R216). -/
def execVld (t a off : BitVec 6) (sz ord : BitVec 2) (s : State) :=
  word (.vld t a off sz ord) s (fun v s => s.issueMem v (v.globalReq t sz ord (v.rowAddr a off sz) false))
/-- VST (R215, R216). -/
def execVst (t a off : BitVec 6) (sz ord : BitVec 2) (s : State) :=
  word (.vst t a off sz ord) s (fun v s => s.issueMem v (v.globalReq t sz ord (v.rowAddr a off sz) true))
/-- VLDG (R215, R216). -/
def execVldg (t a off : BitVec 6) (sz ord : BitVec 2) (s : State) :=
  word (.vldg t a off sz ord) s (fun v s => s.issueMem v (v.globalReq t sz ord (v.indexAddr a off sz) false))
/-- VSTS (R215 to R217). -/
def execVsts (t a off : BitVec 6) (sz ord : BitVec 2) (s : State) :=
  word (.vsts t a off sz ord) s (fun v s => s.issueMem v (v.globalReq t sz ord (v.indexAddr a off sz) true))
/-- BLD, plain, LDF or LDFE (R185, R215, R216, R218). -/
def execBld (t a off : BitVec 6) (sz ord : BitVec 2) (s : State) :=
  word (.bld t a off sz ord) s (fun v s => s.issueMem v (v.benchReq t sz ord (v.rowAddr a off sz) false))
/-- BST, plain, STEF or STF (R185, R215, R216, R218). -/
def execBst (t a off : BitVec 6) (sz ord : BitVec 2) (s : State) :=
  word (.bst t a off sz ord) s (fun v s => s.issueMem v (v.benchReq t sz ord (v.rowAddr a off sz) true))
/-- BLDG (R185, R215, R216, R218). -/
def execBldg (t a off : BitVec 6) (sz ord : BitVec 2) (s : State) :=
  word (.bldg t a off sz ord) s (fun v s => s.issueMem v (v.benchReq t sz ord (v.indexAddr a off sz) false))
/-- BSTS (R185, R215 to R218). -/
def execBsts (t a off : BitVec 6) (sz ord : BitVec 2) (s : State) :=
  word (.bsts t a off sz ord) s (fun v s => s.issueMem v (v.benchReq t sz ord (v.indexAddr a off sz) true))

end Sys2Proof.Machine
end

