-- ==== Sys2Proof/Machine/Sync.lean ====
section
/-! DEFINITION. SYNC: fences, barriers, arrival words, instruction flush, the timebase and tag words (R222 to R230). -/

namespace Sys2Proof.Machine

/-- The FENCE acquires what its lanes have read (R239). -/
def State.fenceTrail (s : State) (id : Nat) (f : FenceRec) (t : Trail) : Trail :=
  t.add ((t.seen.filter (fun x => x.early.isNone && x.warp == f.warp && (f.active &&& x.part.who) != 0 && (f.uo || !x.part.isUO) &&
    x.from_.any (fun g => s.covers f.scope g x.wg))).map (fun x => fenceAt x.warp x.wg (f.active &&& x.part.who) id))

/-- A FENCE.CODE stands behind the stores of its lanes that are left behind, and behind those that have changed packets held as they once stood
(R228). -/
def State.fenceCode (s : State) (wg id : Nat) (f : FenceRec) : State :=
  if !f.code then s
  else
    let root (lanes : Lanes) : List Past := if (f.active &&& lanes) != 0 then [fenceAt f.warp wg (f.active &&& lanes) id] else []
    { s with
      debts := s.debts.map (fun d => if d.acc.warp == f.warp then { d with code := d.code.add (d.acc.lanes.flatMap (fun l => root l.who)) } else d)
      old := s.old.map (fun p => { p with changes := p.changes.map (fun c =>
        if c.warp == f.warp then { c with trail := c.trail.add (root c.lanes) } else c) }) }

/-- A FENCE is recorded while earlier operations of its lanes are outstanding (R223): it orders later operations and commands of
those lanes after them. It acquires and releases (R238 to R240). -/
def State.putFence (s : State) (v : View) (uo code : Bool) (scope : BitVec 2) : State :=
  let n := s.fresh
  let f : FenceRec := ⟨v.wid, v.active, uo, Scope.ofCode scope, code⟩
  let s : State := { n.2 with fences := Table.set n.2.fences n.1 f }
  ((s.mapTrails (s.fenceTrail n.1 f)).fenceCode v.gid n.1 f).dropFences

/-- The word is a visibility point after which its fragment waits (R54, R96). -/
def State.block (s : State) (w : Wait) : State := s.modIssue (fun i => { i with wait := some w, visible := true })

/-- IFLUSH on a core for a context (R228, R301, R302): its configuration is invalidated, its refusal marks and heats are cleared. What is
counted from then on stays. -/
def State.jigFlush (s : State) (core ctx : Nat) : State :=
  (s.jigInvalidate core (some ctx)).modCore core (fun c => { c with
    loops := c.loops.map (fun l => if l.ctx = ctx then { l with heat := 0, refused := none } else l) })

/-- What a core holds fetched for a context is discarded, and the issuing fragment's later groups are fetched anew (R228). The packet that
another fragment is in stays as it fetched it: each packet is wholly old or wholly new. -/
def State.dropFetched (s : State) (fid core ctx : Nat) : State :=
  ({ s with packets := s.packets.filter (fun p => !(p.core == core && p.ctx == ctx)) } : State).modFrag fid (fun f => { f with packet := [] })

/-- Lanes of a warp come after what a trail is of. -/
def Trail.has (t : Trail) (warp : Nat) (lanes : Lanes) : Bool :=
  t.after.any (fun e => e.early.isNone && e.op.warp == warp && e.op.lanes.any (fun l => (l.who &&& lanes) != 0))

/-- Lanes that have acquired what was released after a FENCE.CODE execute IFLUSH: they fetch no packet as it stood before the stores in front of that
(R228). -/
def State.flushOld (s : State) (warp ctx : Nat) (lanes : Lanes) : State :=
  { s with old := s.old.map (fun p =>
      if p.ctx == ctx && p.changes.any (fun c => c.trail.has warp lanes) then { p with flushed := (warp, lanes) :: p.flushed } else p) }

/-- FENCE (R223). -/
def execFence (uo : BitVec 1) (scope : BitVec 2) (s : State) :=
  word (.fence uo scope) s (fun v s => s.putFence v (uo == 1#1) false scope)
/-- BAR (R224). -/
def execBar (s : State) := word .bar s (fun v s => s.block (.bar v.g.barrier))
/-- TBAR (R224). -/
def execTbar (s : State) := word .tbar s (fun v s => s.block (.tbar (((s.team? v.g.team).map Team.barrier).getD 0)))
/-- ARRIVE (R225). -/
def execArrive (a b : BitVec 6) (s : State) :=
  word (.arrive a b) s (fun v s => s.issueMem v (v.wordReq a (.arrive (v.low32 b)) 16 .none true))
/-- AWAIT (R190, R226). -/
def execAwait (a b : BitVec 6) (s : State) :=
  word (.await a b) s (fun v s =>
    match s.benchPlace v.gid v.g (BitVec.ofNat 64 (v.low32 a)) with
    | some p => s.block (.await (.bench p.1 p.2.2) (BitVec.ofNat 32 (v.low32 b)))
    | none => s)
/-- AINIT (R227). -/
def execAinit (a b : BitVec 6) (s : State) :=
  word (.ainit a b) s (fun v s => s.issueMem v (v.wordReq a (.ainit (v.low32 b)) 16 .none false))
/-- FENCE.CODE (R228): a FENCE with UO, and what orders its lanes' stores before a fetch that comes after an IFLUSH. -/
def execFenceCode (scope : BitVec 2) (s : State) := word (.fenceCode scope) s (fun v s => s.putFence v true true scope)
/-- IFLUSH (R228, R301, R302). It issues once nothing that its lanes have acquired or will acquire before it is outstanding (State.flushShort). -/
def execIflush (s : State) :=
  word .iflush s (fun v s =>
    ((s.jigFlush v.g.core (s.ctxOfWg v.g)).dropFetched v.fid v.g.core (s.ctxOfWg v.g)).flushOld v.wid (s.ctxOfWg v.g) v.active)
/-- TSREAD (R229). -/
def execTsread (d : BitVec 6) (s : State) :=
  word (.tsread d) s (fun v s =>
    (s.addOp v.fid v.g.core
      { warp := v.wid, wg := v.gid, ctx := s.ctxOfWg v.g, active := v.active, op := .tsread, size := 8, dest := .scal d.toNat,
        acq := false, rel := false, scope := .wg, lanes := [⟨v.active.low, [], .rc, 0, 0, v.active, 0⟩] } [.s d.toNat]).2)
/-- FESET (R230). -/
def execFeset (val : BitVec 1) (a b : BitVec 6) (s : State) :=
  word (.feset val a b) s (fun v s => s.issueMem v (v.wordReq a (.feset (val == 1#1) (v.low32 b)) 4 .none false))
/-- FETEST (R230). -/
def execFetest (d a : BitVec 6) (s : State) :=
  word (.fetest d a) s (fun v s => s.issueMem v (v.wordReq a .fetest 4 (.scal d.toNat) false))

end Sys2Proof.Machine
end

