-- ==== Sys2Proof/Machine/Capsules.lean ====
section
/-! DEFINITION. The capsule instructions (R307 to R317): entering and adopting, the memory steps, leaving, and the moves between s
and k. -/

namespace Sys2Proof.Machine

/-- A fragment's place among those that attempt something in one tick (R282, R310): lower warp slot, then lower lowest active lane. -/
def State.orderNow (s : State) (v : View) : Nat := s.tick * 2048 + v.w.slot * 64 + v.active.low

/-- A grant or an adoption is an access of its lanes to the record, and an acquire of its commits (R233, R313). -/
def State.grantOf (s : State) (v : View) (r : Nat) : State :=
  (s.acquireRecord v.wid v.gid v.active r).dropEarlyAt v.wid v.active (recLocs r 0 128)

/-- The grant of a free record (R310). -/
def State.capGrant (s : State) (v : View) (f : CapFound) : State :=
  let ctl := s.capCtl f.record
  let s := s.grantOf v f.record
  let s := ((s.setCapCtl f.record ⟨v.w.capid, 1, 0, ctl.gen + 1⟩).setKsnap f.record v.w.k).setCapEntry f.record f.own.entry
  let cap : Capsule :=
    { record := f.record, va := f.va, gen := ctl.gen + 1, adopting := false, body := f.own.body, entry := f.own.entry,
      exitAt := f.own.exitAt, exitNext := f.own.exitNext, first := 0, ks := v.w.k, frag := v.fid, hnd := v.f.hnd }
  let s := s.modWarp v.wid (fun w => { w with capsule := some cap })
  (s.modFrag v.fid (fun f => { f with capPlace := none, capKept := false })).modIssue (fun i => { i with visible := true })

/-- The adoption of a displaced capsule (R316): the fragment runs the steps from ENTRY and keeps its place. -/
def State.capAdopt (s : State) (v : View) (f : CapFound) (b : CapBody) : State :=
  let ctl := s.capCtl f.record
  let ks := s.ksnap f.record
  let place := match v.f.capPlace with
    | some p => if p.1 = f.record then p else (f.record, s.orderNow v)
    | none => (f.record, s.orderNow v)
  let s := (s.grantOf v f.record).setCapCtl f.record { ctl with state := 3 }
  let cap : Capsule :=
    { record := f.record, va := f.va, gen := ctl.gen, adopting := true, body := b.body, entry := b.entry, exitAt := b.exitAt,
      exitNext := b.exitNext, first := ctl.step, ks := ks, frag := v.fid, hnd := v.f.hnd, ownPc := v.i.pc, savedK := v.w.k }
  let s := s.modWarp v.wid (fun w => { w with k := ks, capsule := some cap })
  (s.modFrag v.fid (fun f => { f with capPlace := some place, capKept := true })).modIssue (fun i => { i with ctl := .goto b.entry, visible := true })

/-- CAPENT once its checks have passed (R310): served at the home unit, or waiting. It requests its record and the bodies that it reads
(R21, R309). -/
def State.capEnter (s : State) (v : View) (f : CapFound) : State :=
  let ls := recLocs f.record 0 128 ++ f.own.locs ++ ((f.adopt.map CapBody.locs).getD [])
  if s.namesLost ls then s.dieOfRequest (s.ctxOfWg v.g) ls
  else
    let s := s.markDies (s.ctxOfWg v.g) (s.dieBitsOf ls)
    if !f.served then s.modIssue (fun i => { i with wait := some (.capent f.record (s.capWord f.record)) })
    else match f.adopt with
      | some b => s.capAdopt v f b
      | none => s.capGrant v f

/-- A memory step issues (R311, R312): it performs its access when it commits. -/
def State.issueStep (s : State) (v : View) (r : MemReq) : State :=
  match s.stepLocs v r with
  | .error _ => s
  | .ok ls =>
    if s.namesLost ls then s.dieOfRequest (s.ctxOfWg v.g) ls
    else
      let n := (s.markDies (s.ctxOfWg v.g) (s.dieBitsOf ls)).fresh
      let s := n.2.modFrag v.fid (fun f =>
        let f := { f with uncovered := f.uncovered ++ (r.dest.regs 0).map (fun x => (n.1, x)) }
        if r.op.inLC then { f with lc := f.lc.enter n.1 } else { f with sc := f.sc.enter n.1 })
      s.modIssue (fun i => { i with kmem := some (r, ls, n.1) })

/-- CAPENT (R309, R310, R316). -/
def execCapent (a : BitVec 6) (s : State) :=
  word (.capent a) s (fun v s => match s.capentCheck v a with
    | .ok f => s.capEnter v f
    | .error _ => s)
/-- CAPEXIT (R314): it waits until every step has committed. -/
def execCapexit (s : State) := word .capexit s (fun _ s => s.modIssue (fun i => { i with ctl := .capexit, visible := true }))
/-- KLD (R312). -/
def execKld (d a : BitVec 3) (sz : BitVec 2) (s : State) :=
  word (.kld d a sz) s (fun v s => s.issueStep v (v.stepReq .load d a (szBytes sz)))
/-- KST (R312). -/
def execKst (d a : BitVec 3) (sz : BitVec 2) (s : State) :=
  word (.kst d a sz) s (fun v s => s.issueStep v (v.stepReq .store d a (szBytes sz)))
/-- KAMO (R220, R312). -/
def execKamo (d a : BitVec 3) (sz : BitVec 1) (fn : BitVec 4) (s : State) :=
  word (.kamo d a sz fn) s (fun v s => s.issueStep v (v.stepReq (.amo fn) d a (if sz = 1#1 then 8 else 4)))
/-- KMOVS (R312). -/
def execKmovs (d : BitVec 6) (a : BitVec 3) (s : State) := word (.kmovs d a) s (fun v s => s.putScalar v 1 d (v.k a.toNat))
/-- KMOVK (R312). A capsule of the warp shows what it writes in KSNAP from its next step on (R311). -/
def execKmovk (d : BitVec 3) (a : BitVec 6) (s : State) :=
  word (.kmovk d a) s (fun v s =>
    (s.putPend v 1 (.kreg d.toNat (v.s a.toNat))).modCapsule v.wid (fun c => { c with moved := Table.set c.moved d.toNat (v.s a.toNat) }))
/-- CAPSTAT (R312). -/
def execCapstat (d : BitVec 6) (s : State) := word (.capstat d) s (fun v s => s.putScalar v 1 d (v.w.capstat.zeroExtend 64))

end Sys2Proof.Machine
end

