-- ==== Sys2Proof/Machine/Engines.lean ====
section
/-! DEFINITION. The engine commands as they issue (R250 to R287): a command enters EC with its descriptor as read, or acts at once.
What a command does once it runs is in EngineRun. -/

namespace Sys2Proof.Machine

/-- A command enters EC and, with a tag, becomes the tag's latest (R100, R102, R258). -/
def State.issueCmd (s : State) (v : View) (c : Cmd) : Nat × State :=
  let n := s.fresh
  let s : State := { n.2 with cmds := Table.set n.2.cmds n.1 c }
  let s := s.modFrag v.fid (fun f =>
    { f with ec := f.ec.enter n.1, uncovered := f.uncovered ++ (c.dest.regs 4).map (fun r => (n.1, r)) })
  (n.1, if c.tag = 0 then s else s.modWg v.gid (fun g => { g with tagLast := Table.set g.tagLast c.tag n.1 }))

/-- A command of the issuing fragment (R254). -/
def State.newCmd (s : State) (v : View) (kind : CmdKind) : Cmd :=
  { wg := v.gid, warp := v.wid, ctx := s.ctxOfWg v.g, core := v.g.core, active := v.active, kind := kind, leader := v.g.core,
    shape := ((s.bondOf v.g.core).map (fun p => p.2.shape)).getD 0, bond := ((s.bondOf v.g.core).map (fun p => p.2.cmd)).getD 0 }

/-- A command whose whole effect has happened at its issue: it enters EC and leaves it. -/
def State.actAtOnce (s : State) (v : View) (kind : CmdKind) : State :=
  let p := s.issueCmd v (s.newCmd v kind)
  p.2.leaveEC p.1 .done

/-- A command with a link (R252, R257): held until a token of its tag, which it consumes at once where there is one. -/
def State.issueLinked (s : State) (v : View) (sb : BitVec 6) (acq rel : BitVec 1) (scope : BitVec 2) (hold : BitVec 1)
    (kind : CmdKind) : Nat × State :=
  let l := v.link sb
  let tokens := Table.getD v.g.tokens l.tag 0
  let held := hold == 1#1 && tokens == 0
  let s := if hold == 1#1 && tokens != 0 then
      s.modWg v.gid (fun g => { g with tokens := Table.put 0 g.tokens l.tag (tokens - 1) }) else s
  let p := s.issueCmd v { s.newCmd v kind with
    tag := l.tag, next := l.next, state := if held then .held else .queued, acq := acq == 1#1, rel := rel == 1#1,
    scope := Scope.ofCode scope }
  if hold == 1#1 && !held then
    (p.1, p.2.passOn (· == .token v.gid l.tag) (((Table.get? p.2.cmds p.1).map (fun c => c.carrier p.1)).getD (.token v.gid l.tag)))
  else p

/-- A command that writes a value to s[SB] (R254). -/
def State.issueValue (s : State) (v : View) (sb : BitVec 6) (x : Dword) : State :=
  (s.issueCmd v { s.newCmd v (.value x) with dest := .scal sb.toNat }).2

/-- A rounding field of a descriptor; 000 takes FMT.RM at issue (R276, R285, R286). -/
def View.rmCode (v : View) (rm : Nat) : BitVec 3 := BitVec.ofNat 3 (if rm = 0 then fmtRM v.fmt else rm)

/-- The command joins the warp's open batch (R274). -/
def State.intoBatch (s : State) (v : View) (id : Nat) : State :=
  s.modWarp v.wid (fun w => { w with batchOpen := w.batchOpen ++ [id] })

/-- The number after a batch number (R274). -/
def nextBatch (n : Nat) : Nat := if n = 0xFFFFFFFF then 1 else n + 1

/-- A batch of a warp has retired (R274): each of its commands has left EC. -/
def State.batchRetired (s : State) (w : Warp) (n : Nat) : Bool :=
  n == 0 ||
    (match w.batches.find? (fun b => b.number == n) with
      | some b => s.cmdsEnded b.cmds
      | none => true)

/-- MXACQ (R263): the lease at once, or a place in the FIFO. -/
def State.acquireLease (s : State) (v : View) : State :=
  let c := s.core v.g.core
  if c.owner = some v.wid then (s.actAtOnce v .mxacq).modIssue (fun i => { i with visible := true })
  else if c.owner.isNone && c.fifo.isEmpty then
    ((s.giveLease v.g.core v.wid).actAtOnce v .mxacq).modIssue (fun i => { i with visible := true })
  else
    let p := s.issueCmd v (s.newCmd v .mxacq)
    (p.2.modCore v.g.core (fun c => { c with fifo := c.fifo ++ [(v.wid, p.1)] })).block (.grant p.1)

/-- A BJOIN outside the shape of its leader's BFORM faults (R255, R266). -/
def State.joinMismatch (s : State) (core : Nat) (j : Join) : State :=
  let t : Trap := { code := Code.bondMismatch }
  let s := s.modCore core (fun c => { c with joined := none })
  let s := s.deferTrap ((s.warp? j.warp).map s.ctxOfWarp |>.getD 0) j.warp j.active t (.deferred t)
  s.leaveEC j.cmd .faulted

/-- BFORM (R265, R266). One of code 0 leaves BJOINs that wait for its core waiting, which the spec leaves open (assumption log 95). -/
def State.formBond (s : State) (v : View) (code : Nat) : State :=
  if code = 0 then s.actAtOnce v (.bform 0)
  else
    let members := (s.bondCores v.g.team v.g.core code).getD []
    let rc := shapeCores code
    let p := s.issueCmd v (s.newCmd v (.bform code))
    let b : Bond := { team := v.g.team, shape := code, formed := false, members := members, channels := seamEdges v.g.core rc.1 rc.2, cmd := p.1 }
    let s : State := { p.2 with bonds := Table.set p.2.bonds v.g.core b }
    (s.cores.filterMap (fun q => match q.2.joined with
      | some j => if j.team = v.g.team ∧ j.leader = v.g.core ∧ !members.contains q.1 then some (q.1, j) else none
      | none => none)).foldl (fun s q => s.joinMismatch q.1 q.2) s

/-- BJOIN (R266). -/
def State.joinBond (s : State) (v : View) (member : Nat) : State :=
  let leader := ((s.member? v.g.team member).map (fun p => p.2.core)).getD v.g.core
  let p := s.issueCmd v (s.newCmd v (.bjoin leader))
  p.2.modCore v.g.core (fun c => { c with joined := some ⟨v.g.team, leader, p.1, v.wid, v.active⟩ })

/-- The commands that name a warp's reservation: its MSMRDs, and the MXOPs that update it (R271, R275). -/
def State.namesMsm (s : State) (wid : Nat) : List Nat :=
  (s.cmds.filter (fun p => !p.2.ended && (match p.2.kind with
    | .msmrd _ _ _ _ _ _ _ => p.2.warp == wid
    | _ => p.2.holders.contains wid))).map Prod.fst

/-- MSMF (R275): the release takes effect once the commands that name the reservation have retired. -/
def State.freeMsm (s : State) (v : View) : State :=
  if !v.w.msmHeld || v.w.msmFree.isSome then s.actAtOnce v .msmf
  else
    let ids := s.namesMsm v.wid
    let p := s.issueCmd v (s.newCmd v .msmf)
    p.2.modWarp v.wid (fun w => { w with msmFree := some ids })

/-- The state code of EPOLL (R258). -/
def CmdState.code : CmdState → Nat
  | .held => 1
  | .queued => 2
  | .running => 3
  | .done => 4
  | .cancelled => 5
  | .faulted => 6

/-- EPOLL's value (R258). -/
def State.pollValue (s : State) (g : Wg) (tag : Nat) : Dword :=
  let st := ((Table.get? g.tagLast tag).bind (Table.get? s.cmds)).map (fun c => c.state.code)
  BitVec.ofNat 64 (Table.getD g.tokens tag 0 * 256 + st.getD 0)

/-- The latest-issued command with a tag, where EPOLL reports it done or faulted (R243, R258). -/
def State.polled (s : State) (g : Wg) (tag : Nat) : Option Nat :=
  (Table.get? g.tagLast tag).filter (fun id => (Table.get? s.cmds id).any (fun c => c.state == .done || c.state == .faulted))

/-- The commands that ECANCEL cancels (R259). -/
def State.cancellable (s : State) (gid tag : Nat) : List Nat :=
  (s.cmds.filter (fun p => p.2.wg == gid && p.2.tag == tag && (p.2.state == .held || p.2.state == .queued))).map Prod.fst

/-- QSTAT's value (R284). -/
def State.queueStatus (s : State) (v : View) : Dword :=
  let c := s.core v.g.core
  if c.planerWg ≠ some v.gid then BitVec.ofNat 64 (3 * 2 ^ 40)
  else
    let st := match c.planer with
      | .stopped => 0
      | .running => 1
      | .faulted => 2
    let blk := s.frags.any (fun p => some p.2.warp == c.planerWarp && (match p.2.wait with
      | some (.full _) => true
      | _ => false))
    let cnt := (List.range 8).foldl (fun n i => n + (Table.getD c.queues i []).length * 2 ^ (5 * i)) 0
    BitVec.ofNat 64 ((if blk then 2 ^ 48 else 0) + (if c.planer = .faulted then c.planerTrap.code.toNat * 2 ^ 42 else 0) +
      st * 2 ^ 40 + cnt)

/-- The planer's registers and fragment are removed (R283). -/
def State.clearPlaner (s : State) (core : Nat) : State :=
  match (s.core core).planerWarp with
  | none => s
  | some w =>
    let s : State := { s with warps := Table.erase s.warps w, frags := s.frags.filter (fun p => p.2.warp != w) }
    s.modCore core (fun c => { c with planerWarp := none })

/-- PLNGO (R278 to R280): the slot is owned, the program is the words read, and the planer's fragment starts once the command ends. -/
def State.startPlaner (s : State) (v : View) (sa sb : BitVec 6) (ws : List Word) : State :=
  let core := v.g.core
  let p := (s.clearPlaner core).issueCmd v (s.newCmd v .plngo)
  let w := p.2.fresh
  let warp : Warp := { wg := v.gid, idx := 0, width := 64, slot := 16, planer := some core, s := Table.put 0 [] 0 (v.s sb.toNat) }
  let f := w.2.fresh
  let frag : Frag := { warp := w.1, pc := v.desc sa 0, lm := BitVec.allOnes 64, fmt := v.fmt, wait := some (.grant p.1) }
  let s := (f.2.setWarp w.1 warp).setFrag f.1 frag
  s.modCore core (fun c => { c with
    planerWg := some v.gid, planer := .running, planerWarp := some w.1, planerTrap := { code := 0 }, program := ws,
    progAddr := v.desc sa 0, progLen := bitsAt (v.desc sa 1) 0 7 })

/-- PLNGO requests the packets of the program, by slots of the engines where they are another device's (R21, R279, R372, R381), and its
planer starts. -/
def State.readPlaner (s : State) (v : View) (sa sb : BitVec 6) (ws : List Word) : State :=
  let c := s.ctxOfWg v.g
  let ls := s.codeLocs c (v.desc sa 0) ws.length
  if s.namesLost ls then s.dieOfRequest c ls
  else ((s.markDies c (s.dieBitsOf ls)).startPlaner v sa sb ws).requestFor s.serial Config.cores (s.linesAt ls)

/-- PLNSTOP (R283): groups are whole, so the planer stands between two of them. A planer that has faulted stays so until PLNGO. A slot
that the workgroup does not own is not affected. -/
def State.stopPlaner (s : State) (v : View) : State :=
  let c := s.core v.g.core
  let s := if c.planerWg = some v.gid then
      (s.clearPlaner v.g.core).modCore v.g.core (fun c => { c with planer := if c.planer = .faulted then .faulted else .stopped }) else s
  s.actAtOnce v .plnstop

/-- A queue entry: the nonzero lanes of a register (R281). -/
def View.entry (v : View) (n : Nat) : Table Word :=
  (List.range 64).foldl (fun t i => Table.put 0 t i (v.v n i)) []

/-- TCOPY (R260). -/
def execTcopy (sa sb : BitVec 6) (acq rel : BitVec 1) (scope : BitVec 2) (hold : BitVec 1) (s : State) :=
  word (.tcopy sa sb acq rel scope hold) s (fun v s =>
    (s.issueLinked v sb acq rel scope hold ((v.copyDesc sa).kind v.g false)).2)
/-- TCOPYM (R260). -/
def execTcopym (sa sb : BitVec 6) (acq rel : BitVec 1) (scope : BitVec 2) (hold : BitVec 1) (s : State) :=
  word (.tcopym sa sb acq rel scope hold) s (fun v s =>
    (s.issueLinked v sb acq rel scope hold ((v.copyDesc sa).kind v.g true)).2)
/-- MXLDB (R269, R270): the width class of the bond is that of the latest MXLDB issued (R271). -/
def execMxldb (sa sb : BitVec 6) (acq : BitVec 1) (scope : BitVec 2) (hold : BitVec 1) (s : State) :=
  word (.mxldb sa sb acq scope hold) s (fun v s =>
    let w0 := v.desc sa 0
    let p := s.issueLinked v sb acq 0 scope hold
      (.mxldb (bitsAt w0 0 19) (bitsAt w0 32 19) (bitsAt (v.desc sa 1) 0 19) (fmtMB v.fmt) (fmtSB v.fmt))
    (p.2.intoBatch v p.1).modCore v.g.core (fun c => { c with width8 := some (!wide16 (fmtMB v.fmt)) }))
/-- MXOP (R269, R271). -/
def execMxop (sa sb : BitVec 6) (acq : BitVec 1) (scope : BitVec 2) (hold : BitVec 1) (s : State) :=
  word (.mxop sa sb acq scope hold) s (fun v s =>
    let w0 := v.desc sa 0
    let rc := s.bondSize v.g.core
    let holders := (bottomEdge v.g.core rc.1 rc.2).filterMap (fun c => (s.core c).owner)
    let p := s.issueLinked v sb acq 0 scope hold
      (.mxop (bitsAt w0 0 19) (bitsAt w0 32 16) (bitsAt w0 48 16) (bitsAt (v.desc sa 1) 0 19) (fmtMA v.fmt) (fmtSA v.fmt))
    (p.2.modCmd p.1 (fun c => { c with holders := holders })).intoBatch v p.1)
/-- MXFENCE (R274): closes the open batch. -/
def execMxfence (sb : BitVec 6) (s : State) :=
  word (.mxfence sb) s (fun v s =>
    let s := s.modWarp v.wid (fun w => { w with
      batches := w.batches.filter (fun b => !s.cmdsEnded b.cmds) ++ [⟨w.batchNext, w.batchOpen⟩]
      batchOpen := []
      batchNext := nextBatch w.batchNext
      batchesClosed := w.batchesClosed + 1 })
    s.issueValue v sb (BitVec.ofNat 64 v.w.batchNext))
/-- MXWAIT (R274). -/
def execMxwait (sa : BitVec 6) (s : State) :=
  word (.mxwait sa) s (fun v s =>
    let n := bitsAt (v.s sa.toNat) 0 32
    (s.issueCmd v (s.newCmd v (.mxwait n))).2.block (.mxwait n))
/-- MXACQ (R263). -/
def execMxacq (s : State) := word .mxacq s (fun v s => s.acquireLease v)
/-- MXREL (R263). -/
def execMxrel (s : State) := word .mxrel s (fun v s => (s.passLease v.g.core).actAtOnce v .mxrel)
/-- BFORM (R265, R266). -/
def execBform (sa : BitVec 6) (s : State) := word (.bform sa) s (fun v s => s.formBond v (bitsAt (v.s sa.toNat) 0 3))
/-- BJOIN (R266). -/
def execBjoin (sa : BitVec 6) (s : State) := word (.bjoin sa) s (fun v s => s.joinBond v (bitsAt (v.s sa.toNat) 0 3))
/-- BBRK (R268): it takes its steps once the bond's earlier commands have retired; without a bond it has no effect. -/
def execBbrk (s : State) :=
  word .bbrk s (fun v s => if s.leadsBond v.g.core then (s.issueCmd v (s.newCmd v .bbrk)).2 else s.actAtOnce v .bbrk)
/-- MSMA (R275). -/
def execMsma (sa : BitVec 6) (s : State) :=
  word (.msma sa) s (fun v s =>
    let n := (v.s sa.toNat).toNat
    let p := s.issueCmd v (s.newCmd v (.msma n))
    ((p.2.modCore v.g.core (fun c => { c with msmFifo := c.msmFifo ++ [(v.wid, p.1, n)] })).grantMsm v.g.core).block (.grant p.1))
/-- MSMF (R275). -/
def execMsmf (s : State) := word .msmf s (fun v s => s.freeMsm v)
/-- MSMRD (R276). -/
def execMsmrd (sa sb : BitVec 6) (rel : BitVec 1) (scope : BitVec 2) (hold : BitVec 1) (s : State) :=
  word (.msmrd sa sb rel scope hold) s (fun v s =>
    let w0 := v.desc sa 0
    let w1 := v.desc sa 1
    (s.issueLinked v sb 0 rel scope hold (.msmrd (bitsAt w0 0 19) (bitsAt w0 32 16) (bitsAt w0 48 16) (bitsAt w1 0 19)
      (w1.extractLsb' 32 3) (v.rmCode (bitsAt w1 35 3)) (w1.getLsbD 38))).2)
/-- PLNGO (R278, R279). -/
def execPlngo (sa sb : BitVec 6) (s : State) :=
  word (.plngo sa sb) s (fun v s => match s.plngoCheck v (.plngo sa sb) sa with
    | .ok ws => s.readPlaner v sa sb ws
    | .error _ => s)
/-- PLNSTOP (R283). -/
def execPlnstop (s : State) := word .plnstop s (fun v s => s.stopPlaner v)
/-- COLL (R285). -/
def execColl (sa sb : BitVec 6) (acq rel : BitVec 1) (scope : BitVec 2) (hold : BitVec 1) (s : State) :=
  word (.coll sa sb acq rel scope hold) s (fun v s =>
    let d := v.collDesc sa
    (s.issueLinked v sb acq rel scope hold
      (.coll d.src d.dst d.count d.group d.kind d.ef (v.rmCode d.rm.toNat) d.root (s.group d.group))).2)
/-- CBULK (R286). -/
def execCbulk (sa sb : BitVec 6) (acq rel : BitVec 1) (scope : BitVec 2) (hold : BitVec 1) (s : State) :=
  word (.cbulk sa sb acq rel scope hold) s (fun v s =>
    let d := v.bulkDesc sa
    (s.issueLinked v sb acq rel scope hold
      (.cbulk d.dst d.src d.count d.opn d.ef (v.rmCode d.rm.toNat) d.imm d.operand)).2)
/-- COMPACT (R287). -/
def execCompact (sa sb : BitVec 6) (acq rel : BitVec 1) (scope : BitVec 2) (hold : BitVec 1) (s : State) :=
  word (.compact sa sb acq rel scope hold) s (fun v s =>
    (s.issueLinked v sb acq rel scope hold (.compact (v.desc sa 0) (v.desc sa 1))).2)
/-- QPUSH (R83, R281): the entry is written at its issue, which waits while the queue is full, and ENGSTAT.PL takes the flags behind it. -/
def execQpush (sa sb : BitVec 6) (s : State) :=
  word (.qpush sa sb) s (fun v s =>
    let s := s.modCore v.g.core (fun c =>
      { c with queues := Table.put [] c.queues sb.toNat (Table.getD c.queues sb.toNat [] ++ [v.entry sa.toNat]) })
    (s.modWg v.gid (orEngstat engPL (v.carriedBy [sa]))).actAtOnce v (.value 0))
/-- QSTAT (R284). -/
def execQstat (sb : BitVec 6) (s : State) := word (.qstat sb) s (fun v s => s.issueValue v sb (s.queueStatus v))
/-- EPOLL (R258): an acquire of a command that it reports done or faulted (R243). -/
def execEpoll (sa sb : BitVec 6) (s : State) :=
  word (.epoll sa sb) s (fun v s =>
    let tag := bitsAt (v.s sa.toNat) 0 8
    (s.issueValue v sb (s.pollValue v.g tag)).learnEnds (fun id => s.polled v.g tag == some id) v.wid v.gid v.active)
/-- ECANCEL (R259). -/
def execEcancel (sa sb : BitVec 6) (s : State) :=
  word (.ecancel sa sb) s (fun v s =>
    let ids := s.cancellable v.gid (bitsAt (v.s sa.toNat) 0 8)
    (ids.foldl (fun s id => s.leaveEC id .cancelled) s).issueValue v sb (BitVec.ofNat 64 ids.length))

end Sys2Proof.Machine
end

