-- ==== Sys2Proof/Machine/System.lean ====
section
/-! DEFINITION. The SYS instructions (R321 to R326): traps, TRET, LAUNCH, LWAIT, EXIT, JIGHINT and BRKPT. -/

namespace Sys2Proof.Machine

/-- TRET (R322, R356): the handler bit is cleared at the end of the group; a replay issues its word for Active ∩ FAULTMASK. -/
def State.returnFrom (s : State) (v : View) : State :=
  let s := s.modIssue (fun i => { i with ctl := .tret (v.f.tsave1.getLsbD 2), visible := true })
  match v.f.replay with
  | some r =>
    if v.f.tsave1.getLsbD 2 then
      let ls := r.req.lanes.filter (fun l => v.active.has l.lane && v.f.faultmask.getLsbD l.lane)
      if ls.isEmpty then s else s.issueMem v { r.req with lanes := ls }
    else s
  | none => s

/-- LAUNCH (R205, R206, R323): the child grid and its handle, and the request for a record on another device; its teams may be placed once
the command completes (R37). -/
def State.launch (s : State) (v : View) (d : BitVec 6) (r : RecordWords) (ls : List Loc) : State :=
  let c := s.ctxOfWg v.g
  if s.namesLost ls then s.dieOfRequest c ls
  else
    let s := (s.markDies c (s.dieBitsOf ls)).dropEarlyAt v.wid v.active ls
    let parent := s.gridOfWg v.g
    let gr := s.grid? parent
    let handle := v.g.launchSeq + 1
    let rec_ := recParse r
    let n := s.fresh
    let g : Grid :=
      { ctx := c, queue := (gr.map Grid.queue).getD 0, gridid := (s.ctx c).nextGrid, depth := (gr.map Grid.depth).getD 0 + 1,
        cls := rec_.cls.toNat, parent := some parent, parentWg := v.gid, handle := handle, record := rec_, ready := false }
    let s := (n.2.setGrid n.1 g).modCtx c (fun x => { x with nextGrid := x.nextGrid + 1 })
    let s := s.modWg v.gid (fun w => { w with launchSeq := handle })
    let p := s.issueCmd v { s.newCmd v (.launch (BitVec.ofNat 64 handle) n.1) with dest := .scal d.toNat }
    p.2.requestFor p.1 v.g.core (s.linesAt ls)

/-- The hint list with a region recorded (R305): in place of the entry with the same start, else of the oldest of 8. One that replaces an entry
takes the newest place: whether it renews that entry's age the spec leaves open (assumption log 89). -/
def addHint (hs : List Hint) (h : Hint) : List Hint :=
  let rest := hs.filter (fun x => x.start != h.start)
  (if rest.length < 8 then rest else rest.drop 1) ++ [h]

/-- JIGHINT (R301, R302, R305, R326). A region whose start lies above its end governs no loop. -/
def State.jigHint (s : State) (v : View) (mode : BitVec 2) (start stop : Dword) : State :=
  let c := s.ctxOfWg v.g
  let h : Hint := ⟨packetAddr start, packetAddr stop, mode⟩
  let s := s.modCtx c (fun x => { x with hints := addHint x.hints h })
  let s := if mode = 0#2 then
      s.cores.foldl (fun s q => match q.2.config with
        | some cfg => if h.covers cfg.loop.entry then s.jigInvalidate q.1 (some c) else s
        | none => s) s
    else s
  if mode = 0#2 then s
  else
    { s with cores := s.cores.map (fun q => (q.1, { q.2 with
      loops := q.2.loops.map (fun l =>
        if l.ctx = c && h.covers l.entry && l.refused == some 4 then { l with refused := none } else l) })) }

/-- TRAP (R321). -/
def execTrap (num : BitVec 18) (s : State) :=
  word (.trap num) s (fun v s => s.modIssue (fun i => { i with after := some { code := Code.trap, detail := num, word := v.i.word } }))
/-- TRET (R322). -/
def execTret (s : State) := word .tret s (fun v s => s.returnFrom v)
/-- LAUNCH (R323). -/
def execLaunch (d a : BitVec 6) (s : State) :=
  word (.launch d a) s (fun v s => match s.launchRecord v (v.s a.toNat) with
    | .ok r => s.launch v d r.1 r.2
    | .error _ => s)
/-- LWAIT (R324). -/
def execLwait (a : BitVec 6) (s : State) := word (.lwait a) s (fun v s => s.block (.lwait (v.s a.toNat).toNat))
/-- EXIT (R325): the fragment retires at the end of its group. -/
def execExit (s : State) := word .exit s (fun _ s => s.modIssue (fun i => { i with ctl := .exit }))
/-- JIGHINT (R305, R326). -/
def execJighint (mode : BitVec 2) (a b : BitVec 6) (s : State) :=
  word (.jighint mode a b) s (fun v s => s.jigHint v mode (v.s a.toNat) (v.s b.toNat))
/-- BRKPT (R321): without CTL.BKEN it has no effect. -/
def execBrkpt (num : BitVec 18) (s : State) := word (.brkpt num) s (fun _ s => s)

end Sys2Proof.Machine
end

