-- ==== Sys2Proof/Machine/EngineRun.lean ====
section
/-! DEFINITION. What engine commands do once they run (R243, R254 to R287): their start, their rows and their end. -/

namespace Sys2Proof.Machine

/-- Where the team of a workgroup is. -/
def State.wgState (s : State) (gid : Nat) : Option TeamState := ((s.wg? gid).bind (fun g => s.team? g.team)).map Team.state

/-- The team of a workgroup is resident: one chosen for pre-emption still is in the tick of the choice (R349). -/
def State.wgResident (s : State) (gid : Nat) : Bool := (s.wgState gid).any TeamState.goesOn

/-- The team of a workgroup is on its cores: what it has begun completes, even once it issues no more (R366). -/
def State.wgPresent (s : State) (gid : Nat) : Bool := (s.wgState gid).any TeamState.onCores

/-! ### Order (R243, R272) -/

/-- A part of an operation of the issuing lanes with identity i comes before the command by its ACQ (R243). -/
def Cmd.acquires (c : Cmd) (id i : Nat) (l : LaneAcc) : Bool := c.acq && decide (i < id) && (l.who &&& c.active) != 0 && !l.isUO

/-- A part of an earlier operation of the issuing lanes stands before the command: one that a FENCE between them covers until it is performed, one
before its ACQ until it has been left behind (R223, R232, R243). -/
def State.cmdAfter (s : State) (id : Nat) (c : Cmd) (i : Nat) (o : Op) : Bool :=
  o.warp == c.warp && o.lanes.any (fun l => (c.acquires id i l && !s.isLeft i l) || s.fencedOff i id c.warp c.active l)

/-- Nothing outstanding is ordered before the command's accesses (R243). -/
def State.cmdOrdered (s : State) (id : Nat) (c : Cmd) : Bool := s.ops.all (fun p => !s.cmdAfter id c p.1 p.2)

/-- The command comes after what a trail is of: by its ACQ, a FENCE or its predecessor (R223, R240, R243). -/
def State.cmdFollows (s : State) (id : Nat) (c : Cmd) (t : Trail) : Bool :=
  t.held.any (Carrier.isCmd id) || t.after.any (fun e => e.early.isNone && !e.ctl && e.op.warp == c.warp &&
    e.op.lanes.any (fun l => c.acquires id e.id l || s.fencedOff e.id id c.warp c.active l))

/-- MXLDB and MXOP. -/
def CmdKind.isMatrix : CmdKind → Bool
  | .mxldb _ _ _ _ _ => true
  | .mxop _ _ _ _ _ _ => true
  | _ => false

/-- The team of a workgroup. -/
def State.teamOf (s : State) (gid : Nat) : Option Nat := (s.wg? gid).map Wg.team

/-- The MXLDB and MXOP commands of a bond that were issued before a command of a workgroup have retired (R268, R272). Those of another team that is
being saved or has been are of a bond that no core holds now (R368, R369). -/
def State.matrixQuiet (s : State) (leader before wg : Nat) : Bool :=
  s.cmds.all (fun p => !(decide (p.1 < before) && p.2.kind.isMatrix && p.2.leader == leader && !p.2.ended &&
    (s.wgResident p.2.wg || s.teamOf p.2.wg == s.teamOf wg)))

/-- A command that starts with its first access (R258). -/
def CmdKind.starts : CmdKind → Bool
  | .tcopy _ _ _ _ _ _ _ _ _ _ _ => true
  | .mxldb _ _ _ _ _ => true
  | .mxop _ _ _ _ _ _ => true
  | .msmrd _ _ _ _ _ _ _ => true
  | .coll _ _ _ _ _ _ _ _ _ => true
  | .cbulk _ _ _ _ _ _ _ _ => true
  | .compact _ _ => true
  | _ => false

/-- The ranges of virtual addresses that row r of a copy reads and writes. -/
def CmdKind.rowRanges (k : CmdKind) (r : Nat) : List (Dword × Nat) :=
  match k with
  | .tcopy src dst n _ ss ds _ _ dir _ _ =>
    (if dir = 0#2 then [(rowAt src ss r, n)] else []) ++ (if dir = 1#2 then [(rowAt dst ds r, n)] else [])
  | _ => []

/-- The ranges that row r of a copy reads. -/
def CmdKind.rowSources (k : CmdKind) (r : Nat) : List (Dword × Nat) :=
  match k with
  | .tcopy src _ n _ ss _ _ _ dir _ _ => if dir = 0#2 then [(rowAt src ss r, n)] else []
  | _ => []

/-- What a run of n elements of a COLL from number lo on reads of its input, and writes of its output: first element and number of each
(R285). An all-gather counts the elements of all members, a reduce-scatter those of the whole sum. -/
structure CollRun where
  src : Nat
  reads : Nat
  dst : Nat
  writes : Nat
deriving DecidableEq, Repr

/-- The part of elements a up to b that lies among n elements from number lo on, counted from a. -/
def amongRun (lo n a b : Nat) : Nat × Nat := (max lo a - a, min (lo + n) b - max lo a)

def collRun (kind count root : Nat) (gr : Group) (lo n : Nat) : CollRun :=
  let rank := gr.rank.toNat
  match kind with
  | 0 => ⟨lo, n, lo, n⟩
  | 1 => ⟨lo, if rank = root then n else 0, lo, n⟩
  | 2 =>
    let own := amongRun lo n (rank * count) (rank * count + count)
    ⟨own.1, own.2, lo, n⟩
  | _ =>
    let m := count / gr.size.toNat
    let own := amongRun lo n (rank * m) (rank * m + m)
    ⟨lo, n, own.1, own.2⟩

/-- How many elements a COLL goes through (R285). -/
def collParts (kind count : Nat) (gr : Group) : Nat := if kind = 2 then count * gr.size.toNat else count

/-- The ranges of a run of a COLL's elements, of es bytes each. -/
def collRanges (src dst : Dword) (es : Nat) (r : CollRun) : List (Dword × Nat) :=
  (if r.reads = 0 then [] else [(src + BitVec.ofNat 64 (es * r.src), es * r.reads)]) ++
    (if r.writes = 0 then [] else [(dst + BitVec.ofNat 64 (es * r.dst), es * r.writes)])

/-- The ranges of virtual addresses that a command reads and writes. What a COLL exchanges with other members is none of them
(assumption log 73). -/
def Cmd.ranges (c : Cmd) : List (Dword × Nat) :=
  match c.kind with
  | .tcopy _ _ _ rows _ _ _ _ _ _ _ => (List.range rows).flatMap c.kind.rowRanges
  | .coll src dst count _ kind ef _ root gr =>
    collRanges src dst (collBytes ef.toNat) (collRun kind.toNat count root gr 0 (collParts kind.toNat count gr))
  | .cbulk dst src count _ _ _ imm _ => (dst, 4 * count) :: (if imm then [] else [(src, 4 * count)])
  | .compact start len => [(start, len.toNat)]
  | _ => []

/-- The granules of ranges that a command requests, each as its locations. COMPACT requests none of the pages it skips, those without C
(R204, R287). -/
def State.cmdGranules (s : State) (c : Cmd) (ranges : List (Dword × Nat)) : List (List Loc) :=
  let skips := match c.kind with
    | .compact _ _ => true
    | _ => false
  match s.wg? c.wg with
  | none => []
  | some g =>
    (ranges.flatMap (fun r => granulesOf r.1 r.2)).filterMap (fun q =>
      match s.granuleCheck c.ctx g false none q.1 q.2 with
      | .ok k => if skips && !k.compressed then none else some k.locs
      | .error _ => none)

/-- One location of each 4 KiB granule of ranges: every byte of a granule has the same home (R21, R198). -/
def State.rangeHomes (s : State) (c : Cmd) (ranges : List (Dword × Nat)) : List Loc := (s.cmdGranules c ranges).flatMap (fun ls => ls.take 1)

/-- The homes of all that a command requests. -/
def State.cmdHomes (s : State) (c : Cmd) : List Loc := s.rangeHomes c (c.ranges)

/-- The ranges that a command's next accesses name: of its next row, of its next n parts, or of all. -/
def Cmd.nextRanges (c : Cmd) (n : Nat) : List (Dword × Nat) :=
  match c.kind with
  | .tcopy _ _ _ rows _ _ _ _ dir _ _ => if c.cursor < rows && (c.rowsRead.isEmpty || dir == 1#2) then c.kind.rowRanges c.cursor else []
  | .cbulk dst src _ _ _ _ imm _ =>
    let off := BitVec.ofNat 64 (4 * c.cursor)
    (dst + off, 4 * n) :: (if imm then [] else [(src + off, 4 * n)])
  | .coll src dst count _ kind ef _ root gr => collRanges src dst (collBytes ef.toNat) (collRun kind.toNat count root gr c.cursor n)
  | _ => c.ranges

/-- The ranges that parts of a command name: a run of them, where none has been performed out of turn, or each by itself. -/
def Cmd.partRanges (c : Cmd) (ns : List Nat) : List (Dword × Nat) :=
  if c.aside.isEmpty then { c with cursor := ns.headD c.cursor }.nextRanges ns.length
  else ns.flatMap (fun n => { c with cursor := n }.nextRanges 1)

/-- Next accesses of a command are requested: they set DIEMASK bits as its tables now stand (R21, R380), and one that names a lost die
makes the context dead instead (R372). -/
def State.requestNext (s : State) (c : Cmd) (ranges : List (Dword × Nat)) (act : State → State) : State :=
  let homes := s.rangeHomes c ranges
  if s.namesLost homes then s.dieOfRequest c.ctx homes else act (s.markDies c.ctx (s.dieBitsOf homes))

/-- The lines of 128 bytes that a granule lies in, where it is another device's (R205). -/
def State.granuleLines (s : State) (ls : List Loc) : List (Nat × Nat) :=
  match ls with
  | .phys a :: _ =>
    (match s.locPort (.phys a) with
      | some p => (List.range ((a + ls.length - 1) / 128 - a / 128 + 1)).map (fun i => (p, a / 128 + i))
      | none => [])
  | _ => []

/-- The granules of a command's next accesses, for which it asks other devices at once: those of its next row, or of all its ranges (R205,
R381). -/
def State.askedGranules (s : State) (c : Cmd) : List (List Loc) :=
  s.cmdGranules c (match c.kind with
    | .tcopy _ _ _ _ _ _ _ _ _ _ _ => c.nextRanges 0
    | _ => c.ranges)

/-- The lines of other devices that a command's next accesses request. -/
def State.cmdLines (s : State) (c : Cmd) : List (Nat × Nat) := (s.askedGranules c).flatMap s.granuleLines

/-- One location of each granule that such lines lie in. -/
def State.lineHomes (s : State) (c : Cmd) : List Loc :=
  (s.askedGranules c).flatMap (fun ls => if (s.granuleLines ls).isEmpty then [] else ls.take 1)

/-- A command requests the lines of its next accesses, each as a slot of its port frees (R206, R381): a request that leaves the package sets its
bits before it is sent (R21), and one that names a lost die makes the context dead instead (R372). -/
def State.requestLines (s : State) (id : Nat) : State :=
  match Table.get? s.cmds id with
  | none => s
  | some c =>
    let homes := s.lineHomes c
    if s.namesLost homes then s.dieOfRequest c.ctx homes
    else (s.markDies c.ctx (s.dieBitsOf homes)).requestFor id Config.cores (s.cmdLines c)

/-- A port that a command needs holds it back (R206, R381; assumption log 80). -/
def State.cmdPortShort (s : State) (c : Cmd) : Bool := ((s.cmdHomes c).filterMap s.locPort).any s.enginePortStalls

/-! ### The start (R243, R258) -/

/-- A queued command may begin, what is ordered before its accesses aside (R243, R258). -/
def State.startable (s : State) (c : Cmd) : Bool :=
  c.state == .queued && !c.ended && c.kind.starts && s.wgResident c.wg && !s.cmdPortShort c

/-- An engine has come to a command: the matrix commands of its bond are performed in order (R272). -/
def State.turnOf (s : State) (id : Nat) (c : Cmd) : Bool := !c.kind.isMatrix || s.matrixQuiet c.leader id c.wg

/-- The bytes of a row's source (R183, R261). -/
def State.rowSource (s : State) (c : Cmd) (g : Wg) (dir : BitVec 2) (a : Dword) (n : Nat) : List (Option Loc) :=
  if dir = 0#2 then s.rangePlaces c.ctx g true (some .read) a n
  else match s.benchPlace c.wg g a with
    | some p => (benchLocs p.1 p.2.2 n).map some
    | none => []

/-- Where the code of K-row k and column cl lies in a top-edge core's bench, or of an LQ2 element the octet word (number 0) and the group scale
(number 1), and its bytes (R270). -/
def tilePlace (boff soff bstride : Nat) (mb : BitVec 4) (k cl i : Nat) : Nat × Nat :=
  if isLq2 mb then (if i = 0 then boff + k / 8 * bstride + 2 * cl else soff + k / 32 * 16 + 2 * cl, 2)
  else (boff + k * bstride + cl * elemBytes mb, elemBytes mb)

/-- How many parts a command performs one by one: the elements of an MXLDB's tile, K-row by K-row, the accumulators of an MSMRD, the elements of a CBULK or a COLL. -/
def Cmd.parts (c : Cmd) : Nat :=
  match c.kind with
  | .mxldb _ _ _ mb _ => 8 * (shapeCores c.shape).1 * dotWidth mb * (8 * (shapeCores c.shape).2)
  | .msmrd _ rows _ _ _ _ _ => 8 * rows
  | .cbulk _ _ count _ _ _ _ _ => count
  | .coll _ _ count _ kind _ _ _ gr => collParts kind.toNat count gr
  | _ => 0

/-- How many elements a matrix command reads for one of its rows or parts. -/
def Cmd.rowElems (c : Cmd) : Nat :=
  match c.kind with
  | .mxop _ _ _ _ ma _ => 8 * dotWidth ma * (leftEdge c.leader (shapeCores c.shape).1).length
  | .mxldb _ _ _ mb _ => if isLq2 mb then 2 else 1
  | _ => 0

/-- An element of an A row of MXOP, or a code or the scale of a tile element of MXLDB: where it lies, by core, offset and bytes (R270 to R272). -/
def Cmd.matrixPlace (c : Cmd) (r i : Nat) : Option (Nat × Nat × Nat) :=
  let rc := shapeCores c.shape
  match c.kind with
  | .mxop aoff _ _ astride ma _ =>
    let w := 8 * dotWidth ma
    ((leftEdge c.leader rc.1)[i / w]?).map (fun l => (l, aoff + r * astride + i % w * elemBytes ma, elemBytes ma))
  | .mxldb boff soff bstride mb _ =>
    let cols := 8 * rc.2
    ((topEdge c.leader rc.2)[r % cols / 8]?).map (fun l => (l, tilePlace boff soff bstride mb (r / cols) (r % cols % 8) i))
  | _ => none

/-- The bytes of benches that a command names as such: rows and arrival words of a copy, what a matrix command reads, what MSMRD writes. -/
def State.cmdBench (s : State) (c : Cmd) : List Loc :=
  match c.kind, s.wg? c.wg with
  | .tcopy src dst n rows ss ds aoff aw dir mask _, some g =>
    let ms := (List.range 8).filter (fun m => mask.getLsbD m)
    let at_ (p : Option (Nat × Wg × Nat)) (n : Nat) : List Loc := p.elim [] (fun p => benchLocs p.1 p.2.2 n)
    (List.range rows).flatMap (fun r =>
      (if dir = 0#2 then [] else (s.rowSource c g dir (rowAt src ss r) n).filterMap id) ++
      (if dir = 1#2 then [] else ms.flatMap (fun m => at_ (s.receiverPlace c.wg g m (rowAt dst ds r)) n))) ++
    (if aw then ms.flatMap (fun m => at_ (s.memberPlace g.team m aoff) 16) else [])
  | .msmrd doff rows _ dstride tf _ _, some _ =>
    let es := (CvtFmt.ofIndex tf.toNat).width / 8
    (List.range rows).flatMap (fun r => benchLocs c.wg (doff + r * dstride) (8 * es))
  | .mxop _ rows _ _ _ _, some g => matrix g rows
  | .mxldb _ _ _ _ _, some g => matrix g c.parts
  | _, _ => []
where
  matrix (g : Wg) (rows : Nat) : List Loc :=
    (List.range rows).flatMap (fun r => (List.range c.rowElems).flatMap (fun i =>
      match c.matrixPlace r i with
      | some p => ((s.memberOn g.team p.1).map (fun q => benchLocs q.1 p.2.1 p.2.2)).getD []
      | none => []))

/-- A command names some bytes. -/
def State.cmdNames (s : State) (c : Cmd) (ls : List Loc) : Bool :=
  (s.cmdGranules c c.ranges).any (fun g => g.any ls.contains) || (s.cmdBench c).any ls.contains

/-- The command meets nothing left behind that it comes after, and no atomic left behind (R220, R240, R243). -/
def State.cmdClear (s : State) (id : Nat) (c : Cmd) : Bool :=
  s.debts.all (fun d => !(((d.left && d.acc.op.atomic.isSome) || s.cmdFollows id c d.trail) && s.cmdNames c d.acc.locs))

/-- A queued command may begin its first access as far as orders go (R243). -/
def State.cmdFree (s : State) (id : Nat) (c : Cmd) : Bool := s.cmdOrdered id c && s.cmdClear id c

/-- A queued command may begin its first access (R243, R258, R272). -/
def State.mayStart (s : State) (id : Nat) (c : Cmd) : Bool := s.startable c && s.cmdFree id c && s.turnOf id c

/-- A command begins (R21, R258): from queued to running. One that names a lost die makes its context dead instead (R372). What it comes after it
hands on (R243). -/
def State.startCmd (s : State) (id : Nat) (c : Cmd) : State :=
  let homes := s.cmdHomes c
  if s.namesLost homes then s.dieOfRequest c.ctx homes
  else
    let s := s.mapTrails (fun t => if s.cmdFollows id c t then t.hold (c.carrier id) else t)
    ((s.modCmd id (fun x => { x with state := .running })).markDies c.ctx (s.dieBitsOf homes)).requestLines id

/-- A command finds its first deferred fault (R255). -/
def State.faultCmd (s : State) (id : Nat) (t : Trap) : State :=
  match Table.get? s.cmds id with
  | none => s
  | some c =>
    if c.fault.isSome then s
    else (s.modCmd id (fun x => { x with fault := some t })).deferTrap c.ctx c.warp c.active t (.deferred t)

/-- Flags that a command's engine raises without an event (R83). -/
def State.quietFlags (s : State) (wg place : Nat) (fs : List (BitVec 5)) : State :=
  if orFlags fs = 0 then s else s.modWg wg (orEngstat place (orFlags fs))

/-- Flags of engine results: into ENGSTAT at the engine's place, and events for the command's retirement (R83, R85). -/
def State.engineFlags (s : State) (id wg place : Nat) (fs : List (BitVec 5)) : State :=
  (s.quietFlags wg place fs).modCmd id (fun c => { c with
    events := [0, 1, 2, 3].foldl (fun t k => Table.put 0 t k (Table.getD t k 0 + flagCount k fs)) c.events })

/-! ### Copies (R260 to R262) -/

/-- What bytes at places read; a free value where there is no place (R380). -/
def State.readPlaces (s : State) (ps : List (Option Loc)) : List Byte :=
  ps.zipIdx.map (fun p => match p.1 with
    | some l => s.readLoc l
    | none => Config.outsideByte (s.free + p.2))

/-- The free values that reading the places has taken. -/
def State.readFree (s : State) (ps : List (Option Loc)) : State :=
  if ps.all Option.isSome then s else { s with free := s.free + ps.length }

/-- Writes bytes at places; nothing where there is none (R380). -/
def State.putPlaces (s : State) : List (Option Loc) → List Byte → State
  | some l :: r, b :: t => (s.writeLoc l b).putPlaces r t
  | none :: r, _ :: t => s.putPlaces r t
  | _, _ => s

/-- An engine writes bytes at places: a release that wrote them is read there no more (R239). -/
def State.writePlaces (s : State) (ps : List (Option Loc)) (bs : List Byte) : State := (s.overwritten (ps.filterMap id)).putPlaces ps bs

/-- Bytes of a copy counted at a receiver's arrival word, named in team form where it is not initialised (R189, R262). -/
def State.countBytes (s : State) (id gid aoff n : Nat) : State :=
  if s.arrivalReady (.bench gid aoff) then s.arrive (.bench gid aoff) n
  else s.faultCmd id { code := Code.arrivalUninit,
                       addr := BitVec.ofNat 64 (2 ^ 22 + ((s.wg? gid).map Wg.member).getD 0 * 2 ^ 19 + aoff) }

/-- The naturally aligned four bytes that hold byte i of a row of n bytes at an address, as far as they lie in the row: their place and
number (R261). -/
def wordOf (a n i : Nat) : Nat × Nat :=
  let w := (a % 4 + i) / 4
  (4 * w - a % 4, min n (4 * w + 4 - a % 4) - (4 * w - a % 4))

/-- Row r with what words of it have been read before the rest (R261). -/
def Cmd.withWords (c : Cmd) (r : Nat) (bs : List Byte) : List Byte :=
  c.wordsRead.foldl (fun bs w => if w.1 = r then bs.take w.2.1 ++ w.2.2 ++ bs.drop (w.2.1 + w.2.2.length) else bs) bs

/-- A receiver has had byte i of the row that comes next to it (R261). -/
def Cmd.hadAt (c : Cmd) (m i : Nat) : Bool :=
  c.wordsDone.any (fun w => w.1 == m && decide (w.2.1 ≤ i) && decide (i < w.2.1 + w.2.2))

/-- The places of a row that a receiver has not had. -/
def Cmd.stillAt (c : Cmd) (m : Nat) (ps : List (Option Loc)) : List (Option Loc) :=
  if c.wordsDone.isEmpty then ps else ps.mapIdx (fun i p => if c.hadAt m i then none else p)

/-- The next row of a copy has been written whole at a receiver. -/
def Cmd.rowHad (c : Cmd) (m : Nat) : Cmd := { c with wordsDone := c.wordsDone.filter (fun w => w.1 != m) }

/-- A copy has written n bytes more at a receiver, which its arrival word has still to count; the copy may keep no count (R262). -/
def Cmd.uncounted (c : Cmd) (m n : Nat) : Cmd :=
  match c.kind with
  | .tcopy _ _ _ _ _ _ _ true _ _ _ => { c with counts := Table.put 0 c.counts m (Table.getD c.counts m 0 + n) }
  | _ => c

/-- With REL, what counts a command's bytes at an arrival word releases to it what comes before the command (R243). -/
def State.countReleased (s : State) (id : Nat) (c : Cmd) (l : Loc) : State :=
  if c.rel && s.arrivalReady l then
    s.mapTrails (fun t =>
      if t.held.any (Carrier.isCmd id) then
        t.add [{ id := id, op := { ownAccessOf c.warp c.active .store false false .rc [] with wg := c.wg, lanes := [] }
                 via := [c.scope], gens := [(l, s.arrivalField l 2)] }]
      else t)
  else s

/-- n of the bytes that a receiver has had are counted at its arrival word. -/
def State.countAtWord (s : State) (id m gid aoff n : Nat) : State :=
  let s := match Table.get? s.cmds id with
    | some c => s.countReleased id c (.bench gid aoff)
    | none => s
  (s.modCmd id (fun x => { x with counts := Table.put 0 x.counts m (Table.getD x.counts m 0 - n) })).countBytes id gid aoff n

/-- The same, for the receiver with a member number. -/
def State.postCount (s : State) (id : Nat) (c : Cmd) (m n : Nat) : State :=
  match c.kind, s.wg? c.wg with
  | .tcopy _ _ _ _ _ _ aoff _ _ _ _, some g =>
    (match s.memberPlace g.team m aoff with
      | some p => s.countAtWord id m p.1 aoff n
      | none => s)
  | _, _ => s

/-- The bytes of the row that comes next to a receiver that it has had. -/
def Cmd.hadBytes (c : Cmd) (m : Nat) : Nat := ((c.wordsDone.filter (fun w => w.1 == m)).map (fun w => w.2.2)).foldl (· + ·) 0

/-- One row written at one receiver and counted at its arrival word (R261, R262). With REL the count is the release, which stands after
the last write (R243): it is kept for the command's end. -/
def State.landRow (s : State) (id : Nat) (c : Cmd) (m gid off aoff : Nat) (aw : Bool) (bytes : List Byte) : State :=
  let s := (s.writePlaces (c.stillAt m ((benchLocs gid off bytes.length).map some)) bytes).modCmd id (fun x =>
    (x.rowHad m).uncounted m (bytes.length - x.hadBytes m))
  if c.rel || !aw then s
  else s.countAtWord id m gid aoff (((Table.get? s.cmds id).map (fun d => Table.getD d.counts m 0)).getD 0)

/-- Every byte still uncounted is counted (R243, R262). -/
def State.postCounts (s : State) (id : Nat) (c : Cmd) : State := c.counts.foldl (fun s p => s.postCount id c p.1 p.2) s

/-- Row r of a copy is read whole (R261), after the rows that have been read from the cursor on. -/
def State.readRow (s : State) (id : Nat) (c : Cmd) (r : Nat) : State :=
  match c.kind, s.wg? c.wg with
  | .tcopy src _ n _ ss _ _ _ dir _ _, some g =>
    let from_ := s.rowSource c g dir (rowAt src ss r) n
    (s.readFree from_).modCmd id (fun x => { x with rowsRead := x.rowsRead ++ [c.withWords r (s.readPlaces from_)] })
  | _, _ => s

/-- A row is written at a receiver, and counted there (R261, R262). -/
def State.rowAtReceiver (s : State) (id : Nat) (c : Cmd) (r m : Nat) (bytes : List Byte) : State :=
  match c.kind, s.wg? c.wg with
  | .tcopy _ dst _ _ _ ds aoff aw _ _ _, some g =>
    (match s.receiverPlace c.wg g m (rowAt dst ds r) with
      | some p => s.landRow id c m p.1 p.2.2 aoff aw bytes
      | none => s)
  | _, _ => s

/-- The receivers that have not had the row at the cursor (R262). -/
def Cmd.behind (c : Cmd) (mask : BitVec 8) : List Nat :=
  (List.range 8).filter (fun m => mask.getLsbD m && Table.getD c.reached m 0 == 0)

/-- A copy's row at the cursor is done. -/
def Cmd.nextRow (c : Cmd) : Cmd :=
  { c with
    cursor := c.cursor + 1, rowsRead := c.rowsRead.drop 1, wordsRead := c.wordsRead.filter (fun w => w.1 != c.cursor)
    reached := c.reached.filterMap (fun p => if p.2 ≤ 1 then none else some (p.1, p.2 - 1)) }

/-- The next row of a copy: read whole, where it has not been read yet, then written at each receiver that has not had it (R261, R262). -/
def State.copyRow (s : State) (id : Nat) (c : Cmd) : State :=
  match c.kind, s.wg? c.wg with
  | .tcopy src dst n _ ss ds _ _ dir mask _, some g =>
    let from_ := s.rowSource c g dir (rowAt src ss c.cursor) n
    let bytes := c.rowsRead.headD (c.withWords c.cursor (s.readPlaces from_))
    let s := if c.rowsRead.isEmpty then s.readFree from_ else s
    let s :=
      if dir = 1#2 then
        (s.writePlaces (c.stillAt 0 (s.rangePlaces c.ctx g true (some .write) (rowAt dst ds c.cursor) n)) bytes).modCmd id (fun x => x.rowHad 0)
      else (c.behind mask).foldl (fun s m => s.rowAtReceiver id c c.cursor m bytes) s
    (s.modCmd id Cmd.nextRow).requestLines id
  | _, _ => s

/-- The command's accesses may go on, its responses aside. -/
def State.cmdGoes (s : State) (c : Cmd) : Bool := c.state == .running && s.wgPresent c.wg

/-- What a row that has not been read requests of other devices is answered: the row at the cursor has asked, and a later one can ask and be
answered now (R205, R381). -/
def State.rowAnswered (s : State) (c : Cmd) (r : Nat) : Bool :=
  if r = c.cursor then !c.waitsRemote else s.enginePortsTake ((s.cmdGranules c (c.kind.rowRanges r)).flatMap s.granuleLines)

/-- A receiver may have the next row that it has not had, by itself (R262): the row has been read, or is the next to be read. -/
def State.mayReceive (s : State) (c : Cmd) (m : Nat) : Bool :=
  match c.kind with
  | .tcopy _ _ _ rows _ _ _ _ dir mask _ =>
    let j := Table.getD c.reached m 0
    s.cmdGoes c && dir != 1#2 && mask.getLsbD m && decide (c.cursor + j < rows) &&
      (decide (j < c.rowsRead.length) || (j == c.rowsRead.length && s.rowAnswered c (c.cursor + j)))
  | _ => false

/-- The next row that a receiver has not had lands there by itself. -/
def State.receiveRow (s : State) (id : Nat) (c : Cmd) (m : Nat) : State :=
  let j := Table.getD c.reached m 0
  let s := if j < c.rowsRead.length then s else s.readRow id c (c.cursor + j)
  match Table.get? s.cmds id with
  | none => s
  | some d => (s.rowAtReceiver id d (d.cursor + j) m (d.rowsRead.getD j [])).modCmd id (fun x =>
      { x with reached := Table.put 0 x.reached m (j + 1) })

/-- The naturally aligned four bytes that hold byte i of row r are read before the rest of it (R261). -/
def State.readWord (s : State) (id : Nat) (c : Cmd) (r i : Nat) : State :=
  match c.kind, s.wg? c.wg with
  | .tcopy src _ n rows ss _ _ _ dir _ _, some g =>
    let a := rowAt src ss r
    let w := wordOf a.toNat n i
    if s.cmdGoes c && decide (c.cursor + c.rowsRead.length ≤ r) && decide (r < rows) && decide (i < n) &&
        (dir != 0#2 || s.rowAnswered c r) && !c.wordsRead.any (fun x => x.1 == r && x.2.1 == w.1) then
      s.requestNext c (if dir = 0#2 then [(a + BitVec.ofNat 64 w.1, w.2)] else []) (fun s =>
        let ps := ((s.rowSource c g dir a n).drop w.1).take w.2
        (s.readFree ps).modCmd id (fun x => { x with wordsRead := x.wordsRead ++ [(r, w.1, s.readPlaces ps)] }))
    else s
  | _, _ => s

/-- Four bytes of the row that comes next to a receiver are written there before the rest of it, once the row has been read whole (R261). -/
def State.writeWordAt (s : State) (id : Nat) (c : Cmd) (m j a n i : Nat) (ranges : List (Dword × Nat)) (places : State → List (Option Loc)) : State :=
  let w := wordOf a n i
  if c.hadAt m i || decide (n ≤ i) then s
  else s.requestNext c (ranges ++ if j < c.rowsRead.length then [] else c.kind.rowSources (c.cursor + j)) (fun s =>
    let s := if j < c.rowsRead.length then s else s.readRow id c (c.cursor + j)
    match Table.get? s.cmds id with
    | none => s
    | some d => (s.writePlaces (((places s).drop w.1).take w.2) (((d.rowsRead.getD j []).drop w.1).take w.2)).modCmd id (fun x =>
        { x.uncounted m w.2 with wordsDone := x.wordsDone ++ [(m, w.1, w.2)] }))

/-- Four bytes of the next row are written at a receiver, or in memory, by themselves (R261): what Input.writeWord names. -/
def State.writeWord (s : State) (id : Nat) (c : Cmd) (m i : Nat) : State :=
  match c.kind, s.wg? c.wg with
  | .tcopy _ dst n rows _ ds _ _ dir _ _, some g =>
    if dir = 1#2 then
      let a := rowAt dst ds c.cursor
      if s.cmdGoes c && m == 0 && decide (c.cursor < rows) && !c.waitsRemote then
        s.writeWordAt id c 0 0 a.toNat n i [(a + BitVec.ofNat 64 (wordOf a.toNat n i).1, (wordOf a.toNat n i).2)]
          (fun s => s.rangePlaces c.ctx g true (some .write) a n)
      else s
    else
      let j := Table.getD c.reached m 0
      (match s.receiverPlace c.wg g m (rowAt dst ds (c.cursor + j)) with
        | some p => if s.mayReceive c m then s.writeWordAt id c m j p.2.2 n i [] (fun _ => (benchLocs p.1 p.2.2 n).map some) else s
        | none => s)
  | _, _ => s

/-- Rows of a copy. -/
def CmdKind.copyRows : CmdKind → Option Nat
  | .tcopy _ _ _ rows _ _ _ _ _ _ _ => some rows
  | _ => none

/-- Rows of an MXOP. -/
def CmdKind.mxRows : CmdKind → Option Nat
  | .mxop _ rows _ _ _ _ => some rows
  | _ => none

/-! ### The matrix engine (R78 to R80, R270 to R276) -/

/-- The bench of the member on a core, as one value of n bytes. -/
def State.coreBench (s : State) (team core off n : Nat) : Nat :=
  match s.memberOn team core with
  | some p => s.readLocs (benchLocs p.1 off n)
  | none => 0

/-- The little-endian value of bytes. -/
def bytesValue : List Byte → Nat
  | [] => 0
  | b :: r => b.toNat + 256 * bytesValue r

/-- The low n bytes of a value, little-endian. -/
def valueBytes (n x : Nat) : List Byte := (List.range n).map (fun i => BitVec.ofNat 8 (x / 256 ^ i))

/-- What a matrix command reads as element i of its row or part r: x, of n bytes, unless it has been read before the rest (R243, R272). -/
def Cmd.orRead (c : Cmd) (r i n x : Nat) : Nat :=
  match c.wordsRead.find? (fun w => w.1 == r && w.2.1 == i) with
  | some w => bytesValue (w.2.2.take n)
  | none => x

/-- A value times 2^e, exactly. -/
def FVal.scale (v : FVal) (e : Int) : FVal :=
  match v with
  | .num neg m d => .num neg m (d + e)
  | v => v

/-- A matrix element of a format other than LQ2 (R75, R78). -/
def matrixElem (m : BitVec 4) (code : Nat) : FVal :=
  match m.toNat with
  | 0 => decodeF .bf16 code
  | 1 => decodeF .fp16 code
  | 2 => decodeF .e4m3 code
  | 3 => decodeF .e5m2 code
  | 4 => decodeF .mf8 code
  | _ => FVal.ofInt (signedBits 8 code)

/-- An LQ2 element times its group scale (R78): the product of a zero element and an infinite scale is an invalid operand. -/
def lq2Product (k : Int) (coset : Nat) (scale : FVal) : FVal :=
  let v := FVal.ofScaled (2 * k + (coset : Nat)) (-1) false
  match v, scale with
  | .num neg m d, .num sg n e => .num (neg != sg) (m * n) (d + e)
  | .num neg m _, .inf sg => if m = 0 then .nan true else .inf (neg != sg)
  | _, x => .nan x.isSnan

/-- An element of the B tile as it enters a PE (R78, R270). -/
def tileValue (mb : BitVec 4) (sb : BitVec 8) (code : BitVec 24) : FVal :=
  (if isLq2 mb then lq2Product ((bitsAt code 16 2 : Int) - 2) (bitsAt code 18 1) (decodeF .bf16 (bitsAt code 0 16))
   else matrixElem mb code.toNat).scale sb.toInt

/-- The element of K-row k and column cl of a top-edge core's bench, as the tile keeps it (R270). -/
def State.tileCode (s : State) (c : Cmd) (part team core boff soff bstride : Nat) (mb : BitVec 4) (k cl : Nat) : BitVec 24 :=
  let read (i : Nat) : Nat :=
    let p := tilePlace boff soff bstride mb k cl i
    c.orRead part i p.2 (s.coreBench team core p.1 p.2)
  if isLq2 mb then BitVec.ofNat 24 (read 1 + (lqK (read 0) (k % 8) + 2).toNat * 2 ^ 16 + lqCoset (read 0) * 2 ^ 18)
  else BitVec.ofNat 24 (read 0)

/-- The element of K-row k and column col of MXLDB's tile is read (R270). -/
def State.loadTileElem (s : State) (id : Nat) (c : Cmd) (part boff soff bstride : Nat) (mb : BitVec 4) (k col : Nat) : State :=
  match s.wg? c.wg, (topEdge c.leader (shapeCores c.shape).2)[col / 8]? with
  | some g, some top => s.modCmd id (fun x => { x with
      loaded := Table.put 0 x.loaded (256 * k + col) (s.tileCode c part g.team top boff soff bstride mb k (col % 8)) })
  | _, _ => s

/-- The tile that an MXLDB has loaded takes the place of the one before, with its format and its scale (R270). Where the bond has been broken for a
save already, it is the image's (R256, R366). -/
def State.endTile (s : State) (c : Cmd) (tile : Table (BitVec 24)) (mb : BitVec 4) (sb : BitVec 8) : State :=
  match (s.teamOf c.wg).bind (fun tid => (s.team? tid).map (fun t => (tid, t))) with
  | none => s
  | some (tid, t) =>
    if t.state.goesOn then s.modCore c.leader (fun x => { x with tile := tile, tileFmt := some mb, tileScale := sb })
    else s.setTeam tid { t with savedBonds := t.savedBonds.map (fun b =>
      if b.formed && t.cores.getD b.leader 768 == c.leader then { b with tile := tile, tileFmt := some mb, tileScale := sb } else b) }

/-- Infinities of both signs stand among addends (R79). -/
def oppositeInf (xs : List FVal) : Bool := xs.contains (.inf false) && xs.contains (.inf true)

/-- The exact sum of addends, from the first on (R80). -/
def exactSum : List FVal → FVal
  | [] => .num false 0 0
  | x :: xs => xs.foldl (fun t y => (t.add .rne y).1) x

/-- One PE row: its exact sum of products added to the partial sum that enters it, with one rounding (R80). The sum has no order, so
infinities of opposite signs among its addends raise INV wherever they stand, a NaN among them or not (assumption log 70). -/
def peRow (w : Nat) (a b : Nat → FVal) (p : BitVec 40 × BitVec 5) (r : Nat) : BitVec 40 × BitVec 5 :=
  let ms := (List.range w).map (fun i => (a (r * w + i)).mul (b (r * w + i)))
  let q := addAF40 (decodeAF40 p.1) (exactSum (ms.map Prod.fst))
  let raised := ms.foldl (fun f m => f ||| m.2) 0
  (q.1, p.2 ||| raised ||| flagIf (oppositeInf (decodeAF40 p.1 :: ms.map Prod.fst)) fINV ||| q.2)

/-- One accumulator updated with row a and column b of the tile (R80): its new value and the flags. -/
def updateAcc (rows w : Nat) (a b : Nat → FVal) (acc : BitVec 40) : BitVec 40 × BitVec 5 :=
  let p := (List.range rows).foldl (peRow w a b) (0, 0)
  let q := addAF40 (decodeAF40 acc) (decodeAF40 p.1)
  (q.1, p.2 ||| q.2)

/-- The leader's engine holds a B tile that was loaded for the width class of an MXOP (R270, R271). It holds none where each
MXLDB that R271 asks for was cancelled (R259). -/
def tileHeld (core : Core) (ma : BitVec 4) : Bool := core.tileFmt.any (fun mb => wide16 mb == wide16 ma)

/-- The element of K-row k and column col that a PE holds (R78, R270): a free value where no tile is held. -/
def State.tileElem (s : State) (core : Core) (ma : BitVec 4) (k col : Nat) : FVal :=
  if tileHeld core ma then tileValue (core.tileFmt.getD ma) core.tileScale (Table.getD core.tile (256 * k + col) 0)
  else
    let x := Config.unheldTile (s.free + 256 * k + col)
    let mb := x.extractLsb' 32 4
    let code := x.extractLsb' 0 24
    tileValue mb (x.extractLsb' 24 8) (if isLq2 mb then code else BitVec.ofNat 24 (code.toNat % 2 ^ (8 * elemBytes mb)))

/-- The next A row of an MXOP (R271): it updates the reservations that the MXOP was checked against. -/
def State.mxRow (s : State) (id : Nat) (c : Cmd) : State :=
  match c.kind, s.wg? c.wg with
  | .mxop aoff _ acc astride ma sa, some g =>
    let rc := shapeCores c.shape
    let m := c.cursor
    let w := dotWidth ma
    let es := elemBytes ma
    let core := s.core c.leader
    let av := (leftEdge c.leader rc.1).zipIdx.flatMap (fun l => (List.range (8 * w)).map (fun kl =>
      (matrixElem ma (c.orRead m (8 * w * l.2 + kl) es (s.coreBench g.team l.1 (aoff + m * astride + kl * es) es))).scale sa.toInt))
    let a (k : Nat) : FVal := av.getD k (.num false 0 0)
    let step (q : State × List (BitVec 5)) (col : Nat) : State × List (BitVec 5) :=
      match c.holders[col / 8]? with
      | none => q
      | some wid =>
        let i := acc + 8 * m + col % 8
        let old := Table.getD (((q.1.warp? wid).map Warp.msm).getD []) i 0
        let r := updateAcc (8 * rc.1) w a (fun k => s.tileElem core ma k col) old
        (q.1.modWarp wid (fun x => { x with msm := Table.put 0 x.msm i r.1 }), q.2 ++ [r.2])
    let q := (List.range (8 * rc.2)).foldl step (s, [])
    let t := if tileHeld core ma then q.1 else { q.1 with free := q.1.free + 2 ^ 20 }
    (t.engineFlags id c.wg engME q.2).modCmd id (fun x => { x with cursor := x.cursor + 1, wordsRead := x.wordsRead.filter (fun w => w.1 != m) })
  | _, _ => s

/-- Accumulator n of an MSMRD, row by row and column by column (R276). Its read and its ZERO write are one action, between which no row update of an
unordered MXOP falls (R277; DESIGN CHOICE, assumption log 110). -/
def State.readAcc (s : State) (c : Cmd) (doff acc dstride : Nat) (tf rm : BitVec 3) (zero : Bool) (n : Nat) : State × List (BitVec 5) :=
  let f := CvtFmt.ofIndex tf.toNat
  let es := f.width / 8
  let x := Table.getD (((s.warp? c.warp).map Warp.msm).getD []) (acc + n) 0
  let r := f.narrow (Rm.ofCode rm.toNat) (decodeAF40 x)
  let ls := benchLocs c.wg (doff + n / 8 * dstride + n % 8 * es) es
  let s := (s.overwritten ls).writeLocs ls r.bits
  ((if zero then s.modWarp c.warp (fun w => { w with msm := Table.put 0 w.msm (acc + n) 0 }) else s), [r.flags])

/-! ### COLL and CBULK (R285, R286) -/

/-- The format of a COLL element (R285). -/
def collFmt (ef : Nat) : Fmt := if ef = 0 then .fp32 else if ef = 1 then .bf16 else .e4m3

/-- Two addends of a switch added with one rounding (R383). -/
def switchAdd (x y : FVal) : FVal × BitVec 5 :=
  let r := roundVal .fp32 .rne (x.add .rne y)
  (decodeF .fp32 r.bits, r.flags)

/-- One addition of the group's tree: the addends at a place and behind it give way to their sum (R383). -/
def treeStep (q : List FVal × BitVec 5) (k : Nat) : List FVal × BitVec 5 :=
  match q.1.drop k with
  | x :: y :: r =>
    let z := switchAdd x y
    (q.1.take k ++ z.1 :: r, q.2 ||| z.2)
  | _ => q

/-- The sum of the members' elements, with the flags of every addition (R383). Each is widened exactly, and SIZE less one additions with
RNE leave one sum. The tree and the ports are fixed by the cabling, which the spec does not give: at which place among the others' elements
this device's stands, and which two neighbours each addition takes, is free (assumption log 59). -/
def switchSum (order : Nat → Nat) (own : FVal) (others : List FVal) : FVal × BitVec 5 :=
  let p := order 0 % (others.length + 1)
  let q := (List.range others.length).foldl (fun q j => treeStep q (order (j + 1) % (others.length - j)))
    (others.take p ++ own :: others.drop p, 0)
  (q.1.headD own, q.2)

/-- The elements that the other members send for element i of a run (R285). Free (assumption log 4). -/
def State.othersElems (s : State) (f : Fmt) (size i : Nat) : List FVal :=
  (List.range (size - 1)).map (fun q => decodeF f ((Config.memberElem (s.free + size * i + q)).toNat % 2 ^ f.width))

/-- Element i of a run, summed, then narrowed once into EF (R285, R383): its code, with the flags of the narrowing and of the additions,
and the flags of the additions alone. -/
def State.reduced (s : State) (f : Fmt) (rm : Rm) (group : Nat) (gr : Group) (i : Nat) (own : Nat) : FRes × BitVec 5 :=
  let w := switchSum (Config.switchOrder group gr.tree.toNat) (decodeF f own) (s.othersElems f gr.size.toNat i)
  let r := narrowF f rm w.1
  (⟨r.bits, r.flags ||| w.2⟩, w.2)

/-- The bytes that a run of n elements from number lo on writes, the flags of each element written, and those of additions whose sums this
device does not write (R285, R383). -/
def State.collWrites (s : State) (count group : Nat) (kind ef rm : BitVec 3) (root : Nat) (gr : Group) (lo n : Nat) (mine : List Byte) :
    List Byte × List (BitVec 5) × List (BitVec 5) :=
  let rank := gr.rank.toNat
  let es := collBytes ef.toNat
  let outside (i : Nat) : List Byte := (List.range es).map (fun j => Config.outsideByte (s.free + es * i + j))
  let sum (i : Nat) : FRes × BitVec 5 := s.reduced (collFmt ef.toNat) (Rm.ofCode rm.toNat) group gr i (bytesValue ((mine.drop (es * i)).take es))
  match kind.toNat with
  | 0 =>
    let rs := (List.range n).map sum
    (rs.flatMap (fun r => valueBytes es r.1.bits), rs.map (fun r => r.1.flags), [])
  | 1 => (if rank = root then mine else (List.range n).flatMap outside, [], [])
  | 2 =>
    let own := amongRun lo n (rank * count) (rank * count + count)
    ((List.range n).flatMap (fun i =>
      let j := lo + i
      if rank * count ≤ j ∧ j < rank * count + count then (mine.drop (es * (j - rank * count - own.1))).take es else outside i), [], [])
  | _ =>
    let m := count / gr.size.toNat
    let rs := (List.range n).map (fun i => (decide (rank * m ≤ lo + i) && decide (lo + i < rank * m + m), sum i))
    let here := (rs.filter Prod.fst).map Prod.snd
    (here.flatMap (fun r => valueBytes es r.1.bits), here.map (fun r => r.1.flags), (rs.filter (fun r => !r.1)).map (fun r => r.2.2))

/-- The n elements of a COLL from number lo on (R285, R383): all are read before one is written. -/
def State.collRunStep (s : State) (id : Nat) (c : Cmd) (lo n : Nat) (src dst : Dword) (count group : Nat) (kind ef rm : BitVec 3) (root : Nat)
    (gr : Group) : State :=
  match s.wg? c.wg with
  | none => s
  | some g =>
    let es := collBytes ef.toNat
    let r := collRun kind.toNat count root gr lo n
    let from_ := if r.reads = 0 then [] else s.rangePlaces c.ctx g false (some .read) (src + BitVec.ofNat 64 (es * r.src)) (es * r.reads)
    let mine := s.readPlaces from_
    let s := s.readFree from_
    let w := s.collWrites count group kind ef rm root gr lo n mine
    let to_ := if r.writes = 0 then [] else s.rangePlaces c.ctx g false (some .write) (dst + BitVec.ofNat 64 (es * r.dst)) (es * r.writes)
    let t := s.writePlaces to_ w.1
    (({ t with free := t.free + (gr.size.toNat + es) * n } : State).quietFlags c.wg engCO w.2.2).engineFlags id c.wg engCO w.2.1

/-- Elements of a COLL (R285). Before the first that it performs, this device learns whether the others named the same KIND, EF, COUNT and
ROOT, which is free (assumption log 4): where they did not, it raises COLL_MISMATCH and nothing is written. -/
def State.collective (s : State) (id : Nat) (c : Cmd) (ns : List Nat) (src dst : Dword) (count group : Nat) (kind ef rm : BitVec 3) (root : Nat)
    (gr : Group) : State :=
  let first := c.cursor == 0 && c.aside.isEmpty && gr.size != 1
  let agree := !first || Config.collAgrees s.free
  let s : State := if first then { s with free := s.free + 1 } else s
  if !agree then s.faultCmd id { code := Code.collMismatch, detail := BitVec.ofNat 18 group }
  else if c.fault.isSome then s
  else if c.aside.isEmpty then s.collRunStep id c (ns.headD c.cursor) ns.length src dst count group kind ef rm root gr
  else ns.foldl (fun s n => s.collRunStep id c n 1 src dst count group kind ef rm root gr) s

/-- One element of a CBULK: its new value and flags (R286). -/
def bulkElem (opn : Nat) (ef : Nat) (rm : Rm) (d x : Nat) : Nat × List (BitVec 5) :=
  if ef = 2 then
    let a := signedBits 32 d
    let b := signedBits 32 x
    (intBits 32 (match opn with
      | 0 => a + b
      | 1 => min a b
      | 2 => max a b
      | _ => a * b), [])
  else
    let f : Fmt := if ef = 0 then .fp32 else .bf16
    let one (d x : Nat) : FRes := match opn with
      | 0 => fAdd f rm d x
      | 1 => minMax f false d x
      | 2 => minMax f true d x
      | _ => fMul f rm d x
    if ef = 0 then
      let r := one d x
      (r.bits, [r.flags])
    else
      let lo := one (d % 2 ^ 16) (x % 2 ^ 16)
      let hi := one (d / 2 ^ 16) (x / 2 ^ 16)
      (lo.bits + hi.bits * 2 ^ 16, [lo.flags, hi.flags])

/-- Element i of a CBULK (R195, R286). -/
def State.bulkPart (s : State) (c : Cmd) (dst src : Dword) (opn : BitVec 3) (ef : BitVec 2) (rm : BitVec 3) (imm : Bool) (operand : Word)
    (i : Nat) : State × List (BitVec 5) :=
  match s.wg? c.wg with
  | none => (s, [])
  | some g =>
    let off := BitVec.ofNat 64 (4 * i)
    let at_ := s.rangePlaces c.ctx g false (some .both) (dst + off) 4
    let from_ := if imm then [] else s.rangePlaces c.ctx g false (some .read) (src + off) 4
    let x := if imm then operand.toNat else bytesValue (s.readPlaces from_)
    let t := s.readFree from_
    let r := bulkElem opn.toNat ef.toNat (Rm.ofCode rm.toNat) (bytesValue (t.readPlaces at_)) x
    ((t.readFree at_).writePlaces at_ (valueBytes 4 r.1), r.2)

/-! ### Parts of commands (R195, R270, R276, R277, R286) -/

/-- Part n of a command, and the flags that it raises. -/
def State.cmdPart (s : State) (id : Nat) (c : Cmd) (n : Nat) : State × List (BitVec 5) :=
  match c.kind with
  | .mxldb boff soff bstride mb _ =>
    let cols := 8 * (shapeCores c.shape).2
    (s.loadTileElem id c n boff soff bstride mb (n / cols) (n % cols), [])
  | .msmrd doff _ acc dstride tf rm zero => s.readAcc c doff acc dstride tf rm zero n
  | .cbulk dst src _ opn ef rm imm x => s.bulkPart c dst src opn ef rm imm x n
  | _ => (s, [])

/-- The parts of a command that are still to be performed, in ascending order. -/
def Cmd.left (c : Cmd) : List Nat :=
  ((List.range (c.parts - c.cursor)).map (fun i => c.cursor + i)).filter (fun n => !c.aside.contains n)

/-- Row or part r of a matrix command is still to be performed. -/
def Cmd.rowLeft (c : Cmd) (r : Nat) : Bool :=
  match c.kind with
  | .mxop _ rows _ _ _ _ => decide (c.cursor ≤ r) && decide (r < rows)
  | .mxldb _ _ _ _ _ => c.left.contains r
  | _ => false

/-- An element of a running matrix command is read before the rest (R243, R272). -/
def State.elemRead (s : State) (id : Nat) (c : Cmd) (r i : Nat) : State :=
  match s.wg? c.wg, c.matrixPlace r i with
  | some g, some p =>
    if s.cmdGoes c && c.rowLeft r && decide (i < c.rowElems) && !c.wordsRead.any (fun x => x.1 == r && x.2.1 == i) then
      s.modCmd id (fun x => { x with wordsRead := x.wordsRead ++ [(r, i, valueBytes p.2.2 (s.coreBench g.team p.1 p.2.1 p.2.2))] })
    else s
  | _, _ => s

/-- An element of a matrix command is read before the rest: its engine may still be performing earlier commands, with whose ends nothing orders
the reading (R243, R272). The command begins with it (R258). -/
def State.readElem (s : State) (id : Nat) (c : Cmd) (r i : Nat) : State :=
  if c.state == .queued then
    if c.kind.isMatrix && s.startable c && s.cmdFree id c then
      let t := s.startCmd id c
      match Table.get? t.cmds id with
      | some d => t.elemRead id d r i
      | none => t
    else s
  else s.elemRead id c r i

/-- Bytes that a receiver has had may be counted (R262): with REL not before the last write, unless the receiver lies outside the instance of
SCOPE, to which nothing but its own bytes is released (R232, R243). -/
def State.mayCount (s : State) (id : Nat) (c : Cmd) (m : Nat) : Bool :=
  s.cmdGoes c && (!c.rel || (c.scope == .wg && ((s.wg? c.wg).any (fun g => g.member != m))) ||
    c.kind.copyRows.any (fun r => decide (r ≤ c.cursor)))

/-- n of the bytes that a receiver has had are counted at its arrival word: what Input.count names. -/
def State.countAt (s : State) (id m n : Nat) : State :=
  match Table.get? s.cmds id with
  | none => s
  | some c => if s.mayCount id c m && decide (0 < n) && decide (n ≤ Table.getD c.counts m 0) then s.postCount id c m n else s

/-- The part at the cursor is done. -/
def Cmd.nextPart (c : Cmd) : Cmd := { c with cursor := c.cursor + 1, aside := c.aside.filter (· != c.cursor) }

/-- Parts of a command, one after the other. -/
def State.cmdParts (s : State) (id : Nat) (c : Cmd) (ns : List Nat) : State :=
  match c.kind with
  | .coll src dst count group kind ef rm root gr => s.collective id c ns src dst count group kind ef rm root gr
  | k =>
    let q := ns.foldl (fun (q : State × List (BitVec 5)) n =>
      let r := q.1.cmdPart id c n
      (r.1, q.2 ++ r.2)) (s, [])
    let place := match k with
      | .cbulk _ _ _ _ _ _ _ _ => engCO
      | _ => engME
    q.1.engineFlags id c.wg place q.2

/-! ### Completion (R257, R258) -/

/-- The command may end now: LAUNCH and PLNGO are releases of what their lanes did before (R37, R280). -/
def State.mayComplete (s : State) (id : Nat) (c : Cmd) : Bool :=
  !c.ended && s.wgPresent c.wg && !c.waitsRemote &&
    (match c.kind with
      | .tcopy _ _ _ rows _ _ _ _ _ _ _ => c.state == .running && decide (rows ≤ c.cursor)
      | .mxop _ rows _ _ _ _ => c.state == .running && decide (rows ≤ c.cursor)
      | .mxldb _ _ _ _ _ => c.state == .running && s.matrixQuiet c.leader id c.wg
      | .msmrd _ _ _ _ _ _ _ | .coll _ _ _ _ _ _ _ _ _ | .cbulk _ _ _ _ _ _ _ _ | .compact _ _ => c.state == .running
      | .value _ => true
      | .launch _ _ => s.quietBefore c.warp id c.active
      | .bbrk => s.wgResident c.wg && s.matrixQuiet c.leader id c.wg
      | .msmf => ((s.warp? c.warp).bind Warp.msmFree).isNone
      | .plngo => s.quietBefore c.warp id c.active
      | .mxwait _ | .mxacq | .mxrel | .bform _ | .bjoin _ | .msma _ | .plnstop => false)

/-- The teams of a grid begin to wait (R330, R340). -/
def State.makeTeams (s : State) (grid n : Nat) : State :=
  (List.range n).foldl (fun s i =>
    let f := s.fresh
    f.2.setTeam f.1 { grid := grid, number := i, firstWaiting := s.tick }) s

/-- The planer that a PLNGO starts comes after what its lanes did before (R280). -/
def State.handPlaner (s : State) (id : Nat) (c : Cmd) : State :=
  match (s.core c.core).planerWarp with
  | none => s
  | some w => s.mapTrails (fun t =>
      if (releaseOf c.warp c.active).lanes.any (s.isAfter t id (releaseOf c.warp c.active)) then t.add [acquireAt w c.wg (BitVec.allOnes 64) s.serial]
      else t)

/-- What a command does in its last action. -/
def State.lastAction (s : State) (id : Nat) (c : Cmd) : State :=
  match c.kind with
  | .mxldb _ _ _ mb sb =>
    let s := s.cmdParts id c c.left
    s.endTile c (((Table.get? s.cmds id).map Cmd.loaded).getD []) mb sb
  | .msmrd _ _ _ _ _ _ _ | .cbulk _ _ _ _ _ _ _ _ | .coll _ _ _ _ _ _ _ _ _ => s.cmdParts id c c.left
  | .tcopy _ _ _ _ _ _ _ _ _ _ _ => s.postCounts id c
  | .value x => s.writeDest id c.warp 4 c.dest 0 x.toNat
  | .launch x g =>
    let s := (s.writeDest id c.warp 4 c.dest 0 x.toNat).releaseTo c.warp id c.active (.grid g)
    (s.modGrid g (fun y => { y with ready := true })).makeTeams g (((s.grid? g).map (fun y => y.record.teams)).getD 0)
  | .plngo => s.handPlaner id c
  | .bbrk => if (Table.get? s.bonds c.leader).any (fun b => b.formed && b.cmd == c.bond) then s.dropBond c.leader else s
  | _ => s

/-- The events of a command, counted as it retires (R86, R87): an EVENT_LIMIT trap goes to the fragment that R255 names. -/
def State.retireEvents (s : State) (c : Cmd) : State :=
  match s.wg? c.wg with
  | none => s
  | some g =>
    let r := (s.setWg c.wg g.startWindow).fireEvents c.wg c.events
    if r.2 = 0 then r.1
    else
      r.1.deferLimit c.ctx c.warp c.wg c.active { code := Code.eventLimit, evt := r.2, tick := s.tick }

/-- A command completes: its last action, its flags and events, its token, and its place in EC (R85, R257, R258). -/
def State.completeCmd (s : State) (id : Nat) (c : Cmd) : State :=
  let s := (s.lastAction id c).endedBefore id
  match Table.get? s.cmds id with
  | none => s
  | some d => (s.retireEvents d).endCmd id

/-! ### Bonds (R17, R266, R337) -/

/-- Seam channels that bonds of a team have bound. -/
def State.teamBound (s : State) (team : Nat) : Nat :=
  s.bonds.foldl (fun n p => if p.2.formed && p.2.team == team then n + p.2.channels else n) 0

/-- A team may hold bonds on its cores: from its placement until its image is saved (R366, R368). -/
def Team.holdsBonds (t : Team) : Bool := t.state.onCores

/-- Seam channels bound or earmarked, `extra` more being wanted for a team (R17, R337). -/
def State.seamLoad (s : State) (team extra : Nat) : Nat :=
  s.teams.foldl (fun n p =>
    if p.2.holdsBonds then n + max p.2.earmark (s.teamBound p.1 + if p.1 = team then extra else 0) else n) 0

/-- The bond led by a core may form (R266): it forms in the first tick in which this holds. One of a team that is being saved forms after its
resume (R369). -/
def State.mayForm (s : State) (leader : Nat) (b : Bond) : Bool :=
  !b.formed && (s.team? b.team).any (fun t => t.state.goesOn) && (b.members.all (fun m => m == leader || (s.core m).joined.any (fun j => j.team == b.team && j.leader == leader))) &&
    decide (s.seamLoad b.team b.channels ≤ Config.seamChannels)

/-- The bond forms (R266, R270): its members' tiles are discarded, and BFORM and every BJOIN leave EC. It forms at once, also while an MXLDB or
MXOP of a member's own engine is outstanding, whose later rows then find no tile held: whether it waits for them the spec leaves open
(assumption log 94). -/
def State.formNow (s : State) (leader : Nat) (b : Bond) : State :=
  let joins := b.members.filterMap (fun m => (s.core m).joined.map Join.cmd)
  let s := b.members.foldl (fun s m => s.modCore m (fun x =>
    { x with joined := none, tile := [], tileFmt := none, tileScale := 0, width8 := none })) s
  let s : State := { s with bonds := Table.set s.bonds leader { b with formed := true } }
  (b.cmd :: joins).foldl (fun s i => s.endCmd i) s

end Sys2Proof.Machine
end

