-- ==== Sys2Proof/Machine/MemoryEvents.lean ====
section
/-! DEFINITION. The events of outstanding operations, engine commands and bonds: completions, remote responses, rows, starts and
formation (R100, R185, R206, R257, R258, R262, R266); and accesses that come from outside the package (R247, R376, R377). An event
that cannot happen in a state leaves the state as it is (assumption log 5). -/

namespace Sys2Proof.Machine

/-- What an event answers. -/
abbrev happens (s : State) : Host.Outcome State Fault Refusal := .next s

/-- An operation goes on as far as it may (R100, R185, R238). -/
def State.completeOp (s : State) (id : Nat) (inLC : Bool) : State :=
  match Table.get? s.ops id with
  | none => s
  | some o =>
    if o.op.inLC = inLC ∧ s.wgPresent o.wg = true ∧ s.opReady id o = true then
      let r := s.performOp id o
      if r.2 then r.1.finishOp id else r.1
    else s

/-- LOAD_COMPLETION (R100). -/
def execLoadCompletion (op : Nat) (s : State) := happens (s.completeOp op true)

/-- STORE_COMPLETION (R100). -/
def execStoreCompletion (op : Nat) (s : State) := happens (s.completeOp op false)

/-- The response to line n of an engine command arrives (R206, R381). -/
def State.respondCmd (s : State) (cmd n : Nat) : State :=
  match Table.get? s.cmds cmd with
  | none => s
  | some c =>
    match c.lines[n]? with
    | none => s
    | some l =>
      if l.sent && !l.answered then
        let s := s.modCmd cmd (fun c => { c with lines := c.lines.set n { l with answered := true } })
        (s.setSlots c.slotCore l.port (s.slotsUsed c.slotCore l.port - 1)).sendAll
      else s

/-- The response to line n of an operation arrives (R206): its slot is free again, and a waiting request may take it. -/
def State.respond (s : State) (op n : Nat) : State :=
  match Table.get? s.ops op with
  | none => s.respondCmd op n
  | some o =>
    match o.lines[n]? with
    | none => s
    | some l =>
      if l.sent && !l.answered then
        let core := ((s.wg? o.wg).map Wg.core).getD 0
        let s := s.modOp op (fun o => { o with lines := o.lines.set n { l with answered := true } })
        (s.setSlots core l.port (s.slotsUsed core l.port - 1)).sendWaiting core
      else s

/-- REMOTE_RESPONSE (R206). -/
def execRemoteResponse (op line : Nat) (s : State) := happens (s.respond op line)

/-- n bytes of the device's own memory at an address of its own map, as another agent names them (R181, R182, R247). -/
def State.ownBytes (s : State) (a n : Nat) : Option (List Loc) :=
  allSome ((List.range n).map (fun i => (ownCanon s.skipped (a + i)).map Loc.phys))

/-- What lies outside the package makes its accesses one after the other, each an acquire and a release at SYS scope (assumption log 9): one of these
bytes meets something left behind that an earlier one comes after, or would write what an atomic left behind has read (R220, R240). -/
def State.outsideBarred (s : State) (writes : Bool) (ls : List Loc) : Bool :=
  s.heldMeets (· == .outside) ls || (writes && s.debts.any (fun d => d.locks ls))

/-- Such a read: what it reads hands on what its writer released at SYS scope, or what a DONE word stands for (R37, R239). -/
def State.outsideSees (s : State) (ls : List Loc) : State :=
  s.mapTrails (fun t =>
    if t.after.any (fun e => ls.any e.live.contains && s.reaches e 0) || t.held.any (fun c => ls.any (fun l => c == .done l)) then t.hold .outside
    else t)

/-- Such a write releases what earlier ones come after; an atomic leaves what its bytes hold of others. -/
def State.outsideMarks (s : State) (atomic : Bool) (ls : List Loc) : State :=
  s.mapTrails (fun t =>
    let t := if atomic then t else t.kill ls
    if t.held.contains .outside then
      t.add [{ id := s.serial, op := { ownAccessOf 0 0 .store false true .rc [] with lanes := [] }, via := [.sys], live := ls }]
    else t)

/-- Another agent's read of some bytes is answered with what they hold (R205, R376). One that comes after what is left behind has to wait. -/
def State.answerWith (s : State) (ls : Option (List Loc)) : State :=
  match ls with
  | some ls => if s.outsideBarred false ls then s else { s.outsideSees ls with answer := ls.map s.readLoc }
  | none => s

/-- Another agent's write of some bytes. -/
def State.outsideWrites (s : State) (ls : List Loc) (bs : List Byte) : State :=
  if s.outsideBarred true ls then s else (s.outsideMarks false ls).writeBytes ls bs

/-- INBOUND_DOMAIN_REQUEST (R205, R220, R247): an address outside the map reaches nothing. -/
def State.inbound (s : State) (r : DomainRequest) : State :=
  match r with
  | .read a n => s.answerWith (s.ownBytes a n)
  | .write a bs =>
    (match s.ownBytes a bs.length with
      | some ls => s.outsideWrites ls bs
      | none => s)
  | .atomic a fn wide value new =>
    let n := if wide then 8 else 4
    (match s.ownBytes a n with
      | some ls =>
        if a % n ≠ 0 ∨ s.outsideBarred true ls = true then s
        else
          (match amoNew fn (8 * n) (s.readLocs ls) value.toNat new.toNat with
            | some x => ((s.answerWith (some ls)).outsideMarks true ls).writeLocs ls x
            | none => s.answerWith (some ls))
      | none => s)

def execInboundDomainRequest (req : DomainRequest) (s : State) := happens (s.inbound req)

/-- The bytes of device memory that the host reaches at an address (R375, R376): HBM through either window in the CXL modes, through the
linear window only in the PCIe modes, and CMEM. -/
def State.hostBytes (s : State) (a n : Nat) : Option (List Loc) :=
  let inter := decide (interBase ≤ a) && decide (a < interEnd)
  if inter && (s.portMode == .pcie6 || s.portMode == .pcie5) then none else s.ownBytes a n

/-- HOST_DEVICE_ACCESS (R247, R376). -/
def State.hostAccess (s : State) (a : HostAccess) : State :=
  match a.write with
  | none => s.answerWith (s.hostBytes a.addr a.size)
  | some bs =>
    (match s.hostBytes a.addr bs.length with
      | some ls => s.outsideWrites ls bs
      | none => s)

def execHostDeviceAccess (acc : HostAccess) (s : State) := happens (s.hostAccess acc)

/-- COPY_ROW_LANDING (R261, R262). -/
def State.landNext (s : State) (id : Nat) : State :=
  match Table.get? s.cmds id with
  | none => s
  | some c =>
    match c.kind.copyRows with
    | some rows => if c.state = .running ∧ c.cursor < rows ∧ s.wgPresent c.wg = true ∧ c.waitsRemote = false then
        s.requestNext c (c.nextRanges 0) (fun s => s.copyRow id c)
      else s
    | none => s

/-- A receiver of a copy has its next row by itself (R262): what Input.receive names. -/
def State.landAt (s : State) (id m : Nat) : State :=
  match Table.get? s.cmds id with
  | none => s
  | some c =>
    if s.mayReceive c m then
      let j := Table.getD c.reached m 0
      if j < c.rowsRead.length then s.receiveRow id c m
      else s.requestNext c (c.kind.rowRanges (c.cursor + j)) (fun s => s.receiveRow id c m)
    else s

/-- Four bytes of a copy's row, or an element of a matrix command's, by themselves (R243, R261, R272): what Input.readWord and Input.writeWord
name. -/
def State.readWordOf (s : State) (id r i : Nat) : State :=
  match Table.get? s.cmds id with
  | none => s
  | some c => if c.kind.copyRows.isSome then s.readWord id c r i else s.readElem id c r i

def State.writeWordOf (s : State) (id m i : Nat) : State :=
  match Table.get? s.cmds id with
  | none => s
  | some c => s.writeWord id c m i

def execCopyRowLanding (cmd : Nat) (s : State) := happens (s.landNext cmd)

/-- An A row is admitted and added (R271): what Input.row names. -/
def State.admitRow (s : State) (id : Nat) : State :=
  match Table.get? s.cmds id with
  | none => s
  | some c =>
    match c.kind.mxRows with
    | some rows => if c.state = .running ∧ c.cursor < rows ∧ s.wgResident c.wg = true ∧ s.turnOf id c = true then
        s.mxRow id c
      else s
    | none => s

/-- A part of a command may be performed by itself: an MXLDB's elements are read in no order with the ends of earlier commands (R243, R272). -/
def State.partMay (s : State) (c : Cmd) : Bool := s.cmdGoes c && !c.waitsRemote

/-- The next part of a command is performed by itself (R195, R270, R277, R286), unless it has been. -/
def State.partOfCmd (s : State) (id : Nat) : State :=
  match Table.get? s.cmds id with
  | none => s
  | some c =>
    if s.partMay c = true ∧ c.cursor < c.parts then
      let ns := if c.aside.contains c.cursor then [] else [c.cursor]
      s.requestNext c (c.partRanges ns) (fun s => (s.cmdParts id c ns).modCmd id Cmd.nextPart)
    else s

/-- An MXLDB of a team that is being saved, whose engine has not come to it, reads what is left of its tile (R256). -/
def State.readTile (s : State) (id : Nat) : State :=
  match Table.get? s.cmds id with
  | none => s
  | some c =>
    match c.kind with
    | .mxldb _ _ _ _ _ =>
      if s.partMay c && !s.wgResident c.wg && !s.turnOf id c && !c.left.isEmpty then
        (s.cmdParts id c c.left).modCmd id (fun x => { x with cursor := x.parts, aside := [] })
      else s
    | _ => s

/-- A part of a command is performed out of turn (R195, R261): what Input.piece names. -/
def State.pieceOfCmd (s : State) (id n : Nat) : State :=
  match Table.get? s.cmds id with
  | none => s
  | some c =>
    if s.partMay c = true ∧ c.cursor ≤ n ∧ n < c.parts ∧ c.aside.contains n = false then
      s.requestNext c (c.partRanges [n]) (fun s => (s.cmdParts id c [n]).modCmd id (fun x => { x with aside := x.aside ++ [n] }))
    else s

/-- ENGINE_COMMAND_START (R258). -/
def State.beginCmd (s : State) (id : Nat) : State :=
  match Table.get? s.cmds id with
  | none => s
  | some c => if s.mayStart id c then s.startCmd id c else s

def execEngineCommandStart (cmd : Nat) (s : State) := happens (s.beginCmd cmd)

/-- ENGINE_COMMAND_COMPLETION (R257, R258). -/
def State.finishCmd (s : State) (id : Nat) : State :=
  match Table.get? s.cmds id with
  | none => s
  | some c =>
    if !s.mayComplete id c then s
    else if c.kind.copyRows.isSome then s.completeCmd id c
    else s.requestNext c (c.partRanges c.left) (fun s => s.completeCmd id c)

def execEngineCommandCompletion (cmd : Nat) (s : State) := happens (s.finishCmd cmd)

/-- BOND_FORMATION (R266). -/
def State.formBondAt (s : State) (core : Nat) : State :=
  match Table.get? s.bonds core with
  | none => s
  | some b => if s.mayForm core b then s.formNow core b else s

def execBondFormation (core : Nat) (s : State) := happens (s.formBondAt core)

/-- A refused commit (R311): the uncommitted steps take no effect and their fragment raises CAP_RECORD at the first of them. -/
def State.refuseSteps (s : State) (wid : Nat) (c : Capsule) : State :=
  let s := s.dropSteps wid c
  let s := s.modFrag c.frag (fun f => { f with wait := none, waitOps := [], due := none })
  match s.frag? c.frag with
  | none => s
  | some f =>
    if c.runs c.frag f then s.takeTrap c.frag c.refusal c.pending none false else s.holdRefusal c

/-- CAPSULE_STEP_COMMIT (R311): the oldest step of a warp's capsule commits, or the record refuses it. -/
def State.commitNext (s : State) (wid : Nat) : State :=
  match s.warp? wid with
  | none => s
  | some w =>
    match w.capsule with
    | none => s
    | some c =>
      match c.steps with
      | [] => s
      | st :: _ =>
        if !s.wgPresent w.wg || !s.mayCommit wid w st then s
        else if s.recordTakes w c st then s.commitStep wid c st
        else s.refuseSteps wid c

def execCapsuleStepCommit (warp : Nat) (s : State) := happens (s.commitNext warp)

end Sys2Proof.Machine
end

