-- ==== Sys2Proof/Machine/Surrender.lean ====
section
/-! DEFINITION. What a pre-empted team gives up as soon as its issue has stopped, before what it has issued completes (R366, steps 1 to 3): the
configurations that serve it (R301), its bonds and its engine leases (R368). -/

namespace Sys2Proof.Machine

/-- Identities in falling order, each once. -/
def insertDesc (x : Nat) : List Nat → List Nat
  | [] => [x]
  | y :: r => if x = y then y :: r else if y < x then x :: y :: r else y :: insertDesc x r

/-- The workgroups of a team, as identities. -/
def State.teamWgs (s : State) (tid : Nat) : List Nat := (s.wgsOf tid).map Prod.fst

/-- The warps of a team, planers' registers among them. -/
def State.teamWarps (s : State) (tid : Nat) : List (Nat × Warp) :=
  let gs := s.teamWgs tid
  s.warps.filter (fun p => gs.contains p.2.wg)

/-- The member number of a core of a team. -/
def memberOf (t : Team) (core : Nat) : Nat := (t.cores.findIdx? (· == core)).getD 0

/-- What the image keeps of a team's bonds and tiles (R368, R369). -/
def State.imageBonds (s : State) (tid : Nat) (t : Team) : List SavedBond :=
  let bonds := (s.bonds.filter (fun p => p.2.team == tid)).map (fun p =>
    let k := s.core p.1
    let ms := p.2.members.map (memberOf t)
    if p.2.formed then
      (⟨memberOf t p.1, p.2.shape, true, ms, p.2.cmd, k.width8, k.tile, k.tileFmt, k.tileScale⟩ : SavedBond)
    else ⟨memberOf t p.1, p.2.shape, false, ms, p.2.cmd, none, [], none, 0⟩)
  let alone := (s.wgsOf tid).filterMap (fun g =>
    let k := s.core g.2.core
    if (k.owner.bind s.warp?).any (fun w => w.wg == g.1) && (s.bondOf g.2.core).isNone then
      some (⟨g.2.member, 0, true, [g.2.member], 0, k.width8, k.tile, k.tileFmt, k.tileScale⟩ : SavedBond)
    else none)
  bonds ++ alone

/-- What the image keeps of a team's leases, bonds and waiting joins (R256, R363, R368), beside what it has kept already. -/
def State.imageEngines (s : State) (tid : Nat) (t : Team) : Team :=
  let gs := s.wgsOf tid
  { t with
    leases := t.leases ++ gs.filterMap (fun g =>
      match (s.core g.2.core).owner with
      | some w => if (s.warp? w).any (fun x => x.wg == g.1) then some (g.2.member, w) else none
      | none => none)
    savedBonds := t.savedBonds ++ s.imageBonds tid t
    savedJoins := t.savedJoins ++ gs.filterMap (fun g => match (s.core g.2.core).joined with
      | some j => if (s.warp? j.warp).any (fun x => x.wg == g.1) then
          some ⟨g.2.member, memberOf t j.leader, j.cmd, j.warp, j.active⟩ else none
      | none => none) }

/-- A core's engine passes on where one of some warps owns it (R263). -/
def State.passFrom (s : State) (ws : List Nat) (core : Nat) : State :=
  if ((s.core core).owner).any ws.contains then s.passLease core else s

/-- The team's bonds are broken and its leases surrendered: followers first, in descending core number, then the leaders (R368). A BFORM or BJOIN
that has not formed goes into the image (R369). -/
def State.surrender (s : State) (tid : Nat) : State :=
  match s.team? tid with
  | none => s
  | some t =>
    let gs := s.wgsOf tid
    let ws := (s.teamWarps tid).map Prod.fst
    let leaders := (s.bonds.filter (fun p => p.2.team == tid)).map Prod.fst
    let cores := gs.foldl (fun l g => insertDesc g.2.core l) []
    let s := s.setTeam tid (s.imageEngines tid t)
    let s := leaders.foldl (fun s k => s.dropBond k) s
    let s := gs.foldl (fun s g => s.modCore g.2.core (fun k => { k with joined := k.joined.filter (fun j => !ws.contains j.warp) })) s
    (cores.filter (fun k => !leaders.contains k) ++ cores.filter (fun k => leaders.contains k)).foldl (fun s k => s.passFrom ws k) s

/-- A configuration that serves one of some warps is unloaded (R301, R366). -/
def State.unloadFrom (s : State) (ws : List Nat) (core : Nat) : State :=
  match (s.core core).config with
  | some cfg => if (cfg.served.bind s.frag?).any (fun (f : Frag) => ws.contains f.warp) then s.jigUnload core false else s
  | none => s

/-- Steps 1 to 3 of the save of a team whose issue has stopped (R366): its configurations are unloaded, its warps leave the engines' FIFOs (R256), and
its bonds are broken. What has been done already is not done again. An MXLDB that has begun
completes after that, as step 4 (R256). -/
def State.stopTeam (s : State) (tid : Nat) : State :=
  match s.team? tid with
  | none => s
  | some t =>
    if t.state = .saving then
      let ws := (s.teamWarps tid).map Prod.fst
      let s := (s.wgsOf tid).foldl (fun s g => (s.unloadFrom ws g.2.core).modCore g.2.core (fun k => { k with
        fifo := k.fifo.filter (fun p => !ws.contains p.1) })) s
      s.surrender tid
    else s

end Sys2Proof.Machine
end

