-- ==== Sys2Proof/Machine/Settle.lean ====
section
/-! DEFINITION. What follows by itself once a step has been taken: waits that end (R54), barriers (R55, R224), split records that
close and fusions (R42, R43), the end of capsules (R314, R317), MSM releases (R275), traps that were due after a wait (R351, R365),
and parking (R46). -/

namespace Sys2Proof.Machine

/-- The element with the least key, the first of equals. -/
def least {α : Type} (key : α → Nat) : List α → Option α
  | [] => none
  | x :: r =>
    match least key r with
    | none => some x
    | some y => if key y < key x then some y else some x

/-- The operations of a set that a WAITC with count n waits for: all but the n most recently issued (R101). A count of 63 waits only while the
set holds 64 (R139): with 64, for the oldest; a fusion's union may hold more, and then R101 has all but the 63 youngest leave, which is the
model's choice (assumption log 11). -/
def OpSet.waitedFor (o : OpSet) (n : Nat) : List Nat :=
  if n = 63 then (if Config.setLimit ≤ o.members.length then ((o.members.foldl (fun l m => insertDesc m l) []).drop 63) else [])
  else o.members.filter (fun m => !(o.recent.take n).contains m)

/-- A WAITC with count n leaves an operation of the set uncovered (R101, R139). -/
def OpSet.leaves (o : OpSet) (n id : Nat) : Bool :=
  (o.recent.take n).contains id || (o.members.contains id && !(o.waitedFor n).contains id)

/-- Operations that a fragment waits for have left its sets (R101). -/
def Frag.opsGone (f : Frag) (ids : List Nat) : Bool :=
  ids.all (fun i => !(f.lc.members.contains i || f.sc.members.contains i || f.ec.members.contains i))

/-- AWAIT may read GEN: nothing outstanding of its lanes is ordered before the reading (R226, R233, R238). -/
def State.awaitReads (s : State) (f : Frag) (w : Warp) (l : Loc) : Bool :=
  s.ownMayAct s.serial (ownAccessOf f.warp (activeOf w f) .load true false .rc
    (match l with
      | .bench g o => benchLocs g (o + 8) 4
      | .phys _ => []))

/-- CAPEXIT may release the record: everything of its lanes before it is performed (R313). -/
def State.exitReleases (s : State) (f : Frag) (w : Warp) (c : Capsule) : Bool :=
  s.recordClear f.warp s.serial (activeOf w f) c.record []

/-- The condition that a blocked fragment waits for holds (R54). The waits whose group has not issued end when it issues; barriers,
REGANG, CAPEXIT and the return slot end by actions of their own. -/
def State.waitOver (s : State) (f : Frag) (w : Warp) : Bool :=
  match f.wait with
  | some (.tag op) => (Table.get? s.ops op).isNone
  | some (.grant cmd) => s.cmdsEnded [cmd]
  | some (.mxwait n) => s.batchRetired w n
  | some (.await l gen) => s.generationPassed l gen && s.awaitReads f w l
  | some (.lwait h) => !s.grids.any (fun p => p.2.parentWg == w.wg && p.2.handle == h)
  | some (.waitc ids) => f.opsGone ids
  | _ => false

/-- The MXWAIT commands of a fragment leave EC (R250). -/
def State.endMxwait (s : State) (f : Frag) : State :=
  match f.wait with
  | some (.mxwait _) =>
    f.ec.members.foldl (fun s i => match (Table.get? s.cmds i).map Cmd.kind with
      | some (.mxwait _) => s.leaveEC i .done
      | _ => s) s
  | _ => s

/-- The return path of a displaced holder (R317): a visibility point. -/
def State.capReturn (s : State) (wid : Nat) : State :=
  match s.warp? wid with
  | none => s
  | some w =>
    match w.capsule, w.returnSlot with
    | some c, some ks =>
      let s := (s.visiblePoint c.frag).acquireRecord wid w.wg ((s.frag? c.frag).elim 0 Frag.lm) c.record
      let s := s.modWarp wid (fun w => { w with
        k := ks, returnSlot := none, capsule := none, capstat := w.capstat ||| 1 })
      s.modFrag c.frag (fun f => { f with pc := c.exitNext, wait := none, waitOps := [] }.readyFrom s.tick)
    | _, _ => s

/-- Where a fragment waits at a REGANG, or will wait once its handler returns (R42, R44). -/
def Frag.stands (f : Frag) : Option (Dword × Dword) :=
  match f.wait with
  | some (.regang a n) => some (a, n)
  | _ => if f.hnd then f.thenAt else none

/-- REGANG_MISMATCH (R44): the fragment stops waiting and takes the trap. -/
def State.mismatch (s : State) (fid : Nat) (next other : Dword) : State :=
  (s.modFrag fid (fun f => { f with wait := none, thenAt := none })).takeTrap fid
    { code := Code.regangMismatch, addr := other } next none false

/-- The fragment has taken in this tick the EVENT_LIMIT or STEP trap of the group with which it began to wait at a REGANG: of two that
begin to wait in one tick it may still be the one that raises the mismatch, which comes before that trap (R44, R353). -/
def Frag.justTrapped (f : Frag) (tick : Nat) (next : Dword) : Bool :=
  f.hnd && f.stoodAt == some tick && f.tsave0 == next &&
    (bitsAt f.tsave2 0 8 == Code.eventLimit.toNat || bitsAt f.tsave2 0 8 == Code.step.toNat)

/-- Its trap gives way to the mismatch: an EVENT_LIMIT trap is held, a STEP trap is discarded (R353, R357). -/
def Frag.giveWay (f : Frag) (tick : Nat) : Frag :=
  let t : Trap := { code := Code.eventLimit, evt := BitVec.ofNat 4 (bitsAt f.tsave1 20 4), tick := tick }
  { f with hnd := false, heldTraps := if bitsAt f.tsave2 0 8 = Code.eventLimit.toNat then f.heldTraps ++ [⟨t, false⟩] else f.heldTraps }

/-- A fragment begins to wait at a REGANG (R42); where a member of its record waits elsewhere, the later of the two raises the
mismatch, and of two in one tick the one with the higher lowest lane (R44). -/
def State.beginRegang (s : State) (fid : Nat) (a next : Dword) : State :=
  match s.frag? fid with
  | none => s
  | some f =>
    let s := s.modFrag fid (fun f => { f with wait := some (.regang a next), thenAt := none, stoodAt := some (f.stoodAt.getD s.tick) })
    match (s.fragsOf f.warp).find? (fun p => p.1 != fid && p.2.records.head? == f.records.head? &&
        p.2.stands.any (fun x => x.1 != a)) with
    | none => s
    | some q =>
      match q.2.stands with
      | none => s
      | some b =>
        if q.2.stoodAt == some s.tick && decide (f.lm.low < q.2.lm.low) then
          if q.2.justTrapped s.tick b.2 then (s.modFrag q.1 (fun f => f.giveWay s.tick)).mismatch q.1 b.2 a
          else if q.2.hnd then s
          else s.mismatch q.1 b.2 a
        else s.mismatch fid next b.1

/-- A fragment that nothing else holds begins to wait at the REGANG that it has left behind, unless its handler sent it elsewhere. -/
def State.resumeRegang (s : State) (fid : Nat) (f : Frag) : State :=
  match f.thenAt with
  | none => s
  | some an =>
    if f.hnd || f.due.isSome then s
    else if f.pc = an.2 then s.beginRegang fid an.1 an.2
    else s.modFrag fid (fun f => { f with thenAt := none, stoodAt := none })

/-- A generation of an arrival word has passed where its GEN is now (R190). -/
def State.passedAt (s : State) (l : Loc) (p : Loc × Nat) : Bool := p.1 == l && s.generationPassed l (BitVec.ofNat 32 p.2)

/-- What the end of a wait acquires (R226, R239, R243). An MXWAIT hands on nothing, for no matrix command writes memory. -/
def State.waitAcquires (s : State) (f : Frag) (w : Warp) : State :=
  let lanes := activeOf w f
  let s := if f.waitOps.isEmpty then s else s.learnEnds f.waitOps.contains f.warp w.wg lanes
  match f.wait with
  | some (.await l _) => s.learnCounts (s.passedAt l) f.warp w.wg lanes
  | some (.lwait h) => s.handTo (· == .child w.wg h) f.warp w.wg lanes
  | some (.waitc ids) => s.learnEnds ids.contains f.warp w.wg lanes
  | _ => s

/-- A fragment's wait ends where its condition holds. -/
def State.settleWait (s : State) (fid : Nat) : State :=
  match s.frag? fid with
  | none => s
  | some f =>
    match s.warp? f.warp with
    | none => s
    | some w =>
      if !s.wgResident w.wg then s
      else
        match f.wait with
        | some .capexit =>
          (match w.capsule with
            | some c => if c.steps.isEmpty && s.exitReleases f w c then
                (s.capExit f.warp fid c.exitNext).modFrag fid (fun f => { f with wait := none }.readyFrom s.tick) else s
            | none => s)
        | some .returnSlot => if w.returnSlot.isSome then s.capReturn f.warp else s
        | none =>
          if f.waitOps.isEmpty then s.resumeRegang fid f
          else if f.opsGone f.waitOps then
            (s.waitAcquires f w).modFrag fid (fun f => { f with waitOps := [] }.readyFrom s.tick)
          else s
        | some _ =>
          if s.waitOver f w then
            ((s.waitAcquires { f with waitOps := [] } w).endMxwait f).modFrag fid (fun f => { f with wait := none }.readyFrom s.tick)
          else s

/-- A trap that comes behind every fault of its group (R353, R357): EVENT_LIMIT or STEP. -/
def DueTrap.comesLast (d : DueTrap) : Bool := !d.held && (d.trap.code == Code.eventLimit || d.trap.code == Code.step)

/-- A due trap is taken. -/
def State.takeDue (s : State) (fid : Nat) (f : Frag) (d : DueTrap) : State := s.takeTrap fid d.trap (d.pc.getD f.pc) d.replay d.defer

/-- A due trap that comes behind the REGANG of its group (R44, R353, R357): the fragment begins to stand there, and where that raises
REGANG_MISMATCH an EVENT_LIMIT trap is held and a STEP trap is discarded. -/
def State.dueAtRegang (s : State) (fid : Nat) (f : Frag) (d : DueTrap) (an : Dword × Dword) : State :=
  let t := s.beginRegang fid an.1 an.2
  if (t.frag? fid).any (fun x => x.wait == some (.regang an.1 an.2)) then
    (t.modFrag fid (fun x => { x with wait := none, thenAt := some an })).takeDue fid f d
  else if d.trap.code = Code.eventLimit then t.modFrag fid (fun x => { x with heldTraps := x.heldTraps ++ [⟨d.trap, d.defer⟩] })
  else t

/-- A due trap is taken once its group's wait is over (R351, R365). -/
def State.settleDue (s : State) (fid : Nat) : State :=
  match s.frag? fid with
  | none => s
  | some f =>
    match f.due with
    | none => s
    | some d =>
      if f.wait.isNone && f.waitOps.isEmpty then
        let s := s.modFrag fid (fun f => { f with due := none })
        match f.thenAt with
        | some an => if d.comesLast && f.pc == an.2 then s.dueAtRegang fid f d an else s.takeDue fid f d
        | none => s.takeDue fid f d
      else s

/-! ### Barriers (R55, R224) -/

/-- The fragments of a workgroup, its planer's apart. -/
def State.wgFrags (s : State) (gid : Nat) : List (Nat × Frag) :=
  s.frags.filter (fun p => (s.warp? p.2.warp).any (fun w => w.wg == gid && w.planer.isNone))

/-- Every fragment of a barrier waits at it, and at least one does. -/
def allAt (fs : List (Nat × Frag)) (at_ : Wait → Bool) : Bool := !fs.isEmpty && fs.all (fun p => p.2.wait.any at_)

/-- Nothing stands before what a fragment's lanes release at a barrier (R224, R238). -/
def State.arrives (s : State) (f : Frag) : Bool := s.quietBefore f.warp s.serial f.lm

/-- A barrier is made: every fragment waits at it, and nothing stands before what it releases there (R224). -/
def State.barrierMade (s : State) (fs : List (Nat × Frag)) (at_ : Wait → Bool) : Bool := allAt fs at_ && fs.all (fun p => s.arrives p.2)

/-- Every fragment waiting at a barrier becomes ready: each acquires what comes before any of them (R238, R240). -/
def State.releaseAll (s : State) (fs : List (Nat × Frag)) : State :=
  fs.foldl (fun s p => s.modFrag p.1 (fun f => { f with wait := none }.readyFrom s.tick))
    (s.learnArrivals (fs.map (fun p => (p.2.warp, ((s.warp? p.2.warp).map Warp.wg).getD 0, p.2.lm))))

def Wait.isBar : Wait → Bool
  | .bar _ => true
  | _ => false

def Wait.isTbar : Wait → Bool
  | .tbar _ => true
  | _ => false

/-- A workgroup's barrier completes, and the next episode begins (R224). -/
def State.endBar (s : State) (gid : Nat) : State :=
  (s.releaseAll (s.wgFrags gid)).modWg gid (fun g => { g with barrier := g.barrier + 1 })

def State.settleBar (s : State) (gid : Nat) : State :=
  if s.wgResident gid && s.barrierMade (s.wgFrags gid) Wait.isBar then s.endBar gid else s

/-- The fragments of a team, its planers' apart. -/
def State.teamFrags (s : State) (tid : Nat) : List (Nat × Frag) := (s.wgsOf tid).flatMap (fun g => s.wgFrags g.1)

/-- A team's barrier completes (R55, R224). -/
def State.endTbar (s : State) (tid : Nat) : State :=
  (s.releaseAll (s.teamFrags tid)).modTeam tid (fun t => { t with barrier := t.barrier + 1 })

def State.settleTbar (s : State) (tid : Nat) : State :=
  if (s.team? tid).any (fun t => t.state.goesOn) && s.barrierMade (s.teamFrags tid) Wait.isTbar then s.endTbar tid else s

/-! ### Split records (R40 to R43) -/

/-- Records without a descendant close, the newest first: their exit flags go to their parents (R42). -/
def State.closeRecords (s : State) (wid : Nat) : State :=
  match s.warp? wid with
  | none => s
  | some w =>
    w.splits.reverse.foldl (fun s q =>
      if (s.fragsOf wid).any (fun p => p.2.records.contains q.1) then s
      else s.modWarp wid (fun w =>
        let rest := Table.erase w.splits q.1
        let own := (Table.get? w.splits q.1).getD q.2
        { w with splits := match own.parent with
            | some p => Table.modify rest p (fun r => { r with exitFlags := r.exitFlags ||| own.exitFlags })
            | none => rest })) s

/-- Where a fragment has arrived at a REGANG (R42): the group's address and the group after it. -/
def Frag.atRegang (f : Frag) : Option (Dword × Dword) :=
  match f.wait with
  | some (.regang a n) => if f.hnd || !f.lc.members.isEmpty || !f.waitOps.isEmpty then none else some (a, n)
  | _ => none

/-- The union of two wait sets (R43). -/
def OpSet.union (a b : OpSet) : OpSet :=
  { members := (a.members ++ b.members).eraseDups, recent := (b.recent.foldr insertDesc a.recent).take 64 }

/-- m0 to m7 of a fused fragment: each lane's bit is its holder's, the others lo's (R43). -/
def fuseMasks (lo : Frag) (ms : List Frag) : Table Lanes :=
  (List.range 8).foldl (fun t n => Table.put 0 t n
    (ms.foldl (fun a f => (a &&& ~~~f.lm) ||| (Table.getD f.m n 0 &&& f.lm)) (Table.getD lo.m n 0))) []

/-- The fused fragment (R43, R95). -/
def fuseFrags (lo : Frag) (ms : List Frag) (rec_ : SplitRec) (next : Dword) (tick : Nat) : Frag :=
  let vmax := ms.foldl (fun a f => max a f.vmax) 0
  { lo with
    pc := next
    lm := ms.foldl (fun a f => a ||| f.lm) 0
    fmt := rec_.fmt
    fstat := ms.foldl (fun a f => a ||| f.fstat) rec_.exitFlags
    m := fuseMasks lo ms
    t := max (ms.foldl (fun a f => max a f.t) 0) vmax
    vmax := vmax
    pend := []
    records := lo.records.drop 1
    lc := ms.foldl (fun a f => a.union f.lc) {}
    sc := ms.foldl (fun a f => a.union f.sc) {}
    ec := ms.foldl (fun a f => a.union f.ec) {}
    uncovered := (ms.flatMap Frag.uncovered).eraseDups
    heldTraps := ms.flatMap Frag.heldTraps
    wait := none
    notBefore := ms.foldl (fun a f => max a f.notBefore) 0
    readySince := ms.foldl (fun a f => max a f.notBefore) tick
    promoted := none
    yieldUntil := 0
    thenAt := none
    stoodAt := none
    due := none
    waitOps := []
    parked := false
    capPlace := none
    capKept := false }

/-- The members of a record fuse (R42, R43): the fused fragment takes the identity of the member with the lowest lane. -/
def State.fuse (s : State) (wid rec_ : Nat) (sr : SplitRec) (ids : List Nat) (next : Dword) : State :=
  let s := (ids.foldl (fun s i => s.visiblePoint i) s).dropEarlyFused wid
  let lanes := ids.foldl (fun a i => a ||| (s.frag? i).elim 0 Frag.lm) 0
  let s := s.learnFusion wid (((s.warp? wid).map Warp.wg).getD 0) lanes
  let ms := ids.filterMap (fun i => (s.frag? i).map (fun f => (i, f)))
  match least (fun p => p.2.lm.low) ms with
  | none => s
  | some lo =>
    let s : State := { s with frags := s.frags.filter (fun p => !ids.contains p.1) }
    let s := (s.setFrag lo.1 (fuseFrags lo.2 (ms.map Prod.snd) sr next s.tick)).modWarp wid
      (fun w => { w with splits := Table.erase w.splits rec_ })
    match s.warp? wid with
    | some w => s.modWg w.wg (fun g => ids.foldl (fun g i => g.moveLimit i lo.1) g)
    | none => s

/-- A record's members fuse where every descendant is a member and all have arrived at one REGANG (R42). -/
def State.settleRecord (s : State) (wid rec_ : Nat) (sr : SplitRec) : State :=
  let ds := (s.fragsOf wid).filter (fun p => p.2.records.contains rec_)
  match ds with
  | [] => s
  | p :: _ =>
    match p.2.atRegang with
    | none => s
    | some an =>
      if ds.all (fun q => q.2.records.head? == some rec_ && q.2.atRegang.any (fun x => x.1 == an.1)) then
        s.fuse wid rec_ sr (ds.map Prod.fst) an.2
      else s

def State.settleSplits (s : State) (wid : Nat) : State :=
  let s := s.closeRecords wid
  match s.warp? wid with
  | none => s
  | some w => if w.splits.isEmpty || !s.wgResident w.wg then s
      else w.splits.reverse.foldl (fun s q => s.settleRecord wid q.1 q.2) s

/-! ### Parking (R46) -/

/-- The fragment that gives up its place in the split table (R46). -/
def parkChoice (fs : List (Nat × Frag)) (keep : List Nat) : Option Nat :=
  let waiting := fs.filter (fun p => match p.2.wait with
    | some (.regang _ _) => true
    | _ => false)
  match least (fun p => p.2.stoodAt.getD 0) waiting with
  | some p => some p.1
  | none => (least (fun p => p.2.lastIssue) (fs.filter (fun p => !keep.contains p.1))).map Prod.fst

/-- At most 8 fragments of a warp are resident: one is parked where there are more, and one is made resident where an entry is free. -/
def State.settleParking (s : State) (wid : Nat) (keep : List Nat) : State :=
  let fs := s.fragsOf wid
  let res := fs.filter (fun p => !p.2.parked)
  if 8 < res.length then
    match parkChoice res keep with
    | some i => s.modFrag i (fun f => { f with parked := true })
    | none => s
  else if res.length < 8 then
    match (fs.filter (fun p => p.2.parked)).head? with
    | some p => s.modFrag p.1 (fun f => { f with parked := false })
    | none => s
  else s

/-- An ARRIVE is performed as it issues (R225): the arrival unit has found the word initialised, and nothing is left before it. -/
def State.settleArrive (s : State) (id : Nat) (o : Op) : State :=
  match o.op with
  | .arrive _ => s.completeOp id false
  | _ => s

/-- Everything that follows from a step by itself. -/
def State.settle (s : State) : State :=
  let s := s.early.foldl State.takeEarly s
  let s := s.teams.foldl (fun s p => s.stopTeam p.1) s
  let s := s.ops.foldl (fun s p => s.settleArrive p.1 p.2) s
  let s := s.frags.foldl (fun s p => s.settleWait p.1) s
  let s := s.wgs.foldl (fun s p => s.settleBar p.1) s
  let s := s.teams.foldl (fun s p => s.settleTbar p.1) s
  let s := s.warps.foldl (fun s p => s.settleSplits p.1) s
  let s := s.warps.foldl (fun s p => match p.2.msmFree with
    | some _ => s.settleMsmf (((s.wg? p.2.wg).map Wg.core).getD 0) p.1
    | none => s) s
  let s := s.frags.foldl (fun s p => s.settleDue p.1) s
  s.warps.foldl (fun s p => s.settleParking p.1 []) s

end Sys2Proof.Machine
end

