-- ==== Sys2Proof/Machine/Retire.lean ====
section
/-! DEFINITION. Retirement from the bottom up (R34, R263, R275, R278, R302, R325) and event words (R334, R335). -/

namespace Sys2Proof.Machine

/-- n bytes that Lift reaches at a virtual address of a context, where it has a translation, the right and a place in the map
(R329, R335). -/
def State.liftLocs (s : State) (c : Nat) (need : Need) (a : Dword) (n : Nat) : Option (List Loc) :=
  if s.inTwin c a then none
  else
    match s.translate c a with
    | .error _ => none
    | .ok p =>
      if p.denied need ≠ 0 then none
      else (s.canon (p.phys a)).map (fun x => (List.range n).map (fun j => Loc.phys (x + j)))

/-- The address of event word i of a queue (R328). -/
def Queue.eventAddr (q : Queue) (i : Nat) : Dword := q.evbase + BitVec.ofNat 64 (8 * i)

/-- An event word (R334). -/
def eventWord (user : Word) (pre status : Nat) : Nat := user.toNat * 2 ^ 32 + pre * 2 ^ 8 + status

/-- Writes a DONE event word whole; one that cannot be written is reported instead (R334, R335). Index 0 names none. -/
def State.writeDone (s : State) (q i : Nat) (user : Word) (pre status : Nat) : State :=
  if i = 0 then s
  else
    let d := s.queue q
    let c := d.ctxid.toNat
    match s.liftLocs c .write (d.eventAddr i) 8 with
    | some ls => (s.overwritten ls).writeLocs ls (eventWord user pre status)
    | none => s.post (s.evvec c) (.doneUnwritable q i)

/-- A grid whose teams and child grids have all retired (R34). -/
def State.gridOver (s : State) (gid : Nat) (g : Grid) : Bool :=
  g.ready && s.teams.all (fun p => p.2.grid != gid) && s.grids.all (fun p => p.2.parent != some gid)

/-- A trail's writes by a workgroup or its commands: its retirement hands them on with its grid's (R37). -/
def Trail.wroteBy (t : Trail) (gid : Nat) : Bool :=
  t.after.any (fun e => e.op.wg == gid && !e.op.op.readsOnly) || t.held.any (fun c => match c with
    | .cmd _ _ g _ _ writes => g == gid && writes
    | _ => false)

/-- A grid retires: a release at SYS scope of every write made by it and its descendants, to the LWAIT of its parent's workgroup, to its parent's own
retirement, and to what reads its DONE word (R37, R335). -/
def State.releaseGrid (s : State) (gid : Nat) (g : Grid) (done : Option (List Loc)) : State :=
  let ended (c : Carrier) : Bool := c == .ended gid
  let s := match g.parent with
    | some p => (s.passOn ended (.child g.parentWg g.handle)).passOn ended (.ended p)
    | none => s
  match done with
  | some (l :: _) => s.passOn ended (.done l)
  | _ => s

/-- The DONE event word of a grid, where it has one that can be written (R334). -/
def State.doneWord (s : State) (g : Grid) : Option (List Loc) :=
  if g.record.done = 0 then none
  else
    let d := s.queue g.queue
    s.liftLocs d.ctxid.toNat .write (d.eventAddr g.record.done) 8

/-- A grid retires, with its DONE word, and its parent after it where that was the last it waited for (R34, R334). -/
def State.retireGrid (s : State) : Nat → Nat → State
  | 0, _ => s
  | n + 1, gid =>
    match s.grid? gid with
    | none => s
    | some g =>
      if s.gridOver gid g then
        let s := (s.writeDone g.queue g.record.done g.record.user g.pre 1).releaseGrid gid g (s.doneWord g)
        let s : State := { s with grids := Table.erase s.grids gid }
        (match g.parent with
          | some p => s.retireGrid n p
          | none => s)
      else s

/-- The context has a workgroup on a core: one of a resident team that has not retired (R302). -/
def State.ctxOnCore (s : State) (c core : Nat) : Bool :=
  s.wgs.any (fun p => p.2.core == core && !p.2.retired && s.wgPresent p.1 && s.ctxOfWg p.2 == c)

/-- Discards a context's jig table on a core that it has left (R302). -/
def State.jigLeave (s : State) (core c : Nat) : State := if s.ctxOnCore c core then s else s.jigForget core c

/-- A core's planer slot is free again (R278). -/
def State.freePlaner (s : State) (core : Nat) : State :=
  (s.clearPlaner core).modCore core (fun k => { k with
    planerWg := none, planer := .stopped, planerTrap := { code := 0 }, program := [], progAddr := 0, progLen := 0,
    queues := [] })

/-- A team retires (R34): its benches, warps and window index are free. -/
def State.retireTeam (s : State) (tid : Nat) : State :=
  match s.team? tid with
  | none => s
  | some t =>
    let gids := (s.wgsOf tid).map Prod.fst
    let s : State := { s with
      warps := s.warps.filter (fun p => !gids.contains p.2.wg)
      wgs := s.wgs.filter (fun p => !gids.contains p.1)
      teams := Table.erase s.teams tid }
    s.retireGrid 11 t.grid

/-- A workgroup retires once its warps have (R34): it arrives at its team's final barrier. -/
def State.retireWg (s : State) (gid : Nat) : State :=
  match s.wg? gid with
  | none => s
  | some g =>
    if (s.warpsOf gid).all (fun p => p.2.retired) then
      let c := s.ctxOfWg g
      let s := if (s.core g.core).planerWg = some gid then s.freePlaner g.core else s
      let s := s.modWg gid (fun x => { x with retired := true })
      let s := match s.team? g.team with
        | some t => s.mapTrails (fun x => if x.wroteBy gid then x.hold (.ended t.grid) else x)
        | none => s
      let s : State := { s with cmds := s.cmds.filter (fun p => p.2.wg != gid) }
      let s := s.jigLeave g.core c
      if (s.wgsOf g.team).all (fun p => p.2.retired) then s.retireTeam g.team else s
    else s

/-- A warp's last fragment has exited and its sets have drained (R325). -/
def State.mayRetire (s : State) (wid : Nat) (w : Warp) : Bool :=
  !w.retired && w.planer.isNone && s.wgPresent w.wg && (s.fragsOf wid).isEmpty && s.ops.all (fun p => p.2.warp != wid) &&
    s.cmds.all (fun p => p.2.warp != wid || p.2.ended) && w.capsule.all (fun c => c.steps.isEmpty)

/-- A lease that a team has surrendered for its save is released (R263): it is not granted again, and what the engine held for it is gone. -/
def Team.endLease (t : Team) (member wid : Nat) : Team :=
  if t.leases.any (fun l => l.2 == wid) then
    { t with
      leases := t.leases.filter (fun l => l.2 != wid)
      savedBonds := t.savedBonds.filter (fun b => b.shape != 0 || b.leader != member) }
  else t

/-- WARP_RETIREMENT (R34, R263, R275, R325): the lease and the reservation are released. -/
def State.retireWarp (s : State) (wid : Nat) : State :=
  match s.warp? wid with
  | none => s
  | some w =>
    if s.mayRetire wid w then
      let core := ((s.wg? w.wg).map Wg.core).getD 0
      let s := if (s.core core).owner = some wid then s.passLease core else s
      let s := match s.wg? w.wg with
        | some g => s.modTeam g.team (fun t => t.endLease g.member wid)
        | none => s
      let s := if w.msmHeld then s.releaseMsm core wid else s
      let s : State := { s with fences := s.fences.filter (fun p => p.2.warp != wid) }
      (s.modWarp wid (fun x => { x with retired := true })).retireWg w.wg
    else s

def execWarpRetirement (warp : Nat) (s : State) := happens (s.retireWarp warp)

end Sys2Proof.Machine
end

