-- ==== Sys2Proof/Machine/Lift.lean ====
section
/-! DEFINITION. The Lift scheduler's events (R328 to R350): admission of head records, placement, slices and the choice of victims. -/

namespace Sys2Proof.Machine

/-! ### Admission (R329, R330, R333, R335) -/

/-- What Lift does with the head record of a queue. -/
inductive Head where
  /-- More records than slots (R329). -/
  | overflow
  | unreadable
  /-- A version without a layout (R333). -/
  | noLayout
  /-- Not launched: its DONE completes with this status (R333, R335). -/
  | refused (r : RecordWords) (status : Nat)
  /-- An event word it waits for is pending (R329, R335). -/
  | hold
  | accept (r : RecordWords)
deriving DecidableEq, Repr

/-- STATUS of an event word that a record waits for; none where it cannot be read (R334, R335). -/
def State.eventStatus (s : State) (q : Queue) (i : Nat) : Option Nat :=
  (s.liftLocs q.ctxid.toNat .read (q.eventAddr i) 8).map (fun ls => s.readLocs ls % 256)

/-- The slot of a queue's head record (R329). -/
def Queue.slot (q : Queue) : Nat := q.head.toNat % 2 ^ q.log2n.toNat

/-- The address of a queue's head record (R329). -/
def Queue.headAddr (q : Queue) : Dword := q.base + BitVec.ofNat 64 (64 * q.slot)

/-- The head record of a queue as Lift reads it (R329, R333, R335). -/
def State.headOf (s : State) (q : Queue) : Head :=
  if 2 ^ q.log2n.toNat < (q.tail - q.head).toNat then .overflow
  else
    match s.liftLocs q.ctxid.toNat .read q.headAddr 64 with
    | none => .unreadable
    | some ls =>
      let r := s.recordWords ls
      if recVersion r ≠ 1 ∧ recVersion r ≠ 2 then .noLayout
      else if !recValid r q.evcount.toNat then .refused r 3
      else
        let st := ((recWaits r).filter (· != 0)).map (s.eventStatus q)
        if st.contains (some 0) then .hold
        else if st.all (fun x => x == some 1) then .accept r
        else .refused r 4

/-- A queue whose head record Lift may take: not that of a context that is being drained. -/
def State.queueLive (s : State) (q : Queue) : Bool :=
  let c := s.ctx q.ctxid.toNat
  q.en && q.head != q.tail && (c.dead.isNone || c.drained)

/-- The queues with a head record to consider, in Lift's order (R330). -/
def State.queueOrder (s : State) : List Nat :=
  (List.range 4).flatMap (fun cls =>
    let start := match Table.get? s.lastQueue cls with
      | some q => q + 1
      | none => 0
    ((List.range 64).map (fun d => (start + d) % 64)).filter (fun q =>
      s.queueLive (s.queue q) && (s.queue q).cls.toNat == cls))

/-- The first queue in order whose head record is not held back. -/
def State.nextHead (s : State) : Option (Nat × Head) :=
  s.queueOrder.findSome? (fun q =>
    match s.headOf (s.queue q) with
    | .hold => none
    | h => some (q, h))

def State.modQueue (s : State) (q : Nat) (f : Queue → Queue) : State := s.setQueue q (f (s.queue q))

/-- HEAD advances past a record (R329). -/
def State.takeRecord (s : State) (q : Nat) : State := s.modQueue q (fun d => { d with head := d.head + 1 })

/-- A record becomes a grid of waiting teams (R330, R340), whose start acquires what the event words that it waited for release (R335). A context that
died and was drained is a new one. -/
def State.admitRecord (s : State) (q : Nat) (r : RecordWords) : State :=
  let d := s.queue q
  let c := d.ctxid.toNat
  let s := if (s.ctx c).dead.isSome then s.setCtx c { twin := some d.twin.toNat } else s
  let p := recParse r
  let n := s.fresh
  let g : Grid := { ctx := c, queue := q, gridid := (s.ctx c).nextGrid, depth := 1, cls := d.cls.toNat, parent := none, record := p }
  let s := (n.2.setGrid n.1 g).modCtx c (fun x => { x with nextGrid := x.nextGrid + 1 })
  let s : State := { s with lastQueue := Table.set s.lastQueue d.cls.toNat q }
  let waits := ((recWaits r).filter (· != 0)).filterMap (fun i => (s.liftLocs c .read (d.eventAddr i) 8).bind List.head?)
  let s := s.passOn (fun k => waits.any (fun l => k == .done l)) (.grid n.1)
  (s.takeRecord q).makeTeams n.1 p.teams

/-- LAUNCH_RECORD_ADMISSION (R329, R330, R333, R335). -/
def State.admission (s : State) : State :=
  match s.nextHead with
  | none => s
  | some (q, h) =>
    let d := s.queue q
    match h with
    | .overflow => (s.modQueue q (fun d => { d with en := false })).post 0 (.queueOverflow q)
    | .unreadable => (s.modQueue q (fun d => { d with en := false })).post 0 (.headUnreadable q d.head)
    | .noLayout => (s.takeRecord q).post (s.evvec d.ctxid.toNat) (.recordVersion q d.slot)
    | .refused r status =>
      let i := recDone r
      (if i ≤ d.evcount.toNat then s.writeDone q i (recUser r) 0 status else s).takeRecord q
    | .hold => s
    | .accept r => s.admitRecord q r

def execLaunchRecordAdmission (s : State) := happens s.admission

/-! ### Where a team may go (R30, R336, R337) -/

/-- A team keeps its cores: it is resident or about to be saved, and is not one of those left out. -/
def State.keepsCores (s : State) (without : List Nat) (tid : Nat) : Bool :=
  !without.contains tid && (s.team? tid).any (fun t => t.state.onCores)

/-- The workgroups on a core, some teams left out. -/
def State.onCore (s : State) (without : List Nat) (core : Nat) : List (Nat × Wg) :=
  s.wgs.filter (fun p => p.2.core == core && s.keepsCores without p.2.team)

/-- The record of a team's grid. -/
def State.recordOf (s : State) (t : Team) : Option Record := (s.grid? t.grid).map Grid.record

/-- Warps of a workgroup (R29, R336). -/
def Record.warps (r : Record) : Nat := (r.wglanes + r.width - 1) / r.width

/-- The accumulators that the warps of a saved member hold. -/
def State.savedMsm (s : State) (tid member : Nat) : Nat :=
  match s.member? tid member with
  | none => 0
  | some p => (s.warpsOf p.1).foldl (fun n w => if w.2.msmHeld then n + w.2.msmSize else n) 0

/-- The engine of a core has no owner, teams left out aside. -/
def State.engineFree (s : State) (without : List Nat) (core : Nat) : Bool :=
  match (s.core core).owner with
  | none => true
  | some w => !(((s.warp? w).bind (fun x => s.wg? x.wg)).any (fun g => s.keepsCores without g.team))

/-- The planer slot of a core has no owner, teams left out aside (R278). -/
def State.planerFree (s : State) (without : List Nat) (core : Nat) : Bool :=
  match (s.core core).planerWg with
  | none => true
  | some g => !((s.wg? g).any (fun x => s.keepsCores without x.team))

/-- Accumulators of a core reserved by warps of teams that stay. -/
def State.msmTaken (s : State) (without : List Nat) (core : Nat) : Nat :=
  (s.onCore without core).foldl (fun n g => (s.warpsOf g.1).foldl (fun n w => if w.2.msmHeld then n + w.2.msmSize else n) n) 0

/-- A core has room for a member of a team (R336, R372): one whose planer was saved takes a core whose slot is free (assumption log 76). -/
def State.coreFits (s : State) (without : List Nat) (tid : Nat) (t : Team) (r : Record) (member core : Nat) : Bool :=
  let on := s.onCore without core
  let warps := on.foldl (fun n g => n + ((s.warpsOf g.1).filter (fun w => !w.2.retired)).length) 0
  let bench := on.foldl (fun n g => n + g.2.benchSize) 0
  let msm := on.foldl (fun n g => n + (((s.team? g.2.team).bind s.recordOf).map Record.msm).getD 0) 0
  let saved := s.savedMsm tid member
  !s.lostDies.getLsbD (coreDie core) && decide (warps + r.warps ≤ Config.warpSlots) && decide (bench + r.bench ≤ Config.benchBytes) &&
    decide (msm + r.msm ≤ Config.msmSize) &&
    (!t.savedPlaners.any (fun p => p.member == member) || s.planerFree without core) &&
    (t.state != .saved || !(t.leases.any (fun l => l.1 == member) || saved != 0) ||
      (s.engineFree without core && decide (s.msmTaken without core + saved ≤ Config.msmSize)))

/-- Seam channels bound or earmarked for teams that stay (R17, R337). -/
def State.seamTaken (s : State) (without : List Nat) : Nat :=
  s.teams.foldl (fun n p => if s.keepsCores without p.1 then n + max p.2.earmark (s.teamBound p.1) else n) 0

/-- A footprint for a team: its cores, the seam-crossing edges of the declared shape, and its rank (R337). -/
structure Spot where
  cores : List Nat
  edges : Nat
  rank : Nat
deriving DecidableEq, Repr

/-- The footprints of a team's record, wherever they lie (R30, R337). -/
def Record.spots (r : Record) : List Spot :=
  ((footprints r.team r.bond.toNat).zipIdx).flatMap (fun f =>
    (List.range Config.cores).filterMap (fun top =>
      if fits f.1 top then
        (blockCores top f.1.rows f.1.cols).map (fun cs =>
          let e := if r.bond.toNat < 8 then seamEdges top f.1.rows f.1.cols else 0
          ⟨cs, e, e * 10000 + top * 4 + f.2⟩)
      else none))

/-- The cores of a saved bond on a footprint form the bond's shape: its members, by their numbers, keep their roles (R369). -/
def SavedBond.fitsOn (b : SavedBond) (cores : List Nat) : Bool :=
  b.shape == 0 ||
    blockCores (cores.getD b.leader 0) (shapeCores b.shape).1 (shapeCores b.shape).2 == some (b.members.map (fun m => cores.getD m 0))

/-- The seam channels that a saved bond binds on a footprint when it is formed again (R369). -/
def SavedBond.edgesOn (b : SavedBond) (cores : List Nat) : Nat :=
  if b.formed && b.shape != 0 then seamEdges (cores.getD b.leader 0) (shapeCores b.shape).1 (shapeCores b.shape).2 else 0

/-- The seam channels that a team comes to hold on a footprint (R337, R369). -/
def Team.edgesOn (t : Team) (p : Spot) : Nat := max p.edges ((t.savedBonds.map (fun b => b.edgesOn p.cores)).foldl (· + ·) 0)

/-- A footprint has room for a team (R336, R337). One for a team with saved bonds takes each in its shape (R369; assumption log 81). -/
def State.spotFits (s : State) (without : List Nat) (tid : Nat) (t : Team) (r : Record) (p : Spot) : Bool :=
  t.savedBonds.all (fun b => b.fitsOn p.cores) && decide (s.seamTaken without + t.edgesOn p ≤ Config.seamChannels) &&
    (p.cores.zipIdx).all (fun q => s.coreFits without tid t r q.2 q.1)

/-- The teams that leave their cores: chosen as victims, or being saved. -/
def State.leaving (s : State) : List Nat :=
  (s.teams.filter (fun p => p.2.state == .chosen || p.2.state == .saving)).map Prod.fst

/-- The context of a team. -/
def State.ctxOfTeam (s : State) (t : Team) : Nat := ((s.grid? t.grid).map Grid.ctx).getD 0

/-- The window indices that unretired teams of a context have (R339). -/
def State.usedWindows (s : State) (c : Nat) : List Nat :=
  s.teams.filterMap (fun p => if ((s.grid? p.2.grid).map Grid.ctx) = some c then p.2.window else none)

/-- A window index that no unretired team of a context has (R339): the lowest, which of the free ones the spec leaves open (assumption log
91). -/
def State.freeWindow (s : State) (c : Nat) : Option Nat :=
  let used := s.usedWindows c
  (List.range 1024).find? (fun i => !used.contains i)

/-- A team has its window index, or one is free for it (R339). -/
def State.windowFor (s : State) (t : Team) : Bool := t.window.isSome || (s.freeWindow (s.ctxOfTeam t)).isSome

/-- The footprint that was freed for a team, where it will have room for the team once those that leave have left (R346, R347). Where it will
not, because another team has taken a channel, an engine or a window index that it needs, the choice is void and the team waits as before. -/
def State.targetSpot (s : State) (tid : Nat) (t : Team) : Option Spot :=
  if t.target.isEmpty || !s.windowFor t then none
  else (s.recordOf t).bind (fun r => r.spots.find? (fun p => p.cores == t.target && s.spotFits s.leaving tid t r p))

def State.targetHolds (s : State) (tid : Nat) (t : Team) : Bool := (s.targetSpot tid t).isSome

/-- The place of a team among those that wait (R340). Teams of one class that began to wait in one tick stand in the order of their identities:
by number within a grid, and otherwise in the order of creation, which the spec leaves open (assumption log 92). -/
def State.waitRank (s : State) (p : Nat × Team) : Nat × Nat × Nat :=
  (((s.grid? p.2.grid).map Grid.cls).getD 0, p.2.firstWaiting, p.1)

/-- An earlier place. -/
def rankLt (a b : Nat × Nat × Nat) : Bool :=
  decide (a.1 < b.1) || (a.1 == b.1 && (decide (a.2.1 < b.2.1) || (a.2.1 == b.2.1 && decide (a.2.2 < b.2.2))))

/-- The other teams for which footprints are being freed, with those footprints, whose claims come before a team's: all of them where none is
being freed for it, else those that stand before it (R340; assumption log 96). -/
def State.keptFor (s : State) (tid : Nat) (t : Team) : List (Nat × Team × Spot) :=
  let own := s.targetHolds tid t
  s.teams.filterMap (fun q =>
    if q.1 = tid || (own && !rankLt (s.waitRank q) (s.waitRank (tid, t))) then none
    else (s.targetSpot q.1 q.2).map (fun sp => (q.1, q.2, sp)))

/-- The place of a team among those that hold back others from what they seek: by class, and by when each was last placed or, where it never
was, began to wait. -/
def State.soughtRank (s : State) (p : Nat × Team) : Nat × Nat × Nat :=
  (((s.grid? p.2.grid).map Grid.cls).getD 0, if p.2.state = .saved then p.2.runStart else p.2.firstWaiting, p.1)

/-- What a waiting team seeks is kept from another (R350; assumption log 115): from one that stands behind it in Lift's order, and from one that
has been placed since it began to seek. -/
def State.seeksBefore (s : State) (w x : Nat × Team) : Bool :=
  (w.2.state == .waiting || w.2.state == .saved) && w.2.sought.any (fun q => rankLt (s.soughtRank w) (s.soughtRank x) &&
    (rankLt (s.waitRank w) (s.waitRank x) || (x.2.state == .saved && decide (q.since ≤ x.2.runStart))))

/-- The footprint that a team seeks. -/
def Sought.spot (q : Sought) : Spot := ⟨q.cores, q.edges, 0⟩

/-- The teams whose sought footprints are kept from a team, with those footprints: from none for which a footprint is being freed. -/
def State.soughtFor (s : State) (tid : Nat) (t : Team) : List (Nat × Team × Spot) :=
  if s.targetHolds tid t then []
  else s.teams.filterMap (fun q =>
    if q.1 != tid && s.seeksBefore q (tid, t) then q.2.sought.map (fun x => (q.1, q.2, x.spot)) else none)

/-- Nothing of a footprint is kept for other teams: the footprints being freed for them, and but for a pre-emption of R347 those they seek, share
no core with it, and with their seam channels and window indices enough are left (R39, R337, R339, R350; assumption log 96, 115). -/
def State.unkept (s : State) (sought : Bool) (without : List Nat) (tid : Nat) (t : Team) (p : Spot) : Bool :=
  let kept := s.keptFor tid t ++ (if sought then s.soughtFor tid t else [])
  let c := s.ctxOfTeam t
  kept.all (fun q => p.cores.all (fun k => !q.2.2.cores.contains k)) &&
  (t.edgesOn p == 0 || decide (s.seamTaken (without ++ s.leaving) + (kept.map (fun q => if q.2.2.cores.isEmpty then 0 else q.2.1.edgesOn q.2.2)).foldl (· + ·) 0 + t.edgesOn p ≤
    Config.seamChannels)) &&
  (t.window.isSome || decide ((s.usedWindows c).length + (kept.filter (fun q => q.2.1.window.isNone && s.ctxOfTeam q.2.1 == c)).length < 1024))

/-- A footprint qualifies (R336, R337): it has room, nothing of it is kept for another team, and it is the one freed for this team, if
one is. -/
def State.spotOk (s : State) (sought : Bool) (without : List Nat) (tid : Nat) (t : Team) (r : Record) (p : Spot) : Bool :=
  s.spotFits without tid t r p && s.unkept sought without tid t p && (t.target.isEmpty || t.target == p.cores || !s.targetHolds tid t)

/-- The footprint that Lift chooses (R337). -/
def State.bestSpot (s : State) (without : List Nat) (tid : Nat) (t : Team) (r : Record) : Option Spot :=
  least Spot.rank ((r.spots).filter (s.spotOk true without tid t r))

def State.insertRank (s : State) (p : Nat × Team) : List (Nat × Team) → List (Nat × Team)
  | [] => [p]
  | q :: r => if rankLt (s.waitRank p) (s.waitRank q) then p :: q :: r else q :: s.insertRank p r

/-- Waiting and saved teams in Lift's order (R340). -/
def State.waiting (s : State) : List (Nat × Team) :=
  (s.teams.filter (fun p => p.2.state == .waiting || p.2.state == .saved)).foldl (fun l p => s.insertRank p l) []

/-- Where a waiting team can be placed now, with a window index (R336, R337, R339). -/
def State.placeFor (s : State) (tid : Nat) (t : Team) : Option Spot :=
  match s.recordOf t with
  | none => none
  | some r => if s.windowFor t then s.bestSpot [] tid t r else none

/-- The first team in order that can be placed, with its footprint (R340). -/
def State.firstPlaceable (s : State) : Option (Nat × Team × Spot) :=
  s.waiting.findSome? (fun p => (s.placeFor p.1 p.2).map (fun sp => (p.1, p.2, sp)))

/-! ### Placing a team (R21, R24, R28, R338, R339) -/

/-- A warp's seat on its core: slot, base lane and width. -/
structure Seat where
  slot : Nat
  base : Nat
  width : Nat
deriving DecidableEq, Repr

/-- The seats taken on a core by other teams' warps. -/
def State.seats (s : State) (tid core : Nat) : List Seat :=
  ((s.onCore [tid] core).flatMap (fun g => s.warpsOf g.1)).filterMap (fun w =>
    if w.2.retired then none else some ⟨w.2.slot, w.2.base, w.2.width⟩)

/-- Lanes of resident warps on a lane block. -/
def blockLoad (seats : List Seat) (b : Nat) : Nat :=
  16 * (seats.filter (fun x => decide (x.base ≤ 16 * b) && decide (16 * b < x.base + x.width))).length

/-- The next seat for a warp of a width (R338). -/
def nextSeat (seats : List Seat) (width : Nat) : Seat :=
  let slot := ((List.range Config.warpSlots).find? (fun n => !seats.any (fun x => x.slot == n))).getD 0
  let base :=
    if width = 64 then 0
    else if width = 32 then
      (if blockLoad seats 0 + blockLoad seats 1 ≤ blockLoad seats 2 + blockLoad seats 3 then 0 else 32)
    else 16 * ((least (blockLoad seats) [0, 1, 2, 3]).getD 0)
  ⟨slot, base, width⟩

/-- The starting scalar registers of a warp (R339). -/
def startScalars (args member base team : Dword) : Table Dword :=
  Table.put 0 (Table.put 0 (Table.put 0 (Table.put 0 [] 0 args) 1 member) 2 base) 3 team

/-- A warp of a new workgroup with its one fragment (R28, R339): it acquires what its grid's start releases (R37). CAPID is the model's own identity of the warp (assumption log 106). -/
def State.newWarp (s : State) (gid : Nat) (t : Team) (r : Record) (member idx : Nat) (seat : Seat) : State :=
  let lanes := min r.width (r.wglanes - idx * r.width)
  let w := s.fresh
  let f := w.2.fresh
  let warp : Warp :=
    { wg := gid, idx := idx, width := r.width, slot := seat.slot, base := seat.base, capid := BitVec.ofNat 32 w.1
      s := startScalars r.args (BitVec.ofNat 64 member) (BitVec.ofNat 64 t.base) (BitVec.ofNat 64 t.number) }
  let frag : Frag := { warp := w.1, pc := r.entry, lm := Lanes.below lanes, fmt := r.fmt, readySince := s.tick }
  ((f.2.setWarp w.1 warp).setFrag f.1 frag).handTo (· == .grid t.grid) w.1 gid (BitVec.allOnes 64)

/-- A new member of a team on its core (R28, R29, R84, R327, R339). -/
def State.newWg (s : State) (tid : Nat) (t : Team) (r : Record) (member core : Nat) : State :=
  let g := s.fresh
  let wg : Wg :=
    { team := tid, member := member, core := core, benchSize := r.bench, tvec := r.tvec
      ctl := (if r.check then 1 else 0) + (if r.bken then 2 else 0) }
  let s := (g.2.setWg g.1 wg).modTeam tid (fun x => { x with wgs := x.wgs ++ [g.1] })
  ((List.range r.warps).foldl (fun (q : State × List Seat) i =>
    let seat := nextSeat q.2 r.width
    (q.1.newWarp g.1 t r member i seat, q.2 ++ [seat])) (s, s.seats tid core)).1

/-- The DIEMASK bits of a team's cores are set (R21). -/
def State.markCores (s : State) (c : Nat) (cores : List Nat) : State :=
  s.markDies c (cores.foldl (fun a k => a ||| coreDies k) 0)

/-- A team takes its footprint: resident, with its channels earmarked and its run slice started (R337, R345). -/
def Team.settleOn (t : Team) (sp : Spot) (tick : Nat) : Team :=
  { t with
    state := .resident
    cores := sp.cores
    target := []
    sought := none
    earmark := t.edgesOn sp
    runStart := tick
    runExpired := false
    waitStart := none }

/-- A waiting team is placed for the first time (R336 to R339). -/
def State.placeTeam (s : State) (tid : Nat) (t : Team) (sp : Spot) : State :=
  match s.recordOf t with
  | none => s
  | some r =>
    let c := s.ctxOfTeam t
    let i := (s.freeWindow c).getD 0
    let t := { t.settleOn sp s.tick with window := some i, base := ((s.ctx c).twin.getD 0) + i * 2 ^ 22 }
    let s := (s.markCores c sp.cores).setTeam tid t
    (sp.cores.zipIdx).foldl (fun s q => s.newWg tid t r q.2 q.1) s

/-- The wait slices of teams that Lift now fails to place start, where none runs (R345). -/
def State.startWaitSlices (s : State) (failed : List Nat) : State :=
  { s with teams := s.teams.map (fun p =>
      if failed.contains p.1 && p.2.waitStart.isNone then (p.1, { p.2 with waitStart := some s.tick }) else p) }

/-- The waiting teams that stand before one in Lift's order: it passes them over. -/
def State.passedOver (s : State) (tid : Nat) : List Nat := (s.waiting.map Prod.fst).takeWhile (fun i => i != tid)

/-- The waiting teams without a running wait slice that cannot be placed. -/
def State.unplaced (s : State) : List Nat :=
  (s.teams.filter (fun p => (p.2.state == .waiting || p.2.state == .saved) && p.2.waitStart.isNone && (s.placeFor p.1 p.2).isNone)).map Prod.fst

/-- TEAM_PLACEMENT (R336, R340): the first team in order that can be placed is placed, where it waits for its first placement. The wait slices of
those that it passes over start, and where no team can be placed those of all. A saved team is placed by TEAM_RESUME. -/
def State.placement (s : State) : State :=
  match s.firstPlaceable with
  | some (tid, t, sp) => if t.state = .waiting then (s.startWaitSlices (s.passedOver tid)).placeTeam tid t sp else s
  | none => s.startWaitSlices (s.waiting.map Prod.fst)

def execTeamPlacement (s : State) := happens s.placement

/-! ### Slices and victims (R344 to R349) -/

/-- SLICE of a team's class in ticks; 0 where it never expires (R344). -/
def State.sliceOf (s : State) (t : Team) : Nat :=
  (Table.getD s.slices (((s.grid? t.grid).map Grid.cls).getD 0) 0).toNat * 1024

/-- A slice that started at a tick has expired (R344, R345). -/
def State.sliceOver (s : State) (t : Team) (start : Nat) : Bool :=
  decide (0 < s.sliceOf t) && decide (start + s.sliceOf t ≤ s.tick)

/-- RUN_SLICE_EXPIRY (R345). -/
def State.runSlice (s : State) (tid : Nat) : State :=
  match s.team? tid with
  | none => s
  | some t => if t.state = .resident ∧ s.sliceOver t t.runStart = true then s.setTeam tid { t with runExpired := true } else s

def execRunSliceExpiry (team : Nat) (s : State) := happens (s.runSlice team)

/-- The class of a team's grid. -/
def State.clsOfTeam (s : State) (t : Team) : Nat := ((s.grid? t.grid).map Grid.cls).getD 0

/-- The teams that hold a core of a footprint. -/
def State.teamsOn (s : State) (cores : List Nat) : List (Nat × Team) :=
  s.teams.filter (fun p => p.2.state.onCores &&
    (s.wgsOf p.1).any (fun g => cores.contains g.2.core))

/-- A resident team may be pre-empted for a team of class c (R346): a slice that expires in this tick counts as expired (R349). -/
def State.mayYield (s : State) (c : Nat) (v : Team) : Bool :=
  v.state == .resident && (decide (c < s.clsOfTeam v) || (s.clsOfTeam v == c && (v.runExpired || s.sliceOver v v.runStart)))

/-- A choice of victims: the teams and the footprint. -/
structure Choice where
  victims : List Nat
  worst : Nat
  spot : Spot
deriving DecidableEq, Repr

/-- The order among choices (R346): fewest teams, the numerically highest class among them, then R337. -/
def Choice.before (a b : Choice) : Bool :=
  decide (a.victims.length < b.victims.length) ||
    (a.victims.length == b.victims.length &&
      (decide (b.worst < a.worst) || (a.worst == b.worst && decide (a.spot.rank < b.spot.rank))))

/-- The first of choices in an order. -/
def firstChoice : List Choice → Option Choice
  | [] => none
  | c :: r =>
    match firstChoice r with
    | none => some c
    | some d => if d.before c then some d else some c

/-- The footprints that a team could take if allowed teams were pre-empted (R346): none where it is a window index that it waits for, which
no pre-emption frees (R339). -/
def State.choices (s : State) (tid : Nat) (t : Team) (r : Record) (allowed : Nat × Team → Bool) : List Choice :=
  if !s.windowFor t then [] else (r.spots).filterMap (fun sp =>
    let vs := s.teamsOn sp.cores
    if !vs.isEmpty && vs.all allowed && s.spotOk true (vs.map Prod.fst) tid t r sp then
      some ⟨vs.map Prod.fst, vs.foldl (fun n v => max n (s.clsOfTeam v.2)) 0, sp⟩
    else none)

/-- Teams are chosen as victims (R346 to R349): they issue nothing after this tick, and the footprint is kept for the team that waits. Their
own wait slices start with the choice (R345). -/
def State.preempt (s : State) (victims : List Nat) (for_ : Nat) (cores : List Nat) : State :=
  let s := victims.foldl (fun s v => s.modTeam v (fun t => { t with state := .chosen, waitStart := some s.tick })) s
  s.modTeam for_ (fun t => { t with target := cores })

/-- The handles that a team's leader waits for in LWAIT, with the leader workgroup (R39). A leader of several fragments is taken as blocked there
as soon as one of them is, which the spec leaves open (assumption log 93). -/
def State.leaderWaits (s : State) (tid : Nat) : List (Nat × Nat) :=
  match s.member? tid 0 with
  | none => []
  | some g => (s.wgFrags g.1).filterMap (fun p => match p.2.wait with
      | some (.lwait h) => some (g.1, h)
      | _ => none)

/-- The grids that a team's leader waits for. -/
def State.awaited (s : State) (tid : Nat) : List Nat :=
  (s.leaderWaits tid).filterMap (fun q => (s.grids.find? (fun p => p.2.parentWg == q.1 && p.2.handle == q.2)).map Prod.fst)

/-- The resident teams that wait in LWAIT for a grid or for a grid above it, at most n levels up, the nearest first (R36, R39). -/
def State.waitersFor (s : State) : Nat → Nat → List Nat
  | 0, _ => []
  | n + 1, gid =>
    (s.teams.filterMap (fun p => if p.2.state = .resident ∧ (s.awaited p.1).contains gid = true then some p.1 else none)) ++
      (match (s.grid? gid).bind Grid.parent with
        | some p => s.waitersFor n p
        | none => [])

/-- The wait slice of a team has expired, and no place is free for it (R345, R346). -/
def State.sliceDue (s : State) (p : Nat × Team) : Bool :=
  p.2.waitStart.any (s.sliceOver p.2) && (s.placeFor p.1 p.2).isNone

/-- A footprint that a team of class c may come to: every team on it may be pre-empted for it, now or once its run slice has expired, and it has
room for the team then. -/
def State.maySeek (s : State) (tid : Nat) (t : Team) (r : Record) (waiters : List Nat) (sp : Spot) : Bool :=
  let vs := s.teamsOn sp.cores
  vs.all (fun v => decide (s.clsOfTeam t ≤ s.clsOfTeam v.2) || waiters.contains v.1) && s.spotFits (vs.map Prod.fst) tid t r sp &&
    ((s.keptFor tid t ++ s.soughtFor tid t).all (fun q => sp.cores.all (fun k => !q.2.2.cores.contains k)))

/-- A team whose wait slice has expired for nothing seeks a footprint (R350; assumption log 115): the one it has sought, or the best it may come
to. A team without a window index keeps the next free one. -/
def State.seek (s : State) (tid : Nat) (t : Team) (r : Record) (waiters : List Nat) : State :=
  let held := (t.sought.map Sought.spot).filter (fun sp => !sp.cores.isEmpty && s.maySeek tid t r waiters sp)
  let best := firstChoice ((r.spots.filter (s.maySeek tid t r waiters)).map (fun sp =>
    let vs := s.teamsOn sp.cores
    ⟨vs.map Prod.fst, vs.foldl (fun n v => max n (s.clsOfTeam v.2)) 0, sp⟩))
  let found : Option Spot := match held with
    | some sp => some sp
    | none => best.map Choice.spot
  let q : Sought :=
    { since := (t.sought.map Sought.since).getD s.tick, cores := (found.map Spot.cores).getD [], edges := (found.map Spot.edges).getD 0 }
  s.modTeam tid (fun t => { t with sought := some q })

/-- WAIT_SLICE_EXPIRY (R345, R346): of the teams whose wait slices have expired the first in Lift's order chooses first. The slice starts
again, and the team keeps the footprint that is being freed for it. A team that waits in LWAIT for the grid can always be freed (R39,
R347). -/
def State.waitSlice (s : State) (tid : Nat) : State :=
  match s.waiting.find? s.sliceDue with
  | none => s
  | some (i, t) =>
    match s.recordOf t with
    | none => s
    | some r =>
      if i = tid then
        let vs := s.waitersFor 10 t.grid
        let s := s.modTeam tid (fun t => { t with waitStart := some s.tick })
        if s.targetHolds tid t then s
        else
        (match firstChoice (s.choices tid t r (fun v => s.mayYield (s.clsOfTeam t) v.2 || vs.contains v.1)) with
          | some c => s.preempt c.victims tid c.spot.cores
          | none => s.seek tid t r vs)
      else s

def execWaitSliceExpiry (team : Nat) (s : State) := happens (s.waitSlice team)

/-- Teams without those that need not leave: each is kept where the others suffice. -/
def leastVictims (ok : List Nat → Bool) (vs : List Nat) : List Nat :=
  vs.foldl (fun l v => if ok (l.filter (· != v)) then l.filter (· != v) else l) vs

/-- The footprints that a team could take if teams that wait in LWAIT for its grid were pre-empted, whoever else is on them: those that hold
a core of it or, anywhere, seam channels, and of them the nearest ones that suffice (R39, R337, R347; assumption log 82). -/
def State.lwaitChoices (s : State) (tid : Nat) (t : Team) (r : Record) (vs : List Nat) : List Choice :=
  if !s.windowFor t then [] else (r.spots).filterMap (fun sp =>
    let on := s.teamsOn sp.cores
    let able := vs.filter (fun v => on.any (fun p => p.1 == v) || decide (s.seamTaken [v] < s.seamTaken []))
    ((List.range able.length).find? (fun n => s.spotOk false (able.take (n + 1)) tid t r sp)).map (fun n =>
      let victims := leastVictims (fun l => s.spotOk false l tid t r sp) (able.take (n + 1))
      ⟨victims, (s.teams.filter (fun p => victims.contains p.1)).foldl (fun n v => max n (s.clsOfTeam v.2)) 0, sp⟩))

/-- The team for which one that waits in LWAIT is pre-empted, and the choice of victims (R39, R347). -/
def State.lwaitChoice (s : State) (tid : Nat) : Option (Nat × Choice) :=
  s.waiting.findSome? (fun w =>
    let vs := s.waitersFor 10 w.2.grid
    if !s.targetHolds w.1 w.2 && vs.contains tid && (s.placeFor w.1 w.2).isNone then
      match s.recordOf w.2 with
      | none => none
      | some r => ((firstChoice (s.lwaitChoices w.1 w.2 r vs)).filter (fun c => c.victims.contains tid)).map (fun c => (w.1, c))
    else none)

/-- LWAIT_PREEMPTION (R39, R347). -/
def State.lwaitPreempt (s : State) (tid : Nat) : State :=
  match s.team? tid with
  | none => s
  | some t =>
    if t.state = .resident then
      (match s.lwaitChoice tid with
        | some p => s.preempt p.2.victims p.1 p.2.spot.cores
        | none => s)
    else s

def execLwaitPreemption (team : Nat) (s : State) := happens (s.lwaitPreempt team)

end Sys2Proof.Machine
end

