-- ==== Sys2Proof/Machine/SaveResume.lean ====
section
/-! DEFINITION. Saving a pre-empted team and resuming it (R214, R256, R315, R317, R348, R362 to R369). The image of a saved team is
the units of State themselves, which no longer hold a core; what belonged to a core is kept in the team. -/

namespace Sys2Proof.Machine

/-- An operation that may stay outstanding at a save: a tag wait that no lane can leave (R187, R214, R365). -/
def State.opStays (s : State) (id : Nat) (o : Op) : Bool :=
  o.op.waits && !o.waitsRemote && !o.lanes.isEmpty && (s.readyLanes id o).isEmpty

/-- A command keeps a save waiting: one that has begun to access memory, MXOP apart, or that only writes a value (R256). An MXLDB that has begun while
an earlier command of its bond goes on has its tile behind that command, which the save stops (R272, R273): it accesses memory no more, and its tile
goes into the image with it (assumption log 97). -/
def State.mustEnd (s : State) (id : Nat) (c : Cmd) : Bool :=
  !c.ended &&
    (match c.kind with
      | .mxop _ _ _ _ _ _ => false
      | .mxldb _ _ _ _ _ => c.state == .running && (s.turnOf id c || !c.left.isEmpty)
      | .value _ => true
      | .launch _ _ => true
      | .plngo => true
      | k => k.starts && c.state == .running)

/-- What a team has issued is complete (R214, R256, R315, R366). A warp that may retire does so first (R349). -/
def State.quiesced (s : State) (tid : Nat) : Bool :=
  let gs := s.teamWgs tid
  s.ops.all (fun p => !gs.contains p.2.wg || s.opStays p.1 p.2) &&
    s.cmds.all (fun p => !(gs.contains p.2.wg && s.mustEnd p.1 p.2)) &&
    (s.teamWarps tid).all (fun p => p.2.capsule.all (fun c => c.steps.isEmpty) && !s.mayRetire p.1 p.2)

/-- Adds 1 to PRE of a grid and of each ancestor (R334, R348). -/
def State.countPre (s : State) : Nat → Nat → State
  | 0, _ => s
  | n + 1, gid =>
    match s.grid? gid with
    | none => s
    | some g =>
      let s := s.setGrid gid { g with pre := min (g.pre + 1) 0xFFFF }
      (match g.parent with
        | some p => s.countPre n p
        | none => s)

/-- What the image keeps of a team's planers (R363). -/
def State.imagePlaners (s : State) (tid : Nat) : List SavedPlaner :=
  (s.wgsOf tid).filterMap (fun g =>
    let k := s.core g.2.core
    if k.planerWg = some g.1 then
      some ⟨g.2.member, k.planer, k.planerWarp, k.planerTrap, k.program, k.progAddr, k.progLen, k.queues⟩
    else none)

/-- A member's core is given up (R348): it asks for no accumulators there, and its planer slot is free. -/
def State.leaveCore (s : State) (tid gid core : Nat) : State :=
  let ws := ((s.teamWarps tid).map Prod.fst)
  let s := s.modCore core (fun k => { k with msmFifo := k.msmFifo.filter (fun p => !ws.contains p.1) })
  if (s.core core).planerWg = some gid then
    s.modCore core (fun k => { k with
      planerWg := none, planer := .stopped, planerWarp := none, planerTrap := { code := 0 }, program := [], progAddr := 0,
      progLen := 0, queues := [] })
  else s

/-- TEAM_SAVE (R348, R362, R366, R368). -/
def State.saveTeam (s : State) (tid : Nat) : State :=
  match s.team? tid with
  | none => s
  | some t =>
    if t.state = .saving ∧ s.quiesced tid = true then
      let c := ((s.grid? t.grid).map Grid.ctx).getD 0
      let gs := s.wgsOf tid
      let planers := s.imagePlaners tid
      let s := (s.teamWarps tid).foldl (fun s p => s.displace p.1) (s.surrender tid)
      let s := gs.foldl (fun s g => s.leaveCore tid g.1 g.2.core) s
      let s := s.modTeam tid (fun t => { t with state := .saved, earmark := 0, savedPlaners := planers })
      let ws := (s.teamWarps tid).map Prod.fst
      let s : State := { s with
        frags := s.frags.map (fun p => if ws.contains p.2.warp then (p.1, { p.2 with packet := [] }) else p) }
      gs.foldl (fun s g => (s.grantMsm g.2.core).jigLeave g.2.core c) s
    else s

def execTeamSave (team : Nat) (s : State) := happens (s.saveTeam team)

/-! ### Resume (R57, R256, R315, R317, R338, R367, R369) -/

/-- A member's warps take seats on their new core (R338). -/
def State.seatMember (s : State) (tid gid core : Nat) : State :=
  let seats := s.seats tid core
  let s := s.modWg gid (fun g => { g with core := core })
  (((s.warpsOf gid).filter (fun p => !p.2.retired)).foldl (fun (q : State × List Seat) p =>
    let seat := nextSeat q.2 p.2.width
    (q.1.modWarp p.1 (fun w => { w with slot := seat.slot, base := seat.base }), q.2 ++ [seat])) (s, seats)).1

/-- The commands of a team name its new cores (R256, R369). -/
def State.moveCmds (s : State) (tid : Nat) (old new_ : Team) : State :=
  let gs := s.teamWgs tid
  { s with cmds := s.cmds.map (fun p =>
      if gs.contains p.2.wg then
        (p.1, { p.2 with
          core := ((s.wg? p.2.wg).map Wg.core).getD p.2.core
          leader := new_.cores.getD (memberOf old p.2.leader) p.2.leader })
      else p) }

/-- A saved bond or tile comes back (R367, R369). -/
def State.reformBond (s : State) (tid : Nat) (t : Team) (b : SavedBond) : State :=
  let core := t.cores.getD b.leader 0
  let s := if b.formed then
      s.modCore core (fun k => { k with width8 := b.width8, tile := b.tile, tileFmt := b.tileFmt, tileScale := b.tileScale })
    else s
  if b.shape = 0 then s
  else
    let rc := shapeCores b.shape
    let bond : Bond :=
      { team := tid, shape := b.shape, formed := b.formed, members := b.members.map (fun m => t.cores.getD m 0)
        channels := seamEdges core rc.1 rc.2, cmd := b.cmd }
    { s with bonds := Table.set s.bonds core bond }

/-- A saved planer comes back to its core, whose slot is free (R283; assumption log 76). -/
def State.restorePlaner (s : State) (tid : Nat) (t : Team) (p : SavedPlaner) : State :=
  let core := t.cores.getD p.member 0
  let s := s.modCore core (fun k => { k with
    planerWg := (s.member? tid p.member).map Prod.fst, planer := p.state, planerWarp := p.warp, planerTrap := p.trap,
    program := p.program, progAddr := p.progAddr, progLen := p.progLen, queues := p.queues })
  match p.warp with
  | some w => s.modWarp w (fun x => { x with planer := some core })
  | none => s

/-- An MXACQ or MSMA that was blocked at the save is issued again on the new core, at the tail of its FIFO (R256). -/
def State.reissue (s : State) (p : Nat × Frag) : State :=
  match p.2.wait with
  | some (.grant id) =>
    (match Table.get? s.cmds id with
      | some c =>
        (match c.kind with
          | .mxacq =>
            let k := s.core c.core
            if k.owner.isNone && k.fifo.isEmpty then (s.giveLease c.core c.warp).leaveEC id .done
            else s.modCore c.core (fun k => { k with fifo := k.fifo ++ [(c.warp, id)] })
          | .msma n => (s.modCore c.core (fun k => { k with msmFifo := k.msmFifo ++ [(c.warp, id, n)] })).grantMsm c.core
          | _ => s)
      | none => s)
  | _ => s

/-- The capsule of a resuming holder is settled by one action at its home unit (R315, R317). -/
def State.settleHolder (s : State) (p : Nat × Warp) : State :=
  match p.2.capsule with
  | none => s
  | some c =>
    if c.adopting then s
    else
      let ctl := s.capCtl c.record
      if p.2.returnSlot.isSome then s.capReturn p.1
      else if ctl.state = 2 ∧ ctl.owner = p.2.capid then s.setCapCtl c.record { ctl with state := 1 }
      else if ctl.state = 3 ∧ ctl.owner = p.2.capid then s.modFrag c.frag (fun f => { f with wait := some .returnSlot })
      else s

/-- Tag waits are presented to their bank units again (R186, R365). -/
def State.presentAgain (s : State) (tid : Nat) : State :=
  let gs := s.teamWgs tid
  s.ops.foldl (fun s p =>
    if gs.contains p.2.wg && p.2.op.waits then
      let n := s.fresh
      n.2.modOp p.1 (fun o => { o with arrived := n.1 })
    else s) s

/-- The fragments of a resumed team have been ready from now at the earliest (R341, R342). -/
def State.readyAgain (s : State) (tid : Nat) : State :=
  let ws := (s.teamWarps tid).map Prod.fst
  { s with frags := s.frags.map (fun p => if ws.contains p.2.warp then (p.1, p.2.readyFrom s.tick) else p) }

/-- TEAM_RESUME (R367): the first team in Lift's order that can be placed, where it is this one. -/
def State.resumeTeam (s : State) (tid : Nat) : State :=
  match s.firstPlaceable with
  | none => s
  | some (i, t, sp) =>
    if i = tid ∧ t.state = .saved then
      let c := ((s.grid? t.grid).map Grid.ctx).getD 0
      let new_ := { t.settleOn sp s.tick with leases := [], savedBonds := [], savedJoins := [], savedPlaners := [] }
      let s := ((s.startWaitSlices (s.passedOver tid)).markCores c sp.cores).setTeam tid new_
      let s := (s.wgsOf tid).foldl (fun s g => s.seatMember tid g.1 (sp.cores.getD g.2.member 0)) s
      let s := s.moveCmds tid t new_
      let s := t.leases.foldl (fun s l =>
        s.modCore (sp.cores.getD l.1 0) (fun k => { k with owner := some l.2, lastWg := (s.warp? l.2).map Warp.wg })) s
      let s := t.savedBonds.foldl (fun s b => s.reformBond tid new_ b) s
      let s := t.savedJoins.foldl (fun s j => s.modCore (sp.cores.getD j.member 0) (fun k =>
        { k with joined := some ⟨tid, sp.cores.getD j.leader 0, j.cmd, j.warp, j.active⟩ })) s
      let s := t.savedPlaners.foldl (fun s p => s.restorePlaner tid new_ p) s
      let s := ((s.frags.filter (fun p => (s.warp? p.2.warp).any (fun w => (s.teamWgs tid).contains w.wg)))).foldl
        (fun s p => s.reissue p) s
      let s := (s.teamWarps tid).foldl (fun s p => s.settleHolder p) s
      (s.presentAgain tid).readyAgain tid
    else s

def execTeamResume (team : Nat) (s : State) := happens (s.resumeTeam team)

end Sys2Proof.Machine
end

