-- ==== Sys2Proof/Machine/Management.lean ====
section
/-! DEFINITION. The management block (R328, R344, R361, R378 to R382, R387), loss of a die (R22, R372), the end of a dead context's
drain (R371), and reset with the bring-up steps (R12, R19, R373, R385 to R388). -/

namespace Sys2Proof.Machine

/-! ### Queue descriptors (R328) -/

/-- Word i of a queue descriptor as it was written, its reserved bits among the others (R328). -/
def Queue.written (q : Queue) (i : Nat) : Dword :=
  match i with
  | 0 => q.base
  | 1 => q.ctxid ++ q.res1 ++ (if q.en then 1#1 else 0#1) ++ q.cls ++ q.log2n
  | 2 => q.evbase
  | 3 => q.res3 ++ q.evcount
  | 4 => q.twin
  | 5 => q.tail ++ q.head
  | 6 => q.res6
  | _ => q.res7

/-- Word i of a queue descriptor as it is read: reserved bits read as 0 (R6, R328, R378). -/
def Queue.word (q : Queue) (i : Nat) : Dword := { q with res1 := 0, res3 := 0, res6 := 0, res7 := 0 }.written i

/-- A descriptor with one word written; HEAD is written only by Lift, and EN by the rule of `enable` (R328). R378 has reserved bits follow
R6, and R328 tests EN against them: they are kept as written, so that an earlier write's bit refuses a later EN (assumption log 86). -/
def Queue.setWord (q : Queue) (i : Nat) (x : Dword) : Queue :=
  match i with
  | 0 => { q with base := x }
  | 1 => { q with ctxid := x.extractLsb' 32 32, res1 := x.extractLsb' 8 24, cls := x.extractLsb' 5 2, log2n := x.extractLsb' 0 5 }
  | 2 => { q with evbase := x }
  | 3 => { q with res3 := x.extractLsb' 12 52, evcount := x.extractLsb' 0 12 }
  | 4 => { q with twin := x }
  | 5 => { q with tail := x.extractLsb' 32 32 }
  | 6 => { q with res6 := x }
  | _ => { q with res7 := x }

/-- Why Lift refuses EN (R328): a reserved bit, LOG2N, a misaligned address, or a TWIN that differs from that of another enabled
queue of the context. -/
def State.enRefused (s : State) (n : Nat) (q : Queue) : Bool :=
  q.res1 != 0 || q.res3 != 0 || q.res6 != 0 || q.res7 != 0 || decide (q.log2n.toNat < 4) || decide (16 < q.log2n.toNat) ||
    q.base.toNat % 4096 != 0 || q.evbase.toNat % 8 != 0 || q.twin.toNat % 2 ^ 32 != 0 ||
    s.queues.any (fun p => p.1 != n && p.2.en && p.2.ctxid == q.ctxid && p.2.twin != q.twin)

/-- The bytes from `first` on of a 64-bit word replaced by those of a value, size of them. -/
def mergeBytes (old : Dword) (first size : Nat) (value : Dword) : Dword :=
  let mask := BitVec.ofNat 64 ((2 ^ (8 * size) - 1) * 2 ^ (8 * first))
  (old &&& ~~~mask) ||| ((value <<< (8 * first)) &&& mask)

/-- QUEUE_DESCRIPTOR_WRITE (R328): a naturally aligned write of 1, 2, 4 or 8 bytes. A write that reaches EN sets it or clears it; an
enabled queue gives its context the TWIN region. -/
def State.writeQueue (s : State) (n byte size : Nat) (value : Dword) : State :=
  if n < 64 ∧ byte + size ≤ 64 ∧ byte / 8 = (byte + size - 1) / 8 ∧ 0 < size then
    let q := s.queue n
    let i := byte / 8
    let x := mergeBytes (q.written i) (byte % 8) size value
    let q' := q.setWord i x
    let q' := if i = 1 ∧ byte = 8 then { q' with en := x.getLsbD 7 && !s.enRefused n q' } else q'
    let s := s.setQueue n q'
    if q'.en then s.modCtx q'.ctxid.toNat (fun c => { c with twin := some q'.twin.toNat }) else s
  else s

def execQueueDescriptorWrite (queue byte size : Nat) (value : BitVec 64) (s : State) := happens (s.writeQueue queue byte size value)

/-! ### Commands (R361, R379, R380, R387) -/

/-- A write of CMD with an operation: ignored while BUSY is set (R379). -/
def State.command (s : State) (op : BitVec 4) (act : State → State) : State :=
  if s.cmdBusy then s else act { s with cmdOp := op, cmdBusy := true }

/-- TRANSLATION_INVALIDATION (R361): the translations kept of the context go, and later walks find the entries as they stand. -/
def execTranslationInvalidation (s : State) := happens (s.command 1 (fun s => s.forgetTranslations (bitsAt s.opnd 0 32)))

/-- HOST_KILL (R370, R379, R380). -/
def execHostKill (s : State) := happens (s.command 2 (fun s => s.killContext (bitsAt s.opnd 0 32) Code.hostKill none))

/-- The physical number of a virtual stack, and the other way round (R19, R385). -/
def swapStack (swap : Bool) (n : Nat) : Nat := if swap then (n + 4) % 8 else n

/-- The hint of a stack goes; the host names the stack by its virtual number (R19, R387).
An OPND above 7 names none, and nothing happens (DESIGN CHOICE, assumption log 112). -/
def State.clearHint (s : State) : State :=
  if s.opnd.toNat < 8 then { s with rateHint := Table.erase s.rateHint (swapStack s.boot.swap s.opnd.toNat) } else s

/-- CLEAR_RATE_HINT (R379, R387). -/
def execClearRateHint (s : State) := happens (s.command 3 State.clearHint)

/-- CMD_NO_EFFECT (R379): BUSY clears at once. -/
def execCmdNoEffect (op : BitVec 4) (s : State) :=
  happens (if s.cmdBusy then s else { s with cmdOp := op })

/-- MANAGEMENT_COMMAND_COMPLETION (R379). -/
def execManagementCommandCompletion (s : State) := happens { s with cmdBusy := false }

/-- The command that a write of CMD gives (R379). Of OPND, commands 1 and 2 look at bits 31:0 alone (DESIGN CHOICE, assumption log 112). -/
def State.writeCmd (s : State) (op : BitVec 4) : State :=
  match op.toNat with
  | 1 => s.command 1 (fun s => s.forgetTranslations (bitsAt s.opnd 0 32))
  | 2 => s.command 2 (fun s => s.killContext (bitsAt s.opnd 0 32) Code.hostKill none)
  | 3 => s.command 3 State.clearHint
  | _ => if s.cmdBusy then s else { s with cmdOp := op }

/-! ### The other registers (R344, R378, R380 to R382, R388) -/

/-- Word i of a context table entry (R378). -/
def CtxEntry.word (e : CtxEntry) (i : Nat) : Dword :=
  match i with
  | 0 => (0#31) ++ (if e.valid then 1#1 else 0#1) ++ e.ctxid
  | 1 => (0#12) ++ e.ptroot ++ (0#12)
  | 2 => (0#53) ++ e.evvec
  | _ => 0

def CtxEntry.setWord (e : CtxEntry) (i : Nat) (x : Dword) : CtxEntry :=
  match i with
  | 0 => { e with ctxid := x.extractLsb' 0 32, valid := x.getLsbD 32 }
  | 1 => { e with ptroot := x.extractLsb' 12 40 }
  | 2 => { e with evvec := x.extractLsb' 0 11 }
  | _ => e

/-- Word i of a group table entry (R382). -/
def Group.word (g : Group) (i : Nat) : Dword :=
  if i = 0 then (0#19) ++ g.rank ++ g.size else (0#32) ++ g.tree

/-- Word i of a group table entry written (R382). A SIZE above 4,194,304 is held, and taken, as written (DESIGN CHOICE, assumption log 113). -/
def Group.setWord (g : Group) (i : Nat) (x : Dword) : Group :=
  if i = 0 then { g with size := x.extractLsb' 0 23, rank := x.extractLsb' 23 22 } else { g with tree := x.extractLsb' 0 32 }

/-- Eight bytes of the routing table: ports, 0xFF for none (R378). -/
def State.routeWord (s : State) (first : Nat) : Dword :=
  (List.range 8).foldl (fun x j => x ||| BitVec.ofNat 64 (Table.getD s.routes (first + j) 0xFF * 256 ^ j)) 0

/-- Eight bytes of the routing table written (R378): a byte that names no port is held as none (assumption log 108). -/
def State.setRoutes (s : State) (first : Nat) (x : Dword) : State :=
  (List.range 8).foldl (fun s j =>
    let p := bitsAt x (8 * j) 8
    { s with routes := if p < 18 then Table.set s.routes (first + j) p else Table.erase s.routes (first + j) }) s

/-- Eight bytes of the boot record (R386). -/
def Boot.word (b : Boot) (off : Nat) : Dword :=
  let bytes (first : Nat) := (List.range 8).foldl (fun n j => n + b.opch.getD (first + j) 0 * 256 ^ j) 0
  if off = 0 then BitVec.ofNat 64 (b.bootno.toNat + (if b.swap then 2 ^ 32 else 0))
  else if off = 8 then BitVec.ofNat 64 (bytes 0)
  else if off = 16 then BitVec.ofNat 64 (bytes 8)
  else if off = 24 then BitVec.ofNat 64 ((List.range 8).foldl (fun n k => n + b.rate.getD k 0 * 16 ^ k) 0)
  else if 64 ≤ off ∧ off < 144 then
    let i := (off - 64) / 8
    let x := b.steps.getD i (5, 0)
    BitVec.ofNat 64 (x.1 + (i + 1) * 2 ^ 8 + x.2 * 2 ^ 16)
  else 0

/-- A register of the management block as it reads, by the offset of its 64-bit word; 0 where nothing is (R6, R378). -/
def State.managementWord (s : State) (off : Nat) : Dword :=
  if off < 0x1000 then (s.queue (off / 64)).word (off % 64 / 8)
  else if off < 0x1020 then (Table.getD s.slices ((off - 0x1000) / 8) 0).setWidth 64
  else if 0x2000 ≤ off ∧ off < 0x4000 then (Table.getD s.ctxTable ((off - 0x2000) / 32) {}).word (off % 32 / 8)
  else if off = 0x4000 then (if s.cmdBusy then 1#1 else 0#1) ++ (0#59) ++ s.cmdOp
  else if off = 0x4008 then s.opnd
  else if 0x5000 ≤ off ∧ off < 0x6000 then (s.group ((off - 0x5000) / 16)).word (off % 16 / 8)
  else if 0x6000 ≤ off ∧ off < 0x6400 then s.routeWord (off - 0x6000)
  else if 0x7000 ≤ off ∧ off < 0x8000 then s.boot.word (off - 0x7000)
  else if off = 0x8000 then (0#42) ++ s.domain ++ s.devnum
  else if off = 0x8008 then s.pwrlim.setWidth 64
  else 0

/-- A 64-bit word of the management block written; `low` says that the write reaches its lowest byte. A write of CMD that does not reach it
starts nothing (assumption log 109). -/
def State.setManagementWord (s : State) (off : Nat) (low : Bool) (x : Dword) : State :=
  if 0x1000 ≤ off ∧ off < 0x1020 then { s with slices := Table.put 0 s.slices ((off - 0x1000) / 8) (x.extractLsb' 0 16) }
  else if 0x2000 ≤ off ∧ off < 0x4000 then
    let i := (off - 0x2000) / 32
    { s with ctxTable := Table.put {} s.ctxTable i ((Table.getD s.ctxTable i {}).setWord (off % 32 / 8) x) }
  else if off = 0x4000 then (if low then s.writeCmd (x.extractLsb' 0 4) else s)
  else if off = 0x4008 then { s with opnd := x }
  else if 0x5000 ≤ off ∧ off < 0x6000 then
    let i := (off - 0x5000) / 16
    { s with groups := Table.put {} s.groups i ((s.group i).setWord (off % 16 / 8) x) }
  else if 0x6000 ≤ off ∧ off < 0x6400 then s.setRoutes (off - 0x6000) x
  else if off = 0x8008 then { s with pwrlim := x.extractLsb' 0 16 }
  else s

/-- MANAGEMENT_REGISTER_WRITE (R378, R380): a naturally aligned write of 1, 2, 4 or 8 bytes. The boot record, DEVNUM and DOMAIN are
read only, and queue descriptors have an event of their own. -/
def State.writeManagement (s : State) (off size : Nat) (value : Dword) : State :=
  if 0 < size ∧ off / 8 = (off + size - 1) / 8 then
    let w := off / 8 * 8
    s.setManagementWord w (off % 8 == 0) (mergeBytes (s.managementWord w) (off % 8) size value)
  else s

def execManagementRegisterWrite (offset size : Nat) (value : BitVec 64) (s : State) := happens (s.writeManagement offset size value)

/-! ### Death (R371) and loss of a die (R22, R372) -/

/-- DEAD_CONTEXT_DRAIN_COMPLETE (R371): STATUS 2 into the DONE word of every pending grid, and the notice. -/
def State.drainComplete (s : State) (c : Nat) : State :=
  let x := s.ctx c
  match x.dead with
  | none => s
  | some cause =>
    if x.drained then s
    else
      let gs := s.grids.filter (fun p => p.2.ctx == c)
      let s := gs.foldl (fun s p => if p.2.depth = 1 ∨ p.2.record.done ≠ 0 then
        s.writeDone p.2.queue p.2.record.done p.2.record.user p.2.pre 2 else s) s
      let s : State := { s with grids := s.grids.filter (fun p => p.2.ctx != c) }
      (s.setCtx c { x with drained := true }).post (s.evvec c) (.contextDead c cause x.lost x.failedAddr)

def execDeadContextDrainComplete (ctx : Nat) (s : State) := happens (s.drainComplete ctx)

/-- The dies lost with some dies: a C-die and its B-die are lost together (R22, R372). -/
def lossClosure (d : BitVec 6) : BitVec 6 :=
  d ||| ((d &&& 3#6) <<< 2) ||| ((d >>> 2) &&& 3#6)

/-- A context dies with a lost die; where a trap of this tick has killed it, the die loss is the cause all the same (R374). -/
def State.dieOfLoss (s : State) (c : Nat) : State :=
  let x := s.ctx c
  if x.dead.isSome then
    if x.deadAt = s.tick ∧ x.drained = false ∧ x.dead ≠ some Code.hostKill then
      s.modCtx c (fun y => { y with dead := some Code.dieLost, lost := s.lostDies &&& y.diemask.setWidth 6 })
    else s
  else s.killContext c Code.dieLost none

/-- DIE_LOSS_DECLARATION (R22, R372): every context whose DIEMASK names a lost die dies, resident or saved. -/
def State.loseDies (s : State) (dies : BitVec 6) : State :=
  let lost := lossClosure dies
  let s : State := { s with
    lostDies := s.lostDies ||| lost
    teams := s.teams.map (fun p => if p.2.target.any (fun c => lost.getLsbD (coreDie c)) then (p.1, { p.2 with target := [] }) else p) }
  let s := s.ctxs.foldl (fun s p =>
    if (p.2.diemask.setWidth 6 &&& lost) ≠ 0 then s.dieOfLoss p.1 else s) s
  s.post 0 (.dieLost lost)

def execDieLossDeclaration (dies : BitVec 6) (s : State) := happens (s.loseDies dies)

/-! ### Bring-up (R12, R19, R385 to R387) -/

/-- Trials of a part at a step that fail, from the first on. -/
def bootAttempts (b : BootInputs) (step part : Nat) : Nat :=
  ((b.failures.find? (fun f => f.step == step && f.part == part)).map BootFailure.attempts).getD 0

/-- Outcome of a part that has no alternate form: passed, passed on retry, or its second failure (R385, R386). -/
def partOutcome (attempts onFail : Nat) : Nat := if attempts = 0 then 0 else if attempts = 1 then 1 else onFail

/-- A stack's training (R385, R387): from a starting rate twice, then once at each lower rate; rate 3 is skipped. -/
def trainStack (start attempts : Nat) : Nat × Nat :=
  if attempts = 0 then (start, 0)
  else if attempts = 1 then (start, 1)
  else if start + attempts - 1 ≤ 2 then (start + attempts - 1, 2)
  else (3, 3)

/-- The step's outcome is the gravest of its parts', with the first part that has it (R386). -/
def gravest (xs : List (Nat × Nat)) : Nat × Nat :=
  xs.foldl (fun a x => if a.1 < x.1 then x else a) (0, 0)

/-- The seam module that serves each operand channel (R12): the channel's own, or the lowest good general module not yet taken. -/
def substitute (bad : List Nat) : List Nat :=
  let good := (List.range 32).filter (fun m => decide (16 ≤ m) && !bad.contains m)
  ((List.range 16).foldl (fun (q : List Nat × List Nat) n =>
    if bad.contains n then (q.1 ++ [q.2.headD n], q.2.drop 1) else (q.1 ++ [n], q.2)) ([], good)).1

/-- Outcomes of the ten steps in order: once one stops, the later are not reached (R385, R386). -/
def bootSteps : List (Nat × Nat) → Bool → List (Nat × Nat)
  | [], _ => []
  | x :: r, stopped => if stopped then (5, 0) :: bootSteps r true else x :: bootSteps r (x.1 == 4)

/-- The die pairs that step 2 skips. -/
def bootLostPairs (b : BootInputs) : List Nat := (List.range 2).filter (fun n => decide (1 < bootAttempts b 2 n))

/-- A stack's rate and its outcome at step 4; a stack of a lost die pair is skipped with it. -/
def bootStack (b : BootInputs) (rate : Nat → Nat) (n : Nat) : Nat × Nat :=
  if (bootLostPairs b).contains (n / 4) then (3, 3) else trainStack (rate n) (bootAttempts b 4 n)

/-- An I-die that is absent: its training failed, or its die pair is lost. -/
def bootNoIDie (b : BootInputs) (n : Nat) : Bool := (bootLostPairs b).contains n || decide (1 < bootAttempts b 5 n)

/-- The outcome of each step by itself (R385), by physical parts. A part of a lost die pair is skipped with it; the I-die that must not
fail is the one that becomes virtual 0 (assumption log 84). -/
def bootOutcomes (b : BootInputs) (rate : Nat → Nat) : List (Nat × Nat) :=
  let lost := bootLostPairs b
  let flash := if bootAttempts b 1 0 < 2 then (bootAttempts b 1 0, 0) else if bootAttempts b 1 1 = 0 then (2, 0) else (4, 1)
  let dies := if lost.length = 2 then (4, 0) else gravest ((List.range 2).map (fun n => (partOutcome (bootAttempts b 2 n) 3, n)))
  let seam := if !lost.isEmpty then (3, 0) else if 8 < b.badModules.eraseDups.length then (4, 0)
    else (partOutcome (bootAttempts b 3 0) 4, 0)
  let first := if lost = [0] then 1 else 0
  [flash, dies, seam,
   gravest ((List.range 8).map (fun n => ((bootStack b rate n).2, n))),
   gravest ((List.range 2).map (fun n =>
     (if lost.contains n then 3 else partOutcome (bootAttempts b 5 n) (if n = first then 4 else 3), n))),
   (partOutcome (bootAttempts b 6 0) 4, 0),
   (0, 0),
   (partOutcome (bootAttempts b 8 0) 4, 0),
   gravest ((List.range 18).map (fun n => (if bootNoIDie b (n / 9) then 0 else partOutcome (bootAttempts b 9 n) 3, n))),
   (partOutcome (bootAttempts b 10 0) 4, 0)]

/-- A context that a reset leaves in its image: alive, with every team waiting or saved (R22, R373). -/
def State.survives (s : State) (c : Nat) : Bool :=
  (s.ctx c).dead.isNone && s.teams.all (fun p =>
    ((s.grid? p.2.grid).map Grid.ctx) != some c || p.2.state == .waiting || p.2.state == .saved)

/-- A canonical address once the die map has changed places of the two die pairs (R19): the stacks are renumbered. -/
def swapAddr (a : Nat) : Nat :=
  if a < linearEnd then swapStack true (a / stackBytes) * stackBytes + a % stackBytes else a

/-- Memory after a reset (R19, R385): HBM, host and remote memory stay, the stacks under their numbers of the new map; CMEM is cleared. -/
def State.keptMemory (s : State) (clear swapped : Bool) : List Host.Cell :=
  let m := if clear then s.mem.filter (fun p => storeOf p.1 != .cmem) else s.mem
  if swapped then m.foldl (fun t p => Table.put 0 t (swapAddr p.1) p.2) [] else m

/-- What a reset leaves besides memory: the stacks' rate hints and the images of saved contexts (R372, R373, R385). -/
def State.afterReset (s : State) : State :=
  let keepTeam (t : Nat) : Bool := (((s.team? t).bind (fun x => s.grid? x.grid)).map Grid.ctx).any s.survives
  let keepWg (g : Nat) : Bool := (s.wg? g).any (fun x => keepTeam x.team)
  let keepWarp (w : Nat) : Bool := (s.warp? w).any (fun x => keepWg x.wg)
  { State.reset with
    mem := s.mem
    boot := s.boot
    rateHint := s.rateHint
    portMode := s.portMode
    interrupts := []
    timebase := s.timebase
    ctxs := s.ctxs.filter (fun p => s.survives p.1)
    grids := s.grids.filter (fun p => s.survives p.2.ctx)
    teams := s.teams.filter (fun p => keepTeam p.1)
    wgs := s.wgs.filter (fun p => keepTeam p.2.team)
    warps := s.warps.filter (fun p => keepWg p.2.wg)
    frags := s.frags.filter (fun p => keepWarp p.2.warp)
    ops := s.ops.filter (fun p => keepWg p.2.wg)
    fences := s.fences.filter (fun p => keepWarp p.2.warp)
    cmds := s.cmds.filter (fun p => keepWg p.2.wg)
    tick := s.tick
    serial := s.serial
    free := s.free
    agenda := s.agenda }

/-- A saved context dies whose DIEMASK names, under the map it was saved with, a die that is lost (R22, R373). -/
def State.dieAtBoot (s : State) (lost : BitVec 6) (c : Nat) : State :=
  let named := ((s.ctx c).diemask.setWidth 6) &&& lost
  if named = 0 then s else (s.killContext c Code.dieLost none).modCtx c (fun x => { x with lost := named })

/-- The bits of both dies of some die pairs. -/
def pairBits (pairs : List Nat) : BitVec 6 := pairs.foldl (fun x n => x ||| ((5#6) <<< n)) 0

/-- DEVICE_RESET (R12, R19, R373, R375, R385 to R387): the bring-up steps, as far as they are reached, the boot record, and the death of saved
contexts that name a die now lost. Where no die pair is lost, step 7 sets the identity (assumption log 99). -/
def State.bringUp (s : State) (b : BootInputs) : State :=
  let hint (n : Nat) : Nat := Table.getD s.rateHint n 0
  let steps := bootSteps (bootOutcomes b hint) false
  let did (n : Nat) : Bool := decide ((steps.getD (n - 1) (5, 0)).1 < 4)
  let lost := if did 2 then bootLostPairs b else []
  let swap := if did 7 then lost == [0] else s.boot.swap
  let rates := if did 4 then (List.range 8).map (fun n => (bootStack b hint n).1) else List.replicate 8 0
  let ports := (List.range 18).filter (fun n => (did 5 && bootNoIDie b (n / 9)) || (did 9 && decide (1 < bootAttempts b 9 n)))
  let boot : Boot :=
    { bootno := s.boot.bootno + 1
      swap := swap
      opch := if did 3 && lost.isEmpty then substitute b.badModules else List.range 16
      rate := (List.range 8).map (fun n => rates.getD (swapStack swap n) 0)
      absent := if swap then ports.map (fun n => (n + 9) % 18) else ports
      steps := steps }
  let t : State := { s.afterReset with
    mem := s.keptMemory (did 6) (swap != s.boot.swap)
    boot := boot
    rateHint := (List.range 8).foldl (fun t n =>
      let r := rates.getD n 0
      if r = 1 ∨ r = 2 then Table.put 0 t n r else t) s.rateHint
    portMode := if did 8 then b.port else s.portMode
    devnum := if did 9 then b.devnum else 0
    domain := if did 9 then b.domain else 0
    lostDies := if lost.isEmpty then 0 else 0xA#6
    unusable := !did 10
    interrupts := if did 10 then [(0, .bootDone)] else [] }
  let named := pairBits (lost.map (fun n => if s.boot.swap then 1 - n else n))
  t.ctxs.foldl (fun t p => t.dieAtBoot named p.1) t

def execDeviceReset (inp : BootInputs) (s : State) := happens (s.bringUp inp)

/-- THERMAL_SHUTDOWN (R388): the package resets. What bring-up meets is left open: here every part passes. -/
def execThermalShutdown (s : State) := happens (s.bringUp ⟨[], [], s.devnum, s.domain, s.portMode⟩)

end Sys2Proof.Machine
end

