-- ==== Sys2Proof/Machine/Ready.lean ====
section
/-! DEFINITION. Which fragments may issue (R50, R53, R54, R296, R341) and what the next group of one comes to: its fetch (R390), the
fault of its words (R92, R353), a stall (R100, R206, R281, R282, R310, R323), or a deferred trap due at it (R255). -/

namespace Sys2Proof.Machine

/-- The issue record of a fragment's next group before any of its words. -/
def issueOf (fid : Nat) (f : Frag) (w : Warp) (words stall : Nat) : Issue :=
  { frag := fid, pc := f.pc, words := words, stall := stall, active := activeOf w f }

/-- A fragment's surroundings at its next group. -/
def State.nextView (s : State) (fid : Nat) : Option View :=
  match s.frag? fid with
  | none => none
  | some f =>
    match s.warp? f.warp with
    | none => none
    | some w => s.viewOf (issueOf fid f w 0 0)

/-- The view of word j of a group of n words. -/
def View.atWord (v : View) (n j : Nat) : View := { v with i := { v.i with words := n, word := j } }

/-! ### Claims (R50) -/

/-- A register is a vector register. -/
def Reg.isVec : Reg → Bool
  | .v _ => true
  | _ => false

/-- A vector word: one of a vector pipe, or one that names vector registers. -/
def isVector (i : Instr) : Bool :=
  let u := uses i
  u.pipe == .vi || u.pipe == .vf || u.pipe == .x || (u.reads ++ u.writes).any Reg.isVec

/-- The lane blocks that lanes of a warp at a base occupy, as bits 3:0. -/
def blocksOf (base : Nat) (a : Lanes) : Nat :=
  [0, 1, 2, 3].foldl (fun n b => if (((a <<< base) >>> (16 * b)) &&& 0xFFFF#64) != 0 then n + 2 ^ b else n) 0

/-- The lane blocks that a group claims. -/
def View.claim (v : View) (is : List (Option Instr)) : Nat :=
  if v.inPlaner then 15
  else if is.any (fun i => i.any isVector) then blocksOf v.w.base v.active
  else 2 ^ ((v.w.base + v.active.low) / 16)

/-- A core may issue one more group with a claim in this tick. -/
def State.claimFree (s : State) (core claim : Nat) : Bool :=
  let c := Table.getD s.claims core (0, 0)
  decide (c.2 < 4) && (c.1 &&& claim) == 0

/-- The claim is made. -/
def State.putClaim (s : State) (core claim : Nat) : State :=
  let c := Table.getD s.claims core (0, 0)
  { s with claims := Table.set s.claims core (c.1 ||| claim, c.2 + 1) }

/-! ### Readiness (R53, R54) -/

/-- A blocked fragment whose group has not issued tries again. -/
def Wait.retries : Wait → Bool
  | .pop _ _ => true
  | .issue => true
  | .launchLimit => true
  | .capent _ _ => true
  | .full _ => true
  | _ => false

/-- A blocked CAPENT tries again (R310): its record's control word has changed, or the record may be taken up now. -/
def State.capentOpen (s : State) (v : View) (r ctl : Nat) : Bool :=
  let st := (s.capCtl r).state
  s.capWord r != ctl || (st != 1 && st != 3 && !s.capContended v.fid v.f r)

/-- What the fragment waits for, if anything, does not keep it from trying. -/
def State.waitAllows (s : State) (v : View) : Bool :=
  match v.f.wait with
  | none => v.f.thenAt.isNone || v.f.hnd
  | some (.capent r ctl) => s.capentOpen v r ctl
  | some w => w.retries

/-- A planer's fragment runs while its planer does (R283). -/
def State.planerRuns (s : State) (v : View) : Bool :=
  match v.w.planer with
  | none => true
  | some core => (s.core core).planer == .running && (s.core core).planerWarp == some v.wid

/-- The fragment is ready, the lane blocks and its words aside (R53). -/
def State.ready (s : State) (v : View) : Bool :=
  !s.unusable && !v.w.retired && s.wgResident v.gid && (s.ctx (s.ctxOfWg v.g)).dead.isNone && decide (v.f.notBefore ≤ s.tick) &&
    v.f.due.isNone && v.f.waitOps.isEmpty && s.waitAllows v && s.planerRuns v

/-- A configuration serves another fragment of the core, which is in its body (R296). -/
def State.jigHolds (s : State) (v : View) : Bool :=
  match (s.core v.g.core).config with
  | none => false
  | some cfg =>
    match cfg.served with
    | none => false
    | some x => x != v.fid && (s.frag? x).any (fun f => cfg.holds f.pc)

/-! ### Pops (R282) -/

/-- The queues that the words of a group pop, in word order: the word and the queue. -/
def groupPops (w : Warp) (is : List (Option Instr)) : List (Nat × Nat) :=
  (is.zipIdx).flatMap (fun p => match p.1 with
    | some i => (popsOf w i).map (fun q => (p.2, q))
    | none => [])

/-- How many entries of each queue a group pops. -/
def popNeeds (ps : List (Nat × Nat)) : List (Nat × Nat) :=
  (List.range 8).filterMap (fun q =>
    let n := (ps.filter (fun p => p.2 == q)).length
    if n = 0 then none else some (q, n))

/-- The entries popped, in word order, and the queues after it. -/
def takePops : List (Nat × Nat) → Table (List (Table Word)) → List (Nat × Nat × Table Word) × Table (List (Table Word))
  | [], qs => ([], qs)
  | (j, q) :: r, qs =>
    let l := Table.getD qs q []
    let t := takePops r (Table.put [] qs q (l.drop 1))
    ((j, q, l.headD []) :: t.1, t.2)

/-- The place of a blocked popper: that of its first attempt. -/
def State.popOrder (s : State) (v : View) : Nat :=
  match v.f.wait with
  | some (.pop _ o) => o
  | _ => s.orderNow v

/-- A fragment of the core that blocks on one of the queues tried before. -/
def State.earlierPopper (s : State) (v : View) (needs : List (Nat × Nat)) : Bool :=
  s.frags.any (fun p => p.1 != v.fid &&
    (match p.2.wait with
      | some (.pop ns o) => decide (o < s.popOrder v) && ns.any (fun n => needs.any (fun m => m.1 == n.1))
      | _ => false) &&
    ((s.warp? p.2.warp).any (fun w => (s.wg? w.wg).any (fun g => g.core == v.g.core && s.wgResident w.wg))))

/-- PLANER_FAULT: a pop of an empty queue of a faulted planer (R283). -/
def State.popFault (s : State) (v : View) (ps : List (Nat × Nat)) (j : Nat) : Option Found :=
  let c := s.core v.g.core
  faultIf (c.planer == .faulted && ps.any (fun p => p.1 == j &&
      decide ((Table.getD c.queues p.2 []).length ≤ (ps.filter (fun q => q.2 == p.2 && decide (q.1 < j))).length)))
    (.issue { code := Code.planerFault, detail := c.planerTrap.code.zeroExtend 18, addr := c.planerTrap.addr })

/-! ### Faults of a group (R353) -/

/-- A step without memory access that issues now would commit at once. -/
def State.commitsNow (s : State) (v : View) : Bool :=
  s.mayCommit v.wid v.w { number := 0, pc := 0, next := 0, write := none, mem := none, op := s.serial, locs := [], frag := v.fid }

/-- A step without memory access, whose commit would come at its issue, that the record refuses (R311). -/
def State.stepRefused (s : State) (v : View) (i : Instr) : Option Found :=
  match v.w.capsule with
  | none => none
  | some c =>
    faultIf (v.inBody && i != .capexit && i != .nop && !isStep i && c.steps.isEmpty && s.commitsNow v && !capOwns (s.capCtl c.record) v.w c (c.stepAt v.f.pc))
      (.issue { code := Code.capRecord, addr := c.va })

/-- An issue check comes before an access check, and of equals the first (R353). -/
def pickFault (xs : List Found) : Option Found :=
  match xs.find? (fun f => !f.access) with
  | some f => some f
  | none => xs.head?

/-- ILLEGAL_OP for a word as fetched (R92, R352). -/
def illegalWord (w : Word) : Found := .issue { code := Code.illegalOp, detail := (w.extractLsb' 22 6).zeroExtend 18 }

/-- Word j of the next group stands inside a body and is none that its scan admitted (R309): a handler has sent the fragment elsewhere. -/
def View.strays (v : View) (j : Nat) : Bool :=
  v.inBody && v.w.capsule.any (fun c => !c.admits (v.f.pc + BitVec.ofNat 64 (4 * j)))

/-- Word 2 of the packet that the next group lies in, where it is at hand or can be fetched: a planer's program and a configuration hold no
word but their own. -/
def State.packetEnd (s : State) (v : View) : Option Word :=
  let a := packetAddr v.f.pc + 8
  let c := s.ctxOfWg v.g
  let body := s.bodyOf v.fid v.f v.w
  match bodyWord body a with
  | some w => some w
  | none => if v.inPlaner || (s.jigServes v.fid v.f v.w v.g c).isSome then none else (s.fetchWord c a).toOption.map Prod.fst

/-- ILLEGAL_OP of a group of n words that ends before word 2 of its packet, where that word has C = 1 (R92): no group of the packet is well
formed. WORD counts on from the group's first word, and a word 2 that cannot be fetched makes no group ill formed (assumption log 101). -/
def State.packetFault (s : State) (v : View) (n : Nat) : Option Found :=
  if packetIndex v.f.pc + n ≤ 2 then
    match s.packetEnd v with
    | some w => if w.getLsbD 31 then some { illegalWord w with trap := { (illegalWord w).trap with word := 2 - packetIndex v.f.pc } } else none
    | none => none
  else none

/-- The fault of word j of a group. -/
def State.wordFault (s : State) (v : View) (ws : List Word) (is : List (Option Instr)) (j : Nat) : Option Found :=
  match is.getD j none, breaksGroup v.f.pc ws is j || v.strays j with
  | some i, false =>
    let v := v.atWord ws.length j
    pickFault ([s.wordTrap v i, s.popFault v (groupPops v.w is) j, v.scoreboard i, s.stepRefused v i].filterMap id)
  | _, _ => some (illegalWord (ws.getD j 0))

/-- The issue-class fault of a group: an issue check of the lowest word, else an access check (R353). -/
def State.groupFault (s : State) (v : View) (ws : List Word) (is : List (Option Instr)) : Option Trap :=
  pickFault ((List.range ws.length).filterMap (fun j =>
    (s.wordFault v ws is j).map (fun f => { f with trap := { f.trap with word := j } })) ++ (s.packetFault v ws.length).toList) |>.map Found.trap

/-! ### Stalls -/

/-- The wait sets by name (R100). -/
inductive SetName where
  | lc | sc | ec
deriving DecidableEq, Repr

/-- The set that a word's operation enters (R100, R109, R356). -/
def setOf (v : View) (i : Instr) : Option SetName :=
  match i with
  | .launch _ _ => some .ec
  | .kld _ _ _ | .kamo _ _ _ _ | .tsread _ | .fetest _ _ => some .lc
  | .kst _ _ _ | .arrive _ _ | .ainit _ _ | .feset _ _ _ => some .sc
  | .tret =>
    if v.f.tsave1.getLsbD 2 then v.f.replay.map (fun r => if r.req.op.inLC then .lc else .sc) else none
  | i =>
    let op := bitsAt ((codeOf i).setWidth 64) 22 6
    if op = 0x2D ∨ op = 0x3D then some .ec
    else if op = 0x3A ∨ op = 0x3B ∨ op = 0x30 ∨ op = 0x32 ∨ op = 0x34 ∨ op = 0x36 ∨ op = 0x38 then some .lc
    else if op = 0x31 ∨ op = 0x33 ∨ op = 0x35 ∨ op = 0x37 ∨ op = 0x39 then some .sc
    else none

/-- A word's set holds 64 operations already (R100). -/
def setFull (v : View) (i : Instr) : Bool :=
  match setOf v i with
  | none => false
  | some .lc => decide (Config.setLimit ≤ v.f.lc.members.length)
  | some .sc => decide (Config.setLimit ≤ v.f.sc.members.length)
  | some .ec => decide (Config.setLimit ≤ v.f.ec.members.length)

/-- The queue that a planer's QPUSH finds full (R281). -/
def State.pushFull (s : State) (v : View) (is : List (Option Instr)) : Option Nat :=
  is.findSome? (fun i => match i with
    | some (.qpush _ sb) =>
      if Config.queueDepth ≤ (Table.getD (s.core v.g.core).queues sb.toNat []).length then some sb.toNat else none
    | _ => none)

/-- LAUNCH while 64 children are unretired (R323). -/
def State.launchFull (s : State) (v : View) (is : List (Option Instr)) : Bool :=
  is.any (fun i => match i with
    | some (.launch _ _) => true
    | _ => false) &&
  decide (Config.launchLimit ≤ (s.grids.filter (fun p => p.2.parent.isSome && p.2.parentWg == v.gid)).length)

/-- The access that ARRIVE, CAPENT and LAUNCH make at their issue, as an operation of their lanes (R218, R223, R225, R313). -/
def State.issueAccess (s : State) (v : View) (i : Instr) : Option Op :=
  match i with
  | .arrive _ _ =>
    (v.scalarMem i).map (fun r => ownAccessOf v.wid v.active r.op false true .rc ((s.checkWord v r).pass.flatMap LaneAcc.locs))
  | .capent a =>
    (match s.capentCheck v a with
      | .ok f => some (ownAccessOf v.wid v.active (.amo 8) true false .rc (recLocs f.record 0 128))
      | .error _ => none)
  | .launch _ a =>
    (match s.launchRecord v (v.s a.toNat) with
      | .ok r => some (ownAccessOf v.wid v.active .load false false .rc r.2)
      | .error _ => none)
  | _ => none

/-- A word needs a port that stalls it: a memory word and LAUNCH one of their core, PLNGO one of the engines (R206, R381). -/
def State.portShort (s : State) (v : View) (i : Instr) : Bool :=
  match v.memReq i, i with
  | some r, _ => (s.linesOf (s.checkWord v r).pass).any (fun p => s.portStalls v.g.core p.1)
  | none, .plngo sa _ =>
    (match s.plngoCheck v i sa with
      | .ok ws => (s.linesAt (s.codeLocs (s.ctxOfWg v.g) (v.desc sa 0) ws.length)).any (fun p => s.enginePortStalls p.1)
      | .error _ => false)
  | none, _ => (s.issueAccess v i).any (fun y => (s.linesOf y.lanes).any (fun p => s.portStalls v.g.core p.1))

/-- An access made at issue stands behind one of its lanes that is outstanding, or meets what is left behind and it comes after (R225, R233, R238,
R240); CAPENT's also where its record's earlier commits come after that (R313). -/
def State.orderShort (s : State) (v : View) (i : Instr) : Bool :=
  match s.issueAccess v i with
  | some y => !s.ownMayAct s.serial y || (match i with
      | .capent _ => y.lanes.any (fun l => s.heldMeets (fun c => l.locs.any (fun x => match x with
          | .phys r => c == .record r
          | .bench _ _ => false)) l.locs)
      | _ => false)
  | none => false

/-- LAUNCH and PLNGO make their first access at their issue: a FENCE holds them back until what it orders before them is performed, whether it has
been left behind or not (R223). -/
def State.fenceShort (s : State) (v : View) (i : Instr) : Bool :=
  (match i with
    | .launch _ _ | .plngo _ _ => true
    | _ => false) &&
  s.ops.any (fun p => p.2.warp == v.wid && p.2.lanes.any (s.fencedOff p.1 s.serial v.wid v.active))

/-- An IFLUSH stands behind what its lanes acquire, and behind a FENCE.CODE of theirs and the stores that this stands behind, so that what it fetches
anew is what has been ordered before it (R228). -/
def State.flushShort (s : State) (v : View) (i : Instr) : Bool :=
  i == .iflush &&
    (s.ops.any (fun p => p.2.warp == v.wid && p.2.lanes.any (fun l => (l.who &&& v.active) != 0 &&
        ((p.2.acq && !l.isUO) || s.fencedOff p.1 s.serial v.wid v.active l))) ||
      s.debts.any (fun d => d.code.has v.wid v.active))

/-- What keeps a group from issuing, before its words are tried. -/
def State.groupStall (s : State) (v : View) (is : List (Option Instr)) : Option Wait :=
  let needs := popNeeds (groupPops v.w is)
  if needs.any (fun n => decide ((Table.getD (s.core v.g.core).queues n.1 []).length < n.2)) || s.earlierPopper v needs then
    some (.pop needs (s.popOrder v))
  else
    match s.pushFull v is with
    | some q => some (.full q)
    | none =>
      if s.launchFull v is then some .launchLimit
      else if is.any (fun i => i.any (fun i => setFull v i || s.portShort v i || s.orderShort v i || s.fenceShort v i || s.flushShort v i)) then some .issue
      else none

/-! ### What the next group comes to -/

/-- What the next group of a fragment comes to. -/
inductive Attempt where
  /-- The fragment may not issue now. -/
  | no
  /-- The planer has run past its last word (R280). -/
  | planerEnds
  | noFetch (e : FetchFail)
  | trap (g : Fetched) (t : Trap)
  | stall (g : Fetched) (w : Wait)
  | held (g : Fetched) (t : HeldTrap)
  | run (g : Fetched)
deriving DecidableEq, Repr

/-- The planer's next group starts past the last word of its program (R280). -/
def State.planerPast (s : State) (v : View) : Bool :=
  match v.w.planer with
  | none => false
  | some core => decide ((s.core core).progLen ≤ (v.f.pc - (s.core core).progAddr).toNat / 4)

/-- The next group once its claim and its words are known. -/
def State.attemptGroup (s : State) (v : View) (g : Fetched) : Attempt :=
  let is := decodeAll g.words
  if !s.claimFree v.g.core (v.claim is) then .no
  else
    match s.groupFault v g.words is with
    | some t => .trap g t
    | none =>
      match s.groupStall v is with
      | some w => .stall g w
      | none =>
        match v.f.hnd, v.f.heldTraps with
        | false, h :: _ => .held g h
        | _, _ => .run g

/-- What the next group of a fragment comes to. A deferred trap that is due at a group which itself traps is held (R357). -/
def State.attempt (s : State) (fid : Nat) : Attempt :=
  match s.nextView fid with
  | none => .no
  | some v =>
    if !s.ready v || s.jigHolds v then .no
    else if s.planerPast v then .planerEnds
    else
      match s.fetchGroup (s.ctxOfWg v.g) (s.bodyOf v.fid v.f v.w) v.f.pc with
      | .error e => .noFetch e
      | .ok g => s.attemptGroup v g

/-- The group that an attempt has fetched. -/
def Attempt.fetched : Attempt → Option Fetched
  | .trap g _ | .stall g _ | .held g _ | .run g => some g
  | .no | .planerEnds | .noFetch _ => none

/-- A CAPENT that is refused by one of its own checks has read its record, and of bodies what its scans have come to (R309, R310, R316). -/
def State.capentReads (s : State) (v : View) (va : Dword) (t : Trap) : List Loc :=
  let c := s.ctxOfWg v.g
  let scan (pc : Dword) : List Loc := s.scanReads c (s.heldWords v.g.core c) 17 { pc := pc }
  match s.ownAccess c .both true va 128 with
  | .ok (some (.phys r :: _, kind)) =>
    let ls := recLocs r 0 128
    let sees := va.toNat % 128 == 0 && kind != .uo && s.mayRead v ls
    (if sees then ls else []) ++
      (if (s.capTarget v va).toOption.isNone || (t.code == Code.capBody && t.detail == 31) then []
       else scan v.nextGroup ++ (if sees && (s.capCtl r).state == 2 && (s.scanBody c v.g.core v.nextGroup va).toOption.isSome then scan (s.capEntry r) else []))
  | _ => []

/-- What the word that a trap names has read from memory before it was refused: LAUNCH its record, PLNGO its program, CAPENT its record and
bodies (R21). -/
def State.refusedReads (s : State) (v : View) (g : Fetched) (t : Trap) : List Loc :=
  let v := v.atWord g.words.length t.word
  match (decodeAll g.words).getD t.word none with
  | some (.launch _ a) =>
    if t.code = Code.launchRecord ∧ (v.s a.toNat).toNat % 64 = 0 then
      (match s.granuleCheck (s.ctxOfWg v.g) v.g true (some .read) (v.s a.toNat) 64 with
        | .ok k => k.locs
        | .error _ => [])
    else []
  | some (.plngo sa _) =>
    if t.code = Code.planerProg ∨ t.code = Code.translationFault ∨ t.code = Code.accessFault ∨ t.code = Code.physRange ∨ t.code = Code.benchRange then
      s.codeRead (s.ctxOfWg v.g) (v.desc sa 0) (programWords (bitsAt (v.desc sa 1) 0 7))
    else []
  | some (.capent a) =>
    (match s.capentCheck v a with
      | .error f => if f.trap.code = t.code then s.capentReads v (v.s a.toNat) t else []
      | .ok _ => [])
  | _ => []

/-- What the fetch of a group requests (R21, R90), with what a word of it that traps has read: the packet that holds it, unless its words are at hand. A group that a configuration serves
sets what its fetch would set: no more than JIGSTAT tells a mapped loop from ordinary execution (R289). -/
def State.fetchRequest (s : State) (v : View) (a : Attempt) : List Loc :=
  (match a.fetched with
    | some g => if g.locs.isEmpty && (s.jigServes v.fid v.f v.w v.g (s.ctxOfWg v.g)).isNone then [] else s.codeLocs (s.ctxOfWg v.g) (packetAddr v.f.pc) 3
    | none => []) ++
  (match a with
    | .trap g t => s.refusedReads v g t
    | _ => [])

/-- The next group of a fragment would block it. -/
def State.nextStalls (s : State) (v : View) : Bool :=
  match s.fetchGroup (s.ctxOfWg v.g) (s.bodyOf v.fid v.f v.w) v.f.pc with
  | .ok g => (s.groupFault v g.words (decodeAll g.words)).isNone && (s.groupStall v (decodeAll g.words)).isSome
  | .error _ => false

/-- A fragment is not ready because its next group stalls (R53, R54): it has tried and its wait goes on, or its lane blocks or a configuration
keep it from trying what would block it. -/
def State.stillStalled (s : State) (v : View) : Bool :=
  match v.f.wait with
  | none => s.ready v && s.nextStalls v
  | some w => w.retries && (!s.waitAllows v || s.nextStalls v)

/-- FETCH_FAULT (R390): the group has issued nothing. -/
def State.fetchFails (s : State) (fid : Nat) (f : Frag) (e : FetchFail) : State :=
  (s.modFrag fid (fun f => { f with wait := none })).takeTrap fid
    { code := Code.fetchFault, detail := e.detail, addr := e.addr } f.pc none false

/-- A deferred fault or EVENT_LIMIT trap is taken at the fragment's next group (R87, R255). One blocked at CAPENT is blocked no more, and
keeps the place of its first attempt for its next one on that record, which the spec leaves open (assumption log 90). -/
def State.takeHeld (s : State) (fid : Nat) (f : Frag) (h : HeldTrap) : State :=
  (s.modFrag fid (fun f => { f with heldTraps := f.heldTraps.drop 1, wait := none })).takeTrap fid h.trap f.pc none h.defer

end Sys2Proof.Machine
end

