-- ==== Sys2Proof/Machine/Early.lean ====
section
/-! DEFINITION. What a core does before its fragments come to it, and what happens outside the device: accesses performed early (R235, R237),
packets held (R228, R245), and writes of the host and of other devices to their own memory (R231, R247). None of it happens unless the
agenda says so (assumption logs 9 and 32). -/

namespace Sys2Proof.Machine

/-! ### Accesses performed before their fragments come to them (R235, R237) -/

/-- The lines of other devices that parts name can be requested and answered now: every port has a free slot for each of them (R206). -/
def State.portsTake (s : State) (core : Nat) (lines : List (Nat × Nat)) : Bool :=
  lines.all (fun p => !s.portStalls core p.1 &&
    decide (s.slotsUsed core p.1 + (lines.filter (fun q => q.1 == p.1)).length ≤ Config.portSlots))

/-- An access that its fragment's core performs before the fragment comes to it has its place among what the core may hold: the workgroup's team is
resident, no die that it names is lost, and its ports take it. -/
def State.earlyFits (s : State) (v : View) (parts : List LaneAcc) : Bool :=
  s.wgResident v.gid && !v.inBody && !v.inPlaner && !s.namesLost (parts.flatMap LaneAcc.locs) && s.portsTake v.g.core (s.linesOf parts)

/-- An access that may be performed so: its parts all on UO pages, or none. What takes part in releases alone its fragment has come to by then. -/
def Op.mayGuess (o : Op) : Bool :=
  !o.lanes.isEmpty && (o.isUO || o.lanes.all (fun l => !l.isUO)) &&
    (match o.op with
      | .tagStore _ | .arrive _ => false
      | _ => true)

/-- Nothing that has issued keeps a part of such an access back. -/
def State.guessOpen (s : State) (o : Op) (l : LaneAcc) : Bool :=
  s.mayPerform s.serial o l && !s.barred s.serial o l && !s.amidAtomic s.serial o l && o.partOpen l &&
    (!o.op.waits || (s.tagReady o.op l && !s.olderWaiter s.serial o l))

/-- Lanes of a warp wait for nothing that acquires (R238, R243), and no operation of theirs that dependences order has given values before it is
performed. -/
def State.guessFree (s : State) (warp : Nat) (lanes : Lanes) : Bool :=
  (s.fragsOf warp).all (fun p => (p.2.lm &&& lanes) == 0 || !p.2.acquires) &&
    s.ops.all (fun p => p.2.warp != warp || p.2.told.isEmpty || p.2.lanes.all (fun l => (l.who &&& lanes) == 0 || l.isUO))

/-- The registers that the loads and atomics still outstanding of some lanes of a warp will write (R237). -/
def State.outstandingRegs (s : State) (warp : Nat) (lanes : Lanes) : List Reg :=
  s.ops.flatMap (fun p =>
    if p.2.warp == warp && p.2.op.inLC && p.2.lanes.any (fun l => (l.who &&& lanes) != 0 && !l.isUO) then p.2.dest.regs p.2.size else [])

/-- A fragment's core performs an access before the fragment comes to it, in a window (R235, R237). -/
def State.guess (s : State) (fid : Nat) (acc : Op) : State :=
  match s.nextView fid with
  | none => s
  | some v =>
    let o : Op := { acc with
      warp := v.wid, wg := v.gid, ctx := s.ctxOfWg v.g, dest := .none, lines := [], got := [], told := [], begun := [], token := false
      arrived := s.serial }
    if decide (0 < s.span) && o.mayGuess && s.earlyFits v o.lanes && o.lanes.all (s.guessOpen o) && (o.isUO || s.guessFree v.wid o.active) then
      let n := s.fresh
      let p := n.2.performParts n.1 (some n.1) o o.lanes
      let e : Early := { key := n.1, acc := o, got := p.2, taint := if o.isUO then [] else s.outstandingRegs v.wid o.active }
      { p.1.markDies o.ctx (s.dieBitsOf (o.lanes.flatMap LaneAcc.locs)) with early := p.1.early ++ [e] }
    else s

/-- A register whose value carries a dependence on (R237): FMT and the control registers carry none. -/
def Reg.carries : Reg → Bool
  | .v _ | .s _ | .m _ | .k _ => true
  | .fmt | .fstat | .qmap | .cr _ => false

/-- The registers that a word names whose values carry dependences, read and written. -/
def depReads (i : Instr) : List Reg := (uses i).reads.filter Reg.carries
def depWrites (i : Instr) : List Reg := (uses i).writes.filter Reg.carries

/-- A word that decides by what it reads what its lanes issue: a control transfer, or VMOVM by a mask (R49, R149, R237). -/
def decidesBy (i : Instr) : List Reg :=
  match i with
  | .brcEqz a _ | .brcNez a _ | .brcLtz a _ | .brcGez a _ | .jmpr a | .callr a | .ret a => [.s a.toNat]
  | .brcAny m _ | .brcAll m _ | .brcNone m _ | .brcSplit m _ => [.m m.toNat]
  | .vmovm _ _ b _ _ => [.m b.toNat]
  | _ => []

/-- A word returns a value by which dependences go: a load or an atomic not all on UO pages, or TSREAD (R237, R246). -/
def State.returns (s : State) (v : View) (i : Instr) : Bool :=
  match v.memReq i, i with
  | some r, _ => r.op.inLC && !(s.checkWord v r).pass.all LaneAcc.isUO
  | none, .tsread _ => true
  | none, _ => false

/-- A word writes its registers whole, for all of some lanes, with what depends on nothing that was in them. -/
def overwrites (v : View) (lanes : Lanes) (i : Instr) : Bool :=
  (uses i).pipe != .me && (lanes &&& ~~~v.active) == 0 && (depWrites i).all (fun r => !(depReads i).contains r)

/-- An access that a word makes has none of the dependences that an access performed early has passed. -/
def Early.frees (v : View) (e : Early) (i : Instr) : Bool :=
  match v.memReq i, i with
  | some _, .tret => false
  | some r, _ => !(depReads i).any e.taint.contains && (!e.ctl || r.op.readsOnly || (match r.op with
      | .tagLoad _ => true
      | _ => false))
  | none, .tsread _ => true
  | none, _ => false

/-- Results in the order in which they become visible, the later issued after the earlier (R97). -/
def insertTurn (x : Nat × Reg × Bool) : List (Nat × Reg × Bool) → List (Nat × Reg × Bool)
  | [] => [x]
  | y :: r => if x.1 < y.1 then x :: y :: r else y :: insertTurn x r

/-- The registers that carry such values at a tick of the fragment; what an outstanding load will still write stays one. -/
def Early.atTick (e : Early) (t : Nat) (out : List Reg) : Early :=
  { e with
    taint := (e.turns.filter (fun x => decide (x.1 ≤ t))).foldl (fun rs x =>
      if x.2.2 then x.2.1 :: rs else if out.contains x.2.1 then rs else rs.filter (· != x.2.1)) e.taint
    turns := e.turns.filter (fun x => decide (t < x.1)) }

/-- A word's result, from which such values are carried on or which makes an end of one. -/
def Early.word (v : View) (met : Instr → Bool) (e : Early) (i : Instr) : Early :=
  let at_ := v.t + (uses i).lat
  if (v.memReq i).isSome then e
  else if met i then { e with turns := (depWrites i).foldl (fun l r => insertTurn (at_, r, true) l) e.turns }
  else if overwrites v e.acc.active i then { e with turns := (depWrites i).foldl (fun l r => insertTurn (at_, r, false) l) e.turns }
  else e

/-- What a group of its fragment makes of the dependences that an access performed early must not have (R237): all its words read before any
writes. -/
def State.depends (s : State) (v : View) (e : Early) (is : List Instr) : Early :=
  if e.acc.isUO then { e with fits := true }
  else
    let e := e.atTick v.t (s.outstandingRegs v.wid e.acc.active)
    let met (i : Instr) : Bool := (depReads i).any e.taint.contains
    let f := is.foldl (Early.word v met) e
    { f with
      taint := f.taint ++ (is.filter (s.returns v)).flatMap depWrites
      ctl := e.ctl || is.any (fun i => (decidesBy i).any e.taint.contains)
      fits := is.any (e.frees v) }

/-- A WAITC that the fragment issues covers engine commands of its lanes that write memory, which are still outstanding or have ended since
(R243). -/
def State.waitsCmds (s : State) (v : View) (e : Early) (n : Nat) : Bool :=
  (v.f.ec.members.any (fun id => !v.f.ec.leaves n id && (Table.get? s.cmds id).any (fun c => c.kind.writes))) ||
    e.ended.any (fun id => !v.f.ec.leaves n id)

/-- A word of its lanes orders an access performed early behind something that had not yet come then (R223, R235, R238, R243). -/
def State.overtaken (s : State) (v : View) (e : Early) (i : Instr) : Bool :=
  match i with
  | .fence uo _ => uo == 1#1 || !e.acc.isUO
  | .fenceCode _ => true
  | .bar | .tbar | .await _ _ | .lwait _ | .capent _ => !e.acc.isUO
  | .waitc _ _ n => !e.acc.isUO && s.waitsCmds v e n.toNat
  | .epoll sa _ => !e.acc.isUO && (s.polled v.g (bitsAt (v.s sa.toNat) 0 8)).any e.ended.contains
  | _ => false

/-- What a group of its fragment makes of the accesses performed early. -/
def State.earlyAtGroup (s : State) (v : View) (is : List Instr) : State :=
  if s.early.isEmpty then s
  else { s with early := s.early.map (fun e =>
    if e.acc.warp == v.wid && (e.acc.active &&& v.active) != 0 && e.due.isNone then
      { s.depends v e is with gone := e.gone || is.any (s.overtaken v e) }
    else e) }

/-! ### Values had before they are read (R235, R237) -/

/-- An operation that may hand its fragment what it will read: a load or an atomic of which nothing has been performed or told yet. -/
def Op.mayForetell (o : Op) (values : List (Nat × Nat)) : Bool :=
  (o.op == .load || o.op.atomic.isSome) && (!o.acq || o.isUO) && o.got.isEmpty && o.told.isEmpty && !o.lanes.isEmpty &&
    o.lanes.all (fun l => values.any (fun p => p.1 == l.number))

/-- The fragment has what the operation will read, and goes on; the operation itself is still to be performed, and has not been left behind. -/
def State.foretell (s : State) (id : Nat) (values : List (Nat × Nat)) : State :=
  match Table.get? s.ops id with
  | none => s
  | some o =>
    if decide (0 < s.span) && o.mayForetell values && o.lanes.all (fun l => !s.isLeft id l) then
      let xs := o.lanes.map (fun l => (l.lane, Table.getD values l.number 0))
      ((s.writeResults id o xs).leaveSets id).modOp id (fun x => { x with dest := .none, told := values })
    else s

/-- No access has been performed early, and no value told, that has not come true. -/
def State.comesTrue (s : State) : Bool := s.early.isEmpty && s.ops.all (fun p => p.2.told.isEmpty)

/-! ### Operations left behind (R232, R241) -/

/-- Accesses that a FENCE, an acquire or a release orders after part n of an operation may pass it. No atomic is left while a running command names
its bytes. -/
def State.leave (s : State) (id n : Nat) : State :=
  match Table.get? s.ops id with
  | none => s
  | some o =>
    match o.lanes.find? (fun l => l.number == n) with
    | none => s
    | some l =>
      if o.op.atomic.isSome && s.cmds.any (fun p => p.2.state == .running && !p.2.ended && s.cmdNames p.2 l.locs) then s
      else s.leavePart id o l

/-! ### Packets (R228, R245) -/

/-- The three words of the packet at an address, as a core fetches them in one write state; none where one cannot be fetched. -/
def State.wholePacket (s : State) (c : Nat) (a : Dword) : Option (List (Dword × Word)) :=
  allSome ([a, a + 4, a + 8].map (fun x => match s.fetchWord c x with
    | .ok w => some (x, w.1)
    | .error _ => none))

/-- A fragment's core fetches the packet at an address and holds it (R228, R245), in place of one that it held. -/
def State.holdPacket (s : State) (fid : Nat) (a : Dword) : State :=
  match s.nextView fid with
  | none => s
  | some v =>
    let c := s.ctxOfWg v.g
    let p := packetAddr a
    let ls := s.codeLocs c p 3
    match s.wholePacket c p with
    | none => s
    | some ws =>
      if s.namesLost ls then s
      else
        let s := s.markDies c (s.dieBitsOf ls)
        { s with
          packets := ⟨v.g.core, c, ws⟩ :: s.packets.filter (fun q =>
            !(q.core == v.g.core && q.ctx == c && q.words.any (fun w => w.1 == p)))
          old := s.old ++ [{ ctx := c, locs := ls, words := ws }] }

/-- Some lanes of a warp fetch the packet as it once stood no more (R228). -/
def OldPacket.isFlushed (q : OldPacket) (warp : Nat) (lanes : Lanes) : Bool :=
  q.flushed.any (fun p => p.1 == warp && (p.2 &&& lanes) != 0)

/-- A fragment's fetch of its next packet finds it as it once stood (R228, R245): nothing has ordered the fetch after the stores that have changed
it since. A packet that the fragment has at hand it does not fetch. -/
def State.refetch (s : State) (fid n : Nat) : State :=
  match s.nextView fid, s.old[n]? with
  | some v, some q =>
    let c := s.ctxOfWg v.g
    let p := packetAddr v.f.pc
    let ls := s.codeLocs c p 3
    if q.ctx == c && q.locs == ls && q.words.any (fun w => w.1 == p) && !q.isFlushed v.wid v.f.lm && !v.inPlaner && s.wgResident v.gid &&
        (bodyWord (s.bodyOf fid v.f v.w) p).isNone && !s.namesLost ls then
      (s.markDies c (s.dieBitsOf ls)).modFrag fid (fun f => { f with packet := q.words })
    else s
  | _, _ => s

/-! ### Outside (R231, R247) -/

/-- The host, or another device, writes its own memory (R231, R247). -/
def State.outsideWrite (s : State) (a : Nat) (bs : List Byte) : State :=
  if domainBase ≤ a ∧ a + bs.length ≤ hostEnd ∧ (a < domainEnd → (a - domainBase) / 2 ^ 40 ≠ s.devnum.toNat) then
    s.outsideWrites ((List.range bs.length).map (fun j => .phys (a + j))) bs
  else s

end Sys2Proof.Machine
end

