-- ==== Sys2Proof/Machine/Atomics.lean ====
section
/-! DEFINITION. The atomics AMO and VAMO (R219 to R221). -/

namespace Sys2Proof.Machine

/-- AMO.ADD (R219 to R221). -/
def execAmoAdd (d a : BitVec 6) (ord sz sc : BitVec 2) (s : State) :=
  word (.amoAdd d a ord sz sc) s (fun v s => s.issueMem v (v.amoReq 0 d a ord sz sc))
/-- AMO.AND (R219 to R221). -/
def execAmoAnd (d a : BitVec 6) (ord sz sc : BitVec 2) (s : State) :=
  word (.amoAnd d a ord sz sc) s (fun v s => s.issueMem v (v.amoReq 1 d a ord sz sc))
/-- AMO.OR (R219 to R221). -/
def execAmoOr (d a : BitVec 6) (ord sz sc : BitVec 2) (s : State) :=
  word (.amoOr d a ord sz sc) s (fun v s => s.issueMem v (v.amoReq 2 d a ord sz sc))
/-- AMO.XOR (R219 to R221). -/
def execAmoXor (d a : BitVec 6) (ord sz sc : BitVec 2) (s : State) :=
  word (.amoXor d a ord sz sc) s (fun v s => s.issueMem v (v.amoReq 3 d a ord sz sc))
/-- AMO.MIN (R219 to R221). -/
def execAmoMin (d a : BitVec 6) (ord sz sc : BitVec 2) (s : State) :=
  word (.amoMin d a ord sz sc) s (fun v s => s.issueMem v (v.amoReq 4 d a ord sz sc))
/-- AMO.MAX (R219 to R221). -/
def execAmoMax (d a : BitVec 6) (ord sz sc : BitVec 2) (s : State) :=
  word (.amoMax d a ord sz sc) s (fun v s => s.issueMem v (v.amoReq 5 d a ord sz sc))
/-- AMO.MINU (R219 to R221). -/
def execAmoMinu (d a : BitVec 6) (ord sz sc : BitVec 2) (s : State) :=
  word (.amoMinu d a ord sz sc) s (fun v s => s.issueMem v (v.amoReq 6 d a ord sz sc))
/-- AMO.MAXU (R219 to R221). -/
def execAmoMaxu (d a : BitVec 6) (ord sz sc : BitVec 2) (s : State) :=
  word (.amoMaxu d a ord sz sc) s (fun v s => s.issueMem v (v.amoReq 7 d a ord sz sc))
/-- AMO.XCHG (R219 to R221). -/
def execAmoXchg (d a : BitVec 6) (ord sz sc : BitVec 2) (s : State) :=
  word (.amoXchg d a ord sz sc) s (fun v s => s.issueMem v (v.amoReq 8 d a ord sz sc))
/-- AMO.CAS (R219 to R221). -/
def execAmoCas (d a : BitVec 6) (ord sz sc : BitVec 2) (s : State) :=
  word (.amoCas d a ord sz sc) s (fun v s => s.issueMem v (v.amoReq 9 d a ord sz sc))
/-- AMO.FADD32, 32 bits only (R219 to R221). -/
def execAmoFadd32 (d a : BitVec 6) (ord sc : BitVec 2) (s : State) :=
  word (.amoFadd32 d a ord sc) s (fun v s => s.issueMem v (v.amoReq 10 d a ord 2 sc))
/-- AMO.FADD16X2, 32 bits only (R219 to R221). -/
def execAmoFadd16x2 (d a : BitVec 6) (ord sc : BitVec 2) (s : State) :=
  word (.amoFadd16x2 d a ord sc) s (fun v s => s.issueMem v (v.amoReq 11 d a ord 2 sc))
/-- AMO.FMIN32, 32 bits only (R219 to R221). -/
def execAmoFmin32 (d a : BitVec 6) (ord sc : BitVec 2) (s : State) :=
  word (.amoFmin32 d a ord sc) s (fun v s => s.issueMem v (v.amoReq 12 d a ord 2 sc))
/-- AMO.FMAX32, 32 bits only (R219 to R221). -/
def execAmoFmax32 (d a : BitVec 6) (ord sc : BitVec 2) (s : State) :=
  word (.amoFmax32 d a ord sc) s (fun v s => s.issueMem v (v.amoReq 13 d a ord 2 sc))
/-- VAMO.ADD (R219 to R221). -/
def execVamoAdd (d a : BitVec 6) (ord sz sc : BitVec 2) (s : State) :=
  word (.vamoAdd d a ord sz sc) s (fun v s => s.issueMem v (v.vamoReq 0 d a ord sz sc))
/-- VAMO.AND (R219 to R221). -/
def execVamoAnd (d a : BitVec 6) (ord sz sc : BitVec 2) (s : State) :=
  word (.vamoAnd d a ord sz sc) s (fun v s => s.issueMem v (v.vamoReq 1 d a ord sz sc))
/-- VAMO.OR (R219 to R221). -/
def execVamoOr (d a : BitVec 6) (ord sz sc : BitVec 2) (s : State) :=
  word (.vamoOr d a ord sz sc) s (fun v s => s.issueMem v (v.vamoReq 2 d a ord sz sc))
/-- VAMO.XOR (R219 to R221). -/
def execVamoXor (d a : BitVec 6) (ord sz sc : BitVec 2) (s : State) :=
  word (.vamoXor d a ord sz sc) s (fun v s => s.issueMem v (v.vamoReq 3 d a ord sz sc))
/-- VAMO.MIN (R219 to R221). -/
def execVamoMin (d a : BitVec 6) (ord sz sc : BitVec 2) (s : State) :=
  word (.vamoMin d a ord sz sc) s (fun v s => s.issueMem v (v.vamoReq 4 d a ord sz sc))
/-- VAMO.MAX (R219 to R221). -/
def execVamoMax (d a : BitVec 6) (ord sz sc : BitVec 2) (s : State) :=
  word (.vamoMax d a ord sz sc) s (fun v s => s.issueMem v (v.vamoReq 5 d a ord sz sc))
/-- VAMO.MINU (R219 to R221). -/
def execVamoMinu (d a : BitVec 6) (ord sz sc : BitVec 2) (s : State) :=
  word (.vamoMinu d a ord sz sc) s (fun v s => s.issueMem v (v.vamoReq 6 d a ord sz sc))
/-- VAMO.MAXU (R219 to R221). -/
def execVamoMaxu (d a : BitVec 6) (ord sz sc : BitVec 2) (s : State) :=
  word (.vamoMaxu d a ord sz sc) s (fun v s => s.issueMem v (v.vamoReq 7 d a ord sz sc))
/-- VAMO.XCHG (R219 to R221). -/
def execVamoXchg (d a : BitVec 6) (ord sz sc : BitVec 2) (s : State) :=
  word (.vamoXchg d a ord sz sc) s (fun v s => s.issueMem v (v.vamoReq 8 d a ord sz sc))
/-- VAMO.CAS (R219 to R221). -/
def execVamoCas (d a : BitVec 6) (ord sz sc : BitVec 2) (s : State) :=
  word (.vamoCas d a ord sz sc) s (fun v s => s.issueMem v (v.vamoReq 9 d a ord sz sc))
/-- VAMO.FADD32, 32 bits only (R219 to R221). -/
def execVamoFadd32 (d a : BitVec 6) (ord sc : BitVec 2) (s : State) :=
  word (.vamoFadd32 d a ord sc) s (fun v s => s.issueMem v (v.vamoReq 10 d a ord 2 sc))
/-- VAMO.FADD16X2, 32 bits only (R219 to R221). -/
def execVamoFadd16x2 (d a : BitVec 6) (ord sc : BitVec 2) (s : State) :=
  word (.vamoFadd16x2 d a ord sc) s (fun v s => s.issueMem v (v.vamoReq 11 d a ord 2 sc))
/-- VAMO.FMIN32, 32 bits only (R219 to R221). -/
def execVamoFmin32 (d a : BitVec 6) (ord sc : BitVec 2) (s : State) :=
  word (.vamoFmin32 d a ord sc) s (fun v s => s.issueMem v (v.vamoReq 12 d a ord 2 sc))
/-- VAMO.FMAX32, 32 bits only (R219 to R221). -/
def execVamoFmax32 (d a : BitVec 6) (ord sc : BitVec 2) (s : State) :=
  word (.vamoFmax32 d a ord sc) s (fun v s => s.issueMem v (v.vamoReq 13 d a ord 2 sc))

end Sys2Proof.Machine
end

