-- ==== Sys2Proof/Machine/Branches.lean ====
section
/-! DEFINITION. Branches, calls and returns (R123 to R127), and the mask operations (R129, R130). -/

namespace Sys2Proof.Machine

/-- A taken branch, a visibility point (R96, R123). A TRET, EXIT or CAPEXIT of the same group decides where the fragment goes
(assumption log 13). -/
def State.jumpTo (s : State) (target : Dword) : State :=
  s.modIssue (fun i => { i with ctl := if i.ctl = .fall then .goto target else i.ctl, visible := true })

/-- BRC with a condition that is uniform across the fragment (R123). -/
def State.branchIf (s : State) (v : View) (c : Bool) (off : BitVec 12) : State := if c then s.jumpTo (v.target off) else s

/-- The link of a call, s63, of class L1 (R125, R126). -/
def State.putLink (s : State) (v : View) : State := s.putPend v 1 (.scal 63 v.nextGroup)

/-- BRC.EQZ (R123). -/
def execBrcEqz (a : BitVec 6) (off : BitVec 12) (s : State) :=
  word (.brcEqz a off) s (fun v s => s.branchIf v (v.s a.toNat == 0) off)
/-- BRC.NEZ (R123). -/
def execBrcNez (a : BitVec 6) (off : BitVec 12) (s : State) :=
  word (.brcNez a off) s (fun v s => s.branchIf v (v.s a.toNat != 0) off)
/-- BRC.LTZ (R123). -/
def execBrcLtz (a : BitVec 6) (off : BitVec 12) (s : State) :=
  word (.brcLtz a off) s (fun v s => s.branchIf v (decide ((v.s a.toNat).toInt < 0)) off)
/-- BRC.GEZ (R123). -/
def execBrcGez (a : BitVec 6) (off : BitVec 12) (s : State) :=
  word (.brcGez a off) s (fun v s => s.branchIf v (decide (0 ≤ (v.s a.toNat).toInt)) off)
/-- BRC.ANY (R123). -/
def execBrcAny (m : BitVec 3) (off : BitVec 12) (s : State) :=
  word (.brcAny m off) s (fun v s => s.branchIf v ((v.active &&& v.m m.toNat) != 0) off)
/-- BRC.ALL (R123). -/
def execBrcAll (m : BitVec 3) (off : BitVec 12) (s : State) :=
  word (.brcAll m off) s (fun v s => s.branchIf v ((v.active &&& v.m m.toNat) == v.active) off)
/-- BRC.NONE (R123). -/
def execBrcNone (m : BitVec 3) (off : BitVec 12) (s : State) :=
  word (.brcNone m off) s (fun v s => s.branchIf v ((v.active &&& v.m m.toNat) == 0) off)
/-- BRC.SPLIT (R41): no split where no lane or every lane takes the branch; else the group ends with two fragments. -/
def execBrcSplit (m : BitVec 3) (off : BitVec 12) (s : State) :=
  word (.brcSplit m off) s (fun v s =>
    let t := v.active &&& v.m m.toNat
    if t = 0 then s
    else if t = v.active then s.jumpTo (v.target off)
    else s.modIssue (fun i => { i with
      ctl := if i.ctl = .fall then .split t (v.target off) else i.ctl
      visible := true }))
/-- JMP (R124). -/
def execJmp (off : BitVec 22) (s : State) := word (.jmp off) s (fun v s => s.jumpTo (v.target off))
/-- CALL (R125). -/
def execCall (off : BitVec 22) (s : State) := word (.call off) s (fun v s => (s.putLink v).jumpTo (v.target off))
/-- JMPR (R126). -/
def execJmpr (a : BitVec 6) (s : State) := word (.jmpr a) s (fun v s => s.jumpTo (v.s a.toNat))
/-- CALLR (R126): the target is read before the link is written. -/
def execCallr (a : BitVec 6) (s : State) := word (.callr a) s (fun v s => (s.putLink v).jumpTo (v.s a.toNat))
/-- RET (R126). -/
def execRet (a : BitVec 6) (s : State) := word (.ret a) s (fun v s => s.jumpTo (v.s a.toNat))

/-- MAND (R129). -/
def execMand (d a b : BitVec 3) (s : State) :=
  word (.mand d a b) s (fun v s => s.putWholeMask v d (v.m a.toNat &&& v.m b.toNat))
/-- MOR (R129). -/
def execMor (d a b : BitVec 3) (s : State) :=
  word (.mor d a b) s (fun v s => s.putWholeMask v d (v.m a.toNat ||| v.m b.toNat))
/-- MXOR (R129). -/
def execMxor (d a b : BitVec 3) (s : State) :=
  word (.mxor d a b) s (fun v s => s.putWholeMask v d (v.m a.toNat ^^^ v.m b.toNat))
/-- MANDN (R129). -/
def execMandn (d a b : BitVec 3) (s : State) :=
  word (.mandn d a b) s (fun v s => s.putWholeMask v d (v.m a.toNat &&& ~~~(v.m b.toNat)))
/-- MNOT (R129). -/
def execMnot (d a : BitVec 3) (s : State) := word (.mnot d a) s (fun v s => s.putWholeMask v d (~~~(v.m a.toNat)))
/-- MPOPC (R129, R130): only active lanes count. -/
def execMpopc (d : BitVec 6) (a : BitVec 3) (s : State) :=
  word (.mpopc d a) s (fun v s => s.putScalar v 1 d (BitVec.ofNat 64 (v.active &&& v.m a.toNat).count))
/-- MFFS (R129): -1 where no active lane is set. -/
def execMffs (d : BitVec 6) (a : BitVec 3) (s : State) :=
  word (.mffs d a) s (fun v s =>
    let x := v.active &&& v.m a.toNat
    s.putScalar v 1 d (if x = 0 then BitVec.allOnes 64 else BitVec.ofNat 64 x.low))
/-- MTOS (R129). -/
def execMtos (d : BitVec 6) (a : BitVec 3) (s : State) := word (.mtos d a) s (fun v s => s.putScalar v 1 d (v.m a.toNat))
/-- STOM (R129). -/
def execStom (d : BitVec 3) (a : BitVec 6) (s : State) := word (.stom d a) s (fun v s => s.putWholeMask v d (v.s a.toNat))
/-- MACT (R129). -/
def execMact (d : BitVec 3) (s : State) := word (.mact d) s (fun v s => s.putWholeMask v d v.active)

end Sys2Proof.Machine
end

