-- ==== Sys2Proof/Machine/Control.lean ====
section
/-! DEFINITION. The fragment controls (R131 to R138) and WAITC (R139). -/

namespace Sys2Proof.Machine

/-- A SETCR takes its place among the writes of its tick (R135, R136): one to a per-workgroup register waits for the next core tick. -/
def State.putCr (s : State) (v : View) (num : Nat) (x : Dword) : State :=
  match num with
  | 0 => s.putPend v 1 (.fmt (x.setWidth 32))
  | 1 => s.putPend v 1 (.fstat (x.setWidth 5))
  | n =>
    if wgWritable n then
      s.modWg v.gid (fun g => { g with crPend := g.crPend ++ [⟨s.tick + 1, v.w.slot, v.active.low, n, x⟩] })
    else s.putPend v 1 (.ctl n x)

/-- FRAGID's value (R138). -/
def View.fragId (v : View) : Dword :=
  BitVec.ofNat 64 (v.f.records.length % 64 * 2 ^ 16 + v.active.count * 2 ^ 8 + v.active.low)

/-- REGANG (R42, R132): without an open record it has no effect. -/
def execRegang (s : State) :=
  word .regang s (fun v s => if v.f.records.isEmpty then s
    else s.modIssue (fun i => { i with ctl := if i.ctl = .fall then .regang else i.ctl }))
/-- SETFMT (R131, R133). -/
def execSetfmt (a : BitVec 6) (s : State) := word (.setfmt a) s (fun v s => s.putPend v 1 (.fmt ((v.s a.toNat).setWidth 32)))
/-- GETFMT (R131). -/
def execGetfmt (d : BitVec 6) (s : State) := word (.getfmt d) s (fun v s => s.putScalar v 1 d (v.fmt.zeroExtend 64))
/-- SETRM (R131, R133). -/
def execSetrm (mode : BitVec 3) (s : State) :=
  word (.setrm mode) s (fun v s => s.putPend v 1 (.fmt ((v.fmt &&& 0xFFFFFFF8#32) ||| mode.zeroExtend 32)))
/-- YIELD (R134): it marks the fragment for the issue selection only. -/
def execYield (s : State) := word .yield s (fun _ s => s.modIssue (fun i => { i with yield := true }))
/-- GETCR (R135). -/
def execGetcr (d : BitVec 6) (num : BitVec 12) (s : State) :=
  word (.getcr d num) s (fun v s => s.putScalar v 1 d ((s.readCr v num.toNat).getD 0))
/-- SETCR (R135). -/
def execSetcr (d : BitVec 6) (num : BitVec 12) (s : State) :=
  word (.setcr d num) s (fun v s => s.putCr v num.toNat (v.s d.toNat))
/-- SQMAP (R137). -/
def execSqmap (a : BitVec 6) (s : State) := word (.sqmap a) s (fun v s => s.putPend v 1 (.qmap ((v.s a.toNat).setWidth 8)))
/-- FRAGID (R138). -/
def execFragid (d : BitVec 6) (s : State) := word (.fragid d) s (fun v s => s.putScalar v 1 d v.fragId)
/-- WAITC (R101, R139): the wait begins at the end of its group, over the operations its group has issued. -/
def execWaitc (lc sc ec : BitVec 6) (s : State) :=
  word (.waitc lc sc ec) s (fun _ s => s.modIssue (fun i => { i with waitc := some (lc.toNat, sc.toNat, ec.toNat), visible := true }))
/-- NOP (R110). -/
def execNop (s : State) := word .nop s (fun _ s => s)

end Sys2Proof.Machine
end

