-- ==== Sys2Proof/Machine/Conversions.lean ====
section
/-! DEFINITION. Conversion, quantisation and the lattice instructions (R167 to R180). -/

namespace Sys2Proof.Machine

/-- One lane of VCVT (R170). -/
def convertLane (src dst : Nat) (rm : Rm) (x : Word) : Word × List (BitVec 5) :=
  let ws := (CvtFmt.ofIndex src).width
  let wd := (CvtFmt.ofIndex dst).width
  let rs := (List.range (convertCount src dst)).map (fun e => convertElem src dst rm (elem x ws e))
  (BitVec.ofNat 32 (packElems wd (rs.map FRes.bits)), rs.map FRes.flags)

/-- A lane that holds one result, every other bit zero (R167, R172, R175). -/
def oneResult (r : FRes) : Word × List (BitVec 5) := (BitVec.ofNat 32 r.bits, [r.flags])

/-- The lowest active lane of the octet of lane i (R175). -/
def View.octetLow (v : View) (i : Nat) : Nat :=
  ((List.range 8).map (fun e => i / 8 * 8 + e)).find? v.active.has |>.getD i

/-- The active elements of the octet of lane i (R178). -/
def View.octetActive (v : View) (i : Nat) : List Nat := (List.range 8).filter (fun e => v.active.has (i / 8 * 8 + e))

/-- A lane as FP32. -/
def View.fp32 (v : View) (n i : Nat) : FVal := decodeF .fp32 (v.v n i).toNat

/-- The word that VLQENC gives the octet of lane i (R176). -/
def View.octetEncode (v : View) (a b : BitVec 6) (i : Nat) : FRes :=
  lqEncode ((List.range 8).map (fun e =>
    if v.active.has (i / 8 * 8 + e) then v.fp32 a.toNat (i / 8 * 8 + e) else decodeF .fp32 0)) (v.fp32 b.toNat (v.octetLow i))

/-- The word that VLQINS gives the octet of lane i (R178). -/
def View.octetInsert (v : View) (d a b : BitVec 6) (i : Nat) : FRes :=
  lqInsert ((v.v d.toNat (v.octetLow i)).toNat % 2 ^ 16)
    ((v.octetActive i).map (fun e => (e, v.fp32 a.toNat (i / 8 * 8 + e)))) (v.fp32 b.toNat (v.octetLow i))

/-- VCVT (R169 to R171). -/
def execVcvt (d a : BitVec 6) (src dst rm : BitVec 3) (s : State) :=
  word (.vcvt d a src dst rm) s (fun v s => s.putConverted v 8 d [a] (fun i => convertLane src.toNat dst.toNat (v.rm rm) (v.v a.toNat i)))
/-- VQNT (R172). -/
def execVqnt (d a b : BitVec 6) (rm : BitVec 3) (s : State) :=
  word (.vqnt d a b rm) s (fun v s => s.putConverted v 8 d [a, b] (fun i =>
    oneResult (quantElem (fmtQF v.fmt) (v.rm rm) (v.v a.toNat i).toNat (v.v b.toNat i).toNat)))
/-- VDQNT (R173). -/
def execVdqnt (d a b : BitVec 6) (rm : BitVec 3) (s : State) :=
  word (.vdqnt d a b rm) s (fun v s => s.putVecFlags v 8 d (fun i =>
    oneResult (dequantElem (fmtQF v.fmt) (v.rm rm)
      (elem (v.v a.toNat i) (quantFmt (fmtQF v.fmt)).width 0) (v.v b.toNat i).toNat)))
/-- VLQENC (R176). -/
def execVlqenc (d a b : BitVec 6) (ha hb : BitVec 1) (s : State) :=
  word (.vlqenc d a b ha hb) s (fun v s => s.putVecFlags v 8 d (fun i => oneResult (v.octetEncode a b i)))
/-- VLQDEC (R177). -/
def execVlqdec (d a b : BitVec 6) (ha hb : BitVec 1) (s : State) :=
  word (.vlqdec d a b ha hb) s (fun v s => s.putConverted v 8 d [a, b] (fun i =>
    oneResult (lqDecodeElem (v.rm 0) ((v.v a.toNat i).toNat % 2 ^ 16) (i % 8) (v.v b.toNat i).toNat)))
/-- VLQINS (R178). -/
def execVlqins (d a b : BitVec 6) (ha hb : BitVec 1) (s : State) :=
  word (.vlqins d a b ha hb) s (fun v s => s.putVecFlags v 8 d (fun i => oneResult (v.octetInsert d a b i)))
/-- VLQERR (R179). -/
def execVlqerr (d a b : BitVec 6) (ha hb : BitVec 1) (s : State) :=
  word (.vlqerr d a b ha hb) s (fun v s => s.putVecFlags v 8 d (fun i =>
    oneResult (lqErrElem (v.rm 0) ((v.v d.toNat i).toNat % 2 ^ 16) (i % 8) (v.v a.toNat i).toNat (v.v b.toNat i).toNat)))

end Sys2Proof.Machine
end

