-- ==== Sys2Proof/Machine/PartEvents.lean ====
section
/-! DEFINITION. The events of fragments and event windows: fetch faults and deferred traps (R255, R390), windows (R86), promotion and
the end of a yield (R342). An event that cannot happen in a state leaves the state as it is. -/

namespace Sys2Proof.Machine

/-- FETCH_FAULT (R390): a fragment that may issue and whose next group cannot be fetched. -/
def State.fetchFaultAt (s : State) (fid : Nat) : State :=
  match s.frag? fid, s.attempt fid with
  | some f, .noFetch e => s.fetchFails fid f e
  | _, _ => s

def execFetchFault (frag : Nat) (s : State) := happens (s.fetchFaultAt frag)

/-- DEFERRED_FAULT_DELIVERY (R255): the oldest trap that a fragment holds, at its next group. -/
def State.deliverHeld (s : State) (fid : Nat) : State :=
  match s.frag? fid, s.attempt fid with
  | some f, .held _ h => s.takeHeld fid f h
  | _, _ => s

def execDeferredFaultDelivery (frag : Nat) (s : State) := happens (s.deliverHeld frag)

/-- EVENT_WINDOW_START (R86). -/
def execEventWindowStart (wg : Nat) (s : State) :=
  happens (s.modWg wg Wg.startWindow)

/-- A fragment that has been ready for 64 ticks without issuing (R342). -/
def State.mayPromote (s : State) (v : View) : Bool :=
  v.f.promoted.isNone && decide (v.f.readySince + 64 ≤ s.tick) && s.ready v && !s.stillStalled v

/-- FRAGMENT_PROMOTION (R342): a configuration of the core yields to any fragment but the one that it serves (R296). -/
def State.promote (s : State) (fid : Nat) : State :=
  match s.nextView fid with
  | none => s
  | some v =>
    if s.mayPromote v then
      let s := match (s.core v.g.core).config with
        | some cfg => if cfg.served = some fid then s else s.jigYield v.g.core
        | none => s
      s.modFrag fid (fun f => { f with promoted := some s.tick, yieldUntil := 0 })
    else s

def execFragmentPromotion (frag : Nat) (s : State) := happens (s.promote frag)

/-- YIELD_EXPIRY (R342). -/
def execYieldExpiry (frag : Nat) (s : State) :=
  happens (s.modFrag frag (fun f => if f.yieldUntil ≤ s.tick then { f with yieldUntil := 0 } else f))

/-! ### Requests to host memory that fail (R377) -/

/-- What the next group of a fragment requests at its issue: its code, and the records and bodies that its words read (R21, R310, R323). -/
def State.groupRequests (s : State) (v : View) : List Loc :=
  let a := s.attempt v.fid
  let words := match a with
    | .run g => decodeAll g.words
    | _ => []
  s.fetchRequest v a ++ words.flatMap (fun i => match i with
    | some (.capent a) => (match s.capentCheck v a with
        | .ok f => f.own.locs ++ (f.adopt.map CapBody.locs).getD []
        | .error _ => [])
    | some (.plngo sa _) => s.codeRead (s.ctxOfWg v.g) (v.desc sa 0) (programWords (bitsAt (v.desc sa 1) 0 7))
    | some i => (s.issueAccess v i).elim [] Op.locs
    | none => [])

/-- Where Lift reaches event word i of a queue; nowhere for index 0, which names none. -/
def State.eventLocs (s : State) (q : Queue) (need : Need) (i : Nat) : List Loc :=
  if i = 0 then [] else (s.liftLocs q.ctxid.toNat need (q.eventAddr i) 8).getD []

/-- What Lift requests for a queue: its head record, the event words that a valid record waits for, and the DONE word of one that it does not
launch (R329, R333, R335). -/
def State.queueRequests (s : State) (q : Queue) : List Loc :=
  let h := s.headOf q
  match s.liftLocs q.ctxid.toNat .read q.headAddr 64 with
  | none => []
  | some ls =>
    let r := s.recordWords ls
    if h = .overflow then []
    else ls ++ (if recValid r q.evcount.toNat then (recWaits r).flatMap (s.eventLocs q .read) else []) ++
      (match h with
        | .refused _ _ => if recDone r ≤ q.evcount.toNat then s.eventLocs q .write (recDone r) else []
        | _ => [])

/-- The DONE words that Lift writes for the grids of a context as warps retire that may retire now (R34, R334). -/
def State.doneRequests (s : State) (c : Nat) : List Loc :=
  (s.warps.filter (fun p => s.ctxOfWarp p.2 == c && s.mayRetire p.1 p.2)).flatMap (fun p =>
    let t := s.retireWarp p.1
    (s.grids.filter (fun g => g.2.ctx == c && (t.grid? g.1).isNone)).flatMap (fun g => s.eventLocs (s.queue g.2.queue) .write g.2.record.done))

/-- The bytes that a context may have requested: of its operations, its running commands, the groups that its fragments issue next, and
what Lift reads and writes for it (R377). A request that Lift is about to make fails in the place of its effect. -/
def State.requests (s : State) (c : Nat) : List Loc :=
  (s.ops.filter (fun p => p.2.ctx == c)).flatMap (fun p => p.2.locs) ++
  (s.cmds.filter (fun p => p.2.ctx == c && p.2.state == .running && !p.2.ended)).flatMap (fun p => (s.cmdGranules p.2 p.2.ranges).flatten) ++
  (s.warps.filterMap (fun p => if s.ctxOfWarp p.2 == c then p.2.capsule else none)).flatMap (fun k => k.steps.flatMap CapStep.locs) ++
  (s.frags.filterMap (fun p => s.nextView p.1)).flatMap (fun v => if s.ctxOfWg v.g == c then s.groupRequests v else []) ++
  s.queues.flatMap (fun p => if p.2.ctxid.toNat == c && s.queueLive p.2 then s.queueRequests p.2 else []) ++
  s.doneRequests c

/-- HOST_REQUEST_FAILURE (R377): the host fails a context's request to an address of host memory; the context dies, and the notice carries
the address, as the F2 physical address (DESIGN CHOICE, assumption log 111). -/
def State.hostFails (s : State) (c a : Nat) : State :=
  if storeOf a = .host ∧ (s.requests c).contains (.phys a) = true then s.killContext c Code.hostKill (some a) else s

def execHostRequestFailure (req : HostFailure) (s : State) := happens (s.hostFails req.ctx req.addr)

end Sys2Proof.Machine
end

