-- ==== Sys2Proof/Machine/Scalar.lean ====
section
/-! DEFINITION. Scalar arithmetic: SALU, SALU2, the I-format instructions, SSHI, SMOVK and SMOVKS (R116 to R122). -/

namespace Sys2Proof.Machine

/-- The high half of a 128-bit product (R118). -/
def mulHighS (a b : Dword) : Dword := BitVec.ofInt 64 (a.toInt * b.toInt / 2 ^ 64)
def mulHighU (a b : Dword) : Dword := BitVec.ofNat 64 (a.toNat * b.toNat / 2 ^ 64)

/-- The shift amount of a scalar shift: bits 5:0 (R118). -/
def shAmount (b : Dword) : Nat := b.toNat % 64

/-- Division rounds towards zero and never traps (R119). -/
def quotS (a b : Dword) : Dword := if b = 0 then BitVec.allOnes 64 else BitVec.ofInt 64 (a.toInt.tdiv b.toInt)
def quotU (a b : Dword) : Dword := if b = 0 then BitVec.allOnes 64 else BitVec.ofNat 64 (a.toNat / b.toNat)

/-- The remainder that goes with a quotient (R119). -/
def remS (a b : Dword) : Dword := if b = 0 then a else BitVec.ofInt 64 (a.toInt.tmod b.toInt)
def remU (a b : Dword) : Dword := if b = 0 then a else BitVec.ofNat 64 (a.toNat % b.toNat)

/-- Leading zero bits of an n-bit value (R119, R152). -/
def leadingZeros (n x : Nat) : Nat := n - ((List.range n).filter (fun i => decide (2 ^ i ≤ x % 2 ^ n))).length

/-- Set bits of an n-bit value (R119, R152). -/
def popCount (n x : Nat) : Nat := ((List.range n).filter (fun i => x.testBit i)).length

/-- Bit i moves to bit n - 1 - i (R119, R152). -/
def bitReverse (n x : Nat) : Nat := (List.range n).foldl (fun a i => if x.testBit i then a + 2 ^ (n - 1 - i) else a) 0

/-- The width that a width code names: 8, 16 or 32 (R119, R152). -/
def codeWidth {n : Nat} (wc : BitVec n) : Nat := 8 * 2 ^ wc.toNat

/-- The low w bits, extended (R119). -/
def signLow (w : Nat) (x : Dword) : Dword := (x.setWidth w).signExtend 64
def zeroLow (w : Nat) (x : Dword) : Dword := (x.setWidth w).zeroExtend 64

/-- A truth value as a scalar (R118). -/
def flag64 (b : Bool) : Dword := if b then 1 else 0

/-- The smaller and the larger of two scalars (R118). -/
def minS (a b : Dword) : Dword := if a.toInt ≤ b.toInt then a else b
def maxS (a b : Dword) : Dword := if a.toInt ≤ b.toInt then b else a
def minU (a b : Dword) : Dword := if a.toNat ≤ b.toNat then a else b
def maxU (a b : Dword) : Dword := if a.toNat ≤ b.toNat then b else a

/-- A scalar result of one source and class L1. -/
def State.scalar1 (s : State) (v : View) (d a : BitVec 6) (f : Dword → Dword) : State := s.putScalar v 1 d (f (v.s a.toNat))

/-- A division: class L8 (R119). -/
def State.scalarDiv (s : State) (v : View) (d a b : BitVec 6) (f : Dword → Dword → Dword) : State :=
  s.putScalar v 8 d (f (v.s a.toNat) (v.s b.toNat))

/-- SADD (R118). -/
def execSadd (d a b : BitVec 6) (s : State) := word (.sadd d a b) s (fun v s => s.scalar2 v d a b (fun x y => x + y))
/-- SSUB (R118). -/
def execSsub (d a b : BitVec 6) (s : State) := word (.ssub d a b) s (fun v s => s.scalar2 v d a b (fun x y => x - y))
/-- SMUL (R118). -/
def execSmul (d a b : BitVec 6) (s : State) := word (.smul d a b) s (fun v s => s.scalar2 v d a b (fun x y => x * y))
/-- SMULH (R118). -/
def execSmulh (d a b : BitVec 6) (s : State) := word (.smulh d a b) s (fun v s => s.scalar2 v d a b mulHighS)
/-- SMULHU (R118). -/
def execSmulhu (d a b : BitVec 6) (s : State) := word (.smulhu d a b) s (fun v s => s.scalar2 v d a b mulHighU)
/-- SAND (R118). -/
def execSand (d a b : BitVec 6) (s : State) := word (.sand d a b) s (fun v s => s.scalar2 v d a b (fun x y => x &&& y))
/-- SOR (R118). -/
def execSor (d a b : BitVec 6) (s : State) := word (.sor d a b) s (fun v s => s.scalar2 v d a b (fun x y => x ||| y))
/-- SXOR (R118). -/
def execSxor (d a b : BitVec 6) (s : State) := word (.sxor d a b) s (fun v s => s.scalar2 v d a b (fun x y => x ^^^ y))
/-- SSHL (R118). -/
def execSshl (d a b : BitVec 6) (s : State) := word (.sshl d a b) s (fun v s => s.scalar2 v d a b (fun x y => x <<< shAmount y))
/-- SSHR (R118). -/
def execSshr (d a b : BitVec 6) (s : State) := word (.sshr d a b) s (fun v s => s.scalar2 v d a b (fun x y => x >>> shAmount y))
/-- SSRA (R118). -/
def execSsra (d a b : BitVec 6) (s : State) :=
  word (.ssra d a b) s (fun v s => s.scalar2 v d a b (fun x y => x.sshiftRight (shAmount y)))
/-- SMIN (R118). -/
def execSmin (d a b : BitVec 6) (s : State) := word (.smin d a b) s (fun v s => s.scalar2 v d a b minS)
/-- SMAX (R118). -/
def execSmax (d a b : BitVec 6) (s : State) := word (.smax d a b) s (fun v s => s.scalar2 v d a b maxS)
/-- SMINU (R118). -/
def execSminu (d a b : BitVec 6) (s : State) := word (.sminu d a b) s (fun v s => s.scalar2 v d a b minU)
/-- SMAXU (R118). -/
def execSmaxu (d a b : BitVec 6) (s : State) := word (.smaxu d a b) s (fun v s => s.scalar2 v d a b maxU)
/-- SSLT (R118). -/
def execSslt (d a b : BitVec 6) (s : State) :=
  word (.sslt d a b) s (fun v s => s.scalar2 v d a b (fun x y => flag64 (decide (x.toInt < y.toInt))))
/-- SSLTU (R119). -/
def execSsltu (d a b : BitVec 6) (s : State) :=
  word (.ssltu d a b) s (fun v s => s.scalar2 v d a b (fun x y => flag64 (decide (x.toNat < y.toNat))))
/-- SDIV (R119). -/
def execSdiv (d a b : BitVec 6) (s : State) := word (.sdiv d a b) s (fun v s => s.scalarDiv v d a b quotS)
/-- SDIVU (R119). -/
def execSdivu (d a b : BitVec 6) (s : State) := word (.sdivu d a b) s (fun v s => s.scalarDiv v d a b quotU)
/-- SREM (R119). -/
def execSrem (d a b : BitVec 6) (s : State) := word (.srem d a b) s (fun v s => s.scalarDiv v d a b remS)
/-- SREMU (R119). -/
def execSremu (d a b : BitVec 6) (s : State) := word (.sremu d a b) s (fun v s => s.scalarDiv v d a b remU)
/-- SCLZ (R119). -/
def execSclz (d a : BitVec 6) (s : State) :=
  word (.sclz d a) s (fun v s => s.scalar1 v d a (fun x => BitVec.ofNat 64 (leadingZeros 64 x.toNat)))
/-- SPOPC (R119). -/
def execSpopc (d a : BitVec 6) (s : State) :=
  word (.spopc d a) s (fun v s => s.scalar1 v d a (fun x => BitVec.ofNat 64 (popCount 64 x.toNat)))
/-- SBREV (R119). -/
def execSbrev (d a : BitVec 6) (s : State) :=
  word (.sbrev d a) s (fun v s => s.scalar1 v d a (fun x => BitVec.ofNat 64 (bitReverse 64 x.toNat)))
/-- SSEXT (R119). -/
def execSsext (d a wc : BitVec 6) (s : State) := word (.ssext d a wc) s (fun v s => s.scalar1 v d a (signLow (codeWidth wc)))
/-- SZEXT (R119). -/
def execSzext (d a wc : BitVec 6) (s : State) := word (.szext d a wc) s (fun v s => s.scalar1 v d a (zeroLow (codeWidth wc)))
/-- SADDI (R120). -/
def execSaddi (d a : BitVec 6) (imm : BitVec 10) (s : State) :=
  word (.saddi d a imm) s (fun v s => s.scalar1 v d a (fun x => x + imm.signExtend 64))
/-- SANDI (R120). -/
def execSandi (d a : BitVec 6) (imm : BitVec 10) (s : State) :=
  word (.sandi d a imm) s (fun v s => s.scalar1 v d a (fun x => x &&& imm.signExtend 64))
/-- SORI (R120). -/
def execSori (d a : BitVec 6) (imm : BitVec 10) (s : State) :=
  word (.sori d a imm) s (fun v s => s.scalar1 v d a (fun x => x ||| imm.signExtend 64))
/-- SXORI (R120). -/
def execSxori (d a : BitVec 6) (imm : BitVec 10) (s : State) :=
  word (.sxori d a imm) s (fun v s => s.scalar1 v d a (fun x => x ^^^ imm.signExtend 64))
/-- SSHI.SHL (R121). -/
def execSshiShl (d a amt : BitVec 6) (s : State) :=
  word (.sshiShl d a amt) s (fun v s => s.scalar1 v d a (fun x => x <<< amt.toNat))
/-- SSHI.SHR (R121). -/
def execSshiShr (d a amt : BitVec 6) (s : State) :=
  word (.sshiShr d a amt) s (fun v s => s.scalar1 v d a (fun x => x >>> amt.toNat))
/-- SSHI.SRA (R121). -/
def execSshiSra (d a amt : BitVec 6) (s : State) :=
  word (.sshiSra d a amt) s (fun v s => s.scalar1 v d a (fun x => x.sshiftRight amt.toNat))
/-- SSHI.ROR (R121). -/
def execSshiRor (d a amt : BitVec 6) (s : State) :=
  word (.sshiRor d a amt) s (fun v s => s.scalar1 v d a (fun x => x.rotateRight amt.toNat))
/-- SMOVK (R122). -/
def execSmovk (d : BitVec 6) (imm : BitVec 16) (s : State) :=
  word (.smovk d imm) s (fun v s => s.putScalar v 1 d (imm.signExtend 64))
/-- SMOVKS (R122): reads s[D] and discards its old bits 63:48. -/
def execSmovks (d : BitVec 6) (imm : BitVec 16) (s : State) :=
  word (.smovks d imm) s (fun v s => s.putScalar v 1 d ((v.s d.toNat <<< 16) ||| imm.zeroExtend 64))

end Sys2Proof.Machine
end

