-- ==== Sys2Proof/Machine/VectorFloat.lean ====
section
/-! DEFINITION. Vector floating point: arithmetic, compares, reductions and scans (R160 to R164) and VSFU (R165, R166). -/

namespace Sys2Proof.Machine

/-- An element-by-element result of one source in the format of FMT.VF (R147). -/
def State.float1 (s : State) (v : View) (lat : Nat) (d a : BitVec 6) (op : Fmt → Nat → FRes) : State :=
  let f := vfFmt v.fmt
  s.putVecFlags v lat d (fun i => elementwise f (fun e => op f (elem (v.v a.toNat i) f.width e)))

/-- An element-by-element result of two sources in the format of FMT.VF (R147, R160). -/
def State.float2 (s : State) (v : View) (lat : Nat) (d a b : BitVec 6) (op : Fmt → Nat → Nat → FRes) : State :=
  let f := vfFmt v.fmt
  s.putVecFlags v lat d (fun i => elementwise f (fun e =>
    op f (elem (v.v a.toNat i) f.width e) (elem (v.v b.toNat i) f.width e)))

/-- The same with v[D] as a third source (R145, R160). -/
def State.float3 (s : State) (v : View) (lat : Nat) (d a b : BitVec 6) (op : Fmt → Nat → Nat → Nat → FRes) : State :=
  let f := vfFmt v.fmt
  s.putVecFlags v lat d (fun i => elementwise f (fun e =>
    op f (elem (v.v a.toNat i) f.width e) (elem (v.v b.toNat i) f.width e) (elem (v.v d.toNat i) f.width e)))

/-- VFABS of one element (R162). -/
def absElem (f : Fmt) (c : Nat) : FRes :=
  let x := decodeF f c
  if x.isNan then ⟨f.nanCode, flagIf x.isSnan fINV⟩ else ⟨c % 2 ^ (f.width - 1), 0⟩

/-- A compare of FP32 lanes: the bit, and INV for a signalling NaN (R163). -/
def State.floatCompare (s : State) (v : View) (m : BitVec 3) (a b : BitVec 6) (c : FVal → FVal → Bool) : State :=
  let x (i : Nat) := decodeF .fp32 (v.v a.toNat i).toNat
  let y (i : Nat) := decodeF .fp32 (v.v b.toNat i).toNat
  (s.compare v 4 m (fun i => c (x i) (y i))).raiseFlags v 4
    (v.active.toList.map (fun i => flagIf ((x i).isSnan || (y i).isSnan) fINV))

/-- Ordered comparisons: none holds of a NaN, and the zeros are equal (R163). -/
def ordered (x y : FVal) : Bool := !x.isNan && !y.isNan
def floatLt (x y : FVal) : Bool := ordered x y && x.lt false y
def floatEq (x y : FVal) : Bool := ordered x y && !x.lt false y && !y.lt false x
def floatLe (x y : FVal) : Bool := ordered x y && !y.lt false x

/-- Leaf p of a floating-point tree: lane p, or element p mod 2 of lane p div 2 (R147, R157). -/
def View.leaf (v : View) (f : Fmt) (a : BitVec 6) (p : Nat) : FRes :=
  floatLeaf f (elem (v.v a.toNat (p / f.count)) f.width (p % f.count))

/-- The tree over the leaves of active lanes that p admits (R157, R158, R164). -/
def View.floatTree (v : View) (f : Fmt) (a : BitVec 6) (op : Nat → Nat → FRes) (p : Nat → Bool) : FRes :=
  (treeOf (floatComb op) (v.w.width * f.count) (v.leaf f a) (fun i => v.active.has (i / f.count) && p i)).getD ⟨0, 0⟩

/-- A floating-point reduction: every element of every active lane gets the tree's value (R157, R164). -/
def State.floatReduce (s : State) (v : View) (d a : BitVec 6) (op : Fmt → Nat → Nat → FRes) : State :=
  let f := vfFmt v.fmt
  let r := v.floatTree f a (op f) (fun _ => true)
  s.putVecFlags v 8 d (fun _ => elementwise f (fun _ => r))

/-- A floating-point inclusive scan (R157, R164). -/
def State.floatScan (s : State) (v : View) (d a : BitVec 6) (op : Fmt → Nat → Nat → FRes) : State :=
  let f := vfFmt v.fmt
  s.putVecFlags v 8 d (fun i => elementwise f (fun e => v.floatTree f a (op f) (fun p => decide (p ≤ i * f.count + e))))

/-- A special function of each element (R165). -/
def State.special (s : State) (v : View) (d a : BitVec 6) (rm : BitVec 3) (fn : Sfu) : State :=
  s.float1 v 8 d a (fun f x => sfu f fn (v.rm rm) x)

/-- VFADD (R160). -/
def execVfadd (d a b : BitVec 6) (rm : BitVec 3) (s : State) :=
  word (.vfadd d a b rm) s (fun v s => s.float2 v 4 d a b (fun f x y => fAdd f (v.rm rm) x y))
/-- VFSUB (R160). -/
def execVfsub (d a b : BitVec 6) (rm : BitVec 3) (s : State) :=
  word (.vfsub d a b rm) s (fun v s => s.float2 v 4 d a b (fun f x y => fSub f (v.rm rm) x y))
/-- VFMUL (R160). -/
def execVfmul (d a b : BitVec 6) (rm : BitVec 3) (s : State) :=
  word (.vfmul d a b rm) s (fun v s => s.float2 v 4 d a b (fun f x y => fMul f (v.rm rm) x y))
/-- VFDIV (R160). -/
def execVfdiv (d a b : BitVec 6) (rm : BitVec 3) (s : State) :=
  word (.vfdiv d a b rm) s (fun v s => s.float2 v 8 d a b (fun f x y => fDiv f (v.rm rm) x y))
/-- VFMA (R160). -/
def execVfma (d a b : BitVec 6) (rm : BitVec 3) (s : State) :=
  word (.vfma d a b rm) s (fun v s => s.float3 v 4 d a b (fun f x y z => fMa f (v.rm rm) x y z))
/-- VFMS (R160). -/
def execVfms (d a b : BitVec 6) (rm : BitVec 3) (s : State) :=
  word (.vfms d a b rm) s (fun v s => s.float3 v 4 d a b (fun f x y z => fMs f (v.rm rm) x y z))
/-- VFMIN (R161). -/
def execVfmin (d a b : BitVec 6) (s : State) := word (.vfmin d a b) s (fun v s => s.float2 v 4 d a b (fun f x y => minMax f false x y))
/-- VFMAX (R161). -/
def execVfmax (d a b : BitVec 6) (s : State) := word (.vfmax d a b) s (fun v s => s.float2 v 4 d a b (fun f x y => minMax f true x y))
/-- VFCMP.EQ (R163). -/
def execVfcmpEq (m : BitVec 3) (a b : BitVec 6) (s : State) := word (.vfcmpEq m a b) s (fun v s => s.floatCompare v m a b floatEq)
/-- VFCMP.LT (R163). -/
def execVfcmpLt (m : BitVec 3) (a b : BitVec 6) (s : State) := word (.vfcmpLt m a b) s (fun v s => s.floatCompare v m a b floatLt)
/-- VFCMP.LE (R163). -/
def execVfcmpLe (m : BitVec 3) (a b : BitVec 6) (s : State) := word (.vfcmpLe m a b) s (fun v s => s.floatCompare v m a b floatLe)
/-- VFCMP.UN (R163). -/
def execVfcmpUn (m : BitVec 3) (a b : BitVec 6) (s : State) :=
  word (.vfcmpUn m a b) s (fun v s => s.floatCompare v m a b (fun x y => !ordered x y))
/-- VFCMP.NE (R163). -/
def execVfcmpNe (m : BitVec 3) (a b : BitVec 6) (s : State) :=
  word (.vfcmpNe m a b) s (fun v s => s.floatCompare v m a b (fun x y => !floatEq x y))
/-- VFREDADD (R164). -/
def execVfredadd (d a : BitVec 6) (rm : BitVec 3) (s : State) :=
  word (.vfredadd d a rm) s (fun v s => s.floatReduce v d a (fun f x y => fAdd f (v.rm rm) x y))
/-- VFREDMAX (R164). -/
def execVfredmax (d a : BitVec 6) (s : State) :=
  word (.vfredmax d a) s (fun v s => s.floatReduce v d a (fun f x y => minMax f true x y))
/-- VFSCANADD (R164). -/
def execVfscanadd (d a : BitVec 6) (rm : BitVec 3) (s : State) :=
  word (.vfscanadd d a rm) s (fun v s => s.floatScan v d a (fun f x y => fAdd f (v.rm rm) x y))
/-- VFSCANMAX (R164). -/
def execVfscanmax (d a : BitVec 6) (s : State) :=
  word (.vfscanmax d a) s (fun v s => s.floatScan v d a (fun f x y => minMax f true x y))
/-- VFABS (R162). -/
def execVfabs (d a : BitVec 6) (s : State) := word (.vfabs d a) s (fun v s => s.float1 v 4 d a absElem)
/-- VFCLS (R162): each class word fills its own half when packed, and no flag is raised. -/
def execVfcls (d a : BitVec 6) (s : State) :=
  word (.vfcls d a) s (fun v s => s.putVec v 4 d (fun i =>
    (elementwise (vfFmt v.fmt) (fun e => ⟨classWord (vfFmt v.fmt) (elem (v.v a.toNat i) (vfFmt v.fmt).width e), 0⟩)).1))
/-- VSFU.RCP (R166). -/
def execVsfuRcp (d a : BitVec 6) (rm : BitVec 3) (s : State) := word (.vsfuRcp d a rm) s (fun v s => s.special v d a rm .rcp)
/-- VSFU.RSQ (R166). -/
def execVsfuRsq (d a : BitVec 6) (rm : BitVec 3) (s : State) := word (.vsfuRsq d a rm) s (fun v s => s.special v d a rm .rsq)
/-- VSFU.SQRT (R166). -/
def execVsfuSqrt (d a : BitVec 6) (rm : BitVec 3) (s : State) := word (.vsfuSqrt d a rm) s (fun v s => s.special v d a rm .sqrt)
/-- VSFU.EX2 (R166). -/
def execVsfuEx2 (d a : BitVec 6) (rm : BitVec 3) (s : State) := word (.vsfuEx2 d a rm) s (fun v s => s.special v d a rm .ex2)
/-- VSFU.LG2 (R166). -/
def execVsfuLg2 (d a : BitVec 6) (rm : BitVec 3) (s : State) := word (.vsfuLg2 d a rm) s (fun v s => s.special v d a rm .lg2)
/-- VSFU.SIN (R166). -/
def execVsfuSin (d a : BitVec 6) (rm : BitVec 3) (s : State) := word (.vsfuSin d a rm) s (fun v s => s.special v d a rm .sin)
/-- VSFU.COS (R166). -/
def execVsfuCos (d a : BitVec 6) (rm : BitVec 3) (s : State) := word (.vsfuCos d a rm) s (fun v s => s.special v d a rm .cos)
/-- VSFU.TANH (R166). -/
def execVsfuTanh (d a : BitVec 6) (rm : BitVec 3) (s : State) := word (.vsfuTanh d a rm) s (fun v s => s.special v d a rm .tanh)
/-- VSFU.SIGM (R166). -/
def execVsfuSigm (d a : BitVec 6) (rm : BitVec 3) (s : State) := word (.vsfuSigm d a rm) s (fun v s => s.special v d a rm .sigm)

end Sys2Proof.Machine
end

