-- ==== Sys2Proof/Machine/VectorInt.lean ====
section
/-! DEFINITION. Vector integer arithmetic, compares, moves, cross-lane moves, reductions and scans (R143 to R159). -/

namespace Sys2Proof.Machine

/-- Sat32 of R150: the clamped value, and its flags where it clamped. -/
def sat32 (x : Int) : Word × List (BitVec 5) :=
  if x < -2 ^ 31 then (0x80000000#32, [fSATO ||| fINX])
  else if 2 ^ 31 - 1 < x then (0x7FFFFFFF#32, [fSATO ||| fINX])
  else (BitVec.ofInt 32 x, [0])

/-- The shift amount of a vector shift: bits 4:0 (R150). -/
def lane5 (b : Word) : Nat := b.toNat % 32

/-- Byte selection of VBYTE (R153). -/
def byteSelect (a b : Word) : Word :=
  BitVec.ofNat 32 (packElems 8 ((List.range 4).map (fun j =>
    if b.getLsbD (8 * j + 7) then 0 else elem a 8 (bitsAt b (8 * j) 2))))

/-- Signed and unsigned minimum and maximum of lanes (R150). -/
def vminS (a b : Word) : Word := if a.toInt ≤ b.toInt then a else b
def vmaxS (a b : Word) : Word := if a.toInt ≤ b.toInt then b else a
def vminU (a b : Word) : Word := if a.toNat ≤ b.toNat then a else b
def vmaxU (a b : Word) : Word := if a.toNat ≤ b.toNat then b else a

/-- A saturating sum or difference (R150). -/
def State.vectorSat (s : State) (v : View) (d a b : BitVec 6) (f : Int → Int → Int) : State :=
  s.putVecFlags v 2 d (fun i => sat32 (f (v.v a.toNat i).toInt (v.v b.toNat i).toInt))

/-- An integer compare (R154). -/
def State.intCompare (s : State) (v : View) (m : BitVec 3) (a b : BitVec 6) (c : Word → Word → Bool) : State :=
  s.compare v 2 m (fun i => c (v.v a.toNat i) (v.v b.toNat i))

/-- A cross-lane move (R144, R156): a source lane outside Active gives 0. -/
def State.crossLane (s : State) (v : View) (d a : BitVec 6) (src : Nat → Nat) : State :=
  s.putVec v 4 d (fun i => if v.active.has (src i) then v.v a.toNat (src i) else 0)

/-- Lane i exclusive-or a lane offset (R156). -/
def xorLane (i j : Nat) : Nat := i ^^^ j

/-- An integer reduction: every active lane gets the tree's value (R157, R159). -/
def State.intReduce (s : State) (v : View) (d a : BitVec 6) (op : Word → Word → Word) : State :=
  let r := (treeOf op v.w.width (fun i => v.v a.toNat i) v.active.has).getD 0
  s.putVec v 8 d (fun _ => r)

/-- An integer scan, inclusive or exclusive (R157, R159). -/
def State.intScan (s : State) (v : View) (d a : BitVec 6) (excl : Bool) (op : Word → Word → Word) : State :=
  s.putVec v 8 d (fun p => (treeOf op v.w.width (fun i => v.v a.toNat i)
    (fun i => v.active.has i && (if excl then decide (i < p) else decide (i ≤ p)))).getD 0)

/-- VADD (R150). -/
def execVadd (d a b : BitVec 6) (ha hb : BitVec 1) (s : State) :=
  word (.vadd d a b ha hb) s (fun v s => s.vector2 v 2 d a b (fun x y => x + y))
/-- VSUB (R150). -/
def execVsub (d a b : BitVec 6) (ha hb : BitVec 1) (s : State) :=
  word (.vsub d a b ha hb) s (fun v s => s.vector2 v 2 d a b (fun x y => x - y))
/-- VADDS (R150). -/
def execVadds (d a b : BitVec 6) (ha hb : BitVec 1) (s : State) :=
  word (.vadds d a b ha hb) s (fun v s => s.vectorSat v d a b (fun x y => x + y))
/-- VSUBS (R150). -/
def execVsubs (d a b : BitVec 6) (ha hb : BitVec 1) (s : State) :=
  word (.vsubs d a b ha hb) s (fun v s => s.vectorSat v d a b (fun x y => x - y))
/-- VMUL (R150). -/
def execVmul (d a b : BitVec 6) (ha hb : BitVec 1) (s : State) :=
  word (.vmul d a b ha hb) s (fun v s => s.vector2 v 4 d a b (fun x y => x * y))
/-- VMULH (R150). -/
def execVmulh (d a b : BitVec 6) (ha hb : BitVec 1) (s : State) :=
  word (.vmulh d a b ha hb) s (fun v s => s.vector2 v 4 d a b (fun x y => BitVec.ofInt 32 (x.toInt * y.toInt / 2 ^ 32)))
/-- VMULHU (R150). -/
def execVmulhu (d a b : BitVec 6) (ha hb : BitVec 1) (s : State) :=
  word (.vmulhu d a b ha hb) s (fun v s => s.vector2 v 4 d a b (fun x y => BitVec.ofNat 32 (x.toNat * y.toNat / 2 ^ 32)))
/-- VMAD (R150): v[D] is read at issue like the other sources (R145). -/
def execVmad (d a b : BitVec 6) (ha hb : BitVec 1) (s : State) :=
  word (.vmad d a b ha hb) s (fun v s => s.putVec v 4 d (fun i => v.v a.toNat i * v.v b.toNat i + v.v d.toNat i))
/-- VAND (R150). -/
def execVand (d a b : BitVec 6) (ha hb : BitVec 1) (s : State) :=
  word (.vand d a b ha hb) s (fun v s => s.vector2 v 2 d a b (fun x y => x &&& y))
/-- VOR (R150). -/
def execVor (d a b : BitVec 6) (ha hb : BitVec 1) (s : State) :=
  word (.vor d a b ha hb) s (fun v s => s.vector2 v 2 d a b (fun x y => x ||| y))
/-- VXOR (R150). -/
def execVxor (d a b : BitVec 6) (ha hb : BitVec 1) (s : State) :=
  word (.vxor d a b ha hb) s (fun v s => s.vector2 v 2 d a b (fun x y => x ^^^ y))
/-- VANDN (R150). -/
def execVandn (d a b : BitVec 6) (ha hb : BitVec 1) (s : State) :=
  word (.vandn d a b ha hb) s (fun v s => s.vector2 v 2 d a b (fun x y => x &&& ~~~y))
/-- VSHL (R150). -/
def execVshl (d a b : BitVec 6) (ha hb : BitVec 1) (s : State) :=
  word (.vshl d a b ha hb) s (fun v s => s.vector2 v 2 d a b (fun x y => x <<< lane5 y))
/-- VSHR (R150). -/
def execVshr (d a b : BitVec 6) (ha hb : BitVec 1) (s : State) :=
  word (.vshr d a b ha hb) s (fun v s => s.vector2 v 2 d a b (fun x y => x >>> lane5 y))
/-- VSRA (R150). -/
def execVsra (d a b : BitVec 6) (ha hb : BitVec 1) (s : State) :=
  word (.vsra d a b ha hb) s (fun v s => s.vector2 v 2 d a b (fun x y => x.sshiftRight (lane5 y)))
/-- VROT (R150). -/
def execVrot (d a b : BitVec 6) (ha hb : BitVec 1) (s : State) :=
  word (.vrot d a b ha hb) s (fun v s => s.vector2 v 2 d a b (fun x y => x.rotateRight (lane5 y)))
/-- VMIN (R150). -/
def execVmin (d a b : BitVec 6) (ha hb : BitVec 1) (s : State) :=
  word (.vmin d a b ha hb) s (fun v s => s.vector2 v 2 d a b vminS)
/-- VMAX (R150). -/
def execVmax (d a b : BitVec 6) (ha hb : BitVec 1) (s : State) :=
  word (.vmax d a b ha hb) s (fun v s => s.vector2 v 2 d a b vmaxS)
/-- VMINU (R150). -/
def execVminu (d a b : BitVec 6) (ha hb : BitVec 1) (s : State) :=
  word (.vminu d a b ha hb) s (fun v s => s.vector2 v 2 d a b vminU)
/-- VMAXU (R150). -/
def execVmaxu (d a b : BitVec 6) (ha hb : BitVec 1) (s : State) :=
  word (.vmaxu d a b ha hb) s (fun v s => s.vector2 v 2 d a b vmaxU)
/-- VADDI (R151). -/
def execVaddi (d a : BitVec 6) (imm : BitVec 10) (s : State) :=
  word (.vaddi d a imm) s (fun v s => s.vector1 v 2 d a (fun x => x + imm.signExtend 32))
/-- VCLZ (R152). -/
def execVclz (d a : BitVec 6) (ha : BitVec 1) (s : State) :=
  word (.vclz d a ha) s (fun v s => s.vector1 v 2 d a (fun x => BitVec.ofNat 32 (leadingZeros 32 x.toNat)))
/-- VPOPC (R152). -/
def execVpopc (d a : BitVec 6) (ha : BitVec 1) (s : State) :=
  word (.vpopc d a ha) s (fun v s => s.vector1 v 2 d a (fun x => BitVec.ofNat 32 (popCount 32 x.toNat)))
/-- VBREV (R152). -/
def execVbrev (d a : BitVec 6) (ha : BitVec 1) (s : State) :=
  word (.vbrev d a ha) s (fun v s => s.vector1 v 2 d a (fun x => BitVec.ofNat 32 (bitReverse 32 x.toNat)))
/-- VSEXT (R152). -/
def execVsext (d a wc : BitVec 6) (ha : BitVec 1) (s : State) :=
  word (.vsext d a wc ha) s (fun v s => s.vector1 v 2 d a (fun x => (x.setWidth (codeWidth wc)).signExtend 32))
/-- VPK16 (R153). -/
def execVpk16 (d a b : BitVec 6) (ha hb : BitVec 1) (s : State) :=
  word (.vpk16 d a b ha hb) s (fun v s =>
    (s.vector2 v 2 d a b (fun x y => y.extractLsb' 0 16 ++ x.extractLsb' 0 16)).carry v 2 d [a, b] 0)
/-- VUPKL16 (R153). -/
def execVupkl16 (d a : BitVec 6) (ha : BitVec 1) (s : State) :=
  word (.vupkl16 d a ha) s (fun v s => (s.vector1 v 2 d a (fun x => x <<< 16)).carry v 2 d [a] 0)
/-- VUPKH16 (R153). -/
def execVupkh16 (d a : BitVec 6) (ha : BitVec 1) (s : State) :=
  word (.vupkh16 d a ha) s (fun v s => (s.vector1 v 2 d a (fun x => x &&& 0xFFFF0000#32)).carry v 2 d [a] 0)
/-- VBYTE (R153). -/
def execVbyte (d a b : BitVec 6) (ha hb : BitVec 1) (s : State) :=
  word (.vbyte d a b ha hb) s (fun v s => (s.vector2 v 2 d a b byteSelect).carry v 2 d [a, b] 0)
/-- VCEQ (R154). -/
def execVceq (m : BitVec 3) (a b : BitVec 6) (ha hb : BitVec 1) (s : State) :=
  word (.vceq m a b ha hb) s (fun v s => s.intCompare v m a b (fun x y => x == y))
/-- VCLT (R154). -/
def execVclt (m : BitVec 3) (a b : BitVec 6) (ha hb : BitVec 1) (s : State) :=
  word (.vclt m a b ha hb) s (fun v s => s.intCompare v m a b (fun x y => decide (x.toInt < y.toInt)))
/-- VCLTU (R154). -/
def execVcltu (m : BitVec 3) (a b : BitVec 6) (ha hb : BitVec 1) (s : State) :=
  word (.vcltu m a b ha hb) s (fun v s => s.intCompare v m a b (fun x y => decide (x.toNat < y.toNat)))
/-- VCLE (R154). -/
def execVcle (m : BitVec 3) (a b : BitVec 6) (ha hb : BitVec 1) (s : State) :=
  word (.vcle m a b ha hb) s (fun v s => s.intCompare v m a b (fun x y => decide (x.toInt ≤ y.toInt)))
/-- VBCS (R155). -/
def execVbcs (d a : BitVec 6) (ha : BitVec 1) (s : State) :=
  word (.vbcs d a ha) s (fun v s => s.putVec v 2 d (fun _ => (v.s a.toNat).setWidth 32))
/-- VMOVM (R155). -/
def execVmovm (d a : BitVec 6) (b : BitVec 3) (ha hb : BitVec 1) (s : State) :=
  word (.vmovm d a b ha hb) s (fun v s => s.putVec v 2 d (fun i => if (v.m b.toNat).has i then v.v a.toNat i else v.v d.toNat i))
/-- VLANE (R155). -/
def execVlane (d a : BitVec 6) (ha : BitVec 1) (s : State) :=
  word (.vlane d a ha) s (fun v s => s.putVec v 2 d (fun i => (v.s a.toNat).setWidth 32 + BitVec.ofNat 32 i))
/-- VTOS (R155). -/
def execVtos (d a b : BitVec 6) (ha hb : BitVec 1) (s : State) :=
  word (.vtos d a b ha hb) s (fun v s =>
    let l := (v.s b.toNat).toNat % v.w.width
    s.putScalar v 4 d (if v.active.has l then (v.v a.toNat l).zeroExtend 64 else 0))
/-- VSHFL (R156). -/
def execVshfl (d a b : BitVec 6) (ha hb : BitVec 1) (s : State) :=
  word (.vshfl d a b ha hb) s (fun v s => s.crossLane v d a (fun i => xorLane i ((v.s b.toNat).toNat % v.w.width)))
/-- VBCL (R156). -/
def execVbcl (d a b : BitVec 6) (ha hb : BitVec 1) (s : State) :=
  word (.vbcl d a b ha hb) s (fun v s => s.crossLane v d a (fun _ => (v.s b.toNat).toNat % v.w.width))
/-- VROTL (R156). -/
def execVrotl (d a b : BitVec 6) (ha hb : BitVec 1) (s : State) :=
  word (.vrotl d a b ha hb) s (fun v s => s.crossLane v d a (fun i => (i + (v.s b.toNat).toNat) % v.w.width))
/-- VPERM (R156). -/
def execVperm (d a b : BitVec 6) (ha hb : BitVec 1) (s : State) :=
  word (.vperm d a b ha hb) s (fun v s => s.crossLane v d a (fun i => (v.v b.toNat i).toNat % v.w.width))
/-- VREDADD (R159). -/
def execVredadd (d a : BitVec 6) (ha : BitVec 1) (s : State) :=
  word (.vredadd d a ha) s (fun v s => s.intReduce v d a (fun x y => x + y))
/-- VREDMIN (R159). -/
def execVredmin (d a : BitVec 6) (ha : BitVec 1) (s : State) := word (.vredmin d a ha) s (fun v s => s.intReduce v d a vminS)
/-- VREDMAX (R159). -/
def execVredmax (d a : BitVec 6) (ha : BitVec 1) (s : State) := word (.vredmax d a ha) s (fun v s => s.intReduce v d a vmaxS)
/-- VREDOR (R159). -/
def execVredor (d a : BitVec 6) (ha : BitVec 1) (s : State) :=
  word (.vredor d a ha) s (fun v s => s.intReduce v d a (fun x y => x ||| y))
/-- VSCANADD (R159). -/
def execVscanadd (d a : BitVec 6) (ha : BitVec 1) (s : State) :=
  word (.vscanadd d a ha) s (fun v s => s.intScan v d a false (fun x y => x + y))
/-- VSCANMAX (R159). -/
def execVscanmax (d a : BitVec 6) (ha : BitVec 1) (s : State) := word (.vscanmax d a ha) s (fun v s => s.intScan v d a false vmaxS)
/-- VSCANMIN (R159). -/
def execVscanmin (d a : BitVec 6) (ha : BitVec 1) (s : State) := word (.vscanmin d a ha) s (fun v s => s.intScan v d a false vminS)
/-- VSCANADDX (R159). -/
def execVscanaddx (d a : BitVec 6) (ha : BitVec 1) (s : State) :=
  word (.vscanaddx d a ha) s (fun v s => s.intScan v d a true (fun x y => x + y))

end Sys2Proof.Machine
end

