-- ==== Sys2Proof/Machine/Dispatch.lean ====
section
/-! DEFINITION. One arm per instruction and event of the opcode table. -/

namespace Sys2Proof.Machine

/-- What an instruction of the group being issued does, or an event of the part. -/
def exec (i : Instr) (s : State) : Host.Outcome State Fault Refusal :=
  match i with
  | .sadd d a b => Sys2Proof.Machine.execSadd d a b s
  | .ssub d a b => Sys2Proof.Machine.execSsub d a b s
  | .smul d a b => Sys2Proof.Machine.execSmul d a b s
  | .smulh d a b => Sys2Proof.Machine.execSmulh d a b s
  | .smulhu d a b => Sys2Proof.Machine.execSmulhu d a b s
  | .sand d a b => Sys2Proof.Machine.execSand d a b s
  | .sor d a b => Sys2Proof.Machine.execSor d a b s
  | .sxor d a b => Sys2Proof.Machine.execSxor d a b s
  | .sshl d a b => Sys2Proof.Machine.execSshl d a b s
  | .sshr d a b => Sys2Proof.Machine.execSshr d a b s
  | .ssra d a b => Sys2Proof.Machine.execSsra d a b s
  | .smin d a b => Sys2Proof.Machine.execSmin d a b s
  | .smax d a b => Sys2Proof.Machine.execSmax d a b s
  | .sminu d a b => Sys2Proof.Machine.execSminu d a b s
  | .smaxu d a b => Sys2Proof.Machine.execSmaxu d a b s
  | .sslt d a b => Sys2Proof.Machine.execSslt d a b s
  | .ssltu d a b => Sys2Proof.Machine.execSsltu d a b s
  | .sdiv d a b => Sys2Proof.Machine.execSdiv d a b s
  | .sdivu d a b => Sys2Proof.Machine.execSdivu d a b s
  | .srem d a b => Sys2Proof.Machine.execSrem d a b s
  | .sremu d a b => Sys2Proof.Machine.execSremu d a b s
  | .sclz d a => Sys2Proof.Machine.execSclz d a s
  | .spopc d a => Sys2Proof.Machine.execSpopc d a s
  | .sbrev d a => Sys2Proof.Machine.execSbrev d a s
  | .ssext d a wc => Sys2Proof.Machine.execSsext d a wc s
  | .szext d a wc => Sys2Proof.Machine.execSzext d a wc s
  | .saddi d a imm => Sys2Proof.Machine.execSaddi d a imm s
  | .sandi d a imm => Sys2Proof.Machine.execSandi d a imm s
  | .sori d a imm => Sys2Proof.Machine.execSori d a imm s
  | .sxori d a imm => Sys2Proof.Machine.execSxori d a imm s
  | .sshiShl d a amt => Sys2Proof.Machine.execSshiShl d a amt s
  | .sshiShr d a amt => Sys2Proof.Machine.execSshiShr d a amt s
  | .sshiSra d a amt => Sys2Proof.Machine.execSshiSra d a amt s
  | .sshiRor d a amt => Sys2Proof.Machine.execSshiRor d a amt s
  | .smovk d imm => Sys2Proof.Machine.execSmovk d imm s
  | .smovks d imm => Sys2Proof.Machine.execSmovks d imm s
  | .brcEqz a off => Sys2Proof.Machine.execBrcEqz a off s
  | .brcNez a off => Sys2Proof.Machine.execBrcNez a off s
  | .brcLtz a off => Sys2Proof.Machine.execBrcLtz a off s
  | .brcGez a off => Sys2Proof.Machine.execBrcGez a off s
  | .brcAny m off => Sys2Proof.Machine.execBrcAny m off s
  | .brcAll m off => Sys2Proof.Machine.execBrcAll m off s
  | .brcNone m off => Sys2Proof.Machine.execBrcNone m off s
  | .brcSplit m off => Sys2Proof.Machine.execBrcSplit m off s
  | .jmp off => Sys2Proof.Machine.execJmp off s
  | .call off => Sys2Proof.Machine.execCall off s
  | .jmpr a => Sys2Proof.Machine.execJmpr a s
  | .callr a => Sys2Proof.Machine.execCallr a s
  | .ret a => Sys2Proof.Machine.execRet a s
  | .mand d a b => Sys2Proof.Machine.execMand d a b s
  | .mor d a b => Sys2Proof.Machine.execMor d a b s
  | .mxor d a b => Sys2Proof.Machine.execMxor d a b s
  | .mandn d a b => Sys2Proof.Machine.execMandn d a b s
  | .mnot d a => Sys2Proof.Machine.execMnot d a s
  | .mpopc d a => Sys2Proof.Machine.execMpopc d a s
  | .mffs d a => Sys2Proof.Machine.execMffs d a s
  | .mtos d a => Sys2Proof.Machine.execMtos d a s
  | .stom d a => Sys2Proof.Machine.execStom d a s
  | .mact d => Sys2Proof.Machine.execMact d s
  | .regang => Sys2Proof.Machine.execRegang s
  | .setfmt a => Sys2Proof.Machine.execSetfmt a s
  | .getfmt d => Sys2Proof.Machine.execGetfmt d s
  | .setrm mode => Sys2Proof.Machine.execSetrm mode s
  | .yield => Sys2Proof.Machine.execYield s
  | .getcr d num => Sys2Proof.Machine.execGetcr d num s
  | .setcr d num => Sys2Proof.Machine.execSetcr d num s
  | .sqmap a => Sys2Proof.Machine.execSqmap a s
  | .fragid d => Sys2Proof.Machine.execFragid d s
  | .waitc lc sc ec => Sys2Proof.Machine.execWaitc lc sc ec s
  | .vadd d a b ha hb => Sys2Proof.Machine.execVadd d a b ha hb s
  | .vsub d a b ha hb => Sys2Proof.Machine.execVsub d a b ha hb s
  | .vadds d a b ha hb => Sys2Proof.Machine.execVadds d a b ha hb s
  | .vsubs d a b ha hb => Sys2Proof.Machine.execVsubs d a b ha hb s
  | .vmul d a b ha hb => Sys2Proof.Machine.execVmul d a b ha hb s
  | .vmulh d a b ha hb => Sys2Proof.Machine.execVmulh d a b ha hb s
  | .vmulhu d a b ha hb => Sys2Proof.Machine.execVmulhu d a b ha hb s
  | .vmad d a b ha hb => Sys2Proof.Machine.execVmad d a b ha hb s
  | .vand d a b ha hb => Sys2Proof.Machine.execVand d a b ha hb s
  | .vor d a b ha hb => Sys2Proof.Machine.execVor d a b ha hb s
  | .vxor d a b ha hb => Sys2Proof.Machine.execVxor d a b ha hb s
  | .vandn d a b ha hb => Sys2Proof.Machine.execVandn d a b ha hb s
  | .vshl d a b ha hb => Sys2Proof.Machine.execVshl d a b ha hb s
  | .vshr d a b ha hb => Sys2Proof.Machine.execVshr d a b ha hb s
  | .vsra d a b ha hb => Sys2Proof.Machine.execVsra d a b ha hb s
  | .vrot d a b ha hb => Sys2Proof.Machine.execVrot d a b ha hb s
  | .vmin d a b ha hb => Sys2Proof.Machine.execVmin d a b ha hb s
  | .vmax d a b ha hb => Sys2Proof.Machine.execVmax d a b ha hb s
  | .vminu d a b ha hb => Sys2Proof.Machine.execVminu d a b ha hb s
  | .vmaxu d a b ha hb => Sys2Proof.Machine.execVmaxu d a b ha hb s
  | .vceq m a b ha hb => Sys2Proof.Machine.execVceq m a b ha hb s
  | .vclt m a b ha hb => Sys2Proof.Machine.execVclt m a b ha hb s
  | .vcltu m a b ha hb => Sys2Proof.Machine.execVcltu m a b ha hb s
  | .vcle m a b ha hb => Sys2Proof.Machine.execVcle m a b ha hb s
  | .vbcs d a ha => Sys2Proof.Machine.execVbcs d a ha s
  | .vmovm d a b ha hb => Sys2Proof.Machine.execVmovm d a b ha hb s
  | .vlane d a ha => Sys2Proof.Machine.execVlane d a ha s
  | .vtos d a b ha hb => Sys2Proof.Machine.execVtos d a b ha hb s
  | .vaddi d a imm => Sys2Proof.Machine.execVaddi d a imm s
  | .vshfl d a b ha hb => Sys2Proof.Machine.execVshfl d a b ha hb s
  | .vbcl d a b ha hb => Sys2Proof.Machine.execVbcl d a b ha hb s
  | .vrotl d a b ha hb => Sys2Proof.Machine.execVrotl d a b ha hb s
  | .vperm d a b ha hb => Sys2Proof.Machine.execVperm d a b ha hb s
  | .vredadd d a ha => Sys2Proof.Machine.execVredadd d a ha s
  | .vredmin d a ha => Sys2Proof.Machine.execVredmin d a ha s
  | .vredmax d a ha => Sys2Proof.Machine.execVredmax d a ha s
  | .vredor d a ha => Sys2Proof.Machine.execVredor d a ha s
  | .vscanadd d a ha => Sys2Proof.Machine.execVscanadd d a ha s
  | .vscanmax d a ha => Sys2Proof.Machine.execVscanmax d a ha s
  | .vscanmin d a ha => Sys2Proof.Machine.execVscanmin d a ha s
  | .vscanaddx d a ha => Sys2Proof.Machine.execVscanaddx d a ha s
  | .vclz d a ha => Sys2Proof.Machine.execVclz d a ha s
  | .vpopc d a ha => Sys2Proof.Machine.execVpopc d a ha s
  | .vbrev d a ha => Sys2Proof.Machine.execVbrev d a ha s
  | .vsext d a wc ha => Sys2Proof.Machine.execVsext d a wc ha s
  | .vpk16 d a b ha hb => Sys2Proof.Machine.execVpk16 d a b ha hb s
  | .vupkl16 d a ha => Sys2Proof.Machine.execVupkl16 d a ha s
  | .vupkh16 d a ha => Sys2Proof.Machine.execVupkh16 d a ha s
  | .vbyte d a b ha hb => Sys2Proof.Machine.execVbyte d a b ha hb s
  | .vfadd d a b rm => Sys2Proof.Machine.execVfadd d a b rm s
  | .vfsub d a b rm => Sys2Proof.Machine.execVfsub d a b rm s
  | .vfmul d a b rm => Sys2Proof.Machine.execVfmul d a b rm s
  | .vfdiv d a b rm => Sys2Proof.Machine.execVfdiv d a b rm s
  | .vfma d a b rm => Sys2Proof.Machine.execVfma d a b rm s
  | .vfms d a b rm => Sys2Proof.Machine.execVfms d a b rm s
  | .vfmin d a b => Sys2Proof.Machine.execVfmin d a b s
  | .vfmax d a b => Sys2Proof.Machine.execVfmax d a b s
  | .vfcmpEq m a b => Sys2Proof.Machine.execVfcmpEq m a b s
  | .vfcmpLt m a b => Sys2Proof.Machine.execVfcmpLt m a b s
  | .vfcmpLe m a b => Sys2Proof.Machine.execVfcmpLe m a b s
  | .vfcmpUn m a b => Sys2Proof.Machine.execVfcmpUn m a b s
  | .vfcmpNe m a b => Sys2Proof.Machine.execVfcmpNe m a b s
  | .vfredadd d a rm => Sys2Proof.Machine.execVfredadd d a rm s
  | .vfredmax d a => Sys2Proof.Machine.execVfredmax d a s
  | .vfscanadd d a rm => Sys2Proof.Machine.execVfscanadd d a rm s
  | .vfscanmax d a => Sys2Proof.Machine.execVfscanmax d a s
  | .vsfuRcp d a rm => Sys2Proof.Machine.execVsfuRcp d a rm s
  | .vsfuRsq d a rm => Sys2Proof.Machine.execVsfuRsq d a rm s
  | .vsfuSqrt d a rm => Sys2Proof.Machine.execVsfuSqrt d a rm s
  | .vsfuEx2 d a rm => Sys2Proof.Machine.execVsfuEx2 d a rm s
  | .vsfuLg2 d a rm => Sys2Proof.Machine.execVsfuLg2 d a rm s
  | .vsfuSin d a rm => Sys2Proof.Machine.execVsfuSin d a rm s
  | .vsfuCos d a rm => Sys2Proof.Machine.execVsfuCos d a rm s
  | .vsfuTanh d a rm => Sys2Proof.Machine.execVsfuTanh d a rm s
  | .vsfuSigm d a rm => Sys2Proof.Machine.execVsfuSigm d a rm s
  | .vfabs d a => Sys2Proof.Machine.execVfabs d a s
  | .vfcls d a => Sys2Proof.Machine.execVfcls d a s
  | .vcvt d a src dst rm => Sys2Proof.Machine.execVcvt d a src dst rm s
  | .vqnt d a b rm => Sys2Proof.Machine.execVqnt d a b rm s
  | .vdqnt d a b rm => Sys2Proof.Machine.execVdqnt d a b rm s
  | .vlqenc d a b ha hb => Sys2Proof.Machine.execVlqenc d a b ha hb s
  | .vlqdec d a b ha hb => Sys2Proof.Machine.execVlqdec d a b ha hb s
  | .vlqins d a b ha hb => Sys2Proof.Machine.execVlqins d a b ha hb s
  | .vlqerr d a b ha hb => Sys2Proof.Machine.execVlqerr d a b ha hb s
  | .coll sa sb acq rel scope hold => Sys2Proof.Machine.execColl sa sb acq rel scope hold s
  | .cbulk sa sb acq rel scope hold => Sys2Proof.Machine.execCbulk sa sb acq rel scope hold s
  | .compact sa sb acq rel scope hold => Sys2Proof.Machine.execCompact sa sb acq rel scope hold s
  | .qpush sa sb => Sys2Proof.Machine.execQpush sa sb s
  | .qstat sb => Sys2Proof.Machine.execQstat sb s
  | .epoll sa sb => Sys2Proof.Machine.execEpoll sa sb s
  | .ecancel sa sb => Sys2Proof.Machine.execEcancel sa sb s
  | .capent a => Sys2Proof.Machine.execCapent a s
  | .capexit => Sys2Proof.Machine.execCapexit s
  | .kld d a sz => Sys2Proof.Machine.execKld d a sz s
  | .kst d a sz => Sys2Proof.Machine.execKst d a sz s
  | .kamo d a sz fn => Sys2Proof.Machine.execKamo d a sz fn s
  | .kmovs d a => Sys2Proof.Machine.execKmovs d a s
  | .kmovk d a => Sys2Proof.Machine.execKmovk d a s
  | .capstat d => Sys2Proof.Machine.execCapstat d s
  | .sld t a off sz ord => Sys2Proof.Machine.execSld t a off sz ord s
  | .sst t a off sz ord => Sys2Proof.Machine.execSst t a off sz ord s
  | .vld t a off sz ord => Sys2Proof.Machine.execVld t a off sz ord s
  | .vst t a off sz ord => Sys2Proof.Machine.execVst t a off sz ord s
  | .vldg t a off sz ord => Sys2Proof.Machine.execVldg t a off sz ord s
  | .vsts t a off sz ord => Sys2Proof.Machine.execVsts t a off sz ord s
  | .bld t a off sz ord => Sys2Proof.Machine.execBld t a off sz ord s
  | .bst t a off sz ord => Sys2Proof.Machine.execBst t a off sz ord s
  | .bldg t a off sz ord => Sys2Proof.Machine.execBldg t a off sz ord s
  | .bsts t a off sz ord => Sys2Proof.Machine.execBsts t a off sz ord s
  | .amoAdd d a ord sz sc => Sys2Proof.Machine.execAmoAdd d a ord sz sc s
  | .amoAnd d a ord sz sc => Sys2Proof.Machine.execAmoAnd d a ord sz sc s
  | .amoOr d a ord sz sc => Sys2Proof.Machine.execAmoOr d a ord sz sc s
  | .amoXor d a ord sz sc => Sys2Proof.Machine.execAmoXor d a ord sz sc s
  | .amoMin d a ord sz sc => Sys2Proof.Machine.execAmoMin d a ord sz sc s
  | .amoMax d a ord sz sc => Sys2Proof.Machine.execAmoMax d a ord sz sc s
  | .amoMinu d a ord sz sc => Sys2Proof.Machine.execAmoMinu d a ord sz sc s
  | .amoMaxu d a ord sz sc => Sys2Proof.Machine.execAmoMaxu d a ord sz sc s
  | .amoXchg d a ord sz sc => Sys2Proof.Machine.execAmoXchg d a ord sz sc s
  | .amoCas d a ord sz sc => Sys2Proof.Machine.execAmoCas d a ord sz sc s
  | .amoFadd32 d a ord sc => Sys2Proof.Machine.execAmoFadd32 d a ord sc s
  | .amoFadd16x2 d a ord sc => Sys2Proof.Machine.execAmoFadd16x2 d a ord sc s
  | .amoFmin32 d a ord sc => Sys2Proof.Machine.execAmoFmin32 d a ord sc s
  | .amoFmax32 d a ord sc => Sys2Proof.Machine.execAmoFmax32 d a ord sc s
  | .vamoAdd d a ord sz sc => Sys2Proof.Machine.execVamoAdd d a ord sz sc s
  | .vamoAnd d a ord sz sc => Sys2Proof.Machine.execVamoAnd d a ord sz sc s
  | .vamoOr d a ord sz sc => Sys2Proof.Machine.execVamoOr d a ord sz sc s
  | .vamoXor d a ord sz sc => Sys2Proof.Machine.execVamoXor d a ord sz sc s
  | .vamoMin d a ord sz sc => Sys2Proof.Machine.execVamoMin d a ord sz sc s
  | .vamoMax d a ord sz sc => Sys2Proof.Machine.execVamoMax d a ord sz sc s
  | .vamoMinu d a ord sz sc => Sys2Proof.Machine.execVamoMinu d a ord sz sc s
  | .vamoMaxu d a ord sz sc => Sys2Proof.Machine.execVamoMaxu d a ord sz sc s
  | .vamoXchg d a ord sz sc => Sys2Proof.Machine.execVamoXchg d a ord sz sc s
  | .vamoCas d a ord sz sc => Sys2Proof.Machine.execVamoCas d a ord sz sc s
  | .vamoFadd32 d a ord sc => Sys2Proof.Machine.execVamoFadd32 d a ord sc s
  | .vamoFadd16x2 d a ord sc => Sys2Proof.Machine.execVamoFadd16x2 d a ord sc s
  | .vamoFmin32 d a ord sc => Sys2Proof.Machine.execVamoFmin32 d a ord sc s
  | .vamoFmax32 d a ord sc => Sys2Proof.Machine.execVamoFmax32 d a ord sc s
  | .fence uo scope => Sys2Proof.Machine.execFence uo scope s
  | .bar => Sys2Proof.Machine.execBar s
  | .tbar => Sys2Proof.Machine.execTbar s
  | .arrive a b => Sys2Proof.Machine.execArrive a b s
  | .await a b => Sys2Proof.Machine.execAwait a b s
  | .ainit a b => Sys2Proof.Machine.execAinit a b s
  | .fenceCode scope => Sys2Proof.Machine.execFenceCode scope s
  | .iflush => Sys2Proof.Machine.execIflush s
  | .tsread d => Sys2Proof.Machine.execTsread d s
  | .feset val a b => Sys2Proof.Machine.execFeset val a b s
  | .fetest d a => Sys2Proof.Machine.execFetest d a s
  | .tcopy sa sb acq rel scope hold => Sys2Proof.Machine.execTcopy sa sb acq rel scope hold s
  | .tcopym sa sb acq rel scope hold => Sys2Proof.Machine.execTcopym sa sb acq rel scope hold s
  | .mxldb sa sb acq scope hold => Sys2Proof.Machine.execMxldb sa sb acq scope hold s
  | .mxop sa sb acq scope hold => Sys2Proof.Machine.execMxop sa sb acq scope hold s
  | .mxfence sb => Sys2Proof.Machine.execMxfence sb s
  | .mxwait sa => Sys2Proof.Machine.execMxwait sa s
  | .mxacq => Sys2Proof.Machine.execMxacq s
  | .mxrel => Sys2Proof.Machine.execMxrel s
  | .bform sa => Sys2Proof.Machine.execBform sa s
  | .bjoin sa => Sys2Proof.Machine.execBjoin sa s
  | .bbrk => Sys2Proof.Machine.execBbrk s
  | .msma sa => Sys2Proof.Machine.execMsma sa s
  | .msmf => Sys2Proof.Machine.execMsmf s
  | .msmrd sa sb rel scope hold => Sys2Proof.Machine.execMsmrd sa sb rel scope hold s
  | .plngo sa sb => Sys2Proof.Machine.execPlngo sa sb s
  | .plnstop => Sys2Proof.Machine.execPlnstop s
  | .trap num => Sys2Proof.Machine.execTrap num s
  | .tret => Sys2Proof.Machine.execTret s
  | .launch d a => Sys2Proof.Machine.execLaunch d a s
  | .lwait a => Sys2Proof.Machine.execLwait a s
  | .exit => Sys2Proof.Machine.execExit s
  | .jighint mode a b => Sys2Proof.Machine.execJighint mode a b s
  | .brkpt num => Sys2Proof.Machine.execBrkpt num s
  | .nop => Sys2Proof.Machine.execNop s
  | .fetchFault f => Sys2Proof.Machine.execFetchFault f s
  | .loadCompletion op => Sys2Proof.Machine.execLoadCompletion op s
  | .storeCompletion op => Sys2Proof.Machine.execStoreCompletion op s
  | .remoteResponse op line => Sys2Proof.Machine.execRemoteResponse op line s
  | .inboundDomainRequest req => Sys2Proof.Machine.execInboundDomainRequest req s
  | .hostDeviceAccess acc => Sys2Proof.Machine.execHostDeviceAccess acc s
  | .hostRequestFailure req => Sys2Proof.Machine.execHostRequestFailure req s
  | .copyRowLanding cmd => Sys2Proof.Machine.execCopyRowLanding cmd s
  | .engineCommandCompletion cmd => Sys2Proof.Machine.execEngineCommandCompletion cmd s
  | .deferredFaultDelivery f => Sys2Proof.Machine.execDeferredFaultDelivery f s
  | .bondFormation core => Sys2Proof.Machine.execBondFormation core s
  | .capsuleStepCommit warp => Sys2Proof.Machine.execCapsuleStepCommit warp s
  | .eventWindowStart wg => Sys2Proof.Machine.execEventWindowStart wg s
  | .fragmentPromotion f => Sys2Proof.Machine.execFragmentPromotion f s
  | .yieldExpiry f => Sys2Proof.Machine.execYieldExpiry f s
  | .warpRetirement warp => Sys2Proof.Machine.execWarpRetirement warp s
  | .launchRecordAdmission => Sys2Proof.Machine.execLaunchRecordAdmission s
  | .teamPlacement => Sys2Proof.Machine.execTeamPlacement s
  | .runSliceExpiry team => Sys2Proof.Machine.execRunSliceExpiry team s
  | .waitSliceExpiry team => Sys2Proof.Machine.execWaitSliceExpiry team s
  | .lwaitPreemption team => Sys2Proof.Machine.execLwaitPreemption team s
  | .teamSave team => Sys2Proof.Machine.execTeamSave team s
  | .teamResume team => Sys2Proof.Machine.execTeamResume team s
  | .deadContextDrainComplete ctx => Sys2Proof.Machine.execDeadContextDrainComplete ctx s
  | .dieLossDeclaration dies => Sys2Proof.Machine.execDieLossDeclaration dies s
  | .queueDescriptorWrite queue byte size value => Sys2Proof.Machine.execQueueDescriptorWrite queue byte size value s
  | .managementRegisterWrite offset size value => Sys2Proof.Machine.execManagementRegisterWrite offset size value s
  | .translationInvalidation => Sys2Proof.Machine.execTranslationInvalidation s
  | .hostKill => Sys2Proof.Machine.execHostKill s
  | .clearRateHint => Sys2Proof.Machine.execClearRateHint s
  | .cmdNoEffect op => Sys2Proof.Machine.execCmdNoEffect op s
  | .deviceReset inp => Sys2Proof.Machine.execDeviceReset inp s
  | .thermalShutdown => Sys2Proof.Machine.execThermalShutdown s
  | .engineCommandStart cmd => Sys2Proof.Machine.execEngineCommandStart cmd s
  | .managementCommandCompletion => Sys2Proof.Machine.execManagementCommandCompletion s

end Sys2Proof.Machine
end

