-- ==== Sys2Proof/Machine/Jig.lean ====
section
/-! DEFINITION. Loops, heat, eligibility and the life of a configuration (R291 to R301, R304). A configuration changes what JIGSTAT
counts and which fragments may issue; the results of its loop are those of ordinary execution (R289). -/

namespace Sys2Proof.Machine

/-! ### Loops (R291, R292) -/

/-- A word that may be a back edge: BRC with COND 0 to 6, or JMP. -/
def isBackBranch (i : Instr) : Bool :=
  match i with
  | .brcEqz _ _ | .brcNez _ _ | .brcLtz _ _ | .brcGez _ _ | .brcAny _ _ | .brcAll _ _ | .brcNone _ _ | .jmp _ => true
  | _ => false

/-- The offset of a BRC, in packets. -/
def brcOffset (i : Instr) : Option Int :=
  match i with
  | .brcEqz _ off | .brcNez _ off | .brcLtz _ off | .brcGez _ off | .brcAny _ off | .brcAll _ off | .brcNone _ off
  | .brcSplit _ off => some off.toInt
  | _ => none

/-- A branch as condition 1 speaks of it: BRC or JMP. Calls and indirect jumps are words that condition 2 excludes. -/
def isBranch (i : Instr) : Bool :=
  match i with
  | .jmp _ => true
  | i => (brcOffset i).isSome

/-- The loop whose back edge a group has just taken (R291, R292): not in a trap handler, and not by the planer. -/
def View.backEdge (v : View) (ctx : Nat) (is : List (Option Instr)) (c : Ctl) : Option Loop :=
  match c with
  | .goto t =>
    if !v.f.hnd && !v.inPlaner && is.any (fun i => i.any isBackBranch) && decide (t.toNat ≤ (packetAddr v.i.pc).toNat) then
      some { ctx := ctx, entry := t, back := v.i.pc }
    else none
  | _ => none

/-- A loop of a core's jig table, changed. -/
def State.modLoop (s : State) (core : Nat) (l : Loop) (f : Loop → Loop) : State :=
  s.modCore core (fun c => { c with loops := c.loops.map (fun x => if sameLoop x l then f x else x) })

/-- The heat of a loop rises by 1; a full table of 32 loops gives up its oldest (R292). -/
def heatUp (ls : List Loop) (l : Loop) : List Loop :=
  if ls.any (sameLoop l) then ls.map (fun x => if sameLoop x l then { x with heat := x.heat + 1 } else x)
  else
    let own := ls.filter (fun x => x.ctx == l.ctx)
    let ls := if own.length < 32 then ls else match own.head? with
      | some o => ls.filter (fun x => !sameLoop x o)
      | none => ls
    ls ++ [{ l with heat := 1 }]

/-! ### Eligibility (R294) -/

/-- A group of a loop's body. -/
structure LoopGroup where
  addr : Dword
  words : List Word
  /-- Its words, none for one that is no encoding. -/
  is : List (Option Instr)
deriving DecidableEq, Repr

/-- What reading a loop's body gives. -/
inductive LoopBody where
  /-- A word cannot be fetched: the attempt is deferred (R294). -/
  | deferred
  /-- No back-edge group where it should be. -/
  | astray
  | ok (gs : List LoopGroup)
deriving DecidableEq, Repr

def LoopBody.cons (g : LoopGroup) : LoopBody → LoopBody
  | .ok gs => .ok (g :: gs)
  | b => b

/-- The body of a loop from an address on. -/
def State.readLoop (s : State) (l : Loop) : Nat → Dword → LoopBody
  | 0, _ => .astray
  | fuel + 1, a =>
    match s.fetchGroup l.ctx [] a with
    | .error _ => .deferred
    | .ok g =>
      if l.back.toNat < a.toNat then .astray
      else if a = l.back then .ok [⟨a, g.words, decodeAll g.words⟩]
      else (s.readLoop l fuel (a + BitVec.ofNat 64 (4 * g.words.length))).cons ⟨a, g.words, decodeAll g.words⟩

/-- The instructions of a group. -/
def LoopGroup.instrs (g : LoopGroup) : List Instr := g.is.filterMap id

/-- A BRC of the body, other than the back edge, whose target lies outside the body (R291). -/
def Loop.sideExit (l : Loop) (g : LoopGroup) (i : Instr) : Bool :=
  match brcOffset i with
  | none => false
  | some off =>
    let t : Int := (packetAddr g.addr).toNat + 12 * off
    decide (t < (l.entry.toNat : Int)) || decide (((packetAddr l.back).toNat : Int) < t)

/-- Condition 1: at most 24 words, NOPs not counted, and no branch but the back edge and at most two side exits. -/
def Loop.bodyOk (l : Loop) (gs : List LoopGroup) : Bool :=
  let inner := gs.flatMap (fun g => (g.instrs.filter (fun i => isBranch i && !(g.addr == l.back && isBackBranch i && !l.sideExit g i))).map (fun i => (g, i)))
  decide (((gs.flatMap LoopGroup.is).filter (fun i => !isNop i)).length ≤ 24) && inner.all (fun p => l.sideExit p.1 p.2) &&
    decide (inner.length ≤ 2)

/-- The M-format words, by their ordering field. -/
def memFormat (i : Instr) : Option (BitVec 2) :=
  match i with
  | .sld _ _ _ _ o | .sst _ _ _ _ o | .vld _ _ _ _ o | .vst _ _ _ _ o | .vldg _ _ _ _ o | .vsts _ _ _ _ o | .bld _ _ _ _ o
  | .bst _ _ _ _ o | .bldg _ _ _ _ o | .bsts _ _ _ _ o => some o
  | _ => none

/-- Condition 2: the words that a configuration can hold. -/
def mappable (i : Instr) : Bool :=
  let u := uses i
  let op := bitsAt ((codeOf i).setWidth 64) 22 6
  i == .nop || u.pipe == .vi || u.pipe == .vf || u.pipe == .x || memFormat i == some 0#2 ||
    (decide (1 ≤ op) && decide (op ≤ 0x0B)) || op == 0x0E || op == 0x10

/-- Reductions and scans. -/
def isReduction (i : Instr) : Bool :=
  match i with
  | .vredadd _ _ _ | .vredmin _ _ _ | .vredmax _ _ _ | .vredor _ _ _ | .vscanadd _ _ _ | .vscanmax _ _ _ | .vscanmin _ _ _
  | .vscanaddx _ _ _ | .vfredadd _ _ _ | .vfredmax _ _ | .vfscanadd _ _ _ | .vfscanmax _ _ => true
  | _ => false

/-- What the latency check of condition 3 keeps: tick, Vmax, pending writes, loads newest first, and destinations not covered. -/
structure LatState where
  t : Nat := 0
  vmax : Nat := 0
  pend : List (Reg × Nat) := []
  loads : List Nat := []
  uncovered : List (Nat × Reg) := []
  next : Nat := 0
  ok : Bool := true
deriving DecidableEq, Repr

/-- The register is a mapped queue. -/
def Reg.isMapped (w : Warp) : Reg → Bool
  | .v n => mapped w n
  | _ => false

/-- One word of a group under the latency check. A read of a mapped register is no early one (R98). -/
def LatState.word (w : Warp) (l : LatState) (i : Instr) : LatState :=
  let u := uses i
  let early := u.reads.any (fun r => !r.isMapped w && l.pend.any (fun p => p.1 == r && decide (l.t < p.2)) || !r.isMapped w && l.uncovered.any (fun p => p.2 == r))
  let overrun := decide (0 < u.lat) && u.writes.any (fun r => l.pend.any (fun p => p.1 == r && decide (l.t + u.lat < p.2)))
  let l := { l with ok := l.ok && !early && !overrun }
  if (memFormat i).isSome then
    if u.writes.isEmpty then l
    else { l with
      loads := l.next :: l.loads
      uncovered := l.uncovered ++ u.writes.map (fun r => (l.next, r))
      next := l.next + 1 }
  else if 0 < u.lat then
    { l with pend := l.pend ++ u.writes.map (fun r => (r, l.t + u.lat)), vmax := max l.vmax (l.t + u.lat) }
  else l

/-- One group under the latency check; its words read before any of them writes (R93). The back edge, a WAITC and a read of a mapped
queue are visibility points (R96). -/
def LatState.group (w : Warp) (l : LatState) (back : Bool) (g : LoopGroup) : LatState :=
  let after := g.instrs.foldl (LatState.word w) l
  let bad := g.instrs.any (fun i => !(l.word w i).ok)
  let pops := g.instrs.any (fun i => !(popsOf w i).isEmpty)
  let wait := g.instrs.findSome? (fun i => match i with
    | .waitc n _ _ => some n.toNat
    | _ => none)
  let after := match wait with
    | some n => { after with uncovered := after.uncovered.filter (fun p => (after.loads.take n).contains p.1) }
    | none => after
  let stall := bitsAt ((g.words.getLast?.getD 0).setWidth 64) 28 3
  let t := l.t + 1 + stall
  { after with ok := l.ok && !bad, t := if wait.isSome || back || pops then max t after.vmax else t }

/-- Condition 3, over two iterations back to back: the back edge, a visibility point, ends each. -/
def Loop.latencyClean (l : Loop) (w : Warp) (gs : List LoopGroup) : Bool :=
  ((gs ++ gs).foldl (fun a g => a.group w (g.addr == l.back) g) ({} : LatState)).ok

/-- Condition 4: no word names a register mapped as a queue. -/
def namesQueue (w : Warp) (i : Instr) : Bool :=
  let u := uses i
  (u.reads ++ u.writes).any (Reg.isMapped w)

/-- The reason for which a body is refused, if any, in table order (R294). -/
def Loop.refusal (l : Loop) (w : Warp) (gs : List LoopGroup) : Option Nat :=
  let is := gs.flatMap LoopGroup.instrs
  if !l.bodyOk gs then some 0
  else if !(gs.flatMap LoopGroup.is).all (fun i => i.any mappable) then some 1
  else if !l.latencyClean w gs then some 2
  else if is.any (namesQueue w) then some 3
  else if 8 < (is.filter (fun i => (memFormat i).isSome)).length ∨ 2 < (is.filter isReduction).length then some 6
  else none

/-! ### Attempts (R292 to R294, R304) -/

/-- A refusal: the loop is marked, and the workgroup whose attempt it was counts it. -/
def State.jigRefused (s : State) (core gid : Nat) (l : Loop) (reason : Nat) : State :=
  (s.modLoop core l (fun x => { x with refused := some reason })).modWg gid (jigRefuse reason)

/-- An attempt to map a loop. -/
def State.jigAttempt (s : State) (v : View) (l : Loop) : State :=
  match s.readLoop l ((l.back - l.entry).toNat / 4 + 3) l.entry with
  | .deferred => s
  | .astray => s.jigRefused v.g.core v.gid l 0
  | .ok gs =>
    match l.refusal v.w gs with
    | some n => s.jigRefused v.g.core v.gid l n
    | none =>
      let body := gs.flatMap (fun g => g.words.mapIdx (fun i w => (g.addr + BitVec.ofNat 64 (4 * i), w)))
      (s.modCore v.g.core (fun c => { c with config := some { loop := l, wg := v.gid, body := body, starts := gs.map LoopGroup.addr } })).modWg v.gid jigMaps

/-- A back edge taken: the loop's heat rises, and a mapping is attempted where it has come to the workgroup's threshold. While the core
holds a configuration an attempt waits for a later back edge (R292), and a loop that the hint conditions block at its threshold is then
not refused either: whether it would be the spec leaves open (assumption log 87). -/
def State.jigBackEdge (s : State) (v : View) (l : Loop) : State :=
  let core := v.g.core
  let s := s.modCore core (fun c => { c with loops := heatUp c.loops l })
  let entry := (s.core core).loops.find? (sameLoop l)
  let g := (s.wg? v.gid).getD v.g
  let hs := (s.ctx l.ctx).hints
  let heat := (entry.map Loop.heat).getD 0
  let thresh := bitsAt g.jigcfg 0 16
  let at_ := mapHeat g hs l.entry
  if (entry.bind Loop.refused).isSome || (s.core core).config.isSome || thresh == 0 then s
  else if at_ = 0 then (if thresh ≤ heat then s.jigRefused core v.gid l 4 else s)
  else if at_ ≤ heat then s.jigAttempt v l
  else s

/-! ### Serving a fragment (R292, R295, R296, R299, R301) -/

/-- What a fragment's core has performed early stands behind a store within a configuration: it does not come true there (R297). -/
def State.dropBehindTokens (s : State) (warp : Nat) (lanes : Lanes) : State :=
  { s with early := s.early.map (fun e => { e with gone := e.gone || (e.acc.warp == warp && (e.acc.active &&& lanes) != 0 &&
      s.ops.any (fun p => p.2.warp == warp && p.2.token && p.2.op == .store &&
        p.2.lanes.any (fun l => e.acc.lanes.any (fun m => l.locs.any m.locs.contains)))) }) }

/-- The accesses of a group of the served fragment are accesses within the configuration (R297). -/
def State.giveTokens (s : State) (v : View) (serial : Nat) : State :=
  if s.jigServed v.g.core v.fid then
    ({ s with ops := s.ops.map (fun p => if serial ≤ p.1 && p.2.warp == v.wid then (p.1, { p.2 with token := true }) else p) } :
      State).dropBehindTokens v.wid v.f.lm
  else s

/-- The configuration takes up the fragment at its entry, or serves it no longer where it may not (R293). A fragment under single step is
not served, and invalidates a configuration that serves it (R301). One that is to go does so where it ceases to serve (R301). -/
def State.jigServe (s : State) (v : View) : State :=
  match s.jigServes v.fid v.f v.w v.g (s.ctxOfWg v.g) with
  | some cfg =>
    if v.w.dbg.getLsbD 0 then (if cfg.served.isSome then s.jigUnload v.g.core false else s)
    else
      let s := if cfg.served.isSome then s else s.dropBehindTokens v.wid v.f.lm
      s.modCore v.g.core (fun c => { c with config := some { cfg with served := some v.fid } })
  | none =>
    match (s.core v.g.core).config with
    | none => s
    | some cfg =>
      if cfg.served ≠ some v.fid then s
      else if cfg.doomed || cfg.yields then s.jigUnload v.g.core cfg.yields
      else s.modCore v.g.core (fun c => { c with config := some { cfg with served := none } })

/-- An access of a configuration that R295 excludes: through an SO page, to another device or to host memory. -/
def excludedAccess (o : Op) : Bool :=
  o.lanes.any (fun l => l.locs.any (fun x => match x with
    | .phys a => l.kind == .so || !ownMem a
    | .bench _ _ => false))

/-- Reason 5: the configuration that serves a fragment is unloaded and its loop refused, which counts for the workgroup whose attempt
loaded it (R295, R304). -/
def State.jigExcludes (s : State) (v : View) (found : Bool) : State :=
  match (s.core v.g.core).config with
  | none => s
  | some cfg =>
    if found && cfg.served == some v.fid then (s.jigUnload v.g.core false).jigRefused v.g.core cfg.wg cfg.loop 5 else s

/-- The words of a group of the served fragment have made an access that R295 excludes. A fault of the same word is no later than that
access, and R300 governs it (R306): a group has one memory word at most. -/
def State.jigAddress (s : State) (v : View) (i : Issue) (serial : Nat) : State :=
  s.jigExcludes v (i.partialReq.isNone && s.ops.any (fun p => decide (serial ≤ p.1) && p.2.warp == v.wid && excludedAccess p.2))

/-- A group of the served fragment faults at issue: an excluded access of an earlier word comes before the fault (R306). -/
def State.jigFault (s : State) (v : View) (before : List (Option Instr)) : State :=
  s.jigExcludes v (before.any (fun i => (i.bind v.memReq).any (fun r => (s.checkWord v r).pass.any (fun l =>
    l.locs.any (fun x => match x with
      | .phys a => l.kind == .so || !ownMem a
      | .bench _ _ => false)))))

/-- Another fragment of the core is promoted (R296). -/
def State.promotedOther (s : State) (core fid : Nat) : Bool :=
  s.frags.any (fun p => p.1 != fid && p.2.promoted.isSome && (s.warp? p.2.warp).any (fun w =>
    (s.wg? w.wg).any (fun g => g.core == core) && s.wgResident w.wg))

/-- After a group of the fragment that a configuration serves, which goes on as `stays`: one that leaves the body is served no longer;
where it has left or stands at the entry again, an iteration is over, and a configuration that is to go is unloaded, as is one that
keeps a promoted fragment waiting (R296, R298, R299, R301). -/
def State.jigAfter (s : State) (core : Nat) (stays : Option Nat) : State :=
  match (s.core core).config, stays with
  | some cfg, some i =>
    if cfg.served = some i then
      let pc := (s.frag? i).map Frag.pc
      let inBody := pc.any cfg.holds
      let promoted := s.promotedOther core i
      if inBody && cfg.starts.head? != pc then s
      else if cfg.doomed || cfg.yields || (promoted && inBody) then s.jigUnload core (cfg.yields || promoted)
      else if inBody then s
      else s.modCore core (fun c => { c with config := some { cfg with served := none } })
    else s
  | _, _ => s

end Sys2Proof.Machine
end

