-- ==== Sys2Proof/Machine/Finish.lean ====
section
/-! DEFINITION. The end of a group: its ticks (R95), WAITC (R101), its control transfer (R41, R42, R93, R322, R325), the step of a
capsule (R311), events (R85, R87), and the trap that follows it (R351, R353, R389). -/

namespace Sys2Proof.Machine

/-! ### Ticks and waits -/

/-- The fragment's tick after the group (R95). -/
def nextTick (f : Frag) (i : Issue) : Nat :=
  if i.visible then max (f.t + 1 + i.stall) f.vmax else f.t + 1 + i.stall

/-- The group's ticks pass; it may issue again as many core ticks later (R53, R95). -/
def State.endTicks (s : State) (fid : Nat) (f : Frag) (i : Issue) : State :=
  let t := nextTick f i
  (s.setTick fid t).modFrag fid (fun x => { x with
    notBefore := s.tick + (t - f.t)
    readySince := s.tick + (t - f.t)
    lastIssue := s.tick
    stoodAt := if x.hnd then x.stoodAt else none
    promoted := none
    yieldUntil := if i.yield then s.tick + 16 else x.yieldUntil
    parked := false })

/-- The operations that a WAITC waits for (R101). -/
def Frag.waitcOps (f : Frag) (c : Nat × Nat × Nat) : List Nat :=
  f.lc.waitedFor c.1 ++ f.sc.waitedFor c.2.1 ++ f.ec.waitedFor c.2.2

/-- The destinations that a WAITC does not cover (R101, R102). -/
def Frag.cover (f : Frag) (c : Nat × Nat × Nat) : Frag :=
  { f with uncovered := f.uncovered.filter (fun p => f.lc.leaves c.1 p.1 || f.ec.leaves c.2.2 p.1) }

/-- The fragment waits for what its group waits for, and for the operations of its WAITC. -/
def Frag.waitFor (f : Frag) (w : Option Wait) (ids : List Nat) : Frag :=
  match w with
  | some w => { f with wait := some w, waitOps := ids }
  | none => if ids.isEmpty then f else { f with wait := some (.waitc ids) }

/-- The wait of a group: its own, or for its capsule's steps (R314). -/
def Issue.waits (i : Issue) : Option Wait :=
  match i.wait with
  | some w => some w
  | none => if i.ctl = .capexit then some .capexit else none

/-- A WAITC acquires at once what the commands that it covers and that have ended hand on (R243). -/
def State.endWaitc (s : State) (fid : Nat) (i : Issue) : State :=
  match s.frag? fid, i.waitc with
  | some f, some c =>
    s.learnEnds (fun id => !f.ec.leaves c.2.2 id && !(f.waitcOps c).contains id) f.warp (((s.warp? f.warp).map Warp.wg).getD 0) i.active
  | _, _ => s

/-- The waits of a group begin. -/
def State.endWaits (s : State) (fid : Nat) (i : Issue) : State :=
  (s.endWaitc fid i).modFrag fid (fun f =>
    match i.waitc with
    | none => f.waitFor i.waits []
    | some c => (f.cover c).waitFor i.waits (f.waitcOps c))

/-! ### Events (R85, R87) -/

/-- The group's events are counted; the classes whose action is the trap are answered. -/
def State.endEvents (s : State) (v : View) (i : Issue) : State × Option Trap :=
  if i.events.isEmpty then (s, none)
  else
    let r := s.fireEvents v.gid i.events
    if r.2 = 0 then (r.1, none) else (r.1.limitAt v.gid v.fid, some { code := Code.eventLimit, evt := r.2, tick := s.tick })

/-! ### The trap that follows (R351, R353) -/

/-- A partial-class trap with its word's request and faulting lanes. -/
abbrev Part := Trap × MemReq × Lanes

/-- What follows a group: one trap, or a partial-class one, and an EVENT_LIMIT trap held behind it. -/
structure Follow where
  trap : Option Trap := none
  part : Option Part := none
  held : List HeldTrap := []
deriving DecidableEq, Repr

/-- What follows a group whose REGANG has raised its own trap (R353, R357): an EVENT_LIMIT trap is held, a STEP trap is discarded. -/
def Follow.behind (fw : Follow) : Follow :=
  match fw.trap with
  | some t => { fw with trap := none, held := if t.code = Code.eventLimit then fw.held ++ [⟨t, false⟩] else fw.held }
  | none => fw

/-- The group was a TRET. -/
def Issue.isTret (i : Issue) : Bool :=
  match i.ctl with
  | .tret _ => true
  | _ => false

/-- The trap that follows a group (R321, R353, R357): one of a word first; then EVENT_LIMIT, which a handler holds; then STEP. A trap
of any kind discards the group's STEP. -/
def follow (v : View) (i : Issue) (ev : Option Trap) : Follow :=
  let later := match ev with
    | some t => [⟨t, false⟩]
    | none => []
  match i.partialReq, i.after, ev with
  | some p, _, _ => { part := some p, held := later }
  | none, some t, _ => { trap := some t, held := later }
  | none, none, some t => if v.f.hnd && !i.isTret then { held := later } else { trap := some t }
  | none, none, none =>
    if v.w.dbg.getLsbD 0 && !v.f.hnd && !v.inPlaner then { trap := some { code := Code.step } } else {}

/-- The replay record of a partial-class trap for some of its lanes (R355), and the trap of the lowest of them. A replay that faults
again keeps the word's index (R356). -/
def State.partFor (s : State) (v : View) (i : Issue) (p : Part) (lanes : Lanes) : Option (Trap × Replay) :=
  let ls := p.2.1.lanes.filter (fun l => lanes.has l.lane)
  if ls.isEmpty then none
  else
    let word := if i.isTret then (v.f.replay.map Replay.word).getD p.1.word else p.1.word
    let r : MemReq := { p.2.1 with lanes := ls }
    let t := if lanes = v.active then p.1 else (s.checkWord v r).trap.getD p.1
    some ({ t with word := word }, { req := r, pending := p.2.2 &&& lanes, word := word })

/-- TSAVE0 and TNEXT of a partial-class trap: those of the first trap where a replay faults again (R356). -/
def partAddrs (v : View) (i : Issue) (next : Dword) : Dword × Dword :=
  if i.isTret then (v.f.tsave0, v.f.tnext) else (v.i.pc, next)

/-- The trap of a group is taken by a fragment, or is due once what the group waits for is over (R351, R365). A REGANG is left behind
while the handler runs. -/
def State.takeAfter (s : State) (fid : Nat) (t : Trap) (pc : Option Dword) (replay : Option (Replay × Dword)) (defer : Bool) : State :=
  match s.frag? fid with
  | none => s
  | some f =>
    match f.wait with
    | some (.regang a n) =>
      (s.modFrag fid (fun x => { x with wait := none, thenAt := some (a, n) })).takeTrap fid t (pc.getD f.pc) replay defer
    | none => s.takeTrap fid t (pc.getD f.pc) replay defer
    | some _ => s.modFrag fid (fun x => { x with due := some { trap := t, pc := pc, replay := replay, defer := defer } })

/-- The partial-class trap at a fragment, for those of its lanes that faulted. -/
def State.takePart (s : State) (v : View) (i : Issue) (fid : Nat) (p : Part) (lanes : Lanes) (next : Dword) : State :=
  match s.partFor v i p lanes with
  | none => s
  | some q => let a := partAddrs v i next; s.takeAfter fid q.1 (some a.1) (some (q.2, a.2)) false

/-- EVENT_LIMIT traps held for a fragment. -/
def State.holdTraps (s : State) (fid : Nat) (hs : List HeldTrap) : State :=
  if hs.isEmpty then s else s.modFrag fid (fun f => { f with heldTraps := f.heldTraps ++ hs })

/-- A trap held while the fragment was in its handler is taken immediately after TRET (R87, R255). -/
def State.takeFirstHeld (s : State) (fid : Nat) : State :=
  match (s.frag? fid).map Frag.heldTraps with
  | some (h :: r) => ((s.modFrag fid (fun f => { f with heldTraps := r })).takeAfter fid h.trap none none h.defer).modFrag fid (fun f =>
      { f with due := f.due.map (fun d => { d with held := true }) })
  | _ => s

/-- What follows the group is delivered to the fragment that goes on. -/
def State.deliver (s : State) (v : View) (i : Issue) (fid : Nat) (fw : Follow) (next : Dword) : State :=
  let s := s.holdTraps fid fw.held
  match fw.part, fw.trap with
  | some p, _ => s.takePart v i fid p v.active next
  | none, some t => s.takeAfter fid t none none false
  | none, none => if i.isTret then s.takeFirstHeld fid else s

/-! ### Splits and exits (R41, R325, R389) -/

/-- A fragment that comes from a split: a copy with other lanes, another pc and the new record (R41). Its trap registers start at 0
(assumption log 8). -/
def Frag.part (f : Frag) (rec_ : Nat) (lm : Lanes) (pc : Dword) : Frag :=
  { f with
    records := rec_ :: f.records, lm := lm, pc := pc, tsave0 := 0, tsave1 := 0, tsave2 := 0, tsave3 := 0, faultmask := 0
    tnext := 0, replay := none, capPlace := none, capKept := false, packet := [] }

/-- The split: the fragments that take the branch and that fall through, in place of the old one. -/
def State.splitFrag (s : State) (fid : Nat) (f : Frag) (active taken : Lanes) (target next : Dword) : State × Nat × Nat :=
  let r := s.fresh
  let a := r.2.fresh
  let b := a.2.fresh
  let rec_ : SplitRec := { parent := f.records.head?, fmt := f.fmt, exitFlags := 0 }
  let s := b.2.modWarp f.warp (fun w => { w with splits := Table.set w.splits r.1 rec_ })
  let s : State := { s with frags := Table.erase s.frags fid }
  let s := (s.setFrag a.1 (f.part r.1 taken target)).setFrag b.1 { f.part r.1 (active &&& ~~~taken) next with packet := f.packet }
  (s.settleParking f.warp [a.1, b.1], a.1, b.1)

/-- What follows a group that split its fragment (R389): the successor with the lowest lane takes the trap; each successor takes the
partial-class trap of its own lanes. A configuration goes on with the lanes that fall through (R299). -/
def State.deliverSplit (s : State) (v : View) (i : Issue) (ids : Nat × Nat) (taken : Lanes) (target next : Dword) (fw : Follow) :
    State :=
  let low := if taken.has v.active.low then ids.1 else ids.2
  let s := s.jigSplit v.g.core v.fid ids.2 (fw.part.isSome || fw.trap.isSome)
  let s := s.modWg v.gid (fun g => g.moveLimit v.fid low)
  let s := s.holdTraps low fw.held
  match fw.part, fw.trap with
  | some p, _ => (s.takePart v i ids.1 p taken target).takePart v i ids.2 p (v.active &&& ~~~taken) next
  | none, some t => s.takeAfter low t none none false
  | none, none => s

/-- The notice of a trap whose warp has retired (R87, R255, R389). -/
def trapNotice (t : Trap) : Notice := if t.code = Code.eventLimit then .eventLimit t.evt else .deferred t

/-- Traps that a fragment held are delivered as deferred faults are, now that it has exited (R255, R389). The EVENT_LIMIT that takes in later
classes of this tick goes on doing so where it comes to be held (R87). -/
def State.passHeld (s : State) (v : View) : List Trap → State
  | [] => s
  | t :: r =>
    let latest := t.limitOf s.tick &&
      (s.wg? v.gid).any (fun g => g.evtTrap == some (s.tick, v.fid))
    (if latest then s.deferLimit (s.ctxOfWarp v.w) v.wid v.gid v.active t
     else s.deferTrap (s.ctxOfWarp v.w) v.wid v.active t (trapNotice t)).passHeld v r

/-- A fragment exits (R40, R325): its results become visible, its flags go to its innermost record, and the traps due at it are
delivered as deferred faults are (R389); a STEP trap is discarded. -/
def State.exitFrag (s : State) (v : View) (fw : Follow) : State :=
  let s := s.visiblePoint v.fid
  match s.frag? v.fid with
  | none => s
  | some f =>
    let s := match f.records.head? with
      | some r => s.modWarp v.wid (fun w => { w with
          splits := Table.modify w.splits r (fun x => { x with exitFlags := x.exitFlags ||| f.fstat }) })
      | none => s
    let s : State := { s with frags := Table.erase s.frags v.fid }
    let own := match fw.part, fw.trap with
      | some p, _ => [p.1]
      | none, some t => if t.code = Code.step then [] else [t]
      | none, none => []
    let s := (own ++ fw.held.map HeldTrap.trap).foldl (fun s t =>
      if t.code = Code.eventLimit then s.deferLimit (s.ctxOfWarp v.w) v.wid v.gid v.active t
      else s.deferTrap (s.ctxOfWarp v.w) v.wid v.active t (trapNotice t)) s
    s.passHeld v (f.heldTraps.map HeldTrap.trap)

/-! ### Capsule steps (R311) -/

/-- The k write of the step just issued, and what the register then comes to: where an earlier write of it becomes visible later, that one
(R97). -/
def Frag.kLast (f : Frag) (p : Nat × Dword) : Nat × Dword :=
  (p.1, ((f.pend.filterMap (fun q => match q.val with
    | .kreg n x => if n = p.1 then some x else none
    | _ => none)).getLast?).getD p.2)

/-- A group of a capsule's body is a step: it joins the uncommitted steps, or commits at once where it waits for no memory. A step's
number is its position in the body (assumption log 102). -/
def State.addStep (s : State) (v : View) (i : Issue) (next : Dword) : State :=
  match s.warp? v.wid with
  | none => s
  | some w =>
    match w.capsule with
    | none => s
    | some c =>
      let n := s.fresh
      let st : CapStep :=
        { number := c.stepAt v.i.pc, pc := v.i.pc, next := next, write := i.kwrite.map (fun p => (s.frag? v.fid).elim p (fun f => f.kLast p)), mem := i.kmem.map (fun m => m.1)
          op := (i.kmem.map (fun m => m.2.2)).getD n.1, locs := (i.kmem.map (fun m => m.2.1)).getD [], frag := v.fid
          moved := c.moved }
      let c' : Capsule := { c with steps := c.steps ++ [st], moved := [] }
      let s := (n.2.modWarp v.wid (fun w => { w with capsule := some c' })).dropEarlyAt v.wid ((s.frag? v.fid).elim 0 Frag.lm) st.locs
      if i.kmem.isNone && c.steps.isEmpty && s.mayCommit v.wid w st then s.commitStep v.wid c' st else s

/-! ### The whole -/

/-- The pc that the group chooses for a fragment that goes on (R91, R93, R322). -/
def chosenPc (v : View) (i : Issue) : Dword :=
  match i.ctl with
  | .goto t => t
  | .tret _ => if v.f.tsave1.getLsbD 2 then v.f.tnext else v.f.tsave0
  | _ => v.nextGroup

/-- The group after a control transfer is fetched anew; a group that follows in its packet is not (R245). -/
def Ctl.transfers : Ctl → Bool
  | .goto _ | .tret _ | .capexit => true
  | _ => false

/-- A return from a trap clears the handler bit and the replay record (R322). -/
def Frag.goOn (f : Frag) (i : Issue) (pc : Dword) : Frag :=
  let f := { f with packet := if i.ctl.transfers then [] else f.packet }
  if i.isTret then { f with pc := pc, hnd := false, replay := none } else { f with pc := pc }

/-- The capsule's step that the group is, if it is one: not CAPENT, which stands before the body, and not CAPEXIT. -/
def isStepGroup (v : View) (i : Issue) : Bool := v.inBody && i.ctl != .capexit

/-- A fragment begins to stand at the REGANG of its group (R42, R93, R353), and what then follows the group: at once, or after what
else the group waits for, or once it has returned from the trap of another word of the group. -/
def State.standAt (s : State) (v : View) (i : Issue) (fw : Follow) (pc : Dword) : State × Follow :=
  match s.frag? v.fid with
  | none => (s, fw)
  | some f =>
    if f.wait.isSome || fw.part.isSome || i.after.isSome then
      (s.modFrag v.fid (fun x => { x with thenAt := some (v.i.pc, pc) }), fw)
    else
      let t := s.beginRegang v.fid v.i.pc pc
      (t, if (t.frag? v.fid).any (fun x => x.wait.isSome) then fw else fw.behind)

/-- The fragment goes on as the group chooses (R42, R93). -/
def State.goOnAfter (s : State) (v : View) (i : Issue) (fw : Follow) : State :=
  let pc := chosenPc v i
  let s := s.modFrag v.fid (fun f => f.goOn i pc)
  let s := if isStepGroup v i then s.addStep v i pc else s
  let r := if i.ctl = .regang then s.standAt v i fw pc else (s, fw)
  (r.1.deliver v i v.fid r.2 pc).settleParking v.wid [v.fid]

/-- The group ends (R93, R95): its ticks, its waits, its events, then its control transfer and the trap that follows it. -/
def State.endGroup (s : State) (v : View) (f : Frag) (i : Issue) : State × Option Nat :=
  let s := (s.endTicks v.fid f i).endWaits v.fid i
  let e := s.endEvents v i
  let fw := follow v i e.2
  match i.ctl with
  | .split taken target =>
    (match e.1.frag? v.fid with
      | none => (e.1, none)
      | some f =>
        let r := e.1.splitFrag v.fid f v.active taken target v.nextGroup
        (r.1.deliverSplit v i r.2 taken target v.nextGroup fw, some r.2.2))
  | .exit => (e.1.exitFrag v fw, none)
  | _ => (e.1.goOnAfter v i fw, some v.fid)

/-- The words of a group have been executed (R93). A group whose fragment is gone, with its context, or that has trapped, ends with
nothing more. A back edge counts, and tries to map its loop, before a trap that follows its group unloads a configuration (R292, R300). -/
def State.finishGroup (s : State) (v : View) (is : List (Option Instr)) (serial : Nat) : State :=
  match s.issue, s.frag? v.fid with
  | some i, some f =>
    let s : State := { s with issue := none }
    if i.trapped then s
    else
      let v := { v with i := i }
      let c := s.ctxOfWg v.g
      let s := (s.jigAddress v i serial).giveTokens v serial
      let s := match v.backEdge c is i.ctl with
        | some l => s.jigBackEdge v l
        | none => s
      let t := s.endGroup v f i
      t.1.jigAfter v.g.core t.2
  | _, _ => { s with issue := none }

end Sys2Proof.Machine
end

