-- ==== Sys2Proof/Machine/Issue.lean ====
section
/-! DEFINITION. Issuing a group (R91 to R93): the fetched words run as one, each by its own meaning, and the group ends. -/

namespace Sys2Proof.Machine

/-- A word of a group belongs to pipe M/E (R94). -/
def isMe (i : Option Instr) : Bool := i.any (fun x => (uses x).pipe == .me)

/-- A word that reads a control register. -/
def isGetcr : Option Instr → Bool
  | some (.getcr _ _) => true
  | _ => false

/-- The order in which the words of a group are executed. All read before any of them writes (R93): a GETCR comes first, since what it
reads a word of the M/E pipe may change at once. Beyond that the order is seen in nothing but which control transfer decides: a TRET,
EXIT or CAPEXIT (assumption log 13). -/
def runOrder (is : List (Option Instr)) : List Nat :=
  let n := List.range is.length
  let word (j : Nat) := is.getD j none
  n.filter (fun j => isGetcr (word j)) ++ n.filter (fun j => isMe (word j)) ++
    n.filter (fun j => !isMe (word j) && !isGetcr (word j))

/-- One word of the group, if its fragment is still there and no word has trapped. -/
def State.runWord (s : State) (j : Nat) (i : Instr) : Host.Outcome State Fault Refusal :=
  match s.issue with
  | none => .next s
  | some x =>
    if x.trapped || (s.frag? x.frag).isNone then .next s
    else exec i (s.modIssue (fun x => { x with word := j }))

/-- The words of a group, in an order. -/
def State.runWords (s : State) (is : List (Option Instr)) : List Nat → Host.Outcome State Fault Refusal
  | [] => .next s
  | j :: r =>
    match is.getD j none with
    | none => s.runWords is r
    | some i =>
      match s.runWord j i with
      | .next t => t.runWords is r
      | .fault e => .fault e
      | .refused e => .refused e

/-- The stall count of a group's last word (R95). -/
def stallOf (ws : List Word) : Nat := ((ws.getLast?.getD 0).extractLsb' 28 3).toNat

/-- A group begins to issue: it claims its lane blocks, takes its queue entries, and is no longer waiting. A group that reads a mapped
register is a visibility point (R50, R96, R282). -/
def State.beginGroup (s : State) (v : View) (ws : List Word) : State :=
  let is := decodeAll ws
  let pops := groupPops v.w is
  let packet := s.packetAt (s.ctxOfWg v.g) (s.bodyOf v.fid v.f v.w) v.f.pc
  let s := (s.earlyAtGroup v (is.filterMap id)).modFrag v.fid (fun f => { f with packet := packet })
  let s := (s.jigServe v).putClaim v.g.core (v.claim is)
  let taken := takePops pops (s.core v.g.core).queues
  let s := if pops.isEmpty then s else s.modCore v.g.core (fun c => { c with queues := taken.2 })
  let s := s.modFrag v.fid (fun f => { f with wait := none })
  { s with issue := some { issueOf v.fid v.f v.w ws.length (stallOf ws) with popped := taken.1, visible := !pops.isEmpty } }

/-- The fragment blocks, and its group has not issued: it is not ready meanwhile (R54, R342). -/
def State.stallFrag (s : State) (fid : Nat) (w : Wait) : State :=
  s.modFrag fid (fun f => { f with wait := some w, promoted := none })

/-- A CAPENT finds its record held, or an earlier contender before it (R310): the group has not issued, and its fragment keeps the place
of its first attempt. Its request has set what it sets. -/
def State.capWait (s : State) (v : View) (r ctl : Nat) (t : State) : State :=
  let old := v.f.capPlace.filter (fun p => p.1 == r)
  ({ s with ctxs := t.ctxs }.stallFrag v.fid (.capent r ctl)).modFrag v.fid (fun f =>
    { f with capPlace := some (old.getD (r, s.orderNow v)), capKept := f.capKept && old.isSome })

/-- The record that the CAPENT of the group in issue waits for, and its control word. -/
def State.capWaits (s : State) : Option (Nat × Nat) :=
  match s.issue.bind Issue.wait with
  | some (.capent r ctl) => some (r, ctl)
  | _ => none

/-- The group issues: all its words, then its end. -/
def State.runGroup (s : State) (v : View) (ws : List Word) : Host.Outcome State Fault Refusal :=
  let is := decodeAll ws
  match (s.beginGroup v ws).runWords is (runOrder is) with
  | .next t =>
    (match t.capWaits with
      | some r => .next (s.capWait v r.1 r.2 t)
      | none => .next (t.finishGroup { v with i := issueOf v.fid v.f v.w ws.length (stallOf ws) } is s.serial))
  | .fault e => .fault e
  | .refused e => .refused e

/-- An issue-class trap of a group, which has no effect (R351). A CAPENT that faults loses its place (R310). The group is one of a configuration
that takes the fragment up at its entry (R300). It claims no lane blocks and is none of the four groups of its tick (assumption log 107). -/
def State.trapGroup (s : State) (v : View) (g : Fetched) (t : Trap) : State :=
  let is := decodeAll g.words
  let capent := match is.getD t.word none with
    | some (.capent _) => true
    | _ => false
  let s := (s.jigServe v).jigFault v (is.take t.word)
  (s.modFrag v.fid (fun f => { f with wait := none, capPlace := if capent then none else f.capPlace, capKept := f.capKept && !capent })).takeTrap v.fid t v.f.pc none false

/-- The planer has run past its last word (R280). -/
def State.endPlaner (s : State) (v : View) : State :=
  match v.w.planer with
  | some core => s.modCore core (fun c => { c with planer := .stopped })
  | none => s

/-- The words of the group have been fetched: what the attempt comes to. -/
def State.issueFetched (s : State) (v : View) (a : Attempt) : Host.Outcome State Fault Refusal :=
  match a with
  | .trap g t => .next (s.trapGroup v g t)
  | .stall _ w => .next (s.stallFrag v.fid w)
  | .held _ h => .next (s.takeHeld v.fid v.f h)
  | .run g => s.runGroup v g.words
  | .noFetch e => .next (s.fetchFails v.fid v.f e)
  | .planerEnds => .next (s.endPlaner v)
  | .no => .next s

/-- The next group of a fragment, its surroundings known. Its code is requested for the context (R21, R372). -/
def State.issueNext (s : State) (v : View) : Host.Outcome State Fault Refusal :=
  let a := s.attempt v.fid
  let ls := s.fetchRequest v a
  if s.namesLost ls then .next (s.dieOfRequest (s.ctxOfWg v.g) ls)
  else (s.markDies (s.ctxOfWg v.g) (s.dieBitsOf ls)).issueFetched v a

/-- An event window of the fragment's workgroup that is over has made way for the next (R86). -/
def State.openWindow (s : State) (fid : Nat) : State :=
  match (s.frag? fid).bind (fun f => s.warp? f.warp) with
  | some w => s.modWg w.wg Wg.startWindow
  | none => s

/-- A fragment issues its next group, where it may. -/
def State.issueGroup (s : State) (fid : Nat) : Host.Outcome State Fault Refusal :=
  let s := s.openWindow fid
  match s.nextView fid with
  | none => .next s
  | some v => s.issueNext v

end Sys2Proof.Machine
end

