-- ==== Sys2Proof/Machine/Due.lean ====
section
/-! DEFINITION. The core tick (R86, R135, R136), the order in which the model lets things happen where the spec leaves it open
(R51, R102, R341; assumption log 5), and what one input does. -/

namespace Sys2Proof.Machine

/-! ### The tick -/

/-- The place of a SETCR among those that become visible in one tick (R136). -/
def CrWrite.place (w : CrWrite) : Nat := w.slot * 64 + w.lane

/-- Writes in the order of R136, of equals the first issued first. -/
def insertCr (w : CrWrite) : List CrWrite → List CrWrite
  | [] => [w]
  | x :: r => if w.place < x.place then w :: x :: r else x :: insertCr w r

/-- The writes of a workgroup that become visible at a tick, in order. -/
def Wg.dueWrites (g : Wg) (tick : Nat) : List CrWrite :=
  (g.crPend.filter (fun w => decide (w.due ≤ tick))).foldl (fun l w => insertCr w l) []

/-- The registers that two writes meet in, with what they held before both (R136). -/
def Wg.metBefore (g : Wg) (ws : List CrWrite) : Table Dword :=
  ws.foldl (fun t w =>
    if 1 < (ws.filter (fun x => x.num == w.num)).length then Table.set t w.num ((g.cr w.num).getD 0) else t) []

/-- A workgroup at the next core tick: the window advances while it is resident (R86), and due writes take effect (R135, R136). -/
def Wg.atTick (g : Wg) (resident : Bool) (tick : Nat) : Wg :=
  let ws := g.dueWrites tick
  let g' : Wg := { g with
    window := if resident && g.evtwin != 0 then g.window + 1 else g.window
    crPend := g.crPend.filter (fun w => decide (tick < w.due))
    crOld := g.metBefore ws }
  ws.foldl (fun g w => g.setCr w.num w.val) g'

/-- A due write reaches CTL, which holds CHECK, or JIGCFG: it invalidates the core's configuration, whatever its context (R301, R327). -/
def Wg.jigWrites (g : Wg) (tick : Nat) : Bool := (g.dueWrites tick).any (fun w => w.num == 0x030 || w.num == 0x010)

/-- The pre-emptions of teams chosen in the tick now over are counted (R334, R348): those that retired in it are none (R349). -/
def State.countChosen (s : State) : State :=
  (s.teams.filter (fun p => p.2.state == .chosen)).foldl (fun s p => s.countPre 11 p.2.grid) s

/-- The core ticks advance by one, on every core (R344). A team that could not be placed in the tick now over has begun a wait slice (R345). Teams chosen for pre-emption in the tick now over issue no more (R349, R366). -/
def State.advance (s : State) : State :=
  let s := s.countChosen
  let s := s.startWaitSlices s.unplaced
  let n := s.tick + 1
  let loud := (s.wgs.filter (fun p => s.wgPresent p.1 && p.2.jigWrites n)).map (fun p => p.2.core)
  let stalled := (s.frags.filter (fun p => (s.nextView p.1).any s.stillStalled)).map Prod.fst
  let t : State := { s with
    tick := n
    claims := []
    teams := s.teams.map (fun p => if p.2.state = .chosen then (p.1, { p.2 with state := .saving }) else p)
    wgs := s.wgs.map (fun p => (p.1, p.2.atTick (s.wgPresent p.1) n))
    frags := s.frags.map (fun p => if stalled.contains p.1 then (p.1, p.2.readyFrom n) else p) }
  loud.foldl (fun s c => s.jigInvalidate c none) t

/-! ### The order of issue (R341 to R343) -/

/-- The place of a ready fragment in the selection of R341. -/
def State.issueRank (s : State) (v : View) : List Nat :=
  let low := [v.w.slot, v.active.low]
  match v.f.promoted with
  | some t => 0 :: t :: low
  | none => (if s.tick < v.f.yieldUntil then 2 else 1) :: v.f.readySince :: low

/-- Lexicographic order. -/
def rankBefore : List Nat → List Nat → Bool
  | a :: r, b :: t => decide (a < b) || (a == b && rankBefore r t)
  | _, _ => false

/-- A fragment may issue, or stands to take a trap. -/
def State.mayIssue (s : State) (v : View) : Bool :=
  match s.attempt v.fid with
  | .no => false
  | .stall _ w => v.f.wait != some w
  | _ => true

/-- The first in an order. -/
def firstBy : List (List Nat × Nat) → Option (List Nat × Nat)
  | [] => none
  | x :: r =>
    match firstBy r with
    | none => some x
    | some y => if rankBefore y.1 x.1 then some y else some x

/-- The fragment that issues next (R341). -/
def State.nextIssuer (s : State) : Option Nat :=
  (firstBy ((s.frags.filterMap (fun p => s.nextView p.1)).filterMap (fun v =>
    if s.mayIssue v then some (s.issueRank v, v.fid) else none))).map Prod.snd

/-- A promotion or the end of a yield is due on a core: it comes before the core's groups of the tick are chosen (R341, R342). -/
def State.rankDue (s : State) (core : Nat) : Bool :=
  s.frags.any (fun p => (s.nextView p.1).any (fun v => v.g.core == core &&
    (s.mayPromote v || (v.f.yieldUntil != 0 && decide (v.f.yieldUntil ≤ s.tick)))))

/-- It is a fragment's turn on its core (R341): no other may issue that stands before it in the order. -/
def State.issueTurn (s : State) (fid : Nat) : Bool :=
  match s.nextView fid with
  | none => false
  | some v => !s.rankDue v.g.core && s.frags.all (fun p => p.1 == fid || !(s.nextView p.1).any (fun u =>
      u.g.core == v.g.core && rankBefore (s.issueRank u) (s.issueRank v) && s.mayIssue u))

/-- Lift has no choice left to make in the tick (R345 to R347): no wait slice has expired, and no team is to be pre-empted for a grid that it
waits for. -/
def State.liftQuiet (s : State) : Bool :=
  s.waiting.all (fun p => !p.2.waitStart.any (s.sliceOver p.2)) &&
    s.teams.all (fun p => p.2.state != .resident || (s.lwaitChoice p.1).isNone)

/-- The tick may end (R266, R341 to R349): no group that can issue in it is left, no bond that forms, no warp that retires and no choice of Lift. -/
def State.tickOver (s : State) : Bool :=
  s.unusable || (s.nextIssuer.isNone && s.frags.all (fun p => !(s.nextView p.1).any s.mayPromote) &&
    s.bonds.all (fun p => !s.mayForm p.1 p.2) && s.warps.all (fun p => !s.mayRetire p.1 p.2) && s.liftQuiet)

/-! ### One input -/

/-- What one input does, before what follows by itself. -/
def State.act (s : State) (inp : Input) : Host.Outcome State Fault Refusal :=
  match inp with
  | .issue f => if s.issueTurn f then s.issueGroup f else .next s
  | .tick => .next (if s.tickOver then s.advance else s)
  | .row c => .next ((s.admitRow c).partOfCmd c)
  | .piece c n => .next (s.pieceOfCmd c n)
  | .readWord c r n => .next (s.readWordOf c r n)
  | .writeWord c m n => .next (s.writeWordOf c m n)
  | .happen i => if i.isWord then .next s else exec i s
  | .receive c m => .next (s.landAt c m)
  | .count c m n => .next (s.countAt c m n)
  | .part op l => .next (s.partAlone op l)
  | .forward op l => .next (s.forward op l)
  | .leave op n => .next (s.leave op n)
  | .span _ => .next s
  | .guess f o => .next (s.guess f o)
  | .foretell op values => .next (s.foretell op values)
  | .hold f a => .next (s.holdPacket f a)
  | .refetch f n => .next (s.refetch f n)
  | .keep c va => .next (s.keepTranslation c va)
  | .outside a bs => .next (s.outsideWrite a bs)

/-- A package that bring-up has stopped does nothing until it is reset (R385). -/
def Input.wakes : Input → Bool
  | .happen (.deviceReset _) => true
  | .happen .thermalShutdown => true
  | .tick => true
  | _ => false

/-- What follows by itself follows. -/
def settled : Host.Outcome State Fault Refusal → Host.Outcome State Fault Refusal
  | .next s => .next s.settle
  | o => o

/-- An input of a window is over. -/
def State.spent (s : State) : State := { s with span := s.span - 1 }

def spent : Host.Outcome State Fault Refusal → Host.Outcome State Fault Refusal
  | .next s => .next s.spent
  | o => o

/-- What one input does. -/
def State.perform (s : State) (inp : Input) : Host.Outcome State Fault Refusal :=
  if s.unusable && !inp.wakes then .next s.spent else settled (Machine.spent (s.act inp))

/-- The next k inputs of the agenda are performed, and all that is performed early among them, and every value told, comes true (R235, R237). -/
def State.runs (s : State) : Nat → Bool
  | 0 => s.comesTrue
  | k + 1 =>
    match s.agenda with
    | [] => false
    | inp :: r =>
      match ({ s with agenda := r } : State).perform inp with
      | .next t => t.runs k
      | _ => false

/-- The next k inputs are a window, where all that goes ahead in it comes true: no window opens within another. -/
def State.openSpan (s : State) (k : Nat) : State :=
  if s.span = 0 ∧ s.comesTrue = true ∧ ({ s with span := k } : State).runs k = true then { s with span := k } else s

/-- What the agenda's next input does. -/
def State.input (s : State) (inp : Input) : Host.Outcome State Fault Refusal :=
  match inp with
  | .span k => if s.span = 0 then .next (s.openSpan k) else s.perform inp
  | _ => s.perform inp

/-! ### The model's own order -/

/-- What the machine does of itself: the events of the part that nothing outside it starts, an A row, the next group of a fragment, and
the tick. -/
inductive Own where
  | respond (op line : Nat)
  | complete (op : Nat) (inLC : Bool)
  | commit (warp : Nat)
  | start (cmd : Nat)
  | copyRow (cmd : Nat)
  | row (cmd : Nat)
  | finish (cmd : Nat)
  | form (core : Nat)
  | retire (warp : Nat)
  | window (wg : Nat)
  | yieldEnd (frag : Nat)
  | promote (frag : Nat)
  | drained (ctx : Nat)
  | managed
  | accept
  | save (team : Nat)
  | resume (team : Nat)
  | runSlice (team : Nat)
  | waitSlice (team : Nat)
  | lwait (team : Nat)
  | place
  | issue (frag : Nat)
  | tick
deriving DecidableEq, Repr

/-- What each of them does: the meaning of its event. -/
def State.own (s : State) (o : Own) : Host.Outcome State Fault Refusal :=
  match o with
  | .respond op n => execRemoteResponse op n s
  | .complete op true => execLoadCompletion op s
  | .complete op false => execStoreCompletion op s
  | .commit w => execCapsuleStepCommit w s
  | .start c => execEngineCommandStart c s
  | .copyRow c => execCopyRowLanding c s
  | .row c => .next ((s.admitRow c).readTile c)
  | .finish c => execEngineCommandCompletion c s
  | .form k => execBondFormation k s
  | .retire w => execWarpRetirement w s
  | .window g => execEventWindowStart g s
  | .yieldEnd f => execYieldExpiry f s
  | .promote f => execFragmentPromotion f s
  | .drained c => execDeadContextDrainComplete c s
  | .managed => execManagementCommandCompletion s
  | .accept => execLaunchRecordAdmission s
  | .save t => execTeamSave t s
  | .resume t => execTeamResume t s
  | .runSlice t => execRunSliceExpiry t s
  | .waitSlice t => execWaitSliceExpiry t s
  | .lwait t => execLwaitPreemption t s
  | .place => execTeamPlacement s
  | .issue f => s.issueGroup f
  | .tick => .next s.advance

/-- The events that may be due, in the order in which the model looks for one. -/
def State.candidates (s : State) : List Own :=
  s.ops.flatMap (fun p => (List.range p.2.lines.length).map (Own.respond p.1) ++ [.complete p.1 p.2.op.inLC]) ++
  s.warps.map (fun p => .commit p.1) ++
  s.cmds.flatMap (fun p => (List.range p.2.lines.length).map (Own.respond p.1) ++ [.start p.1, .copyRow p.1, .row p.1, .finish p.1]) ++
  s.bonds.map (fun p => .form p.1) ++
  s.warps.map (fun p => .retire p.1) ++
  s.wgs.map (fun p => .window p.1) ++
  s.frags.flatMap (fun p => [.yieldEnd p.1, .promote p.1]) ++
  s.ctxs.map (fun p => .drained p.1) ++
  [.managed, .accept] ++
  s.teams.flatMap (fun p => [.save p.1, .resume p.1, .runSlice p.1]) ++
  s.waiting.map (fun p => .waitSlice p.1) ++
  s.teams.map (fun p => .lwait p.1) ++
  [.place]

/-- An event is due: it would change the machine. -/
def State.isDue (s : State) (o : Own) : Bool :=
  match s.own o with
  | .next t => t != s
  | _ => false

/-- What happens next where nothing is said: a due event, else the next group to issue, else the tick. -/
def State.nextOwn (s : State) : Own :=
  if s.unusable then .tick
  else
    match s.candidates.find? s.isDue with
    | some o => o
    | none =>
      match s.nextIssuer with
      | some f => .issue f
      | none => .tick

end Sys2Proof.Machine
end

