-- ==== Sys2Proof/Machine/Place.lean ====
section
/-! DEFINITION. A smallest running program, placed from outside: a context with one mapped page, and a grid of one team with one warp
of one lane (assumption log 10). A program otherwise comes to run through a launch queue (R328 to R340). -/

namespace Sys2Proof.Machine

/-- The first stack that is fitted (R385). -/
def State.goodStack (s : State) : Nat := ((List.range 8).find? (fun n => !s.skipped n)).getD 0

/-- The physical locations of n bytes of own memory from a canonical address on. -/
def ownLocs (a n : Nat) : List Loc := (List.range n).map (fun j => .phys (a + j))

/-- A page-table entry (R359) that names the next table. -/
def tableEntry (addr : Nat) : Nat := addr + 1

/-- A leaf entry of an RC page with every right, cacheable (R359). -/
def leafEntry (addr : Nat) : Nat := addr + 3 + 15 * 2 ^ 55

/-- The virtual address of the placed packet, and of the handler. -/
def placedPc : Dword := 0x12000#64
def placedTvec : Dword := 0x12060#64

/-- Three tables that map virtual addresses below 2^28 to a page of the same size behind them, from a stack's first byte on. -/
def State.placeTables (s : State) (base : Nat) : State :=
  ((s.writeLocs (ownLocs base 8) (tableEntry (base + 0x1000))).writeLocs (ownLocs (base + 0x1000) 8)
    (tableEntry (base + 0x4000))).writeLocs (ownLocs (base + 0x4000) 8) (leafEntry (base + 2 ^ 28))

/-- A word at a virtual address of that page. -/
def State.placeWord (s : State) (base : Nat) (va : Dword) (w : Nat) : State :=
  s.writeLocs (ownLocs (base + 2 ^ 28 + va.toNat) 4) w

/-- The launch record of the placed grid. -/
def placedRecord : Record :=
  { cls := 0, width := 16, team := 1, bond := 8, check := false, bken := false, wglanes := 1, entry := placedPc, args := 0
    tvec := placedTvec, teams := 1, bench := 4096, fmt := 1, msm := 0, regs := 64, waits := [], done := 0, user := 0 }

/-- An entry of the context table that is free, or the last. -/
def State.freeCtxEntry (s : State) : Nat := ((List.range 256).find? (fun i => (Table.get? s.ctxTable i).isNone)).getD 255

/-- A core that holds no workgroup, or the first. -/
def State.emptyCore (s : State) : Nat := ((List.range Config.cores).find? (fun c => s.wgs.all (fun p => p.2.core != c))).getD 0

/-- The units of the placed program, by identities from n on: context n, grid n + 1, team n + 2, workgroup n + 3, warp n + 4 and
fragment n + 5. -/
def State.placeUnits (s : State) (n base : Nat) : State :=
  let warp : Warp := { wg := n + 3, idx := 0, width := 16, capid := BitVec.ofNat 32 (n + 4) }
  let frag : Frag := { warp := n + 4, pc := placedPc, lm := 1, fmt := 1, readySince := s.tick }
  let wg : Wg := { team := n + 2, member := 0, core := s.emptyCore, benchSize := 4096, tvec := placedTvec }
  let team : Team := { grid := n + 1, number := 0, state := .resident, window := some 0, wgs := [n + 3], cores := [s.emptyCore], runStart := s.tick }
  let grid : Grid := { ctx := n, queue := 0, gridid := 1, depth := 1, cls := 0, parent := none, record := placedRecord }
  let entry : CtxEntry := { ctxid := BitVec.ofNat 32 n, valid := true, ptroot := BitVec.ofNat 40 (base / 4096) }
  let s : State := { s with ctxTable := Table.set s.ctxTable s.freeCtxEntry entry }
  let s := (s.setCtx n { diemask := coreDies s.emptyCore, nextGrid := 2 }).setGrid (n + 1) grid
  let s := ((s.setTeam (n + 2) team).setWg (n + 3) wg).setWarp (n + 4) warp
  { s.setFrag (n + 5) frag with serial := n + 6 }

/-- A word with NOPs behind it is placed as the next group of a new program, which the next step issues. -/
def State.place (s : State) (w : Nat) : State :=
  let s : State := { s with unusable := false, lostDies := 0, issue := none, claims := [] }
  let base := s.goodStack * stackBytes
  let n := s.serial
  let s := (s.placeTables base).placeUnits n base
  let s := ((((s.placeWord base placedPc w).placeWord base (placedPc + 4) nopWord.toNat).placeWord base (placedPc + 8) nopWord.toNat).placeWord base
    (placedPc + 12) nopWord.toNat).placeWord base placedTvec nopWord.toNat
  { s with agenda := .issue (n + 5) :: s.agenda }

end Sys2Proof.Machine
end

