-- ==== Sys2Proof/Machine/Step.lean ====
section
/-! DEFINITION. One step: what the agenda says next, or what the model's own order gives. -/

namespace Sys2Proof.Machine

/-- One step of the machine. Where the agenda says what happens next, that happens; where it says nothing, the model's own order
(assumption log 5) decides. What follows by itself is part of the step. -/
def step (s : State) : Host.Outcome State Fault Refusal :=
  match s.agenda with
  | inp :: r => State.input { s with agenda := r } inp
  | [] => settled (s.own s.nextOwn)

/-- The state with an instruction of nbits bits placed where the next step fetches: this instruction set has words of 32 bits (R90). -/
def State.withFetchWord (s : State) (nbits w : Nat) : State := s.place (w % 2 ^ nbits % 2 ^ 32)

end Sys2Proof.Machine
end

