-- ==== Sys2Proof/Safety.lean ====
section
/-! DEFINITION. What counts as a safe run, the form that every step keeps, and the terms in which the statements speak of words and
their frames. -/

namespace Sys2Proof.Safety

open Sys2Proof.Machine

/-- The machine goes on from s: the next step neither faults nor refuses. -/
def Safe (s : State) : Prop := ∃ t, step s = .next t

/-- t is reached from s by steps. -/
inductive Reaches (s : State) : State → Prop where
  | here : Reaches s s
  | step {t u : State} : Reaches s t → Machine.step t = .next u → Reaches s u

/-- Memory has its one canonical form: addresses rise, and no listed byte equals what an unlisted one reads as. -/
def Canonical (s : State) : Prop := Memory.wf s.mem

/-- Word i has its effect in s: v is what surrounds the word being executed, and none of the checks of R353 finds a trap. -/
def Runs (s : State) (v : View) (i : Instr) : Prop := s.view? = some v ∧ s.wordTrap v i = none

/-- Nothing differs but one fragment and the record of the group being issued: every byte of memory and bench, every other register, and
every engine, queue and table of the part is as before. -/
def OnlyFragment (s t : State) (fid : Nat) : Prop :=
  t = { s with frags := t.frags, issue := t.issue } ∧ ∀ j, j ≠ fid → t.frag? j = s.frag? j

/-- Nothing of a fragment differs but its results that are not yet visible, and the mark that covers them (R95). -/
def OnlyPending (f g : Frag) : Prop := g = { f with pend := g.pend, vmax := g.vmax }

/-- The scalar register sn as a group of fragment fid reads it outside a capsule body (R26): s0 to s47 of its warp, the others its own. -/
def scalarOf (s : State) (fid n : Nat) : Dword :=
  match s.frag? fid with
  | none => 0
  | some f => if n < 48 then ((s.warp? f.warp).map (fun w => Table.getD w.s n 0)).getD 0 else Table.getD f.s n 0

/-- A sum clamped to 32 signed bits, with SATO and INX where it is (R150). -/
def clamped (x : Int) : Word × List (BitVec 5) :=
  (BitVec.ofInt 32 (max (-2147483648) (min x 2147483647)), [if -2147483648 ≤ x ∧ x ≤ 2147483647 then 0 else 0x0A])

/-- Nothing of memory and of the benches differs. -/
def SameMemory (s t : State) : Prop := t.mem = s.mem ∧ ∀ g, (t.wg? g).map Wg.bench = (s.wg? g).map Wg.bench

/-- An engine command has entered EC of its fragment under the next identity (R254, R257, R258): with its kind, its link, its order and its
lanes, held where it says HOLD and its tag has no token, of which it takes one else; with a tag it is the tag's latest. Memory, benches, the
other commands and the rest of the fragment are as before. -/
def Queued (s : State) (v : View) (kind : CmdKind) (tag next : Nat) (acq rel hold : Bool) (scope : Scope) (t : State) : Prop :=
  (∃ c, Table.get? t.cmds s.serial = some c ∧ c.kind = kind ∧ c.wg = v.gid ∧ c.warp = v.wid ∧ c.core = v.g.core ∧ c.active = v.active ∧
    c.dest = .none ∧ c.tag = tag ∧ c.next = next ∧ c.acq = acq ∧ c.rel = rel ∧ c.scope = scope ∧ c.cursor = 0 ∧ c.ended = false ∧
    c.state = if hold && Table.getD v.g.tokens tag 0 == 0 then .held else .queued) ∧
  (∀ j, j ≠ s.serial → Table.get? t.cmds j = Table.get? s.cmds j) ∧ t.mem = s.mem ∧
  (∀ f, s.frag? v.fid = some f → ∃ g, t.frag? v.fid = some g ∧ g.ec.members = s.serial :: f.ec.members ∧
    g = { f with ec := g.ec, uncovered := g.uncovered }) ∧
  (∀ w, s.wg? v.gid = some w → ∃ u, t.wg? v.gid = some u ∧ u = { w with tokens := u.tokens, tagLast := u.tagLast } ∧
    (tag ≠ 0 → Table.get? u.tagLast tag = some s.serial) ∧
    Table.getD u.tokens tag 0 = if hold then Table.getD v.g.tokens tag 0 - 1 else Table.getD w.tokens tag 0)

/-- A command that answers a value has entered EC: the value goes to its scalar register when the command completes (R254). -/
def Answering (s : State) (v : View) (sb : BitVec 6) (x : Dword) (t : State) : Prop :=
  ∃ c, Table.get? t.cmds s.serial = some c ∧ c.kind = .value x ∧ c.dest = .scal sb.toNat ∧ c.wg = v.gid ∧ c.warp = v.wid ∧
    c.state = .queued ∧ c.tag = 0 ∧ c.next = 0 ∧ c.ended = false

/-! ### Numbers -/

/-- The magnitude of a magnitude code in the unbounded layout of R68: that of R58 or R62, with no code kept for infinity or NaN, and
with the top binade or band going on upward. -/
def unbounded (f : Fmt) (c : Nat) : ℚ :=
  match f with
  | .mf8 =>
    let m := Nat.log2 c
    let ew := min 2 m
    let fw := m - ew
    if c = 0 then 0
    else if 64 ≤ c then 2 ^ ((c - 64) / 16) * (1 + (c % 16 : Nat) / 16)
    else 2 ^ (4 * ((m : Int) - 6) + (c % 2 ^ m / 2 ^ fw : Nat)) * (1 + (c % 2 ^ fw : Nat) / 2 ^ fw)
  | f =>
    if c < 2 ^ f.frac then c * 2 ^ (1 - f.bias - f.frac)
    else (1 + (c % 2 ^ f.frac : Nat) / 2 ^ f.frac) * 2 ^ ((c / 2 ^ f.frac : Nat) - f.bias)

/-- The signed value of a finite number. -/
def valueOf : FVal → ℚ
  | .num neg m e => (if neg then -1 else 1) * m * 2 ^ e
  | _ => 0

/-- The code of the member of V∞ that a mode takes for a magnitude x (R67, R68): one of the two neighbours of x, that on the stated side,
or the nearer one; of a tie the even code in RNE, and the larger in RNA. -/
def Takes (f : Fmt) (rm : Rm) (neg : Bool) (x : ℝ) (c : Nat) : Prop :=
  ∃ l : Nat, (unbounded f l : ℝ) ≤ x ∧ x < unbounded f (l + 1) ∧ (c = l ∨ c = l + 1) ∧
    (x = unbounded f l → c = l) ∧
    (x ≠ unbounded f l →
      (rm = .rz ∨ (rm = .ru ∧ neg = true) ∨ (rm = .rd ∧ neg = false) → c = l) ∧
      ((rm = .ru ∧ neg = false) ∨ (rm = .rd ∧ neg = true) → c = l + 1) ∧
      (rm = .rne ∨ rm = .rna →
        (x - unbounded f l < unbounded f (l + 1) - x → c = l) ∧
        (unbounded f (l + 1) - x < x - unbounded f l → c = l + 1) ∧
        (x - unbounded f l = unbounded f (l + 1) - x → (rm = .rne → c % 2 = 0) ∧ (rm = .rna → c = l + 1))))

/-- A magnitude x whose result has code c is tiny (R73): rounded with an exponent that has no bound below, it lies below the smallest
normal value; for MF8, the result is zero. -/
def Tiny (f : Fmt) (rm : Rm) (neg : Bool) (x : ℝ) (c : Nat) : Prop :=
  if f = .mf8 then c = 0
  else ∃ j d : Nat, (2 : ℝ) ^ (1 - f.bias) ≤ x * 2 ^ j ∧ Takes f rm neg (x * 2 ^ j) d ∧ (unbounded f d : ℝ) < 2 ^ (1 - f.bias) * 2 ^ j

/-- RoundTo of a nonzero value of magnitude x (R68, R69, R71, R73): the code and the flags; what overflows is the largest finite value, or
an infinity where arithmetic overflows in a mode that does not hold it back. -/
def RoundsTo (f : Fmt) (o : Over) (rm : Rm) (neg : Bool) (x : ℝ) (r : FRes) : Prop :=
  ∃ c, Takes f rm neg x c ∧
    (f.maxCode < c → r = ⟨f.signBit neg + (if o = .narrow ∨ rm = .rz ∨ (rm = .ru ∧ neg = true) ∨ (rm = .rd ∧ neg = false)
      then f.maxCode else f.infCode), 0x0A⟩) ∧
    (c ≤ f.maxCode → r.bits = (if f = .mf8 ∧ c = 0 then 0 else f.signBit neg + c) ∧
      (x = unbounded f c → r.flags = 0) ∧
      (x ≠ unbounded f c → (Tiny f rm neg x c → r.flags = 0x0C) ∧ (¬Tiny f rm neg x c → r.flags = 0x08)))

/-- The result of value x, a zero taking the sign given (R68, R69). -/
def ResultIs (f : Fmt) (o : Over) (rm : Rm) (zneg : Bool) (x : ℝ) (r : FRes) : Prop :=
  (x = 0 → r = ⟨if f = .mf8 then 0 else f.signBit zneg, 0⟩) ∧
    (0 < x → RoundsTo f o rm false x r) ∧ (x < 0 → RoundsTo f o rm true (-x) r)

/-- The integer that a mode takes for x (R67). -/
def TakesInt (rm : Rm) (x : ℝ) (k : Int) : Prop :=
  (rm = .rz → k = if 0 ≤ x then ⌊x⌋ else ⌈x⌉) ∧ (rm = .ru → k = ⌈x⌉) ∧ (rm = .rd → k = ⌊x⌋) ∧
    (rm = .rne → |x - k| < 1 / 2 ∨ (|x - k| = 1 / 2 ∧ k % 2 = 0)) ∧ (rm = .rna → |x - k| < 1 / 2 ∨ (|x - k| = 1 / 2 ∧ |x| < |(k : ℝ)|))

/-- A narrowing of value x into an integer of w bits (R71): the rounded value, or the bound with its sign. -/
def IntResultIs (w : Nat) (rm : Rm) (x : ℝ) (r : FRes) : Prop :=
  ∃ k, TakesInt rm x k ∧
    (2 ^ (w - 1) ≤ k → r = ⟨2 ^ (w - 1) - 1, 0x0A⟩) ∧ (k < -2 ^ (w - 1) → r = ⟨2 ^ (w - 1), 0x0A⟩) ∧
    (-2 ^ (w - 1) ≤ k → k < 2 ^ (w - 1) → (r.bits : Int) = k % 2 ^ w ∧ (x = k → r.flags = 0) ∧ (x ≠ k → r.flags = 8))

/-- A narrowing of a finite value x into a format of R169, a zero having the sign given (R71). -/
def NarrowsTo (t : CvtFmt) (rm : Rm) (zneg : Bool) (x : ℝ) (r : FRes) : Prop :=
  match t with
  | .flt f => ResultIs f .narrow rm zneg x r
  | .int w => IntResultIs w rm x r

/-- A narrowing of an infinity (R71), with flags more of its own. -/
def infNarrowed (t : CvtFmt) (neg : Bool) (more : BitVec 5) : FRes :=
  match t with
  | .flt f => ⟨f.signBit neg + f.maxCode, 2 ||| more⟩
  | .int w => ⟨if neg then 2 ^ (w - 1) else 2 ^ (w - 1) - 1, 2 ||| more⟩

/-- A narrowing of a NaN (R70, R71): INV for a signalling one, and for every one that a format without NaN takes. -/
def nanNarrowed (t : CvtFmt) (inv : Bool) : FRes :=
  match t with
  | .flt f => ⟨f.nanCode, if inv then 1 else 0⟩
  | .int _ => ⟨0, 1⟩

/-- RoundAF40 of a nonzero value of magnitude x (R79): rounded to 32 significant bits with RNE; above the range an infinity, below it a zero,
each with the sign. -/
def RoundsToAF40 (neg : Bool) (x : ℝ) (r : BitVec 40 × BitVec 5) : Prop :=
  ∃ (q n : Int), (2 : ℝ) ^ (31 + q) ≤ x ∧ x < 2 ^ (32 + q) ∧ TakesInt .rne (x / 2 ^ q) n ∧
    ((2 : ℝ) ^ 128 ≤ n * 2 ^ q → decodeAF40 r.1 = .inf neg ∧ r.2 = 0x0A) ∧
    ((n : ℝ) * 2 ^ q < 2 ^ (-126 : Int) → r.1 = (if neg then 0x8000000000#40 else 0) ∧ r.2 = 0x0C) ∧
    ((2 : ℝ) ^ (-126 : Int) ≤ n * 2 ^ q → (n : ℝ) * 2 ^ q < 2 ^ 128 →
      (∃ m e, decodeAF40 r.1 = .num neg m e ∧ (m : ℝ) * 2 ^ e = n * 2 ^ q) ∧ r.2 = if (n : ℝ) * 2 ^ q = x then 0 else 8)

/-! ### The lattice (R63 to R65) -/

/-- The code that step 2 of R65 takes for y in coset c: the nearest to y - c/2; of a tie the element value of smaller magnitude, and of
equal magnitudes the code 0. -/
def LatticeNearest (c : Int) (y : ℝ) (n : Int) : Prop :=
  ∀ k : Int, |y - c / 2 - n| ≤ |y - c / 2 - k| ∧
    (|y - c / 2 - k| = |y - c / 2 - n| → k ≠ n →
      |(n : ℝ) + c / 2| < |(k : ℝ) + c / 2| ∨ (|(n : ℝ) + c / 2| = |(k : ℝ) + c / 2| ∧ n = 0))

/-- Codes k after step 3 of R65 on codes j of the elements in els, those that may move: an odd sum moves one by one step within [-2, 1],
with the least added error, then the lowest element, then downward. -/
def ParityMoved (c : Int) (y : Nat → ℝ) (els : List Nat) (j k : Nat → Int) : Prop :=
  let cost (e : Nat) (d : Int) : ℝ := (j e + d + c / 2 - y e) ^ 2 - (j e + c / 2 - y e) ^ 2
  (((List.range 8).map j).sum % 2 = 0 → ∀ i, i < 8 → k i = j i) ∧
  (((List.range 8).map j).sum % 2 ≠ 0 → ∃ e ∈ els, ∃ d, (d = -1 ∨ d = 1) ∧ -2 ≤ j e + d ∧ j e + d ≤ 1 ∧
    k e = j e + d ∧ (∀ i, i < 8 → i ≠ e → k i = j i) ∧
    ∀ e' ∈ els, ∀ d', (d' = -1 ∨ d' = 1) → -2 ≤ j e' + d' → j e' + d' ≤ 1 →
      cost e d < cost e' d' ∨
        (cost e d = cost e' d' ∧ (e < e' ∨ (e = e' ∧ d ≤ d'))))

/-- Codes k of coset c for the values y of the elements in els (steps 2 and 3 of R65, R178), those of the others given by old; shell says
that a code was clamped. -/
def LatticeFit (c : Int) (y : Nat → ℝ) (els : List Nat) (old k : Nat → Int) (shell : Prop) : Prop :=
  ∃ n : Nat → Int, (∀ e ∈ els, LatticeNearest c (y e) (n e)) ∧ (shell ↔ ∃ e ∈ els, n e < -2 ∨ 1 < n e) ∧
    ParityMoved c y els (fun i => if i ∈ els then max (-2) (min (n i) 1) else old i) k

/-- The codes k0 of coset 0 have a squared error no more than the codes k1 of coset 1 (step 4 of R65). -/
def FirstCoset (y : Nat → ℝ) (k0 k1 : Nat → Int) : Prop :=
  ((List.range 8).map (fun e => ((k0 e : ℝ) - y e) ^ 2)).sum ≤ ((List.range 8).map (fun e => ((k1 e : ℝ) + 1 / 2 - y e) ^ 2)).sum

/-- An FP32 input of the lattice: an infinity counts as the largest finite value with its sign (R65). -/
def latticeInput (v : FVal) : ℚ :=
  match v with
  | .inf neg => (if neg then -1 else 1) * unbounded .fp32 0x7F7FFFFF
  | v => valueOf v

/-- A scale that the lattice takes: neither zero, nor infinite, nor a NaN (R65). -/
def goodScale (g : FVal) : Prop := ∃ neg m e, g = .num neg m e ∧ m ≠ 0

/-- The value is an infinity. -/
def isInf : FVal → Bool
  | .inf _ => true
  | _ => false

/-- The value is a zero. -/
def isZero : FVal → Bool
  | .num _ m _ => m == 0
  | _ => false

/-- The sign of a number or an infinity. -/
def negOf : FVal → Bool
  | .nan _ => false
  | .inf neg => neg
  | .num neg _ _ => neg

/-! ### Elements of conversions (R63 to R65, R169 to R179) -/

/-- VCVT's formats and one element of it (R169 to R171): a widening keeps the value, a narrowing is that of R71. -/
def VcvtElements : Prop :=
  (List.range 8).map CvtFmt.ofIndex = [.flt .fp32, .flt .fp16, .flt .bf16, .flt .e4m3, .flt .e5m2, .flt .mf8, .int 32, .int 8] ∧
  (∀ c f, CvtFmt.decode (.flt f) c = decodeF f c) ∧
  (∀ w c, w = 8 ∨ w = 32 → c < 2 ^ w → CvtFmt.decode (.int w) c =
    if c < 2 ^ (w - 1) then .num false c 0 else .num true (2 ^ w - c) 0) ∧
  ∀ (src dst : Nat) (rm : Rm) (c : Nat), src < 8 → dst < 8 → src ≠ dst → c < 2 ^ (CvtFmt.ofIndex src).width →
    let v := (CvtFmt.ofIndex src).decode c
    let r := convertElem src dst rm c
    if (src, dst) ∈ [(1, 0), (2, 0), (3, 0), (3, 1), (3, 2), (4, 0), (4, 1), (4, 2), (5, 0), (5, 1), (5, 2), (7, 0), (7, 1), (7, 2), (7, 6)] then
      r.bits < 2 ^ (CvtFmt.ofIndex dst).width ∧
      match v with
      | .nan s => ∀ f, CvtFmt.ofIndex dst = .flt f → r = ⟨f.nanCode, if s then 1 else 0⟩
      | .inf neg => ∀ f, CvtFmt.ofIndex dst = .flt f → r = ⟨f.signBit neg + f.infCode, 0⟩
      | .num neg _ _ => r.flags = 0 ∧ ∃ m e, (CvtFmt.ofIndex dst).decode r.bits = .num neg m e ∧ valueOf (.num neg m e) = valueOf v
    else
      match v with
      | .nan s => r = nanNarrowed (CvtFmt.ofIndex dst) s
      | .inf neg => r = infNarrowed (CvtFmt.ofIndex dst) neg 0
      | .num neg _ _ => NarrowsTo (CvtFmt.ofIndex dst) rm neg (valueOf v : ℚ) r

/-- One lane of VCVT (R170): each of its elements is converted into its own place, the bits above them are zero, and each raises its own
flags. -/
def VcvtLanes : Prop :=
  ∀ (src dst : Nat) (rm : Rm) (x : Word), src < 8 → dst < 8 → src ≠ dst →
    let ws := (CvtFmt.ofIndex src).width
    let wd := (CvtFmt.ofIndex dst).width
    let n := 32 / max ws wd
    (∀ e, e < n → (convertLane src dst rm x).1.toNat / 2 ^ (e * wd) % 2 ^ wd = (convertElem src dst rm (x.toNat / 2 ^ (e * ws) % 2 ^ ws)).bits) ∧
    (convertLane src dst rm x).1.toNat < 2 ^ (n * wd) ∧
    (convertLane src dst rm x).2 = (List.range n).map (fun e => (convertElem src dst rm (x.toNat / 2 ^ (e * ws) % 2 ^ ws)).flags)

/-- VQNT on one lane (R74, R172): the exact quotient narrowed into the format of FMT.QF, and the special quotients; a zero scale sets INV with
every x. -/
def QuantElements : Prop :=
  (List.range 6).map quantFmt = [.flt .fp16, .flt .bf16, .flt .e4m3, .flt .e5m2, .flt .mf8, .int 8] ∧
  ∀ (qf : Nat) (rm : Rm) (x y : Nat), qf < 6 →
    let t := quantFmt qf
    let a := decodeF .fp32 x
    let b := decodeF .fp32 y
    let neg := negOf a != negOf b
    let r := quantElem qf rm x y
    (a.isNan || b.isNan → r = nanNarrowed t (a.isSnan || b.isSnan)) ∧
    (a.isNan = false → b.isNan = false →
      ((isInf a && isInf b) || (isZero a && isZero b) → r = nanNarrowed t true) ∧
      (isInf a && !isInf b → r = infNarrowed t neg (if isZero b then 1 else 0)) ∧
      (!isInf a && !isZero a && isZero b → r = infNarrowed t neg 1) ∧
      (!isInf a && isInf b → NarrowsTo t rm neg 0 r) ∧
      (!isInf a && !isInf b && !isZero b → NarrowsTo t rm neg ((valueOf a / valueOf b : ℚ) : ℝ) r))

/-- A product of two values rounded into FP32 (R70, R160). -/
def ProductIs (rm : Rm) (a b : FVal) (r : FRes) : Prop :=
  let neg := negOf a != negOf b
  (a.isNan || b.isNan → r = ⟨0x7FC00000, if a.isSnan || b.isSnan then 1 else 0⟩) ∧
  (a.isNan = false → b.isNan = false →
    ((isInf a && isZero b) || (isZero a && isInf b) → r = ⟨0x7FC00000, 1⟩) ∧
    ((isInf a && !isZero b) || (!isZero a && isInf b) → r = ⟨Fmt.signBit .fp32 neg + 0x7F800000, 0⟩) ∧
    (!isInf a && !isInf b → ResultIs .fp32 .arith rm neg ((valueOf a * valueOf b : ℚ) : ℝ) r))

/-- VDQNT on one lane (R74, R173). -/
def DequantElements : Prop :=
  ∀ (qf : Nat) (rm : Rm) (q y : Nat), qf < 6 → q < 2 ^ (quantFmt qf).width →
    ProductIs rm ((quantFmt qf).decode q) (decodeF .fp32 y) (dequantElem qf rm q y)

/-- The fields of an LQ2 word (R63): its coset, its stored codes, and the eighth code of bit 14 and of the parity that makes the sum even. -/
def LatticeCodes : Prop :=
  ∀ w, w < 2 ^ 16 → lqCoset w = w / 2 ^ 15 ∧ ((List.range 8).map (lqK w)).sum % 2 = 0 ∧ (lqK w 7 < 0 ↔ w.testBit 14 = true) ∧
    (∀ e, e < 8 → -2 ≤ lqK w e ∧ lqK w e ≤ 1) ∧ ∀ e, e < 7 → lqK w e % 4 = ((w / 4 ^ e % 4 : Nat) : Int)

/-- VLQDEC and VLQERR on one lane (R177, R179): the element value k + c/2, +0 where it is zero, times the scale, rounded once; and x less that
product, rounded once. -/
def LatticeDecodes : Prop :=
  ∀ (rm : Rm) (w e x g : Nat), w < 2 ^ 16 → e < 8 →
    let u : ℚ := lqK w e + (lqCoset w : ℚ) / 2
    let a := decodeF .fp32 x
    let b := decodeF .fp32 g
    let neg := decide (u < 0) != negOf b
    let r := lqErrElem rm w e x g
    (b.isNan → lqDecodeElem rm w e g = ⟨0x7FC00000, if b.isSnan then 1 else 0⟩) ∧
    (isInf b → lqDecodeElem rm w e g = if u = 0 then ⟨0x7FC00000, 1⟩ else ⟨Fmt.signBit .fp32 neg + 0x7F800000, 0⟩) ∧
    (!b.isNan && !isInf b → ResultIs .fp32 .arith rm neg ((u * valueOf b : ℚ) : ℝ) (lqDecodeElem rm w e g)) ∧
    (a.isNan || b.isNan → r = ⟨0x7FC00000, if a.isSnan || b.isSnan || (isInf b && u = 0) then 1 else 0⟩) ∧
    (a.isNan = false → b.isNan = false →
      (isInf b → u = 0 → r = ⟨0x7FC00000, 1⟩) ∧
      (isInf b → u ≠ 0 → r = if isInf a && negOf a == neg then ⟨0x7FC00000, 1⟩ else ⟨Fmt.signBit .fp32 (!neg) + 0x7F800000, 0⟩) ∧
      (!isInf b && isInf a → r = ⟨Fmt.signBit .fp32 (negOf a) + 0x7F800000, 0⟩) ∧
      (!isInf b && !isInf a → ResultIs .fp32 .arith rm (if negOf a = !neg then !neg else decide (rm = .rd))
        ((valueOf a - u * valueOf b : ℚ) : ℝ) r))

/-- The word and the flags of a lattice encoding of coset c, codes k and values y of the elements in els (R65, R178). -/
def LatticeWord (r : FRes) (c : Nat) (k : Nat → Int) (y : Nat → ℝ) (els : List Nat) (shell : Prop) : Prop :=
  r.bits < 2 ^ 16 ∧ lqCoset r.bits = c ∧ (∀ e, e < 8 → lqK r.bits e = k e) ∧ (r.flags.getLsbD 4 = true ↔ shell) ∧
    (r.flags.getLsbD 3 = true ↔ ∃ e ∈ els, (k e : ℝ) + c / 2 ≠ y e) ∧ r.flags &&& 7 = 0

/-- LQ2Encode (R65): of eight inputs over a scale, the word of the better coset; of a NaN input or a bad scale, 0 and INV. -/
def LatticeEncodes : Prop :=
  ∀ (xs : List FVal) (g : FVal), xs.length = 8 →
    let y (e : Nat) : ℝ := ((latticeInput (xs.getD e (.nan false)) / valueOf g : ℚ) : ℝ)
    ((∃ x ∈ xs, x.isNan = true) ∨ ¬goodScale g → lqEncode xs g = ⟨0, 1⟩) ∧
    ((∀ x ∈ xs, x.isNan = false) → goodScale g → ∃ (k l : Nat → Int) (p q : Prop),
      LatticeFit 0 y (List.range 8) (fun _ => 0) k p ∧ LatticeFit 1 y (List.range 8) (fun _ => 0) l q ∧
      (FirstCoset y k l → LatticeWord (lqEncode xs g) 0 k y (List.range 8) p) ∧
      (¬FirstCoset y k l → LatticeWord (lqEncode xs g) 1 l y (List.range 8) q))

/-- VLQINS on one octet (R178): the coset and the codes of unwritten elements stay, the written ones are fitted; of a NaN input or a bad
scale the word stays, with INV. -/
def LatticeInserts : Prop :=
  ∀ (w : Nat) (els : List (Nat × FVal)) (g : FVal), w < 2 ^ 16 → els ≠ [] → (els.map Prod.fst).Pairwise (· < ·) → (∀ p ∈ els, p.1 < 8) →
    let y (e : Nat) : ℝ := ((latticeInput (((els.find? (fun p => p.1 == e)).map Prod.snd).getD (.nan false)) / valueOf g : ℚ) : ℝ)
    ((∃ p ∈ els, p.2.isNan = true) ∨ ¬goodScale g → lqInsert w els g = ⟨w, 1⟩) ∧
    ((∀ p ∈ els, p.2.isNan = false) → goodScale g → ∃ (k : Nat → Int) (p : Prop),
      LatticeFit (lqCoset w) y (els.map Prod.fst) (lqK w) k p ∧ LatticeWord (lqInsert w els g) (lqCoset w) k y (els.map Prod.fst) p)

/-! ### Fences and capsule steps -/

/-- A fence has issued (R223): it is recorded behind the outstanding operations of its warp, as FENCE or FENCE.CODE, and nothing else differs but
what is noted of operations left behind and of packets as they once stood, of which none is added or dropped: behind a FENCE.CODE come its lanes, of
what stands before it. -/
def Fenced (s : State) (v : View) (uo code : Bool) (sc : BitVec 2) (t : State) : Prop :=
  t = { s with fences := t.fences, serial := t.serial, debts := t.debts, old := t.old } ∧
    t.debts.map Debt.op = s.debts.map Debt.op ∧ t.old.map OldPacket.words = s.old.map OldPacket.words ∧
    (code = true → (∀ d ∈ t.debts, d.acc.warp = v.wid → ∀ l ∈ d.acc.lanes, v.active &&& l.who ≠ 0 → d.code.has v.wid (v.active &&& l.who) = true) ∧
      ∀ p ∈ t.old, ∀ c ∈ p.changes, c.warp = v.wid → v.active &&& c.lanes ≠ 0 → c.trail.has v.wid (v.active &&& c.lanes) = true) ∧
    ∀ p ∈ s.ops, p.1 < s.serial → p.2.warp = v.wid → Table.get? t.fences s.serial = some ⟨v.wid, v.active, uo, Scope.ofCode sc, code⟩

/-- A memory step of a capsule has issued (R311, R312): it is recorded with its access and is in LC or SC, and has performed nothing. -/
def StepIssued (s : State) (v : View) (r : MemReq) (ls : List Loc) (t : State) : Prop :=
  SameMemory s t ∧ t.warps = s.warps ∧
    (∀ x, s.issue = some x → ∃ y, t.issue = some y ∧ y.kmem = some (r, ls, s.serial)) ∧
    ∀ x, s.frag? v.fid = some x → ∃ y, t.frag? v.fid = some y ∧
      (if r.op.inLC then y.lc.members = s.serial :: x.lc.members else y.sc.members = s.serial :: x.sc.members)

/-! ### AF40 sums (R79, R80) -/

/-- RoundAF40 of the exact sum of addends, with the flags of that sum (R79). -/
def SumsToAF40 (xs : List FVal) (r : BitVec 40 × BitVec 5) : Prop :=
  let opposite := xs.contains (.inf false) && xs.contains (.inf true)
  let x : ℚ := (xs.map valueOf).sum
  (xs.any FVal.isNan || opposite → r = (0x7FC0000000, if xs.any FVal.isSnan || opposite then 1 else 0)) ∧
  (xs.any FVal.isNan = false → opposite = false →
    (∀ neg, .inf neg ∈ xs → r = (if neg then 0xFF80000000 else 0x7F80000000, 0)) ∧
    (xs.any isInf = false →
      (x = 0 → r = (if xs.all (fun y => isZero y && negOf y) then 0x8000000000 else 0, 0)) ∧
      (0 < x → RoundsToAF40 false (x : ℚ) r) ∧ (x < 0 → RoundsToAF40 true ((-x : ℚ) : ℝ) r)))

/-- A product in a PE, exact (R70, R79). -/
def ProductInPE (a b : FVal) : Prop :=
  (a.isNan || b.isNan → a.mul b = (.nan false, if a.isSnan || b.isSnan then 1 else 0)) ∧
  (a.isNan = false → b.isNan = false →
    ((isInf a && isZero b) || (isZero a && isInf b) → a.mul b = (.nan false, 1)) ∧
    ((isInf a && !isZero b) || (!isZero a && isInf b) → a.mul b = (.inf (negOf a != negOf b), 0)) ∧
    (!isInf a && !isInf b → (a.mul b).2 = 0 ∧ valueOf (a.mul b).1 = valueOf a * valueOf b ∧ isInf (a.mul b).1 = false ∧
      (a.mul b).1.isNan = false ∧ negOf (a.mul b).1 = (negOf a != negOf b)))

/-- One accumulator updated with a row and a column (R79, R80): each PE row rounds the sum that enters it with its products once, and the
accumulator the last of these sums. That infinities of both signs raise INV beside a NaN is the model's choice (assumption log 70). -/
def AccumulatorUpdates : Prop :=
  (∀ a b, ProductInPE a b) ∧ (∀ a b, SumsToAF40 [a, b] (addAF40 a b)) ∧
  (∀ (w r : Nat) (a b : Nat → FVal) (p : BitVec 40 × BitVec 5), 0 < w →
    let ms := (List.range w).map (fun i => (a (r * w + i)).mul (b (r * w + i)))
    ∃ f, SumsToAF40 (decodeAF40 p.1 :: ms.map Prod.fst) ((peRow w a b p r).1, f) ∧
      (peRow w a b p r).2 = p.2 ||| f ||| ms.foldl (fun x m => x ||| m.2) 0) ∧
  ∀ (rows w : Nat) (a b : Nat → FVal) (acc : BitVec 40), ∃ p : Nat → BitVec 40 × BitVec 5, p 0 = (0, 0) ∧
    (∀ r, r < rows → p (r + 1) = peRow w a b (p r) r) ∧
    (updateAcc rows w a b acc).1 = (addAF40 (decodeAF40 acc) (decodeAF40 (p rows).1)).1 ∧
    (updateAcc rows w a b acc).2 = (p rows).2 ||| (addAF40 (decodeAF40 acc) (decodeAF40 (p rows).1)).2

/-- Operand elements as they enter a PE (R64, R75, R78): decoded and scaled exactly; an LQ2 element is its value times its group scale. -/
def MatrixElements : Prop :=
  (∀ c, matrixElem 0 c = decodeF .bf16 c ∧ matrixElem 1 c = decodeF .fp16 c ∧ matrixElem 2 c = decodeF .e4m3 c ∧
    matrixElem 3 c = decodeF .e5m2 c ∧ matrixElem 4 c = decodeF .mf8 c ∧
    (c < 256 → valueOf (matrixElem 5 c) = if c < 128 then (c : ℚ) else (c : ℚ) - 256)) ∧
  (∀ (v : FVal) (e : Int), valueOf (v.scale e) = valueOf v * 2 ^ e ∧ isInf (v.scale e) = isInf v ∧ (v.scale e).isNan = v.isNan ∧
    (v.scale e).isSnan = v.isSnan ∧ negOf (v.scale e) = negOf v) ∧
  ∀ (k : Int) (c : Nat) (g : FVal), c < 2 →
    let u : ℚ := k + (c : ℚ) / 2
    let x := lq2Product k c g
    (g.isNan → x = .nan g.isSnan) ∧ (isInf g → x = if u = 0 then .nan true else .inf (decide (u < 0) != negOf g)) ∧
    (!g.isNan && !isInf g → valueOf x = u * valueOf g ∧ isInf x = false ∧ x.isNan = false)

/-! ### Engine commands that run -/

/-- A command runs, and nothing holds its next access back: its team is on its cores, its responses are in, and it names no lost die. -/
def GoesOn (s : State) (id : Nat) (c : Cmd) (g : Wg) : Prop :=
  Table.get? s.cmds id = some c ∧ c.state = .running ∧ s.wgPresent c.wg = true ∧ s.wg? c.wg = some g ∧ c.waitsRemote = false ∧
    s.namesLost (s.rangeHomes c (c.nextRanges 0)) = false

/-- A command's last action may happen, and what it still accesses names no lost die. -/
def Ends (s : State) (id : Nat) (c : Cmd) (g : Wg) : Prop :=
  Table.get? s.cmds id = some c ∧ s.mayComplete id c = true ∧ s.wg? c.wg = some g ∧
    s.namesLost (s.rangeHomes c (c.partRanges c.left)) = false

/-- One row of a copy (R260 to R262): read whole, unless it has been read for a receiver that had it before the others, with what words of it have
been read before the rest, then written to memory or at each receiver that has not had it, but for the words that it has had, and counted at the
receiver's arrival word after it is written, with what else that word has still to count, at once or, with REL, when the command ends. -/
def CopyRows : Prop :=
  (∀ (c : Cmd) (r off : Nat) (bs us : List Byte), c.wordsRead = [(r, off, us)] → off + us.length ≤ bs.length →
    c.withWords r bs = bs.take off ++ us ++ bs.drop (off + us.length) ∧ ∀ q, q ≠ r → c.withWords q bs = bs) ∧
  ∀ (s : State) (id n rows aoff : Nat) (c : Cmd) (src dst : Dword) (ss ds : Int) (aw multi : Bool) (dir : BitVec 2) (mask : BitVec 8)
    (g : Wg) (ls to_ : List Loc), GoesOn s id c g → c.kind = .tcopy src dst n rows ss ds aoff aw dir mask multi → c.cursor < rows →
    let sa := src + BitVec.ofInt 64 (ss * c.cursor)
    let da := dst + BitVec.ofInt 64 (ds * c.cursor)
    let places := ((List.range 8).filter (fun m => mask.getLsbD m && Table.getD c.reached m 0 == 0)).filterMap (fun m =>
      (s.receiverPlace c.wg g m da).map (fun p => (m, p.1, p.2.2)))
    let bytes := c.rowsRead.headD (c.withWords c.cursor (ls.map s.readLoc))
    let landed (m : Nat) (xs : List Loc) := xs.zipIdx.map (fun x => if c.hadAt m x.2 then s.readLoc x.1 else bytes.getD x.2 0)
    ls.length = n → bytes.length = n → (dir = 0 → s.rangePlaces c.ctx g true (some .read) sa n = ls.map some) →
    (dir ≠ 0 → ∃ k w off, s.benchPlace c.wg g sa = some (k, w, off) ∧ ls = benchLocs k off n) → ∃ t d,
      exec (.copyRowLanding id) s = .next t ∧ Table.get? t.cmds id = some d ∧ d.cursor = c.cursor + 1 ∧
      (dir = 1 → s.rangePlaces c.ctx g true (some .write) da n = to_.map some → to_.length = n → to_.Nodup →
        (∀ k o, Loc.bench k o ∈ to_ → (s.wg? k).isSome = true) →
        to_.map t.readLoc = landed 0 to_ ∧ ∀ x, x ∉ to_ → t.readLoc x = s.readLoc x) ∧
      (dir ≠ 1 → (places.map (fun p => p.2.1)).Nodup → (∀ p ∈ places, (s.wg? p.2.1).isSome = true ∧ (p.2.2 + n ≤ aoff ∨ aoff + 16 ≤ p.2.2)) →
        (∀ p ∈ places, (benchLocs p.2.1 p.2.2 n).map t.readLoc = landed p.1 (benchLocs p.2.1 p.2.2 n)) ∧
        (∀ x, (∀ p ∈ places, x ∉ benchLocs p.2.1 p.2.2 n ∧ (aw = false ∨ x ∉ benchLocs p.2.1 aoff 16)) → t.readLoc x = s.readLoc x) ∧
        (aw = true → c.rel = true → ∀ p ∈ places, Table.getD d.counts p.1 0 = Table.getD c.counts p.1 0 + (n - c.hadBytes p.1)) ∧
        (aw = true → c.rel = false → ∀ p ∈ places, 0 < Table.getD c.counts p.1 0 + (n - c.hadBytes p.1) →
          let w := Loc.bench p.2.1 aoff
          let k := Table.getD c.counts p.1 0 + (n - c.hadBytes p.1)
          (s.arrivalField w 3 % 2 = 1 → s.arrivalField w 0 ≠ 0 →
            t.arrivalField w 1 = (s.arrivalField w 1 + k) % s.arrivalField w 0 ∧
            t.arrivalField w 2 = (s.arrivalField w 2 + (s.arrivalField w 1 + k) / s.arrivalField w 0) % 2 ^ 32) ∧
          (s.arrivalField w 3 % 2 = 0 ∨ s.arrivalField w 0 = 0 → c.fault = none → ∃ f, d.fault = some f ∧ f.code = 0x18)))

/-- MXLDB as it ends (R270): of the elements not yet loaded the tile holds the codes that the top edge's benches hold, K-row by K-row, but for
codes and scales that the command has read before. It is the leader's tile, or its image's where the team is being saved (R366). -/
def TileLoads : Prop :=
  ∀ (s : State) (id boff soff bstride top gid : Nat) (c : Cmd) (g h : Wg) (mb : BitVec 4) (sb : BitVec 8), Ends s id c g →
    c.kind = .mxldb boff soff bstride mb sb → ∃ t tile, exec (.engineCommandCompletion id) s = .next t ∧ SameMemory s t ∧
      (s.wgResident c.wg = true →
        (t.core c.leader).tile = tile ∧ (t.core c.leader).tileFmt = some mb ∧ (t.core c.leader).tileScale = sb) ∧
      (∀ tm, s.team? g.team = some tm → tm.state = .saving → ∃ tn, t.team? g.team = some tn ∧ tn.savedBonds.map SavedBond.leader =
        tm.savedBonds.map SavedBond.leader ∧ ∀ b ∈ tn.savedBonds, b.formed = true → tm.cores.getD b.leader 768 = c.leader →
        b.tile = tile ∧ b.tileFmt = some mb ∧ b.tileScale = sb) ∧
      ∀ k i cl, let part := k * (8 * (shapeCores c.shape).2) + 8 * i + cl
        c.cursor ≤ part → part ∉ c.aside → k < 8 * (shapeCores c.shape).1 * dotWidth mb → (topEdge c.leader (shapeCores c.shape).2)[i]? = some top → i < 4 → cl < 8 →
        s.memberOn g.team top = some (gid, h) →
        let x := Table.getD tile (256 * k + 8 * i + cl) 0
        (isLq2 mb = false → x.toNat = c.orRead part 0 (elemBytes mb) (s.readLocs (benchLocs gid (boff + k * bstride + cl * elemBytes mb) (elemBytes mb)))) ∧
        (isLq2 mb = true → let w := c.orRead part 0 2 (s.readLocs (benchLocs gid (boff + k / 8 * bstride + 2 * cl) 2))
          tileValue mb sb x = (lq2Product (lqK w (k % 8)) (lqCoset w)
            (decodeF .bf16 (c.orRead part 1 2 (s.readLocs (benchLocs gid (soff + k / 32 * 16 + 2 * cl) 2))))).scale sb.toInt)

/-- One A row of an MXOP (R80, R271), but for elements of it that have been read before the rest: each column's accumulator in the reservation that the MXOP was checked against is updated with the row
that the left edge's benches hold and the tile's column, and ENGSTAT.ME takes the flags. -/
def MatrixRows : Prop :=
  ∀ (s : State) (id aoff rows acc astride : Nat) (c : Cmd) (g : Wg) (ma : BitVec 4) (sa : BitVec 8), Table.get? s.cmds id = some c →
    c.kind = .mxop aoff rows acc astride ma sa → c.state = .running → c.cursor < rows → s.wgResident c.wg = true → s.wg? c.wg = some g →
    s.turnOf id c = true → c.holders.Nodup → tileHeld (s.core c.leader) ma = true →
    let w := dotWidth ma
    let es := elemBytes ma
    let r := (shapeCores c.shape).1
    let k := s.core c.leader
    let a (i : Nat) := (matrixElem ma (c.orRead c.cursor i es (s.coreBench g.team ((leftEdge c.leader r).getD (i / (8 * w)) 0)
      (aoff + c.cursor * astride + i % (8 * w) * es) es))).scale sa.toInt
    let b (col i : Nat) := tileValue (k.tileFmt.getD ma) k.tileScale (Table.getD k.tile (256 * i + col) 0)
    let new (col wid : Nat) := updateAcc (8 * r) w a (b col) (Table.getD (((s.warp? wid).map Warp.msm).getD []) (acc + 8 * c.cursor + col % 8) 0)
    ∃ d h, Table.get? (s.admitRow id).cmds id = some d ∧ d.cursor = c.cursor + 1 ∧ SameMemory s (s.admitRow id) ∧
      (s.admitRow id).wg? c.wg = some h ∧
      h.engstat = g.engstat ||| BitVec.ofNat 32 (((List.range (8 * (shapeCores c.shape).2)).filterMap (fun col =>
        (c.holders[col / 8]?).map (fun wid => (new col wid).2))).foldl (· ||| ·) 0).toNat ∧
      (∀ col wid u, col < 8 * (shapeCores c.shape).2 → c.holders[col / 8]? = some wid → s.warp? wid = some u → ∃ x,
        (s.admitRow id).warp? wid = some x ∧ Table.getD x.msm (acc + 8 * c.cursor + col % 8) 0 = (new col wid).1 ∧
        ∀ i, i < acc + 8 * c.cursor ∨ acc + 8 * c.cursor + 8 ≤ i → Table.getD x.msm i 0 = Table.getD u.msm i 0) ∧
      ∀ wid, wid ∉ c.holders → (s.admitRow id).warp? wid = s.warp? wid

/-- MSMRD as it ends (R71, R276): each accumulator not yet read, narrowed once, goes to its place in the bench, and with ZERO becomes +0; a narrowing of an
AF40 value is that of R71. -/
def AccumulatorReads : Prop :=
  (∀ (t : CvtFmt) (rm : Rm) (x : BitVec 40), match decodeAF40 x with
    | .nan q => t.narrow rm (decodeAF40 x) = nanNarrowed t q
    | .inf neg => t.narrow rm (decodeAF40 x) = infNarrowed t neg 0
    | .num neg m e => NarrowsTo t rm neg ((valueOf (.num neg m e) : ℚ) : ℝ) (t.narrow rm (decodeAF40 x))) ∧
  ∀ (s : State) (id doff rows acc dstride : Nat) (c : Cmd) (g : Wg) (w : Warp) (tf rm : BitVec 3) (zero : Bool), Ends s id c g →
    c.kind = .msmrd doff rows acc dstride tf rm zero → s.warp? c.warp = some w → w.msmFree = none →
    let es := (CvtFmt.ofIndex tf.toNat).width / 8
    let place (m cl : Nat) := benchLocs c.wg (doff + m * dstride + cl * es) es
    ((List.range rows).flatMap (fun m => (List.range 8).flatMap (place m))).Nodup → ∃ t u,
      exec (.engineCommandCompletion id) s = .next t ∧ t.warp? c.warp = some u ∧
      (∀ m cl, m < rows → cl < 8 → c.cursor ≤ 8 * m + cl → 8 * m + cl ∉ c.aside → t.readLocs (place m cl) =
        ((CvtFmt.ofIndex tf.toNat).narrow (Rm.ofCode rm.toNat) (decodeAF40 (Table.getD w.msm (acc + 8 * m + cl) 0))).bits % 256 ^ es) ∧
      (∀ x, (∀ m cl, m < rows → cl < 8 → c.cursor ≤ 8 * m + cl → 8 * m + cl ∉ c.aside → x ∉ place m cl) → t.readLoc x = s.readLoc x) ∧
      ∀ i, Table.getD u.msm i 0 = if zero = true ∧ acc + c.cursor ≤ i ∧ i < acc + 8 * rows ∧ i - acc ∉ c.aside then 0 else Table.getD w.msm i 0

/-- COLL as it ends (R285, R383), for the run of elements that it has not gone through yet, or the last one where some were performed out of
turn: each element of a sum is this device's and those of the others,
added in some order by SIZE less one additions with RNE and narrowed once; the root of a broadcast writes its own elements, and an all-gather puts
them at its rank. Members that do not agree, which this device learns before the first element, write nothing and fault. What other members send is
free (assumption log 4, 59). -/
def CollectiveResults : Prop :=
  ∀ (s : State) (id count group root : Nat) (c : Cmd) (g : Wg) (src dst : Dword) (kind ef rm : BitVec 3) (gr : Group) (ls to_ : List Loc),
    Ends s id c g → c.kind = .coll src dst count group kind ef rm root gr →
    let es := collBytes ef.toNat
    let f := collFmt ef.toNat
    let lo := c.left.headD c.cursor
    let n := c.left.length
    let r := collRun kind.toNat count root gr lo n
    let rank := gr.rank.toNat
    ∃ t, exec (.engineCommandCompletion id) s = .next t ∧
      (c.cursor = 0 → c.aside = [] → gr.size ≠ 1 → Config.collAgrees s.free = false → SameMemory s t ∧
        (c.tag ≠ 0 → c.fault = none → ∃ d x, Table.get? t.cmds id = some d ∧ d.state = .faulted ∧ d.fault = some x ∧ x.code = 0x2F)) ∧
      (c.fault = none → c.cursor ≠ 0 ∨ c.aside ≠ [] ∨ gr.size = 1 ∨ Config.collAgrees s.free = true → c.aside = [] ∨ n = 1 → kind.toNat < 4 → ef.toNat < 3 → rank < gr.size.toNat →
        (kind = 3 → count % gr.size.toNat = 0) → ls.length = es * r.reads → to_.length = es * r.writes → to_.Nodup →
        (r.reads ≠ 0 → s.rangePlaces c.ctx g false (some .read) (src + BitVec.ofNat 64 (es * r.src)) (es * r.reads) = ls.map some) →
        (r.writes ≠ 0 → s.rangePlaces c.ctx g false (some .write) (dst + BitVec.ofNat 64 (es * r.dst)) (es * r.writes) = to_.map some) →
        (∀ k o, Loc.bench k o ∈ to_ → (s.wg? k).isSome = true) →
        (∀ x, x ∉ to_ → t.readLoc x = s.readLoc x) ∧
        (kind = 1 → rank = root → to_.map t.readLoc = ls.map s.readLoc) ∧
        (kind = 2 → ∀ i, i < r.reads → (((to_.drop (es * (rank * count + r.src + i - lo))).take es).map t.readLoc =
          ((ls.drop (es * i)).take es).map s.readLoc)) ∧
        (kind = 0 ∨ kind = 3 → ∀ i, i < r.writes → ∃ others : List FVal, others.length = gr.size.toNat - 1 ∧
          let e := if kind = 0 then i else rank * (count / gr.size.toNat) + r.dst + i - lo
          let own := decodeF f (s.readLocs ((ls.drop (es * e)).take es))
          t.readLocs ((to_.drop (es * i)).take es) = (narrowF f (Rm.ofCode rm.toNat)
            (switchSum (Config.switchOrder group gr.tree.toNat) own others).1).bits % 2 ^ (8 * es)) ∧
        (kind = 0 ∨ kind = 3 → gr.size = 1 → ∀ i, i < n →
          let code := s.readLocs ((ls.drop (es * i)).take es)
          t.readLocs ((to_.drop (es * i)).take es) = match decodeF f code with
            | .nan _ => f.nanCode
            | .inf neg => f.signBit neg + f.maxCode
            | .num _ _ _ => code))

/-- The sum of members' elements (R383): one's own where there are no others, and of two the sum rounded to FP32 with RNE. An addition takes two
neighbours of the row of addends, whose sum stands in their place and whose flags join those before. -/
def SwitchSums : Prop :=
  (∀ (order : Nat → Nat) (x : FVal), switchSum order x [] = (x, 0)) ∧
  (∀ (order : Nat → Nat) (x y : FVal), switchSum order x [y] = if order 0 % 2 = 0 then switchAdd x y else switchAdd y x) ∧
  (∀ (l r : List FVal) (x y : FVal) (fl : BitVec 5),
    treeStep (l ++ x :: y :: r, fl) l.length = (l ++ (switchAdd x y).1 :: r, fl ||| (switchAdd x y).2)) ∧
  ∀ (order : Nat → Nat) (own : FVal) (others : List FVal), ∃ q : Nat → List FVal × BitVec 5,
    (q 0).1.Perm (own :: others) ∧ (q 0).2 = 0 ∧ (∀ j, j < others.length → ∃ k, k + 1 < (q j).1.length ∧ q (j + 1) = treeStep (q j) k) ∧
    ∃ x, q others.length = ([x], (switchSum order own others).2) ∧ (switchSum order own others).1 = x

/-- CBULK as it ends (R195, R286): each element of a region that is not yet done gets the value of its operation with its operand. -/
def BulkResults : Prop :=
  (∀ (rm : Rm) (d x : Nat), d < 2 ^ 32 → x < 2 ^ 32 →
    (bulkElem 0 2 rm d x).1 = (d + x) % 2 ^ 32 ∧ (bulkElem 3 2 rm d x).1 = d * x % 2 ^ 32 ∧
    (bulkElem 1 2 rm d x).1 = (if (BitVec.ofNat 32 d).slt (BitVec.ofNat 32 x) then d else x) ∧
    (bulkElem 2 2 rm d x).1 = (if (BitVec.ofNat 32 d).slt (BitVec.ofNat 32 x) then x else d) ∧
    ∀ o < 4, let one (f : Fmt) (d x : Nat) := match o with
        | 0 => fAdd f rm d x
        | 1 => minMax f false d x
        | 2 => minMax f true d x
        | _ => fMul f rm d x
      (bulkElem o 2 rm d x).2 = [] ∧ bulkElem o 0 rm d x = ((one .fp32 d x).bits, [(one .fp32 d x).flags]) ∧
      bulkElem o 1 rm d x =
        ((one .bf16 (d % 2 ^ 16) (x % 2 ^ 16)).bits + 2 ^ 16 * (one .bf16 (d / 2 ^ 16) (x / 2 ^ 16)).bits,
          [(one .bf16 (d % 2 ^ 16) (x % 2 ^ 16)).flags, (one .bf16 (d / 2 ^ 16) (x / 2 ^ 16)).flags])) ∧
  ∀ (s : State) (id count : Nat) (c : Cmd) (g : Wg) (dst src : Dword) (opn rm : BitVec 3) (ef : BitVec 2) (imm : Bool) (x : Word)
    (to_ from_ : Nat → List Nat), Ends s id c g → c.kind = .cbulk dst src count opn ef rm imm x →
    (∀ m, (∀ a, (∀ i, i < count → a ∉ to_ i) → ({ s with mem := m } : State).readByte a = s.readByte a) → ∀ i, i < count →
      ({ s with mem := m } : State).rangePlaces c.ctx g false (some .both) (dst + BitVec.ofNat 64 (4 * i)) 4 = (to_ i).map (fun a => some (.phys a)) ∧
      (imm = false → ({ s with mem := m } : State).rangePlaces c.ctx g false (some .read) (src + BitVec.ofNat 64 (4 * i)) 4 =
        (from_ i).map (fun a => some (.phys a)))) →
    (∀ i, i < count → (to_ i).Nodup ∧ (to_ i).length = 4 ∧ (from_ i).length = 4 ∧
      ∀ j, j < i → (∀ a ∈ to_ i, a ∉ to_ j) ∧ ∀ a ∈ from_ i, a ∉ to_ j) →
    ∃ t, exec (.engineCommandCompletion id) s = .next t ∧
      (∀ i, c.cursor ≤ i → i ∉ c.aside → i < count → t.readLocs ((to_ i).map .phys) = (bulkElem opn.toNat ef.toNat (Rm.ofCode rm.toNat) (s.readLocs ((to_ i).map .phys))
        (if imm then x.toNat else s.readLocs ((from_ i).map .phys))).1 % 2 ^ 32) ∧
      ∀ y, (∀ i, c.cursor ≤ i → i ∉ c.aside → i < count → y ∉ (to_ i).map Loc.phys) → t.readLoc y = s.readLoc y

/-- A copy that ends (R243, R262): the bytes that a receiver has had and that are still to be counted are counted now; one without such bytes, and
a COMPACT (R287), leave memory as it is. -/
def CopiesEnd : Prop :=
  ∀ (s : State) (id k m rows aoff n size : Nat) (c : Cmd) (g h : Wg) (src dst : Dword) (ss ds : Int) (aw multi : Bool) (dir : BitVec 2)
      (mask : BitVec 8), Ends s id c g → (c.kind.copyRows.isSome = true ∨ ∃ a b, c.kind = .compact a b) →
    ∃ t, exec (.engineCommandCompletion id) s = .next t ∧
      (c.counts = [] ∨ c.kind.copyRows = none → SameMemory s t) ∧
      (c.kind = .tcopy src dst size rows ss ds aoff aw dir mask multi → c.counts = [(m, n)] → 0 < n →
        s.memberPlace g.team m aoff = some (k, h, aoff) → (s.wg? k).isSome = true →
        s.arrivalField (.bench k aoff) 3 % 2 = 1 → s.arrivalField (.bench k aoff) 0 ≠ 0 →
        t.arrivalField (.bench k aoff) 1 = (s.arrivalField (.bench k aoff) 1 + n) % s.arrivalField (.bench k aoff) 0 ∧
        t.arrivalField (.bench k aoff) 2 =
          (s.arrivalField (.bench k aoff) 2 + (s.arrivalField (.bench k aoff) 1 + n) / s.arrivalField (.bench k aoff) 0) % 2 ^ 32)

/-! ### Resets -/

/-- The machine after a reset that every step of bring-up passes (R19, R373, R385, R386): memory outside CMEM is kept, under the new die map's
numbers, CMEM is zero, and nothing but saved images is left of what ran. -/
def Booted (s : State) (num : BitVec 10) (dom : BitVec 12) (port : PortMode) (t : State) : Prop :=
  t.boot.steps = List.replicate 10 (0, 0) ∧ t.boot.bootno = s.boot.bootno + 1 ∧ t.boot.swap = false ∧ t.lostDies = 0 ∧
    t.unusable = false ∧ t.interrupts = [(0, .bootDone)] ∧ t.devnum = num ∧ t.domain = dom ∧ t.portMode = port ∧ t.queues = [] ∧
    (∀ p ∈ t.teams, p.2.state = .waiting ∨ p.2.state = .saved) ∧
    (Canonical s → (∀ y, cmemBase ≤ y → y < cmemEnd → t.readByte y = 0) ∧
      ∀ y, y < linearEnd ∨ domainBase ≤ y → t.readByte y = s.readByte (if s.boot.swap = true ∧ y < linearEnd then
        (y / stackBytes + 4) % 8 * stackBytes + y % stackBytes else y))

end Sys2Proof.Safety
end

