-- ==== Sys2Proof/Certificates/Slice0/Obligations.lean ====
section
/-! DEFINITION. The statements of this model, from the numbered rules of the spec. -/

open Sys2Proof Sys2Proof.Machine Sys2Proof.Safety

/-- Decoding and encoding agree (R89, R105, R109): for every instruction that holds no reserved value, the word written for it with any
chain bit and stall count decodes to that chain bit, that stall count and that instruction with every operand. -/
def Obligations.EncodeThenDecode : Prop :=
  ∀ (i : Instr) (chain : Bool) (stall : BitVec 3) (w : Word), i.wf = true → encodeWord chain stall i = some w →
    decode w = .ok ⟨chain, stall, i⟩

/-- Every word that decodes is the word of what it decodes to: no bit of a word is ignored, and what it decodes to is an instruction
that holds no reserved value; and the opcodes that the opcode map calls illegal are refused whatever the other bits (R89, R92, R105, R109). -/
def Obligations.DecodeThenEncode : Prop :=
  (∀ (w : Word) (d : Decoded), decode w = .ok d →
    d.instr.wf = true ∧ d.instr.isWord = true ∧ encodeWord d.chain d.stall d.instr = some w) ∧
  ∀ (w : Word), opcodeOf w ∈ [0x00#6, 0x1E#6, 0x1F#6, 0x2F#6] → decode w = .error .opcode

/-- Words written out field by field from the layouts of R89, R105 and R109, one of each format, decode to what they stand for. -/
def Obligations.SpecWordsDecode : Prop :=
  -- RS: C 0, S 0, OP 0x01, D 3, A 1, B 2, FN 0
  decode (0#1 ++ 0#3 ++ 0x01#6 ++ 3#6 ++ 1#6 ++ 2#6 ++ 0#4) = .ok ⟨false, 0, .sadd 3 1 2⟩ ∧
  -- I: C 1, S 0, OP 0x03, D 50, A 49, IMM10 -1
  decode (1#1 ++ 0#3 ++ 0x03#6 ++ 50#6 ++ 49#6 ++ 0x3FF#10) = .ok ⟨true, 0, .saddi 50 49 0x3FF⟩ ∧
  -- K: C 0, S 2, OP 0x08, D 9, IMM16 0x1234
  decode (0#1 ++ 2#3 ++ 0x08#6 ++ 9#6 ++ 0x1234#16) = .ok ⟨false, 2, .smovk 9 0x1234⟩ ∧
  -- B: OP 0x0A, COND 1, A 4, OFF12 -2
  decode (0#1 ++ 0#3 ++ 0x0A#6 ++ 1#4 ++ 4#6 ++ 0xFFE#12) = .ok ⟨false, 0, .brcNez 4 0xFFE⟩ ∧
  -- L: OP 0x0B, OFF22 5
  decode (0#1 ++ 0#3 ++ 0x0B#6 ++ 5#22) = .ok ⟨false, 0, .jmp 5⟩ ∧
  -- R: OP 0x11, D 5, A 6, B 7, HA 1, HB 0, X 0
  decode (0#1 ++ 0#3 ++ 0x11#6 ++ 5#6 ++ 6#6 ++ 7#6 ++ 1#1 ++ 0#1 ++ 0#2) = .ok ⟨false, 0, .vadd 5 6 7 1 0⟩ ∧
  -- F: OP 0x20, D 8, A 9, B 10, RM 010, X 0
  decode (0#1 ++ 0#3 ++ 0x20#6 ++ 8#6 ++ 9#6 ++ 10#6 ++ 2#3 ++ 0#1) = .ok ⟨false, 0, .vfadd 8 9 10 2⟩ ∧
  -- M: OP 0x30, T 11, A 12, OFF6 -3, SZ 11, O 01
  decode (0#1 ++ 0#3 ++ 0x30#6 ++ 11#6 ++ 12#6 ++ 0x3D#6 ++ 3#2 ++ 1#2) = .ok ⟨false, 0, .sld 11 12 0x3D 3 1⟩ ∧
  -- AM: OP 0x3A, D 13, A 14, FN 0, O 11, SZ 10, SC 01
  decode (0#1 ++ 0#3 ++ 0x3A#6 ++ 13#6 ++ 14#6 ++ 0#4 ++ 3#2 ++ 2#2 ++ 1#2) = .ok ⟨false, 0, .amoAdd 13 14 3 2 1⟩ ∧
  -- E: OP 0x3D, SUB 0, SA 16, SB 20, ACQ 1, REL 0, SCOPE 10, HOLD 1
  decode (0#1 ++ 0#3 ++ 0x3D#6 ++ 0#4 ++ 16#6 ++ 20#6 ++ 1#1 ++ 0#1 ++ 2#2 ++ 1#1 ++ 0#1) =
    .ok ⟨false, 0, .tcopy 16 20 1 0 2 1⟩ ∧
  -- the all-zero word
  decode 0#32 = .error .opcode

/-! ### A step runs the decoded instructions -/

/-- A group that issues is the group at its fragment's pc (R90, R91): its words are those fetched there, each of them decodes, and no
check of R92 or R353 finds a trap in it. -/
def Obligations.IssuedGroupIsAtThePc : Prop :=
  ∀ (s : State) (fid : Nat) (g : Fetched), s.attempt fid = .run g →
    ∃ v, s.nextView fid = some v ∧ s.ready v = true ∧
      s.fetchGroup (s.ctxOfWg v.g) (s.bodyOf v.fid v.f v.w) v.f.pc = .ok g ∧
      s.groupFault v g.words (decodeAll g.words) = none ∧
      ∀ j, j < g.words.length → ∃ i, (decodeAll g.words)[j]? = some (some i)

/-- A word of code is read from memory little-endian (R89, R91): where no body serves the fragment and no word fetched before is at hand, the
word at an address is the value of the four bytes that translation names from that address on, the byte at the address lowest. That such a fetch
reads memory as it stands at that moment, and that a core holds fetched words only where the agenda says so, is the model's choice (log 32). -/
def Obligations.WordsAreFetchedLittleEndian : Prop :=
  ∀ (s : State) (c : Nat) (a : Dword) (l0 l1 l2 l3 : Loc),
    s.fetchByte c a = .ok l0 → s.fetchByte c (a + 1) = .ok l1 → s.fetchByte c (a + 2) = .ok l2 → s.fetchByte c (a + 3) = .ok l3 →
    s.codeWord c [] a = .ok (wordOfBytes (s.readLoc l0) (s.readLoc l1) (s.readLoc l2) (s.readLoc l3), [l0, l1, l2, l3])

/-- A step that gives fragment fid its next group, because the agenda says so and it is the fragment's turn on its core (R341), or in the
model's own order, runs the words of that group, once its code has been requested for the context, and what follows by itself follows. That the
agenda says what comes next, each of whose inputs counts towards a window, is the model's choice (log 5, 9); that a code fetch is a request, which sets DIEMASK bits (R21), is the model's reading
(log 27), and so is that a first window opens before the group (log 50). -/
def Obligations.StepRunsTheGroup : Prop :=
  ∀ (s : State) (fid : Nat) (v : View) (g : Fetched), s.unusable = false →
    let r : State := { s with agenda := s.agenda.tail }
    let u := r.openWindow fid
    (s.agenda.head? = some (.issue fid) ∧ r.issueTurn fid = true) ∨ (s.agenda = [] ∧ s.nextOwn = .issue fid) →
    u.nextView fid = some v → u.attempt fid = .run g → u.namesLost (u.fetchRequest v (.run g)) = false →
    let t := (u.markDies (u.ctxOfWg v.g) (u.dieBitsOf (u.fetchRequest v (.run g)))).runGroup v g.words
    step s = settled (if s.agenda = [] then t else spent t)

/-- A group of one word runs exec of the instruction that the word decodes to, in the state in which the group has begun (its wait over,
its lane blocks claimed, its queue entries taken), and then ends (R93, R95); the group of a CAPENT that finds its record held has not issued,
and waits (R310). -/
def Obligations.GroupRunsItsWord : Prop :=
  ∀ (s : State) (v : View) (w : Word) (d : Decoded) (t : State), decode w = .ok d →
    ((s.beginGroup v [w]).frag? v.fid).isSome = true →
    exec d.instr ((s.beginGroup v [w]).modIssue (fun x => { x with word := 0 })) = .next t →
    s.runGroup v [w] =
      match t.capWaits with
      | some r => .next (s.capWait v r.1 r.2 t)
      | none => .next (t.finishGroup { v with i := issueOf v.fid v.f v.w 1 d.stall.toNat } [some d.instr] s.serial)

/-- The machine never declines: no step answers a refusal. -/
def Obligations.StepNeverRefuses : Prop := ∀ (s : State) (r : Refusal), step s ≠ .refused r

/-! ### Reset, memory -/

/-- The memory of the machine after reset has the canonical form. -/
def Obligations.ResetIsCanonical : Prop := Canonical State.reset

/-- Every step keeps the canonical form of memory, from every state that has it. -/
def Obligations.StepKeepsMemoryCanonical : Prop := ∀ (s t : State), Canonical s → step s = .next t → Canonical t

/-- After reset (R385, R386, with every step of bring-up passed and the registers zero, as the model's choices of log 1 and 2 say): the boot record says that every step passed and
that no stack is skipped, the die map is not swapped, the boot notice is posted, CMEM is clear, the device is usable with no die lost, and
nothing runs. -/
def Obligations.ResetIsBootedAndIdle : Prop :=
  State.reset.boot.steps = List.replicate 10 (0, 0) ∧ State.reset.boot.swap = false ∧
    (∀ n, State.reset.skipped n = false) ∧ State.reset.interrupts = [(0, .bootDone)] ∧
    (∀ a, cmemBase ≤ a → a < cmemEnd → State.reset.readByte a = 0) ∧
    State.reset.unusable = false ∧ State.reset.lostDies = 0 ∧
    State.reset.grids = [] ∧ State.reset.frags = [] ∧ State.reset.cmds = [] ∧ State.reset.ops = [] ∧
    (∀ q, State.reset.queue q = {}) ∧ State.reset.cmdBusy = false

/-- Memory is little-endian (R216): a value written at distinct locations that exist reads back from them modulo its size, and every other
location reads as before. -/
def Obligations.ValuesReadBackLittleEndian : Prop :=
  ∀ (s : State) (ls : List Loc) (x : Nat), ls.Nodup → (∀ g o, Loc.bench g o ∈ ls → (s.wg? g).isSome = true) →
    (s.writeLocs ls x).readLocs ls = x % 256 ^ ls.length ∧
    ∀ m, m ∉ ls → (s.writeLocs ls x).readLoc m = s.readLoc m

/-! ### Ticks and visibility -/

/-- A fragment's tick after a group (R95): one more and the stall count, and at least Vmax where the group holds a visibility point. Its pc,
its lanes and its open records are not touched by the passing of ticks. -/
def Obligations.TicksAfterAGroup : Prop :=
  ∀ (s : State) (fid : Nat) (f : Frag) (i : Issue), s.frag? fid = some f →
    ∃ g, (s.endTicks fid f i).frag? fid = some g ∧
      g.t = (if i.visible then max (f.t + 1 + i.stall) f.vmax else f.t + 1 + i.stall) ∧
      g.pc = f.pc ∧ g.lm = f.lm ∧ g.records = f.records ∧ g.hnd = f.hnd

/-- Which value a register holds at a tick (R97), for two fixed-latency writes of one scalar register, y issued after x: the value before
both while neither is visible, else the write with the greater vis not above the tick, and of equal ones the later issued. A vector write
changes the lanes that it lists, from its tick on, and no other element of any register (R143); and a write of a mask (R154), of FMT, of QMAP,
of a k register or of a trap register or DBG changes that register and no other of them from its tick on, and nothing before it (R135). -/
def Obligations.VisibleWriteAtATick : Prop :=
  ∀ (s : State) (fid : Nat) (f : Frag) (w : Warp) (n a b t : Nat) (x y : Dword) (vals : List (Nat × Word)) (sel z : Lanes) (fmt : Word)
    (qm : BitVec 8),
    s.frag? fid = some f → s.warp? f.warp = some w → f.pend = [] →
    let at_ (p : PendVal) : State := (s.setFrag fid (f.addPend ⟨a, p⟩)).setTick fid t
    scalarOf ((s.setFrag fid ((f.addPend ⟨a, .scal n x⟩).addPend ⟨b, .scal n y⟩)).setTick fid t) fid n =
      (if b ≤ t ∧ (a ≤ b ∨ t < a) then y else if a ≤ t then x else scalarOf s fid n) ∧
    ((vals.map Prod.fst).Nodup → ∃ u, (at_ (.vec n vals)).warp? f.warp = some u ∧
      (∀ q ∈ vals, a ≤ t → Table.getD u.v (64 * n + q.1) 0 = q.2) ∧
      (∀ k, t < a ∨ (∀ q ∈ vals, k ≠ 64 * n + q.1) → Table.getD u.v k 0 = Table.getD w.v k 0)) ∧
    (∃ g, (at_ (.mask n sel z)).frag? fid = some g ∧ g.fmt = f.fmt ∧ g.fstat = f.fstat ∧ g.s = f.s ∧
      ∀ k, Table.getD g.m k 0 = if k = n ∧ a ≤ t then (Table.getD f.m n 0 &&& ~~~sel) ||| (z &&& sel) else Table.getD f.m k 0) ∧
    (∃ g, (at_ (.fmt fmt)).frag? fid = some g ∧ g.fmt = (if a ≤ t then fmt else f.fmt) ∧ g.m = f.m ∧ g.fstat = f.fstat ∧ g.s = f.s) ∧
    (∃ u, (at_ (.qmap qm)).warp? f.warp = some u ∧ u = { w with qmap := if a ≤ t then qm else w.qmap }) ∧
    (∃ u, (at_ (.kreg n x)).warp? f.warp = some u ∧ u.v = w.v ∧ u.s = w.s ∧
      ∀ k, Table.getD u.k k 0 = if k = n ∧ a ≤ t then x else Table.getD w.k k 0) ∧
    (∃ u, (at_ (.ctl 0x011 x)).warp? f.warp = some u ∧ u = { w with dbg := if a ≤ t then x.setWidth 32 &&& 1 else w.dbg }) ∧
    (∀ c, c ∈ [0x009, 0x00A, 0x00B, 0x00C, 0x00D, 0x00E] → ∃ g, (at_ (.ctl c x)).frag? fid = some g ∧
      let now (k : Nat) (old : Dword) : Dword := if c = k ∧ a ≤ t then (if k = 0x00B then x &&& 0x3FFFFFF else x) else old
      g.tsave0 = now 0x009 f.tsave0 ∧ g.tsave1 = now 0x00A f.tsave1 ∧ g.tsave2 = now 0x00B f.tsave2 ∧ g.tsave3 = now 0x00C f.tsave3 ∧
      g.tnext = now 0x00E f.tnext ∧
      g.faultmask = (if c = 0x00D ∧ a ≤ t then x &&& (f.replay.map Replay.pending).getD 0 else f.faultmask) ∧
      g.replay = (if c = 0x00A ∧ a ≤ t ∧ x.getLsbD 2 = false then none else f.replay) ∧ g.hnd = f.hnd ∧ g.pc = f.pc)

/-- Flags become part of FSTAT when their result becomes visible, and are sticky (R81, R82): a contribution at tick a leaves FSTAT as it was
before that tick and adds its flags from that tick on; with a SETCR to FSTAT of the same tick, the written value and the contribution. A word
that may raise flags leaves such a contribution whether or not it raises one, for CHECK sees it at the destination (R98; log 20). -/
def Obligations.FlagsBecomeVisible : Prop :=
  (∀ (s : State) (fid : Nat) (f : Frag) (w : Warp) (a t : Nat) (x y : BitVec 5),
    s.frag? fid = some f → s.warp? f.warp = some w → f.pend = [] →
    (((s.setFrag fid (f.addPend ⟨a, .flags x⟩)).setTick fid t).frag? fid).map Frag.fstat =
      some (if a ≤ t then f.fstat ||| x else f.fstat) ∧
    (((s.setFrag fid ((f.addPend ⟨a, .flags x⟩).addPend ⟨a, .fstat y⟩)).setTick fid t).frag? fid).map Frag.fstat =
      some (if a ≤ t then y ||| x else f.fstat)) ∧
  ∀ (s : State) (v : View) (f : Frag) (lat : Nat) (fs : List (BitVec 5)), s.frag? v.fid = some f →
    (s.raiseFlags v lat fs).frag? v.fid = some (f.addPend ⟨v.t + lat, .flags (fs.foldl (· ||| ·) 0)⟩)

/-! ### Traps -/

/-- Taking a trap (R319, R320, R355, R357): a fragment outside a handler, with a TVEC, saves its pc in TSAVE0, the status in TSAVE1 (the word,
RPL, DEFER, the classes of EVENT_LIMIT, and for the holder of a capsule CAP, ADOPT and the step being run, counted from 1 as log 12 says), code
and detail in TSAVE2 and the address at fault in TSAVE3, with FAULTMASK and TNEXT of the replay record; HND becomes 1 and the pc TVEC.
Active and the wait sets are kept, and so are FMT, FSTAT, the masks and the scalars where no earlier result is still to become visible. That the
trap's registers hold these values although an earlier write of them was still to become visible is the model's reading (log 51). -/
def Obligations.TrapEntersTheHandler : Prop :=
  ∀ (s : State) (fid : Nat) (f : Frag) (w : Warp) (g : Wg) (t : Trap) (pc : Dword) (replay : Option (Replay × Dword)) (defer : Bool),
    s.frag? fid = some f → s.warp? f.warp = some w → s.wg? w.wg = some g → w.planer = none → f.hnd = false → g.handler ≠ 0 →
    ∃ h, (s.takeTrap fid t pc replay defer).frag? fid = some h ∧
      h.tsave0 = pc ∧
      bitsAt h.tsave1 0 2 = t.word % 4 ∧ h.tsave1.getLsbD 2 = replay.isSome ∧ h.tsave1.getLsbD 5 = defer ∧
      bitsAt h.tsave1 20 4 = t.evt.toNat ∧ h.tsave1 &&& tsave1Reserved = 0 ∧
      (∀ c, w.capsule = some c → c.frag = fid →
        h.tsave1.getLsbD 6 = true ∧ h.tsave1.getLsbD 7 = c.adopting ∧ bitsAt h.tsave1 8 8 = min (c.stepAt pc + 1) 16) ∧
      ((∀ c, w.capsule = some c → c.frag ≠ fid) → bitsAt h.tsave1 6 10 = 0) ∧
      bitsAt h.tsave2 0 8 = t.code.toNat ∧ bitsAt h.tsave2 8 18 = t.detail.toNat ∧ bitsAt h.tsave2 26 38 = 0 ∧
      h.tsave3 = t.addr ∧
      h.faultmask = (match replay with
        | some r => r.1.pending
        | none => 0) ∧
      h.tnext = (match replay with
        | some r => r.2
        | none => 0) ∧
      h.replay = replay.map Prod.fst ∧ h.hnd = true ∧ h.pc = g.tvec &&& ~~~(3#64) ∧
      h.t = max f.t f.vmax ∧ h.lm = f.lm ∧ h.records = f.records ∧ h.lc = f.lc ∧ h.sc = f.sc ∧ h.ec = f.ec ∧
      (f.pend = [] → h.fmt = f.fmt ∧ h.fstat = f.fstat ∧ h.m = f.m ∧ h.s = f.s)

/-- A trap in a handler, or without a TVEC, makes the context dead with the trap's code as its cause (R357); no fragment, warp or workgroup of
the context is left in the next state, nor any operation or engine command of it, and none of its queues is enabled (R370, R371). -/
def Obligations.TrapInHandlerKillsTheContext : Prop :=
  ∀ (s : State) (fid : Nat) (f : Frag) (w : Warp) (g : Wg) (t : Trap) (pc : Dword) (replay : Option (Replay × Dword)) (defer : Bool),
    s.frag? fid = some f → s.warp? f.warp = some w → s.wg? w.wg = some g → w.planer = none → (f.hnd = true ∨ g.handler = 0) →
    (s.ctx (s.ctxOfWg g)).dead = none →
    let u := s.takeTrap fid t pc replay defer
    let c := s.ctxOfWg g
    (u.ctx c).dead = some t.code ∧ u.frag? fid = none ∧
      (∀ j h x, u.frag? j = some h → s.warp? h.warp = some x → s.ctxOfWarp x ≠ c) ∧
      (∀ j x y, u.warp? j = some x → s.warp? j = some y → s.ctxOfWarp y ≠ c) ∧
      (∀ j x y, u.wg? j = some x → s.wg? j = some y → s.ctxOfWg y ≠ c) ∧
      (∀ j o, Table.get? u.ops j = some o → o.ctx ≠ c) ∧ (∀ j k, Table.get? u.cmds j = some k → k.ctx ≠ c) ∧
      ∀ q, (u.queue q).ctxid.toNat = c → (u.queue q).en = false

/-- A word that raises a trap has no effect of its own (R351, R353): exec takes the trap that the checks find, with the word's index and the
group's address as its pc, for every word of the instruction set. -/
def Obligations.WordTrapIsTaken : Prop :=
  ∀ (s : State) (v : View) (i : Instr) (x : Found), i.isWord = true → s.view? = some v → s.wordTrap v i = some x →
    exec i s = .next (s.raiseIssue v i x.trap)

/-- TRET at the end of its group (R322): HND becomes 0, the replay record is used up, and the pc is TNEXT after a replay, else TSAVE0. -/
def Obligations.TretLeavesTheHandler : Prop :=
  ∀ (v : View) (i : Issue) (rpl : Bool), i.ctl = .tret rpl →
    (v.f.goOn i (chosenPc v i)).hnd = false ∧ (v.f.goOn i (chosenPc v i)).replay = none ∧
      (v.f.goOn i (chosenPc v i)).pc = if v.f.tsave1.getLsbD 2 then v.f.tnext else v.f.tsave0

/-! ### Scalar words -/

/-- SALU (R118): each instruction, wherever it may run, answers the state with one more pending write, visible one tick on, of the value
that R118 gives to s[D] (to k[D] inside a capsule body, R106); nothing else changes. -/
def Obligations.SaluResults : Prop :=
  ∀ (s : State) (v : View) (d a b : BitVec 6),
    (Runs s v (.sadd d a b) → exec (.sadd d a b) s = .next (s.putScalar v 1 d (v.s a.toNat + v.s b.toNat))) ∧
    (Runs s v (.ssub d a b) → exec (.ssub d a b) s = .next (s.putScalar v 1 d (v.s a.toNat - v.s b.toNat))) ∧
    (Runs s v (.smul d a b) → exec (.smul d a b) s = .next (s.putScalar v 1 d (v.s a.toNat * v.s b.toNat))) ∧
    (Runs s v (.smulh d a b) → exec (.smulh d a b) s =
      .next (s.putScalar v 1 d (((v.s a.toNat).signExtend 128 * (v.s b.toNat).signExtend 128).extractLsb' 64 64))) ∧
    (Runs s v (.smulhu d a b) → exec (.smulhu d a b) s =
      .next (s.putScalar v 1 d (((v.s a.toNat).zeroExtend 128 * (v.s b.toNat).zeroExtend 128).extractLsb' 64 64))) ∧
    (Runs s v (.sand d a b) → exec (.sand d a b) s = .next (s.putScalar v 1 d (v.s a.toNat &&& v.s b.toNat))) ∧
    (Runs s v (.sor d a b) → exec (.sor d a b) s = .next (s.putScalar v 1 d (v.s a.toNat ||| v.s b.toNat))) ∧
    (Runs s v (.sxor d a b) → exec (.sxor d a b) s = .next (s.putScalar v 1 d (v.s a.toNat ^^^ v.s b.toNat))) ∧
    (Runs s v (.sshl d a b) → exec (.sshl d a b) s =
      .next (s.putScalar v 1 d (v.s a.toNat <<< ((v.s b.toNat).extractLsb' 0 6).toNat))) ∧
    (Runs s v (.sshr d a b) → exec (.sshr d a b) s =
      .next (s.putScalar v 1 d (v.s a.toNat >>> ((v.s b.toNat).extractLsb' 0 6).toNat))) ∧
    (Runs s v (.ssra d a b) → exec (.ssra d a b) s =
      .next (s.putScalar v 1 d ((v.s a.toNat).sshiftRight ((v.s b.toNat).extractLsb' 0 6).toNat))) ∧
    (Runs s v (.smin d a b) → exec (.smin d a b) s =
      .next (s.putScalar v 1 d (if (v.s b.toNat).slt (v.s a.toNat) then v.s b.toNat else v.s a.toNat))) ∧
    (Runs s v (.smax d a b) → exec (.smax d a b) s =
      .next (s.putScalar v 1 d (if (v.s a.toNat).slt (v.s b.toNat) then v.s b.toNat else v.s a.toNat))) ∧
    (Runs s v (.sminu d a b) → exec (.sminu d a b) s =
      .next (s.putScalar v 1 d (if (v.s b.toNat).ult (v.s a.toNat) then v.s b.toNat else v.s a.toNat))) ∧
    (Runs s v (.smaxu d a b) → exec (.smaxu d a b) s =
      .next (s.putScalar v 1 d (if (v.s a.toNat).ult (v.s b.toNat) then v.s b.toNat else v.s a.toNat))) ∧
    (Runs s v (.sslt d a b) → exec (.sslt d a b) s =
      .next (s.putScalar v 1 d (if (v.s a.toNat).slt (v.s b.toNat) then 1 else 0)))

/-- SALU2 (R119): the same with the values that R119 gives; a division is visible eight ticks on and never traps, a divisor of 0 gives all
ones and the dividend. -/
def Obligations.Salu2Results : Prop :=
  ∀ (s : State) (v : View) (d a b : BitVec 6),
    (Runs s v (.ssltu d a b) → exec (.ssltu d a b) s =
      .next (s.putScalar v 1 d (if (v.s a.toNat).ult (v.s b.toNat) then 1 else 0))) ∧
    (Runs s v (.sdiv d a b) → exec (.sdiv d a b) s =
      .next (s.putScalar v 8 d (if v.s b.toNat = 0 then -1 else (v.s a.toNat).sdiv (v.s b.toNat)))) ∧
    (Runs s v (.sdivu d a b) → exec (.sdivu d a b) s =
      .next (s.putScalar v 8 d (if v.s b.toNat = 0 then -1 else (v.s a.toNat).udiv (v.s b.toNat)))) ∧
    (Runs s v (.srem d a b) → exec (.srem d a b) s =
      .next (s.putScalar v 8 d (if v.s b.toNat = 0 then v.s a.toNat
        else v.s a.toNat - v.s b.toNat * (v.s a.toNat).sdiv (v.s b.toNat)))) ∧
    (Runs s v (.sremu d a b) → exec (.sremu d a b) s =
      .next (s.putScalar v 8 d (if v.s b.toNat = 0 then v.s a.toNat
        else v.s a.toNat - v.s b.toNat * (v.s a.toNat).udiv (v.s b.toNat)))) ∧
    (Runs s v (.sclz d a) → ∃ n, exec (.sclz d a) s = .next (s.putScalar v 1 d n) ∧ n.toNat ≤ 64 ∧
      (∀ i, 64 - n.toNat ≤ i → (v.s a.toNat).getLsbD i = false) ∧
      (n.toNat < 64 → (v.s a.toNat).getLsbD (63 - n.toNat) = true)) ∧
    (Runs s v (.spopc d a) → exec (.spopc d a) s =
      .next (s.putScalar v 1 d (BitVec.ofNat 64 ((List.range 64).countP (fun i => (v.s a.toNat).getLsbD i))))) ∧
    (Runs s v (.sbrev d a) → ∃ x, exec (.sbrev d a) s = .next (s.putScalar v 1 d x) ∧
      ∀ i, i < 64 → x.getLsbD i = (v.s a.toNat).getLsbD (63 - i)) ∧
    (∀ (wc : BitVec 6) (n : Nat), (wc, n) ∈ [(0#6, 8), (1#6, 16), (2#6, 32)] →
      (Runs s v (.ssext d a wc) → exec (.ssext d a wc) s =
        .next (s.putScalar v 1 d (((v.s a.toNat).setWidth n).signExtend 64))) ∧
      (Runs s v (.szext d a wc) → exec (.szext d a wc) s =
        .next (s.putScalar v 1 d (((v.s a.toNat).setWidth n).zeroExtend 64))))

/-- The I- and K-format instructions and SSHI (R120 to R122): the results of constants, visible one tick on. -/
def Obligations.ScalarConstantResults : Prop :=
  ∀ (s : State) (v : View) (d a amt : BitVec 6) (imm : BitVec 10) (k : BitVec 16),
    (Runs s v (.saddi d a imm) → exec (.saddi d a imm) s = .next (s.putScalar v 1 d (v.s a.toNat + imm.signExtend 64))) ∧
    (Runs s v (.sandi d a imm) → exec (.sandi d a imm) s = .next (s.putScalar v 1 d (v.s a.toNat &&& imm.signExtend 64))) ∧
    (Runs s v (.sori d a imm) → exec (.sori d a imm) s = .next (s.putScalar v 1 d (v.s a.toNat ||| imm.signExtend 64))) ∧
    (Runs s v (.sxori d a imm) → exec (.sxori d a imm) s = .next (s.putScalar v 1 d (v.s a.toNat ^^^ imm.signExtend 64))) ∧
    (Runs s v (.sshiShl d a amt) → exec (.sshiShl d a amt) s = .next (s.putScalar v 1 d (v.s a.toNat <<< amt))) ∧
    (Runs s v (.sshiShr d a amt) → exec (.sshiShr d a amt) s = .next (s.putScalar v 1 d (v.s a.toNat >>> amt))) ∧
    (Runs s v (.sshiSra d a amt) → exec (.sshiSra d a amt) s = .next (s.putScalar v 1 d ((v.s a.toNat).sshiftRight' amt))) ∧
    (Runs s v (.sshiRor d a amt) → ∃ x, exec (.sshiRor d a amt) s = .next (s.putScalar v 1 d x) ∧
      ∀ i, i < 64 → x.getLsbD i = (v.s a.toNat).getLsbD ((i + amt.toNat) % 64)) ∧
    (Runs s v (.smovk d k) → exec (.smovk d k) s = .next (s.putScalar v 1 d (k.signExtend 64))) ∧
    (Runs s v (.smovks d k) → exec (.smovks d k) s = .next (s.putScalar v 1 d ((v.s d.toNat).extractLsb' 0 48 ++ k)))

/-- When a scalar arithmetic word traps (R45, R98, R106, R117, R309). Outside a capsule body its checks find SPLIT_SCALAR exactly where it writes
one of s0 to s47 while its warp is split; inside a body, ILLEGAL_OP with the opcode exactly where it names a register above k7. Under CHECK, outside
the planer, it raises SCOREBOARD with the register exactly where a source or its destination has a result that is outstanding without a WAITC, a
source one not yet visible, or its destination one that becomes visible later. A group of it alone, outside a body, traps as these say. That of
one word SPLIT_SCALAR comes before SCOREBOARD, and source A before B before the destination as the register reported, where R353 gives no order
within a word, is the model's reading (log 22). -/
def Obligations.ScalarWordTraps : Prop :=
  ∀ (s : State) (v : View) (d a b : BitVec 6) (i : Instr) (op : BitVec 18) (lat : Nat),
    (i, op, lat) ∈ [(Instr.sadd d a b, 0x01#18, 1), (.ssub d a b, 0x01, 1), (.smul d a b, 0x01, 1), (.smulh d a b, 0x01, 1),
      (.smulhu d a b, 0x01, 1), (.sand d a b, 0x01, 1), (.sor d a b, 0x01, 1), (.sxor d a b, 0x01, 1), (.sshl d a b, 0x01, 1),
      (.sshr d a b, 0x01, 1), (.ssra d a b, 0x01, 1), (.smin d a b, 0x01, 1), (.smax d a b, 0x01, 1), (.sminu d a b, 0x01, 1),
      (.smaxu d a b, 0x01, 1), (.sslt d a b, 0x01, 1), (.ssltu d a b, 0x02, 1), (.sdiv d a b, 0x02, 8), (.sdivu d a b, 0x02, 8),
      (.srem d a b, 0x02, 8), (.sremu d a b, 0x02, 8)] →
    let found (x : Found) := (x.trap.code, x.trap.detail)
    let split := decide (d.toNat < 48) && decide (1 < (s.fragsOf v.wid).length)
    let reg (n : BitVec 6) : Reg := if v.inBody then .k n.toNat else .s n.toNat
    let detail (n : BitVec 6) : BitVec 18 := BitVec.ofNat 18 ((if v.inBody then 0x100 else 0x40) + n.toNat)
    let outstanding (n : BitVec 6) : Bool := v.f.uncovered.any (fun p => p.2 == reg n)
    let later (n : BitVec 6) (t : Nat) : Bool := v.f.pend.any (fun p => p.val.reg == reg n && decide (t < p.vis))
    let board : Option (BitVec 8 × BitVec 18) :=
      if v.g.ctl.getLsbD 0 && !v.inPlaner then
        if outstanding a || later a v.t then some (0x03, detail a)
        else if outstanding b || later b v.t then some (0x03, detail b)
        else if outstanding d || later d (v.t + lat) then some (0x03, detail d)
        else none
      else none
    (v.inBody = false → (s.wordTrap v i).map found = if split then some (0x04#8, BitVec.ofNat 18 d.toNat) else none) ∧
    (v.inBody = true → (s.wordTrap v i).map found = if d.toNat < 8 ∧ a.toNat < 8 ∧ b.toNat < 8 then none else some (0x01#8, op)) ∧
    (v.scoreboard i).map found = board ∧
    (∀ w, v.inBody = false → breaksGroup v.f.pc [w] [some i] 0 = false → s.packetFault v 1 = none →
      (s.groupFault v [w] [some i]).map (fun t => (t.code, t.detail)) =
        if split then some (0x04#8, BitVec.ofNat 18 d.toNat) else board)

/-! ### Branches, masks and controls -/

/-- Branches, calls and returns (R41, R91, R96, R123 to R126): where the condition holds the group redirects its fragment to the packet
address of its group plus twelve times the signed offset, or to s[A], and is a visibility point; where it does not, nothing happens. CALL
and CALLR also write the address of the next group to s63 one tick on. BRC.SPLIT with some lanes on each side ends the group with two
fragments. Of two control transfers in one group the one executed first decides, which is the model's choice (log 13). -/
def Obligations.BranchResults : Prop :=
  ∀ (s : State) (v : View) (a : BitVec 6) (m : BitVec 3) (off : BitVec 12) (far : BitVec 22),
    (Runs s v (.brcEqz a off) → exec (.brcEqz a off) s =
      .next (if v.s a.toNat = 0 then s.jumpTo (packetAddr v.i.pc + 12 * off.signExtend 64) else s)) ∧
    (Runs s v (.brcNez a off) → exec (.brcNez a off) s =
      .next (if v.s a.toNat ≠ 0 then s.jumpTo (packetAddr v.i.pc + 12 * off.signExtend 64) else s)) ∧
    (Runs s v (.brcLtz a off) → exec (.brcLtz a off) s =
      .next (if (v.s a.toNat).msb then s.jumpTo (packetAddr v.i.pc + 12 * off.signExtend 64) else s)) ∧
    (Runs s v (.brcGez a off) → exec (.brcGez a off) s =
      .next (if (v.s a.toNat).msb then s else s.jumpTo (packetAddr v.i.pc + 12 * off.signExtend 64))) ∧
    (Runs s v (.brcAny m off) →
      ((∃ i, v.active.getLsbD i = true ∧ (v.m m.toNat).getLsbD i = true) →
        exec (.brcAny m off) s = .next (s.jumpTo (packetAddr v.i.pc + 12 * off.signExtend 64))) ∧
      ((∀ i, v.active.getLsbD i = true → (v.m m.toNat).getLsbD i = false) → exec (.brcAny m off) s = .next s)) ∧
    (Runs s v (.brcAll m off) →
      ((∀ i, v.active.getLsbD i = true → (v.m m.toNat).getLsbD i = true) →
        exec (.brcAll m off) s = .next (s.jumpTo (packetAddr v.i.pc + 12 * off.signExtend 64))) ∧
      ((∃ i, v.active.getLsbD i = true ∧ (v.m m.toNat).getLsbD i = false) → exec (.brcAll m off) s = .next s)) ∧
    (Runs s v (.brcNone m off) →
      ((∀ i, v.active.getLsbD i = true → (v.m m.toNat).getLsbD i = false) →
        exec (.brcNone m off) s = .next (s.jumpTo (packetAddr v.i.pc + 12 * off.signExtend 64))) ∧
      ((∃ i, v.active.getLsbD i = true ∧ (v.m m.toNat).getLsbD i = true) → exec (.brcNone m off) s = .next s)) ∧
    (Runs s v (.brcSplit m off) → exec (.brcSplit m off) s =
      .next (if v.active &&& v.m m.toNat = 0 then s
        else if v.active &&& v.m m.toNat = v.active then s.jumpTo (packetAddr v.i.pc + 12 * off.signExtend 64)
        else s.modIssue (fun i => { i with
          ctl := if i.ctl = .fall then .split (v.active &&& v.m m.toNat) (packetAddr v.i.pc + 12 * off.signExtend 64) else i.ctl
          visible := true }))) ∧
    (Runs s v (.jmp far) → exec (.jmp far) s = .next (s.jumpTo (packetAddr v.i.pc + 12 * far.signExtend 64))) ∧
    (Runs s v (.call far) → exec (.call far) s =
      .next ((s.putPend v 1 (.scal 63 v.nextGroup)).jumpTo (packetAddr v.i.pc + 12 * far.signExtend 64))) ∧
    (Runs s v (.jmpr a) → exec (.jmpr a) s = .next (s.jumpTo (v.s a.toNat))) ∧
    (Runs s v (.callr a) → exec (.callr a) s = .next ((s.putPend v 1 (.scal 63 v.nextGroup)).jumpTo (v.s a.toNat))) ∧
    (Runs s v (.ret a) → exec (.ret a) s = .next (s.jumpTo (v.s a.toNat)))

/-- An indirect jump, call or return to an address that is not a multiple of 4 raises PC_ALIGN at the jumping instruction (R91, R126), outside
a capsule body: the word takes that trap in place of its effect, and its link is not written. -/
def Obligations.IndirectJumpsAreAligned : Prop :=
  ∀ (s : State) (v : View) (a : BitVec 6) (i : Instr), i ∈ [Instr.jmpr a, .callr a, .ret a] → s.view? = some v → v.inBody = false →
    (v.sReg a.toNat).toNat % 4 ≠ 0 →
    exec i s = .next (s.raiseIssue v i { code := 0x06, addr := v.sReg a.toNat })

/-- Where a fragment goes on (R41, R42, R91, R93, R322): to the target that the group's control transfer chose, else to the next group. -/
def Obligations.NextGroupIsChosen : Prop :=
  ∀ (v : View) (i : Issue) (t : Dword),
    (i.ctl = .goto t → chosenPc v i = t) ∧
    ((i.ctl = .fall ∨ i.ctl = .regang ∨ i.ctl = .capexit) → chosenPc v i = v.i.pc + BitVec.ofNat 64 (4 * v.i.words))

/-- Splits and fusions. A split (R40, R41): the fragment is replaced by two copies, the lanes that take the branch at its target and the others
at the next group, each with the new record innermost, whose parent is the old innermost record and which holds the FMT and no exit flags. A
fusion (R42, R43): once every descendant of a record is a member and stands at the same REGANG, with nothing still to become visible, one fragment
goes on after it with all their lanes, the record's FMT, every flag, each lane's mask bits, and the scalars of the member with the lowest lane, and
the record is closed; while one stands elsewhere, nothing fuses. A fragment that begins to wait at a REGANG while a member of its record already
stands at another takes REGANG_MISMATCH with that one's address (R44). -/
def Obligations.SplitMakesTwoFragments : Prop :=
  (∀ (s : State) (fid : Nat) (f : Frag) (w : Warp) (active taken : Lanes) (target next : Dword),
    s.frag? fid = some f → s.warp? f.warp = some w →
    ∃ (a b r : Nat) (x y : Frag) (u : Warp), (s.splitFrag fid f active taken target next).2 = (a, b) ∧
      (s.splitFrag fid f active taken target next).1.frag? a = some x ∧
      (s.splitFrag fid f active taken target next).1.frag? b = some y ∧
      (∀ j z, j ≠ a → j ≠ b → (s.splitFrag fid f active taken target next).1.frag? j = some z →
        j ≠ fid ∧ ∃ o, s.frag? j = some o ∧ z = { o with parked := z.parked }) ∧
      (s.splitFrag fid f active taken target next).1.warp? f.warp = some u ∧
      Table.get? u.splits r = some ⟨f.records.head?, f.fmt, 0⟩ ∧
      x.lm = taken ∧ x.pc = target ∧ x.records = r :: f.records ∧ y.lm = active &&& ~~~taken ∧ y.pc = next ∧
      y.records = r :: f.records ∧ x.fmt = f.fmt ∧ y.fmt = f.fmt ∧ x.fstat = f.fstat ∧ y.fstat = f.fstat ∧ x.m = f.m ∧ y.m = f.m ∧
      x.s = f.s ∧ y.s = f.s ∧ x.lc = f.lc ∧ y.lc = f.lc ∧ x.sc = f.sc ∧ y.sc = f.sc ∧ x.ec = f.ec ∧ y.ec = f.ec ∧
      x.t = f.t ∧ y.t = f.t ∧ x.vmax = f.vmax ∧ y.vmax = f.vmax ∧ x.pend = f.pend ∧ y.pend = f.pend) ∧
  (∀ (s : State) (wid r : Nat) (w : Warp) (sr : SplitRec) (a n : Dword),
    let ds := (s.fragsOf wid).filter (fun p => p.2.records.contains r)
    (s.frags.map Prod.fst).Nodup → s.warp? wid = some w → ds ≠ [] →
    (∀ p ∈ ds, p.2.records.head? = some r ∧ p.2.wait = some (.regang a n) ∧ p.2.hnd = false ∧ p.2.lc.members = [] ∧ p.2.waitOps = [] ∧
      p.2.pend = []) →
    (∀ p ∈ ds, ∀ q ∈ ds, p.1 ≠ q.1 → p.2.lm &&& q.2.lm = 0) →
    let t := s.settleRecord wid r sr
    ∃ lo ∈ ds, ∃ g, (∀ p ∈ ds, lo.2.lm.low ≤ p.2.lm.low) ∧ t.frag? lo.1 = some g ∧
      (∀ p ∈ ds, p.1 ≠ lo.1 → t.frag? p.1 = none) ∧ (∀ j, (∀ p ∈ ds, j ≠ p.1) → t.frag? j = s.frag? j) ∧
      (∃ u, t.warp? wid = some u ∧ Table.get? u.splits r = none ∧ u.v = w.v ∧ u.s = w.s) ∧
      g.pc = n ∧ g.fmt = sr.fmt ∧ g.records = lo.2.records.tail ∧ g.wait = none ∧ g.s = lo.2.s ∧ g.hnd = false ∧
      (∀ i, i < 64 → g.lm.getLsbD i = ds.any (fun p => p.2.lm.getLsbD i)) ∧
      (∀ i, i < 5 → g.fstat.getLsbD i = (sr.exitFlags.getLsbD i || ds.any (fun p => p.2.fstat.getLsbD i))) ∧
      (∀ k i p, k < 8 → p ∈ ds → p.2.lm.getLsbD i = true → (Table.getD g.m k 0).getLsbD i = (Table.getD p.2.m k 0).getLsbD i) ∧
      ∀ p ∈ ds, (∀ x ∈ p.2.sc.members, x ∈ g.sc.members) ∧ (∀ x ∈ p.2.ec.members, x ∈ g.ec.members) ∧ p.2.t ≤ g.t) ∧
  (∀ (s : State) (wid r : Nat) (sr : SplitRec) (j : Nat) (f : Frag), (j, f) ∈ s.fragsOf wid → f.records.contains r = true →
    (f.records.head? ≠ some r ∨ ∀ a n, f.wait ≠ some (.regang a n)) → s.settleRecord wid r sr = s) ∧
  (∀ (s : State) (fid j : Nat) (f h : Frag) (a n b m : Dword), s.frag? fid = some f → s.frag? j = some h → j ≠ fid → h.warp = f.warp →
    h.records.head? = f.records.head? → h.wait = some (.regang b m) → b ≠ a →
    (∀ p ∈ s.frags, p.1 ≠ fid → p.2.warp = f.warp → p.2.records.head? = f.records.head? → ∀ x, p.2.stands = some x → x.1 ≠ a →
      x.1 = b ∧ p.2.stoodAt ≠ some s.tick) →
    s.beginRegang fid a n = (s.modFrag fid (fun x => { x with wait := none, thenAt := none, stoodAt := some (x.stoodAt.getD s.tick) })).takeTrap fid
      { code := 0x05, addr := b } n none false)

/-- MASK (R129, R130): results within the warp's width, bits above it zero; MPOPC and MFFS over active lanes only; each visible one tick on. -/
def Obligations.MaskResults : Prop :=
  ∀ (s : State) (v : View) (d a b : BitVec 3) (r : BitVec 6),
    (Runs s v (.mand d a b) → exec (.mand d a b) s =
      .next (s.putPend v 1 (.mask d.toNat (BitVec.allOnes 64) (v.m a.toNat &&& v.m b.toNat &&& widthMask v.w)))) ∧
    (Runs s v (.mor d a b) → exec (.mor d a b) s =
      .next (s.putPend v 1 (.mask d.toNat (BitVec.allOnes 64) ((v.m a.toNat ||| v.m b.toNat) &&& widthMask v.w)))) ∧
    (Runs s v (.mxor d a b) → exec (.mxor d a b) s =
      .next (s.putPend v 1 (.mask d.toNat (BitVec.allOnes 64) ((v.m a.toNat ^^^ v.m b.toNat) &&& widthMask v.w)))) ∧
    (Runs s v (.mandn d a b) → exec (.mandn d a b) s =
      .next (s.putPend v 1 (.mask d.toNat (BitVec.allOnes 64) (v.m a.toNat &&& ~~~v.m b.toNat &&& widthMask v.w)))) ∧
    (Runs s v (.mnot d a) → exec (.mnot d a) s =
      .next (s.putPend v 1 (.mask d.toNat (BitVec.allOnes 64) (~~~v.m a.toNat &&& widthMask v.w)))) ∧
    (Runs s v (.mpopc r a) → exec (.mpopc r a) s =
      .next (s.putScalar v 1 r (BitVec.ofNat 64 ((List.range 64).countP (fun i => v.active.getLsbD i && (v.m a.toNat).getLsbD i))))) ∧
    (Runs s v (.mffs r a) → ∃ x : Dword, exec (.mffs r a) s = .next (s.putScalar v 1 r x) ∧
      (v.active &&& v.m a.toNat = 0 → x = -1) ∧
      (v.active &&& v.m a.toNat ≠ 0 → (v.active &&& v.m a.toNat).getLsbD x.toNat = true ∧
        ∀ i, i < x.toNat → (v.active &&& v.m a.toNat).getLsbD i = false)) ∧
    (Runs s v (.mtos r a) → exec (.mtos r a) s = .next (s.putScalar v 1 r (v.m a.toNat))) ∧
    (Runs s v (.stom d r) → exec (.stom d r) s =
      .next (s.putPend v 1 (.mask d.toNat (BitVec.allOnes 64) (v.s r.toNat &&& widthMask v.w)))) ∧
    (Runs s v (.mact d) → exec (.mact d) s = .next (s.putPend v 1 (.mask d.toNat (BitVec.allOnes 64) v.active)))

/-- CTRL, WAITC and NOP (R131 to R139, R110): FMT, FSTAT, QMAP and the other control registers change one tick on; a per-workgroup register
takes its value with the writes of the next core tick (R136; log 19); REGANG outside a split and YIELD (but for the issue selection) change
nothing, and NOP neither, which never traps; WAITC is a visibility point whose wait begins when its group ends. GETCR reads each register of
R327, a per-workgroup one as it stood before the tick's writes where two of them meet in it (R136); a write keeps the register's bits and no
others, and of two TVEC writes of one tick that of the higher warp slot, then of the higher lowest lane, is the last. That a TRET, EXIT or CAPEXIT
executed earlier in a group keeps its transfer beside a REGANG is the model's reading (log 13). -/
def Obligations.ControlResults : Prop :=
  ∀ (s : State) (v : View) (d a : BitVec 6) (mode : BitVec 3) (num : BitVec 12) (lc sc ec : BitVec 6) (x : Dword),
    (Runs s v .regang → exec .regang s =
      .next (if v.f.records = [] then s else s.modIssue (fun i => { i with ctl := if i.ctl = .fall then .regang else i.ctl }))) ∧
    (Runs s v (.setfmt a) → exec (.setfmt a) s = .next (s.putPend v 1 (.fmt ((v.s a.toNat).setWidth 32)))) ∧
    (Runs s v (.getfmt d) → exec (.getfmt d) s = .next (s.putScalar v 1 d (v.f.fmt.zeroExtend 64))) ∧
    (Runs s v (.setrm mode) → exec (.setrm mode) s = .next (s.putPend v 1 (.fmt (v.f.fmt.extractLsb' 3 29 ++ mode)))) ∧
    (Runs s v .yield → exec .yield s = .next (s.modIssue (fun i => { i with yield := true }))) ∧
    (Runs s v (.getcr d num) → s.readCr v num.toNat = some x → exec (.getcr d num) s = .next (s.putScalar v 1 d x)) ∧
    (Runs s v (.setcr d num) → num = 0 → exec (.setcr d num) s = .next (s.putPend v 1 (.fmt ((v.s d.toNat).setWidth 32)))) ∧
    (Runs s v (.setcr d num) → num = 1 → exec (.setcr d num) s = .next (s.putPend v 1 (.fstat ((v.s d.toNat).setWidth 5)))) ∧
    (Runs s v (.setcr d num) → num ∈ [0x009#12, 0x00A, 0x00B, 0x00C, 0x00D, 0x00E, 0x011] → exec (.setcr d num) s =
      .next (s.putPend v 1 (.ctl num.toNat (v.s d.toNat)))) ∧
    (Runs s v (.setcr d num) → wgWritable num.toNat = true → exec (.setcr d num) s =
      .next (s.modWg v.gid (fun g => { g with crPend := g.crPend ++
        [⟨s.tick + 1, v.w.slot, v.active.low, num.toNat, v.s d.toNat⟩] }))) ∧
    (Runs s v (.sqmap a) → exec (.sqmap a) s = .next (s.putPend v 1 (.qmap ((v.s a.toNat).setWidth 8)))) ∧
    (Runs s v (.fragid d) → exec (.fragid d) s = .next (s.putScalar v 1 d
      (BitVec.ofNat 64 (v.f.records.length % 64 * 2 ^ 16 + v.active.count * 2 ^ 8 + v.active.low)))) ∧
    (Runs s v (.waitc lc sc ec) → exec (.waitc lc sc ec) s =
      .next (s.modIssue (fun i => { i with waitc := some (lc.toNat, sc.toNat, ec.toNat), visible := true }))) ∧
    (s.view? = some v → exec .nop s = .next s) ∧
    (∀ n y, (n, y) ∈ [(0x000, v.f.fmt.zeroExtend 64), (0x001, v.f.fstat.zeroExtend 64), (0x009, v.f.tsave0), (0x00A, v.f.tsave1),
        (0x00B, v.f.tsave2), (0x00C, v.f.tsave3), (0x00D, v.f.faultmask), (0x00E, v.f.tnext), (0x011, v.w.dbg.zeroExtend 64),
        (0x018, v.w.qmap.zeroExtend 64), (0x041, BitVec.ofNat 64 v.g.member), (0x042, BitVec.ofNat 64 (s.teamSize v.g.team)),
        (0x046, BitVec.ofNat 64 v.w.idx), (0x047, BitVec.ofNat 64 v.w.width), (0x048, BitVec.ofNat 64 v.g.core),
        (0x049, v.w.capid.zeroExtend 64), (0x04A, v.w.capstat.zeroExtend 64), (0x04B, (s.ctx (s.ctxOfWg v.g)).diemask.zeroExtend 64)] →
      s.readCr v n = some y) ∧
    (∀ t k, s.team? v.g.team = some t → s.grid? t.grid = some k → s.readCr v 0x040 = some (BitVec.ofNat 64 t.base) ∧
      s.readCr v 0x043 = some (BitVec.ofNat 64 t.number) ∧ s.readCr v 0x044 = some (BitVec.ofNat 64 k.gridid) ∧
      s.readCr v 0x045 = some (BitVec.ofNat 64 k.depth)) ∧
    (∀ n y, (n, y) ∈ [(0x008, v.g.tvec), (0x010, v.g.ctl.zeroExtend 64), (0x020, v.g.engstat.zeroExtend 64), (0x029, v.g.evtctl.zeroExtend 64),
        (0x02A, v.g.evtstat.zeroExtend 64), (0x030, v.g.jigcfg.zeroExtend 64), (0x031, v.g.jigstat)] ++
        (List.range 4).map (fun j => (0x021 + j, (Table.getD v.g.evtcnt j 0).zeroExtend 64)) ++
        (List.range 4).map (fun j => (0x025 + j, (Table.getD v.g.evtlim j 0).zeroExtend 64)) →
      s.readCr v n = some ((Table.get? v.g.crOld n).getD y)) ∧
    (∀ n mask y, (n, mask) ∈ [(0x008, 0xFFFFFFFFFFFFFFFF#64), (0x010, 3), (0x020, 0x1F1F1F), (0x021, 0xFFFFFFFF), (0x022, 0xFFFFFFFF),
        (0x023, 0xFFFFFFFF), (0x024, 0xFFFFFFFF), (0x025, 0xFFFFFFFF), (0x026, 0xFFFFFFFF), (0x027, 0xFFFFFFFF), (0x028, 0xFFFFFFFF),
        (0x029, 0xFFFFFF), (0x02A, 0xFF), (0x030, 0x1FFFF), (0x031, 0xFFFFFFFFFFFFFFFF)] →
      (v.g.setCr n y).cr n = some (y &&& mask)) ∧
    (∀ n resident (p q : CrWrite), v.g.crPend = [p, q] → p.due ≤ n → q.due ≤ n → p.num = 0x008 → q.num = 0x008 →
      let g := v.g.atTick resident n
      g.crPend = [] ∧ Table.get? g.crOld 0x008 = some v.g.tvec ∧ g.tvec = if q.slot * 64 + q.lane < p.slot * 64 + p.lane then p.val else q.val)

/-- A control register that cannot be written, or does not exist, is refused with ILLEGAL_OP (R135, R327): SETCR of every number outside the
writable ones, and GETCR of every unassigned number. In a split warp a GETCR into one of s0 to s47 (R45), or a SETCR of the read-only per-warp
0x018 (R117), would be SPLIT_SCALAR as well: that ILLEGAL_OP comes first, where R353 gives no order within a word, is the model's reading (log
22). -/
def Obligations.ControlNumbersAreChecked : Prop :=
  ∀ (s : State) (v : View) (d : BitVec 6) (num : BitVec 12), s.view? = some v → v.inBody = false →
    (num.toNat ∉ [0x000, 0x001, 0x008, 0x009, 0x00A, 0x00B, 0x00C, 0x00D, 0x00E, 0x010, 0x011, 0x020, 0x021, 0x022, 0x023, 0x024, 0x025,
      0x026, 0x027, 0x028, 0x029, 0x02A, 0x030, 0x031] →
      exec (.setcr d num) s = .next (s.raiseIssue v (.setcr d num) { code := 0x01, detail := 0x0F })) ∧
    (num.toNat ∉ [0x000, 0x001, 0x008, 0x009, 0x00A, 0x00B, 0x00C, 0x00D, 0x00E, 0x010, 0x011, 0x018, 0x020, 0x021, 0x022, 0x023, 0x024,
      0x025, 0x026, 0x027, 0x028, 0x029, 0x02A, 0x030, 0x031, 0x040, 0x041, 0x042, 0x043, 0x044, 0x045, 0x046, 0x047, 0x048, 0x049,
      0x04A, 0x04B] →
      exec (.getcr d num) s = .next (s.raiseIssue v (.getcr d num) { code := 0x01, detail := 0x0F }))

/-! ### What register words leave alone -/

/-- What a word of the S, VI, VF and X pipes leaves alone (R93, R95, R109): its fragment has its new results as pending writes, of the registers
that the word names as its destinations and at the tick of its latency class, and flags; every earlier pending write is kept; and nothing else
changes but the record of the group, so every byte of memory and bench, every register, flag, special and exception register reads as before. A
SETCR of a per-workgroup register is stated apart. -/
def Obligations.RegisterWordsFrame : Prop :=
  ∀ (s : State) (v : View) (i : Instr) (f : Frag), (uses i).pipe ∈ [Pipe.s, .vi, .vf, .x] →
    (∀ d num, i = .setcr d num → wgWritable num.toNat = false) → Runs s v i → s.frag? v.fid = some f →
    ∃ t g, exec i s = .next t ∧ OnlyFragment s t v.fid ∧ t.frag? v.fid = some g ∧ OnlyPending f g ∧ (∀ p ∈ f.pend, p ∈ g.pend) ∧
      ∀ p ∈ g.pend, p ∈ f.pend ∨ (p.vis = v.t + (uses i).lat ∧ ((∃ x, p.val = .flags x) ∨ p.val.reg ∈ (uses i).writes.map v.reg))

/-! ### Vector words -/

/-- Two-source integer words and VADDI (R150, R151, but the two saturating ones): each, wherever it may run, answers the state with one
more pending write, of its class, of the value of each active lane n to v[D]; nothing else changes. -/
def Obligations.VectorIntegerResults : Prop :=
  ∀ (s : State) (v : View) (d a b : BitVec 6) (ha hb : BitVec 1) (imm : BitVec 10),
    (Runs s v (.vadd d a b ha hb) → exec (.vadd d a b ha hb) s =
      .next (s.putVec v 2 d (fun n => v.v a.toNat n + v.v b.toNat n))) ∧
    (Runs s v (.vsub d a b ha hb) → exec (.vsub d a b ha hb) s =
      .next (s.putVec v 2 d (fun n => v.v a.toNat n - v.v b.toNat n))) ∧
    (Runs s v (.vmul d a b ha hb) → exec (.vmul d a b ha hb) s =
      .next (s.putVec v 4 d (fun n => v.v a.toNat n * v.v b.toNat n))) ∧
    (Runs s v (.vmulh d a b ha hb) → exec (.vmulh d a b ha hb) s =
      .next (s.putVec v 4 d (fun n => (((v.v a.toNat n).signExtend 64) * ((v.v b.toNat n).signExtend 64)).extractLsb' 32 32))) ∧
    (Runs s v (.vmulhu d a b ha hb) → exec (.vmulhu d a b ha hb) s =
      .next (s.putVec v 4 d (fun n => (((v.v a.toNat n).zeroExtend 64) * ((v.v b.toNat n).zeroExtend 64)).extractLsb' 32 32))) ∧
    (Runs s v (.vmad d a b ha hb) → exec (.vmad d a b ha hb) s =
      .next (s.putVec v 4 d (fun n => v.v a.toNat n * v.v b.toNat n + v.v d.toNat n))) ∧
    (Runs s v (.vand d a b ha hb) → exec (.vand d a b ha hb) s =
      .next (s.putVec v 2 d (fun n => v.v a.toNat n &&& v.v b.toNat n))) ∧
    (Runs s v (.vor d a b ha hb) → exec (.vor d a b ha hb) s =
      .next (s.putVec v 2 d (fun n => v.v a.toNat n ||| v.v b.toNat n))) ∧
    (Runs s v (.vxor d a b ha hb) → exec (.vxor d a b ha hb) s =
      .next (s.putVec v 2 d (fun n => v.v a.toNat n ^^^ v.v b.toNat n))) ∧
    (Runs s v (.vandn d a b ha hb) → exec (.vandn d a b ha hb) s =
      .next (s.putVec v 2 d (fun n => v.v a.toNat n &&& ~~~v.v b.toNat n))) ∧
    (Runs s v (.vshl d a b ha hb) → exec (.vshl d a b ha hb) s =
      .next (s.putVec v 2 d (fun n => (v.v a.toNat n) <<< ((v.v b.toNat n).extractLsb' 0 5).toNat))) ∧
    (Runs s v (.vshr d a b ha hb) → exec (.vshr d a b ha hb) s =
      .next (s.putVec v 2 d (fun n => (v.v a.toNat n) >>> ((v.v b.toNat n).extractLsb' 0 5).toNat))) ∧
    (Runs s v (.vsra d a b ha hb) → exec (.vsra d a b ha hb) s =
      .next (s.putVec v 2 d (fun n => (v.v a.toNat n).sshiftRight ((v.v b.toNat n).extractLsb' 0 5).toNat))) ∧
    (Runs s v (.vmin d a b ha hb) → exec (.vmin d a b ha hb) s =
      .next (s.putVec v 2 d (fun n => if (v.v b.toNat n).slt (v.v a.toNat n) then v.v b.toNat n else v.v a.toNat n))) ∧
    (Runs s v (.vmax d a b ha hb) → exec (.vmax d a b ha hb) s =
      .next (s.putVec v 2 d (fun n => if (v.v b.toNat n).slt (v.v a.toNat n) then v.v a.toNat n else v.v b.toNat n))) ∧
    (Runs s v (.vminu d a b ha hb) → exec (.vminu d a b ha hb) s =
      .next (s.putVec v 2 d (fun n => if (v.v b.toNat n).ult (v.v a.toNat n) then v.v b.toNat n else v.v a.toNat n))) ∧
    (Runs s v (.vmaxu d a b ha hb) → exec (.vmaxu d a b ha hb) s =
      .next (s.putVec v 2 d (fun n => if (v.v b.toNat n).ult (v.v a.toNat n) then v.v a.toNat n else v.v b.toNat n))) ∧
    (Runs s v (.vrot d a b ha hb) → ∃ f, exec (.vrot d a b ha hb) s = .next (s.putVec v 2 d f) ∧
      ∀ n j, j < 32 → (f n).getLsbD j = (v.v a.toNat n).getLsbD ((j + ((v.v b.toNat n).extractLsb' 0 5).toNat) % 32)) ∧
    (Runs s v (.vaddi d a imm) → exec (.vaddi d a imm) s =
      .next (s.putVec v 2 d (fun n => v.v a.toNat n + imm.signExtend 32)))

/-- Bit counts and packs (R152, R153): leading zeros, set bits, bit reversal, sign extension of the low 8 or 16 bits, packing of halves and
byte selection, in each active lane n, visible two ticks on; nothing else changes. -/
def Obligations.BitCountAndPackResults : Prop :=
  ∀ (s : State) (v : View) (d a b : BitVec 6) (ha hb : BitVec 1),
    (Runs s v (.vclz d a ha) → ∃ f, exec (.vclz d a ha) s = .next (s.putVec v 2 d f) ∧
      ∀ n, (f n).toNat ≤ 32 ∧ (v.v a.toNat n).toNat < 2 ^ (32 - (f n).toNat) ∧
        (v.v a.toNat n ≠ 0 → 2 ^ (31 - (f n).toNat) ≤ (v.v a.toNat n).toNat) ∧ (v.v a.toNat n = 0 → f n = 32)) ∧
    (Runs s v (.vpopc d a ha) → exec (.vpopc d a ha) s =
      .next (s.putVec v 2 d (fun n => BitVec.ofNat 32 ((List.range 32).countP (fun j => (v.v a.toNat n).getLsbD j))))) ∧
    (Runs s v (.vbrev d a ha) → ∃ f, exec (.vbrev d a ha) s = .next (s.putVec v 2 d f) ∧
      ∀ n j, j < 32 → (f n).getLsbD (31 - j) = (v.v a.toNat n).getLsbD j) ∧
    (Runs s v (.vsext d a 0 ha) → exec (.vsext d a 0 ha) s =
      .next (s.putVec v 2 d (fun n => ((v.v a.toNat n).extractLsb' 0 8).signExtend 32))) ∧
    (Runs s v (.vsext d a 1 ha) → exec (.vsext d a 1 ha) s =
      .next (s.putVec v 2 d (fun n => ((v.v a.toNat n).extractLsb' 0 16).signExtend 32))) ∧
    (Runs s v (.vpk16 d a b ha hb) → exec (.vpk16 d a b ha hb) s =
      .next (s.putVec v 2 d (fun n => ((v.v b.toNat n).extractLsb' 0 16) ++ ((v.v a.toNat n).extractLsb' 0 16)))) ∧
    (Runs s v (.vupkl16 d a ha) → exec (.vupkl16 d a ha) s =
      .next (s.putVec v 2 d (fun n => ((v.v a.toNat n).extractLsb' 0 16) ++ 0#16))) ∧
    (Runs s v (.vupkh16 d a ha) → exec (.vupkh16 d a ha) s =
      .next (s.putVec v 2 d (fun n => (v.v a.toNat n) &&& 0xFFFF0000))) ∧
    (Runs s v (.vbyte d a b ha hb) → ∃ f, exec (.vbyte d a b ha hb) s = .next (s.putVec v 2 d f) ∧
      ∀ n j, j < 4 → (f n).extractLsb' (8 * j) 8 = if (v.v b.toNat n).getLsbD (8 * j + 7) then 0
        else (v.v a.toNat n).extractLsb' (8 * ((v.v b.toNat n).extractLsb' (8 * j) 2).toNat) 8)

/-- Saturating sums, integer compares, moves and cross-lane moves (R144, R150, R154, R155, R156): a clamped sum adds SATO and INX to FSTAT
with its result and counts one SATO event; a compare writes only the active lanes' bits of its mask; a source lane outside Active gives 0;
nothing else changes. -/
def Obligations.CompareAndMoveResults : Prop :=
  ∀ (s : State) (v : View) (d a b : BitVec 6) (m : BitVec 3) (ha hb : BitVec 1),
    (Runs s v (.vadds d a b ha hb) → exec (.vadds d a b ha hb) s = .next (s.putVecFlags v 2 d (fun n =>
      clamped ((v.v a.toNat n).toInt + (v.v b.toNat n).toInt)))) ∧
    (Runs s v (.vsubs d a b ha hb) → exec (.vsubs d a b ha hb) s = .next (s.putVecFlags v 2 d (fun n =>
      clamped ((v.v a.toNat n).toInt - (v.v b.toNat n).toInt)))) ∧
    (Runs s v (.vceq m a b ha hb) → exec (.vceq m a b ha hb) s =
      .next (s.putPend v 2 (.mask m.toNat v.active (Lanes.ofPred (fun n => decide (v.v a.toNat n = v.v b.toNat n)))))) ∧
    (Runs s v (.vclt m a b ha hb) → exec (.vclt m a b ha hb) s =
      .next (s.putPend v 2 (.mask m.toNat v.active (Lanes.ofPred (fun n => (v.v a.toNat n).slt (v.v b.toNat n)))))) ∧
    (Runs s v (.vcltu m a b ha hb) → exec (.vcltu m a b ha hb) s =
      .next (s.putPend v 2 (.mask m.toNat v.active (Lanes.ofPred (fun n => (v.v a.toNat n).ult (v.v b.toNat n)))))) ∧
    (Runs s v (.vcle m a b ha hb) → exec (.vcle m a b ha hb) s =
      .next (s.putPend v 2 (.mask m.toNat v.active (Lanes.ofPred (fun n => (v.v a.toNat n).sle (v.v b.toNat n)))))) ∧
    (Runs s v (.vbcs d a ha) → exec (.vbcs d a ha) s =
      .next (s.putVec v 2 d (fun _ => (v.s a.toNat).extractLsb' 0 32))) ∧
    (Runs s v (.vmovm d a m ha hb) → exec (.vmovm d a m ha hb) s =
      .next (s.putVec v 2 d (fun n => if (v.m m.toNat).getLsbD n then v.v a.toNat n else v.v d.toNat n))) ∧
    (Runs s v (.vlane d a ha) → exec (.vlane d a ha) s =
      .next (s.putVec v 2 d (fun n => (v.s a.toNat + BitVec.ofNat 64 n).extractLsb' 0 32))) ∧
    (Runs s v (.vtos d a b ha hb) → exec (.vtos d a b ha hb) s =
      .next (s.putScalar v 4 d (if v.active.getLsbD ((v.s b.toNat).toNat % v.w.width)
        then (v.v a.toNat ((v.s b.toNat).toNat % v.w.width)).zeroExtend 64 else 0))) ∧
    (Runs s v (.vshfl d a b ha hb) → exec (.vshfl d a b ha hb) s =
      .next (s.putVec v 4 d (fun n => if v.active.getLsbD (n ^^^ (v.s b.toNat).toNat % v.w.width)
        then v.v a.toNat (n ^^^ (v.s b.toNat).toNat % v.w.width) else 0))) ∧
    (Runs s v (.vbcl d a b ha hb) → exec (.vbcl d a b ha hb) s =
      .next (s.putVec v 4 d (fun _ => if v.active.getLsbD ((v.s b.toNat).toNat % v.w.width)
        then v.v a.toNat ((v.s b.toNat).toNat % v.w.width) else 0))) ∧
    (Runs s v (.vrotl d a b ha hb) → exec (.vrotl d a b ha hb) s =
      .next (s.putVec v 4 d (fun n => if v.active.getLsbD ((n + (v.s b.toNat).toNat) % v.w.width)
        then v.v a.toNat ((n + (v.s b.toNat).toNat) % v.w.width) else 0))) ∧
    (Runs s v (.vperm d a b ha hb) → exec (.vperm d a b ha hb) s =
      .next (s.putVec v 4 d (fun n => if v.active.getLsbD ((v.v b.toNat n).toNat % v.w.width)
        then v.v a.toNat ((v.v b.toNat n).toNat % v.w.width) else 0)))

/-- Vector floating point (R147, R160 to R163): every element of every active lane gets the operation's result in the format of FMT.VF,
rounded in the word's mode, and raises its flags with it; a compare works on FP32 and writes only the active lanes' bits. What the operations
give is stated of the numbers apart. -/
def Obligations.VectorFloatResults : Prop :=
  ∀ (s : State) (v : View) (d a b : BitVec 6) (m rm : BitVec 3),
    (Runs s v (.vfadd d a b rm) → exec (.vfadd d a b rm) s =
      .next (s.putVecFlags v 4 d (fun n => elementwise (vfFmt v.fmt) (fun j => fAdd (vfFmt v.fmt) (v.rm rm)
        (elem (v.v a.toNat n) (vfFmt v.fmt).width j) (elem (v.v b.toNat n) (vfFmt v.fmt).width j))))) ∧
    (Runs s v (.vfsub d a b rm) → exec (.vfsub d a b rm) s =
      .next (s.putVecFlags v 4 d (fun n => elementwise (vfFmt v.fmt) (fun j => fSub (vfFmt v.fmt) (v.rm rm)
        (elem (v.v a.toNat n) (vfFmt v.fmt).width j) (elem (v.v b.toNat n) (vfFmt v.fmt).width j))))) ∧
    (Runs s v (.vfmul d a b rm) → exec (.vfmul d a b rm) s =
      .next (s.putVecFlags v 4 d (fun n => elementwise (vfFmt v.fmt) (fun j => fMul (vfFmt v.fmt) (v.rm rm)
        (elem (v.v a.toNat n) (vfFmt v.fmt).width j) (elem (v.v b.toNat n) (vfFmt v.fmt).width j))))) ∧
    (Runs s v (.vfdiv d a b rm) → exec (.vfdiv d a b rm) s =
      .next (s.putVecFlags v 8 d (fun n => elementwise (vfFmt v.fmt) (fun j => fDiv (vfFmt v.fmt) (v.rm rm)
        (elem (v.v a.toNat n) (vfFmt v.fmt).width j) (elem (v.v b.toNat n) (vfFmt v.fmt).width j))))) ∧
    (Runs s v (.vfma d a b rm) → exec (.vfma d a b rm) s =
      .next (s.putVecFlags v 4 d (fun n => elementwise (vfFmt v.fmt) (fun j => fMa (vfFmt v.fmt) (v.rm rm)
        (elem (v.v a.toNat n) (vfFmt v.fmt).width j) (elem (v.v b.toNat n) (vfFmt v.fmt).width j)
        (elem (v.v d.toNat n) (vfFmt v.fmt).width j))))) ∧
    (Runs s v (.vfms d a b rm) → exec (.vfms d a b rm) s =
      .next (s.putVecFlags v 4 d (fun n => elementwise (vfFmt v.fmt) (fun j => fMs (vfFmt v.fmt) (v.rm rm)
        (elem (v.v a.toNat n) (vfFmt v.fmt).width j) (elem (v.v b.toNat n) (vfFmt v.fmt).width j)
        (elem (v.v d.toNat n) (vfFmt v.fmt).width j))))) ∧
    (Runs s v (.vfmin d a b) → exec (.vfmin d a b) s =
      .next (s.putVecFlags v 4 d (fun n => elementwise (vfFmt v.fmt) (fun j => minMax (vfFmt v.fmt) false
        (elem (v.v a.toNat n) (vfFmt v.fmt).width j) (elem (v.v b.toNat n) (vfFmt v.fmt).width j))))) ∧
    (Runs s v (.vfmax d a b) → exec (.vfmax d a b) s =
      .next (s.putVecFlags v 4 d (fun n => elementwise (vfFmt v.fmt) (fun j => minMax (vfFmt v.fmt) true
        (elem (v.v a.toNat n) (vfFmt v.fmt).width j) (elem (v.v b.toNat n) (vfFmt v.fmt).width j))))) ∧
    (Runs s v (.vfabs d a) → exec (.vfabs d a) s = .next (s.putVecFlags v 4 d (fun n => elementwise (vfFmt v.fmt) (fun j =>
      let f := vfFmt v.fmt
      let c := elem (v.v a.toNat n) f.width j
      if (decodeF f c).isNan then ⟨f.nanCode, if (decodeF f c).isSnan then 1 else 0⟩ else ⟨c % 2 ^ (f.width - 1), 0⟩)))) ∧
    (Runs s v (.vfcls d a) → exec (.vfcls d a) s = .next (s.putVec v 4 d (fun n =>
      (elementwise (vfFmt v.fmt) (fun j => ⟨classWord (vfFmt v.fmt) (elem (v.v a.toNat n) (vfFmt v.fmt).width j), 0⟩)).1))) ∧
    (Runs s v (.vfcmpEq m a b) → exec (.vfcmpEq m a b) s = .next ((s.putPend v 4 (.mask m.toNat v.active (Lanes.ofPred (fun n =>
        let x := decodeF .fp32 (v.v a.toNat n).toNat
        let y := decodeF .fp32 (v.v b.toNat n).toNat
        floatEq x y)))).raiseFlags v 4 (v.active.toList.map (fun n =>
          if (decodeF .fp32 (v.v a.toNat n).toNat).isSnan || (decodeF .fp32 (v.v b.toNat n).toNat).isSnan then 1 else 0)))) ∧
    (Runs s v (.vfcmpLt m a b) → exec (.vfcmpLt m a b) s = .next ((s.putPend v 4 (.mask m.toNat v.active (Lanes.ofPred (fun n =>
        let x := decodeF .fp32 (v.v a.toNat n).toNat
        let y := decodeF .fp32 (v.v b.toNat n).toNat
        floatLt x y)))).raiseFlags v 4 (v.active.toList.map (fun n =>
          if (decodeF .fp32 (v.v a.toNat n).toNat).isSnan || (decodeF .fp32 (v.v b.toNat n).toNat).isSnan then 1 else 0)))) ∧
    (Runs s v (.vfcmpLe m a b) → exec (.vfcmpLe m a b) s = .next ((s.putPend v 4 (.mask m.toNat v.active (Lanes.ofPred (fun n =>
        let x := decodeF .fp32 (v.v a.toNat n).toNat
        let y := decodeF .fp32 (v.v b.toNat n).toNat
        floatLt x y || floatEq x y)))).raiseFlags v 4 (v.active.toList.map (fun n =>
          if (decodeF .fp32 (v.v a.toNat n).toNat).isSnan || (decodeF .fp32 (v.v b.toNat n).toNat).isSnan then 1 else 0)))) ∧
    (Runs s v (.vfcmpUn m a b) → exec (.vfcmpUn m a b) s = .next ((s.putPend v 4 (.mask m.toNat v.active (Lanes.ofPred (fun n =>
        let x := decodeF .fp32 (v.v a.toNat n).toNat
        let y := decodeF .fp32 (v.v b.toNat n).toNat
        x.isNan || y.isNan)))).raiseFlags v 4 (v.active.toList.map (fun n =>
          if (decodeF .fp32 (v.v a.toNat n).toNat).isSnan || (decodeF .fp32 (v.v b.toNat n).toNat).isSnan then 1 else 0)))) ∧
    (Runs s v (.vfcmpNe m a b) → exec (.vfcmpNe m a b) s = .next ((s.putPend v 4 (.mask m.toNat v.active (Lanes.ofPred (fun n =>
        let x := decodeF .fp32 (v.v a.toNat n).toNat
        let y := decodeF .fp32 (v.v b.toNat n).toNat
        !floatEq x y)))).raiseFlags v 4 (v.active.toList.map (fun n =>
          if (decodeF .fp32 (v.v a.toNat n).toNat).isSnan || (decodeF .fp32 (v.v b.toNat n).toNat).isSnan then 1 else 0))))

/-- The reduction tree (R157), over values of any kind: over one leaf it is that leaf or absent, and over twice as many leaves it combines the
tree of the lower half with that of the upper half, an absent side passing the other on. -/
def Obligations.ReductionTreeOrder : Prop :=
  ∀ (α : Type) (op : α → α → α) (leaf : Nat → α) (p : Nat → Bool) (k : Nat),
    treeOf op 1 leaf p = (if p 0 then some (leaf 0) else none) ∧
    treeOf op (2 ^ (k + 1)) leaf p =
      (match treeOf op (2 ^ k) leaf p, treeOf op (2 ^ k) (fun i => leaf (2 ^ k + i)) (fun i => p (2 ^ k + i)) with
        | some x, some y => some (op x y)
        | some x, none => some x
        | none, y => y)

/-- Integer reductions and scans (R144, R157, R159): the sum, the disjunction, the least or the greatest of the active lanes within the
width, of all of them or of those at or below (below) the lane written; lanes outside Active are absent; nothing else changes. -/
def Obligations.IntegerReductionResults : Prop :=
  ∀ (s : State) (v : View) (d a : BitVec 6) (ha : BitVec 1),
    (Runs s v (.vredadd d a ha) → exec (.vredadd d a ha) s =
      .next (s.putVec v 8 d (fun _ => (((List.range v.w.width).filter (fun i => v.active.getLsbD i)).map (v.v a.toNat)).foldl (· + ·) 0))) ∧
    (Runs s v (.vredor d a ha) → exec (.vredor d a ha) s =
      .next (s.putVec v 8 d (fun _ => (((List.range v.w.width).filter (fun i => v.active.getLsbD i)).map (v.v a.toNat)).foldl (· ||| ·) 0))) ∧
    (Runs s v (.vredmin d a ha) → ∃ r, exec (.vredmin d a ha) s = .next (s.putVec v 8 d (fun _ => r)) ∧
      ∀ j, j < v.w.width → v.active.getLsbD j = true → (∃ i, i < v.w.width ∧ v.active.getLsbD i = true ∧ r = v.v a.toNat i) ∧
        ∀ i, i < v.w.width → v.active.getLsbD i = true → r.sle (v.v a.toNat i) = true) ∧
    (Runs s v (.vredmax d a ha) → ∃ r, exec (.vredmax d a ha) s = .next (s.putVec v 8 d (fun _ => r)) ∧
      ∀ j, j < v.w.width → v.active.getLsbD j = true → (∃ i, i < v.w.width ∧ v.active.getLsbD i = true ∧ r = v.v a.toNat i) ∧
        ∀ i, i < v.w.width → v.active.getLsbD i = true → (v.v a.toNat i).sle r = true) ∧
    (Runs s v (.vscanadd d a ha) → exec (.vscanadd d a ha) s =
      .next (s.putVec v 8 d (fun n => (((List.range v.w.width).filter (fun i => v.active.getLsbD i && decide (i ≤ n))).map (v.v a.toNat)).foldl (· + ·) 0))) ∧
    (Runs s v (.vscanaddx d a ha) → exec (.vscanaddx d a ha) s =
      .next (s.putVec v 8 d (fun n => (((List.range v.w.width).filter (fun i => v.active.getLsbD i && decide (i < n))).map (v.v a.toNat)).foldl (· + ·) 0))) ∧
    (Runs s v (.vscanmin d a ha) → ∃ r, exec (.vscanmin d a ha) s = .next (s.putVec v 8 d r) ∧
      ∀ n, n < v.w.width → v.active.getLsbD n = true → (∃ i, i ≤ n ∧ v.active.getLsbD i = true ∧ r n = v.v a.toNat i) ∧
        ∀ i, i ≤ n → v.active.getLsbD i = true → (r n).sle (v.v a.toNat i) = true) ∧
    (Runs s v (.vscanmax d a ha) → ∃ r, exec (.vscanmax d a ha) s = .next (s.putVec v 8 d r) ∧
      ∀ n, n < v.w.width → v.active.getLsbD n = true → (∃ i, i ≤ n ∧ v.active.getLsbD i = true ∧ r n = v.v a.toNat i) ∧
        ∀ i, i ≤ n → v.active.getLsbD i = true → (v.v a.toNat i).sle (r n) = true)

/-- Floating-point reductions and scans (R147, R157, R158, R164): every element of every active lane gets the tree over the elements of the
active lanes, of all of them or of those at or below its own, with the flags of every operation in it. -/
def Obligations.FloatReductionResults : Prop :=
  ∀ (s : State) (v : View) (d a : BitVec 6) (rm : BitVec 3),
    (Runs s v (.vfredadd d a rm) → exec (.vfredadd d a rm) s =
      .next (s.putVecFlags v 8 d (fun _ => elementwise (vfFmt v.fmt) (fun _ =>
        ((treeOf (floatComb (fAdd (vfFmt v.fmt) (v.rm rm))) (v.w.width * (vfFmt v.fmt).count) (fun p => floatLeaf (vfFmt v.fmt)
          (elem (v.v a.toNat (p / (vfFmt v.fmt).count)) (vfFmt v.fmt).width (p % (vfFmt v.fmt).count)))
        (fun p => v.active.getLsbD (p / (vfFmt v.fmt).count) && true)).getD ⟨0, 0⟩))))) ∧
    (Runs s v (.vfredmax d a) → exec (.vfredmax d a) s =
      .next (s.putVecFlags v 8 d (fun _ => elementwise (vfFmt v.fmt) (fun _ =>
        ((treeOf (floatComb (minMax (vfFmt v.fmt) true)) (v.w.width * (vfFmt v.fmt).count) (fun p => floatLeaf (vfFmt v.fmt)
          (elem (v.v a.toNat (p / (vfFmt v.fmt).count)) (vfFmt v.fmt).width (p % (vfFmt v.fmt).count)))
        (fun p => v.active.getLsbD (p / (vfFmt v.fmt).count) && true)).getD ⟨0, 0⟩))))) ∧
    (Runs s v (.vfscanadd d a rm) → exec (.vfscanadd d a rm) s =
      .next (s.putVecFlags v 8 d (fun n => elementwise (vfFmt v.fmt) (fun j =>
        ((treeOf (floatComb (fAdd (vfFmt v.fmt) (v.rm rm))) (v.w.width * (vfFmt v.fmt).count) (fun p => floatLeaf (vfFmt v.fmt)
          (elem (v.v a.toNat (p / (vfFmt v.fmt).count)) (vfFmt v.fmt).width (p % (vfFmt v.fmt).count)))
        (fun p => v.active.getLsbD (p / (vfFmt v.fmt).count) && decide (p ≤ n * (vfFmt v.fmt).count + j))).getD ⟨0, 0⟩))))) ∧
    (Runs s v (.vfscanmax d a) → exec (.vfscanmax d a) s =
      .next (s.putVecFlags v 8 d (fun n => elementwise (vfFmt v.fmt) (fun j =>
        ((treeOf (floatComb (minMax (vfFmt v.fmt) true)) (v.w.width * (vfFmt v.fmt).count) (fun p => floatLeaf (vfFmt v.fmt)
          (elem (v.v a.toNat (p / (vfFmt v.fmt).count)) (vfFmt v.fmt).width (p % (vfFmt v.fmt).count)))
        (fun p => v.active.getLsbD (p / (vfFmt v.fmt).count) && decide (p ≤ n * (vfFmt v.fmt).count + j))).getD ⟨0, 0⟩)))))

/-- VSFU (R147, R165): every element of every active lane gets its function's value, rounded once in the word's mode, eight ticks on. -/
def Obligations.SpecialFunctionResults : Prop :=
  ∀ (s : State) (v : View) (d a : BitVec 6) (rm : BitVec 3),
    (Runs s v (.vsfuRcp d a rm) → exec (.vsfuRcp d a rm) s =
      .next (s.putVecFlags v 8 d (fun n => elementwise (vfFmt v.fmt) (fun j => sfu (vfFmt v.fmt) .rcp (v.rm rm)
        (elem (v.v a.toNat n) (vfFmt v.fmt).width j))))) ∧
    (Runs s v (.vsfuRsq d a rm) → exec (.vsfuRsq d a rm) s =
      .next (s.putVecFlags v 8 d (fun n => elementwise (vfFmt v.fmt) (fun j => sfu (vfFmt v.fmt) .rsq (v.rm rm)
        (elem (v.v a.toNat n) (vfFmt v.fmt).width j))))) ∧
    (Runs s v (.vsfuSqrt d a rm) → exec (.vsfuSqrt d a rm) s =
      .next (s.putVecFlags v 8 d (fun n => elementwise (vfFmt v.fmt) (fun j => sfu (vfFmt v.fmt) .sqrt (v.rm rm)
        (elem (v.v a.toNat n) (vfFmt v.fmt).width j))))) ∧
    (Runs s v (.vsfuEx2 d a rm) → exec (.vsfuEx2 d a rm) s =
      .next (s.putVecFlags v 8 d (fun n => elementwise (vfFmt v.fmt) (fun j => sfu (vfFmt v.fmt) .ex2 (v.rm rm)
        (elem (v.v a.toNat n) (vfFmt v.fmt).width j))))) ∧
    (Runs s v (.vsfuLg2 d a rm) → exec (.vsfuLg2 d a rm) s =
      .next (s.putVecFlags v 8 d (fun n => elementwise (vfFmt v.fmt) (fun j => sfu (vfFmt v.fmt) .lg2 (v.rm rm)
        (elem (v.v a.toNat n) (vfFmt v.fmt).width j))))) ∧
    (Runs s v (.vsfuSin d a rm) → exec (.vsfuSin d a rm) s =
      .next (s.putVecFlags v 8 d (fun n => elementwise (vfFmt v.fmt) (fun j => sfu (vfFmt v.fmt) .sin (v.rm rm)
        (elem (v.v a.toNat n) (vfFmt v.fmt).width j))))) ∧
    (Runs s v (.vsfuCos d a rm) → exec (.vsfuCos d a rm) s =
      .next (s.putVecFlags v 8 d (fun n => elementwise (vfFmt v.fmt) (fun j => sfu (vfFmt v.fmt) .cos (v.rm rm)
        (elem (v.v a.toNat n) (vfFmt v.fmt).width j))))) ∧
    (Runs s v (.vsfuTanh d a rm) → exec (.vsfuTanh d a rm) s =
      .next (s.putVecFlags v 8 d (fun n => elementwise (vfFmt v.fmt) (fun j => sfu (vfFmt v.fmt) .tanh (v.rm rm)
        (elem (v.v a.toNat n) (vfFmt v.fmt).width j))))) ∧
    (Runs s v (.vsfuSigm d a rm) → exec (.vsfuSigm d a rm) s =
      .next (s.putVecFlags v 8 d (fun n => elementwise (vfFmt v.fmt) (fun j => sfu (vfFmt v.fmt) .sigm (v.rm rm)
        (elem (v.v a.toNat n) (vfFmt v.fmt).width j)))))

/-- VSFU on its inputs (R165, R166), in FP32, FP16 and BF16 and in every mode: the special inputs, NaNs of both signs among them; RCP, SQRT and
RSQ of every finite number, rounded once; EX2 of integers and LG2 of powers of two, exact; SIN and TANH are odd and COS even; TANH and SIGM far
out; and values of the six functions that are computed in fixed point (log 14), worked out by hand. -/
def Obligations.SpecialFunctionInputs : Prop :=
  (∀ (f : Fmt) (rm : Rm), f ∈ [.fp32, .fp16, .bf16] →
    let one : Nat := f.bias.toNat * 2 ^ f.frac
    let inf := f.infCode
    let nan := f.nanCode
    let sign := 2 ^ (f.width - 1)
    sfu f .rcp rm 0 = ⟨inf, 0⟩ ∧ sfu f .rcp rm sign = ⟨sign + inf, 0⟩ ∧ sfu f .rcp rm inf = ⟨0, 0⟩ ∧ sfu f .rcp rm (sign + inf) = ⟨sign, 0⟩ ∧
    sfu f .rsq rm 0 = ⟨inf, 0⟩ ∧ sfu f .rsq rm sign = ⟨sign + inf, 0⟩ ∧ sfu f .rsq rm inf = ⟨0, 0⟩ ∧
    sfu f .sqrt rm 0 = ⟨0, 0⟩ ∧ sfu f .sqrt rm sign = ⟨sign, 0⟩ ∧ sfu f .sqrt rm inf = ⟨inf, 0⟩ ∧
    sfu f .ex2 rm (sign + inf) = ⟨0, 0⟩ ∧ sfu f .ex2 rm inf = ⟨inf, 0⟩ ∧
    sfu f .lg2 rm 0 = ⟨sign + inf, 0⟩ ∧ sfu f .lg2 rm sign = ⟨sign + inf, 0⟩ ∧ sfu f .lg2 rm inf = ⟨inf, 0⟩ ∧
    (∀ z ∈ [inf, sign + inf], sfu f .sin rm z = ⟨nan, 1⟩ ∧ sfu f .cos rm z = ⟨nan, 1⟩) ∧
    (∀ z ∈ [0, sign], sfu f .sin rm z = ⟨z, 0⟩ ∧ sfu f .tanh rm z = ⟨z, 0⟩ ∧ sfu f .cos rm z = ⟨one, 0⟩ ∧ sfu f .ex2 rm z = ⟨one, 0⟩ ∧
      sfu f .sigm rm z = ⟨one - 2 ^ f.frac, 0⟩) ∧
    sfu f .tanh rm inf = ⟨one, 0⟩ ∧ sfu f .tanh rm (sign + inf) = ⟨sign + one, 0⟩ ∧
    sfu f .sigm rm (sign + inf) = ⟨0, 0⟩ ∧ sfu f .sigm rm inf = ⟨one, 0⟩ ∧
    (∀ fn c, fn ∈ [Sfu.rsq, .sqrt, .lg2] → sign < c → c ≤ sign + inf → sfu f fn rm c = ⟨nan, 1⟩) ∧
    (∀ fn c, c < 2 * sign → inf < c % sign → sfu f fn rm c = ⟨nan, if c % sign < inf + 2 ^ (f.frac - 1) then 1 else 0⟩) ∧
    (∀ c neg m e, decodeF f c = .num neg m e → m ≠ 0 →
      let x := valueOf (decodeF f c)
      ResultIs f .arith rm neg ((1 / x : ℚ) : ℝ) (sfu f .rcp rm c) ∧
      (0 < x → RoundsTo f .arith rm false (Real.sqrt x) (sfu f .sqrt rm c) ∧ RoundsTo f .arith rm false (1 / Real.sqrt x) (sfu f .rsq rm c)) ∧
      (∀ k : Int, x = k → |k| < 256 → RoundsTo f .arith rm false ((2 : ℝ) ^ k) (sfu f .ex2 rm c)) ∧
      (∀ k : Int, x = 2 ^ k → ResultIs f .arith rm false k (sfu f .lg2 rm c)) ∧
      (256 ≤ x → sfu f .tanh rm c = ⟨if rm = .rz ∨ rm = .rd then one - 1 else one, 8⟩ ∧
        sfu f .sigm rm c = ⟨if rm = .rz ∨ rm = .rd then one - 1 else one, 8⟩) ∧
      (x ≤ -256 → sfu f .sigm rm c = ⟨if rm = .ru then 1 else 0, 0x0C⟩)) ∧
    (∀ c, c < sign → c < inf →
      let mirror : Rm := match rm with
        | .ru => .rd
        | .rd => .ru
        | r => r
      (∀ fn ∈ [Sfu.sin, .tanh], (sfu f fn mirror (sign + c)).flags = (sfu f fn rm c).flags ∧
        (sfu f fn mirror (sign + c)).bits = if (sfu f fn rm c).bits < sign then (sfu f fn rm c).bits + sign else (sfu f fn rm c).bits - sign) ∧
      sfu f .cos rm (sign + c) = sfu f .cos rm c)) ∧
  sfu .fp32 .ex2 .rne 0x3F000000 = ⟨0x3FB504F3, 8⟩ ∧ sfu .fp32 .ex2 .ru 0xBFC00000 = ⟨0x3EB504F4, 8⟩ ∧
  sfu .fp32 .lg2 .rne 0x40400000 = ⟨0x3FCAE00D, 8⟩ ∧ sfu .fp32 .lg2 .rd 0x3DCCCCCD = ⟨0xC0549A79, 8⟩ ∧
  sfu .fp32 .sin .rne 0x3F800000 = ⟨0x3F576AA4, 8⟩ ∧ sfu .fp32 .sin .ru 0x42C80000 = ⟨0xBF01A12D, 8⟩ ∧
  sfu .fp32 .cos .rne 0x3F800000 = ⟨0x3F0A5140, 8⟩ ∧ sfu .fp32 .cos .rd 0x40000000 = ⟨0xBED51133, 8⟩ ∧
  sfu .fp32 .tanh .rne 0x3F000000 = ⟨0x3EEC9A9F, 8⟩ ∧ sfu .fp32 .tanh .ru 0xBF800000 = ⟨0xBF42F7D5, 8⟩ ∧
  sfu .fp32 .sigm .rne 0x3F800000 = ⟨0x3F3B26A8, 8⟩ ∧ sfu .fp32 .sigm .rd 0xC0400000 = ⟨0x3D4241A1, 8⟩

/-- Conversions and the lattice words (R63 to R65, R71, R72, R74, R167 to R179): every active lane gets the conversion of its own elements, or what
its octet gives, eight ticks on, with its flags; in a planer the flags of VCVT, VQNT and VLQDEC stay with the result (R83; log 71). One element or
octet gives: of VCVT the value itself in a widening, else the value narrowed; of VQNT the exact quotient narrowed, with the special quotients of
R74 (log 29); of VDQNT, VLQDEC and VLQERR the exact product or difference, rounded once; of VLQENC and VLQINS the codes of least error. -/
def Obligations.ConversionResults : Prop :=
  (∀ (s : State) (v : View) (d a b : BitVec 6) (src dst rm : BitVec 3) (ha hb : BitVec 1),
    (Runs s v (.vcvt d a src dst rm) → exec (.vcvt d a src dst rm) s =
      .next (s.putConverted v 8 d [a] (fun n => convertLane src.toNat dst.toNat (v.rm rm) (v.v a.toNat n)))) ∧
    (Runs s v (.vqnt d a b rm) → exec (.vqnt d a b rm) s = .next (s.putConverted v 8 d [a, b] (fun n =>
      oneResult (quantElem (bitsAt v.fmt 5 3) (v.rm rm) (v.v a.toNat n).toNat (v.v b.toNat n).toNat)))) ∧
    (Runs s v (.vdqnt d a b rm) → exec (.vdqnt d a b rm) s =
      .next (s.putVecFlags v 8 d (fun n => oneResult (dequantElem (bitsAt v.fmt 5 3) (v.rm rm)
        (elem (v.v a.toNat n) (quantFmt (bitsAt v.fmt 5 3)).width 0) (v.v b.toNat n).toNat)))) ∧
    (Runs s v (.vlqenc d a b ha hb) → exec (.vlqenc d a b ha hb) s =
      .next (s.putVecFlags v 8 d (fun n => oneResult (lqEncode ((List.range 8).map (fun j =>
        decodeF .fp32 (if v.active.getLsbD (n / 8 * 8 + j) then (v.v a.toNat (n / 8 * 8 + j)).toNat else 0)))
        (decodeF .fp32 (v.v b.toNat (v.octetLow n)).toNat))))) ∧
    (Runs s v (.vlqdec d a b ha hb) → exec (.vlqdec d a b ha hb) s = .next (s.putConverted v 8 d [a, b] (fun n =>
      oneResult (lqDecodeElem (v.rm 0) ((v.v a.toNat n).toNat % 2 ^ 16) (n % 8) (v.v b.toNat n).toNat)))) ∧
    (Runs s v (.vlqins d a b ha hb) → exec (.vlqins d a b ha hb) s =
      .next (s.putVecFlags v 8 d (fun n => oneResult (lqInsert ((v.v d.toNat (v.octetLow n)).toNat % 2 ^ 16)
        (((List.range 8).filter (fun j => v.active.getLsbD (n / 8 * 8 + j))).map
          (fun j => (j, decodeF .fp32 (v.v a.toNat (n / 8 * 8 + j)).toNat)))
        (decodeF .fp32 (v.v b.toNat (v.octetLow n)).toNat))))) ∧
    (Runs s v (.vlqerr d a b ha hb) → exec (.vlqerr d a b ha hb) s = .next (s.putVecFlags v 8 d (fun n =>
      oneResult (lqErrElem (v.rm 0) ((v.v d.toNat n).toNat % 2 ^ 16) (n % 8) (v.v a.toNat n).toNat (v.v b.toNat n).toNat)))) ∧
    (∀ lat srcs (r : Nat → Word × List (BitVec 5)),
      (v.inPlaner = false → s.putConverted v lat d srcs r = s.putVecFlags v lat d r) ∧
      (v.inPlaner = true → s.putConverted v lat d srcs r =
        (((s.putVec v lat d (fun n => (r n).1)).putPend v lat (.carried d.toNat (orFlags (v.active.toList.flatMap (fun n => (r n).2)) |||
          orFlags (srcs.map (fun x => Table.getD v.w.carried x.toNat 0))))).raiseEvents (v.active.toList.flatMap (fun n => (r n).2))))) ∧
    (∀ n i, (v.active.toList.filter (fun k => k / 8 = i / 8)).head? = some n → v.octetLow i = n)) ∧
  VcvtElements ∧ VcvtLanes ∧ QuantElements ∧ DequantElements ∧ LatticeCodes ∧ LatticeDecodes ∧ LatticeEncodes ∧ LatticeInserts

/-- NaNs, infinities, division by zero, minimum and maximum, and classes (R70, R160 to R162): an operand that is a NaN gives the canonical NaN,
with INV exactly where one is signalling, or a product is 0 × ∞; an invalid operation gives the canonical NaN and INV; an infinite operand
otherwise gives an infinity, or a zero as a divisor; a nonzero finite number over a zero gives an infinity and no flag. VFMIN and VFMAX give the
lesser and the greater operand with -0 below +0, of one NaN the other operand. VFCLS sets the one bit of its operand's class. -/
def Obligations.NanAndInfinityRules : Prop :=
  (∀ (f : Fmt) (rm : Rm) (a b c : Nat),
    (∀ op ∈ [fAdd f rm, fSub f rm, fMul f rm, fDiv f rm], (decodeF f a).isNan = true ∨ (decodeF f b).isNan = true →
      op a b = ⟨f.nanCode, if (decodeF f a).isSnan || (decodeF f b).isSnan then 1 else 0⟩) ∧
    (∀ x y, decodeF f a = .inf x → decodeF f b = .inf y → fAdd f rm a b = (if x = y then ⟨f.signBit x + f.infCode, 0⟩ else ⟨f.nanCode, 1⟩) ∧
      fSub f rm a b = (if x = y then ⟨f.nanCode, 1⟩ else ⟨f.signBit x + f.infCode, 0⟩) ∧ fDiv f rm a b = ⟨f.nanCode, 1⟩ ∧
      fMul f rm a b = ⟨f.signBit (x != y) + f.infCode, 0⟩) ∧
    (∀ x y n e, decodeF f a = .inf x → decodeF f b = .num y n e → fAdd f rm a b = ⟨f.signBit x + f.infCode, 0⟩ ∧
      fAdd f rm b a = ⟨f.signBit x + f.infCode, 0⟩ ∧ fSub f rm a b = ⟨f.signBit x + f.infCode, 0⟩ ∧
      fSub f rm b a = ⟨f.signBit (!x) + f.infCode, 0⟩ ∧ fDiv f rm a b = ⟨f.signBit (x != y) + f.infCode, 0⟩ ∧
      fDiv f rm b a = ⟨if f = .mf8 then 0 else f.signBit (y != x), 0⟩ ∧
      fMul f rm a b = (if n = 0 then ⟨f.nanCode, 1⟩ else ⟨f.signBit (x != y) + f.infCode, 0⟩) ∧ fMul f rm b a = fMul f rm a b) ∧
    (∀ x y e, decodeF f a = .inf x → decodeF f b = .num y 0 e → fMul f rm a b = ⟨f.nanCode, 1⟩ ∧ fMul f rm b a = ⟨f.nanCode, 1⟩ ∧
      (fMa f rm a b c).bits = f.nanCode ∧ (fMa f rm a b c).flags = 1 ∧ (fMs f rm b a c).bits = f.nanCode ∧ (fMs f rm b a c).flags = 1) ∧
    (∀ x m e y d, decodeF f a = .num x m e → decodeF f b = .num y 0 d →
      fDiv f rm a b = if m = 0 then ⟨f.nanCode, 1⟩ else ⟨f.signBit (x != y) + f.infCode, 0⟩) ∧
    -- the fused operations: of a NaN, of an infinite product, of an infinite addend
    (let A := decodeF f a
     let B := decodeF f b
     let C := decodeF f c
     let p := negOf A != negOf B
     let invalid := (isInf A && isZero B) || (isZero A && isInf B)
     (A.isNan || B.isNan || C.isNan → ∀ op ∈ [fMa f rm, fMs f rm],
       op a b c = ⟨f.nanCode, if A.isSnan || B.isSnan || C.isSnan || invalid then 1 else 0⟩) ∧
     (A.isNan = false → B.isNan = false → C.isNan = false → invalid = false →
       (isInf A || isInf B → fMa f rm a b c = (if isInf C && negOf C != p then ⟨f.nanCode, 1⟩ else ⟨f.signBit p + f.infCode, 0⟩) ∧
         fMs f rm a b c = (if isInf C && negOf C == p then ⟨f.nanCode, 1⟩ else ⟨f.signBit p + f.infCode, 0⟩)) ∧
       (isInf A = false → isInf B = false → isInf C = true → fMa f rm a b c = ⟨f.signBit (negOf C) + f.infCode, 0⟩ ∧
         fMs f rm a b c = ⟨f.signBit (!negOf C) + f.infCode, 0⟩)))) ∧
  (∀ (f : Fmt) (a b : Nat), f ∈ [.fp32, .fp16, .bf16] → a < 2 ^ f.width → b < 2 ^ f.width →
    let nan (c : Nat) : Bool := decide (f.infCode < c % 2 ^ (f.width - 1))
    let snan (c : Nat) : Bool := nan c && decide (c % 2 ^ (f.width - 1) < f.infCode + 2 ^ (f.frac - 1))
    let rank (c : Nat) : Int := if 2 ^ (f.width - 1) ≤ c then -((c % 2 ^ (f.width - 1) : Nat) : Int) - 1 else c
    (∀ x, (minMax f x a b).flags = if snan a || snan b then 1 else 0) ∧
    (∀ x, (minMax f x a b).bits = if nan a then (if nan b then f.nanCode else b) else if nan b then a
      else if x then (if rank a < rank b then b else a) else (if rank b < rank a then b else a)) ∧
    (let neg := decide (2 ^ (f.width - 1) ≤ a)
     let ex := a % 2 ^ (f.width - 1) / 2 ^ f.frac
     let fr := a % 2 ^ f.frac
     classWord f a =
       if ex = 2 ^ f.expBits - 1 then (if fr = 0 then (if neg then 2 ^ 0 else 2 ^ 7) else if fr < 2 ^ (f.frac - 1) then 2 ^ 8 else 2 ^ 9)
       else if ex = 0 then (if fr = 0 then (if neg then 2 ^ 3 else 2 ^ 4) else (if neg then 2 ^ 2 else 2 ^ 5))
       else (if neg then 2 ^ 1 else 2 ^ 6)))

/-- Rounding (R67 to R69, R71, R73, R79, R160). To a whole number of units: m parts of 2^k to the unit round to r units, exactly where m is a whole
number of them, else to one of the two neighbours: towards zero in RZ, up for a positive value in RU and for a negative one in RD, and to the
nearest in RNE and RNA, a tie to the even one in RNE and to the larger in RNA. Into a format: the neighbour in V∞ that the mode takes, or what
overflow gives, with SATO, UNF and INX. Sums, differences, products, quotients and fused sums of finite numbers are rounded once from the exact
value, and a zero takes its sign from the operands. RoundAF40 rounds to 32 bits. -/
def Obligations.RoundingToUnits : Prop :=
  (∀ (rm : Rm) (neg : Bool) (m k : Nat) (e : Int),
    let r := roundUnits rm neg m e (e + k) false
    r.2 = decide (m % 2 ^ k ≠ 0) ∧ (m % 2 ^ k = 0 → r.1 * 2 ^ k = m) ∧ (r.1 = m / 2 ^ k ∨ r.1 = m / 2 ^ k + 1) ∧
      (rm = .rz ∨ (rm = .ru ∧ neg = true) ∨ (rm = .rd ∧ neg = false) → r.1 * 2 ^ k ≤ m) ∧
      ((rm = .ru ∧ neg = false) ∨ (rm = .rd ∧ neg = true) → m ≤ r.1 * 2 ^ k) ∧
      (rm = .rne ∨ rm = .rna → 2 * (r.1 * 2 ^ k) ≤ 2 * m + 2 ^ k ∧ 2 * m ≤ 2 * (r.1 * 2 ^ k) + 2 ^ k) ∧
      (rm = .rne → 2 * (m % 2 ^ k) = 2 ^ k → r.1 % 2 = 0) ∧ (rm = .rna → 2 * (m % 2 ^ k) = 2 ^ k → m ≤ r.1 * 2 ^ k)) ∧
  (∀ (f : Fmt) (o : Over) (rm : Rm) (neg : Bool) (m : Nat) (e : Int), 0 < m →
    RoundsTo f o rm neg (m * 2 ^ e) (roundFinite f o rm neg m e false)) ∧
  (∀ (f : Fmt) (rm : Rm) (a b c : Nat) (p q r : Bool) (m n l : Nat) (i j k : Int), f ∈ [.fp32, .fp16, .bf16] →
    decodeF f a = .num p m i → decodeF f b = .num q n j → decodeF f c = .num r l k →
    let x := valueOf (decodeF f a)
    let y := valueOf (decodeF f b)
    let z := valueOf (decodeF f c)
    let zero (u w : Bool) : Bool := if u = w then u else decide (rm = .rd)
    ResultIs f .arith rm (zero p q) ((x + y : ℚ) : ℝ) (fAdd f rm a b) ∧
    ResultIs f .arith rm (zero p !q) ((x - y : ℚ) : ℝ) (fSub f rm a b) ∧
    ResultIs f .arith rm (p != q) ((x * y : ℚ) : ℝ) (fMul f rm a b) ∧
    (n ≠ 0 → ResultIs f .arith rm (p != q) ((x / y : ℚ) : ℝ) (fDiv f rm a b)) ∧
    ResultIs f .arith rm (zero (p != q) r) ((x * y + z : ℚ) : ℝ) (fMa f rm a b c) ∧
    ResultIs f .arith rm (zero (p != q) !r) ((x * y - z : ℚ) : ℝ) (fMs f rm a b c)) ∧
  (∀ (neg : Bool) (m : Nat) (e : Int), (0 < m → RoundsToAF40 neg (m * 2 ^ e) (roundAF40 (.num neg m e))) ∧
    roundAF40 (.num neg 0 e) = (if neg then 0x8000000000 else 0, 0) ∧
    roundAF40 (.inf neg) = (if neg then 0xFF80000000 else 0x7F80000000, 0) ∧ roundAF40 (.nan neg) = (0x7FC0000000, if neg then 1 else 0))

/-- The values of codes (R58 to R60, R62), and held values (R68, R73): a finite code has the value of its layout with its sign; the codes of
infinities and NaNs are those of R59; magnitudes rise with their codes; an AF40 pattern has the value of its fields, a subnormal one that of a
zero; and a finite value that a format holds rounds to its own code with no flag, in every mode and every format of R58 and R62. -/
def Obligations.HeldValuesRoundToThemselves : Prop :=
  (∀ (f : Fmt) (o : Over) (rm : Rm) (c m : Nat) (neg : Bool) (e : Int), decodeF f c = .num neg m e →
    roundFinite f o rm neg m e false = ⟨c % 2 ^ f.width, 0⟩) ∧
  (∀ (f : Fmt) (c : Nat), decodeF f (c % 2 ^ f.width) = decodeF f c ∧ unbounded f c < unbounded f (c + 1) ∧
    (c ≤ f.maxCode → ∃ m e, decodeF f c = .num false m e ∧ valueOf (.num false m e) = unbounded f c) ∧
    (c ≤ f.maxCode → ¬(f = .mf8 ∧ c = 0) → ∃ m e, decodeF f (2 ^ (f.width - 1) + c) = .num true m e ∧
      valueOf (.num true m e) = -unbounded f c)) ∧
  (∀ (f : Fmt) (neg : Bool), f ∈ [.fp32, .fp16, .bf16, .e5m2] →
    decodeF f (f.signBit neg + f.infCode) = .inf neg ∧
    ∀ fr, 0 < fr → fr < 2 ^ f.frac → decodeF f (f.signBit neg + f.infCode + fr) = .nan (decide (fr < 2 ^ (f.frac - 1)))) ∧
  decodeF .e4m3 0x7F = .nan false ∧ decodeF .e4m3 0xFF = .nan false ∧ decodeF .mf8 0x80 = .nan false ∧
  ([Fmt.fp32, .fp16, .bf16, .e4m3, .e5m2, .mf8].map Fmt.maxCode = [0x7F7FFFFF, 0x7BFF, 0x7F7F, 0x7E, 0x7B, 0x7F] ∧
    [Fmt.fp32, .fp16, .bf16, .e4m3, .e5m2, .mf8].map Fmt.nanCode = [0x7FC00000, 0x7E00, 0x7FC0, 0x7F, 0x7E, 0x80] ∧
    unbounded .fp32 0x7F7FFFFF = (2 - 2 ^ (-23 : Int)) * 2 ^ 127 ∧ unbounded .fp16 0x7BFF = 65504 ∧
    unbounded .bf16 0x7F7F = (2 - 2 ^ (-7 : Int)) * 2 ^ 127 ∧ unbounded .e4m3 0x7E = 448 ∧ unbounded .e5m2 0x7B = 57344 ∧
    unbounded .mf8 0x7F = 31 / 2) ∧
  (∀ x : BitVec 40, (bitsAt x 31 8 = 0 → ∃ e, decodeAF40 x = .num (x.getLsbD 39) 0 e) ∧
    (0 < bitsAt x 31 8 → bitsAt x 31 8 < 255 → ∃ m e, decodeAF40 x = .num (x.getLsbD 39) m e ∧
      (m : ℚ) * 2 ^ e = (1 + (bitsAt x 0 31 : ℚ) / 2 ^ 31) * 2 ^ ((bitsAt x 31 8 : Int) - 127)) ∧
    (bitsAt x 31 8 = 255 → decodeAF40 x = if bitsAt x 0 31 = 0 then .inf (x.getLsbD 39) else .nan (!x.getLsbD 30)))

/-! ### Memory words and their completion -/

/-- Loads and stores (R107, R209, R215 to R218): each issues one access for its fragment, or one for each active lane, at the address that its
form gives, with the data read at issue, its acquire or release and, on the bench, its tag mode. -/
def Obligations.LoadsAndStoresIssue : Prop :=
  ∀ (s : State) (v : View) (t a off : BitVec 6) (sz ord : BitVec 2),
    (Runs s v (.sld t a off sz ord) → exec (.sld t a off sz ord) s = .next (s.issueMem v
      { op := .load, bench := false, size := 2 ^ sz.toNat, dest := .scal t.toNat, acq := ord == 1, rel := false,
        lanes := [{ lane := v.active.low, addr := v.s a.toNat + off.signExtend 64 * BitVec.ofNat 64 (2 ^ sz.toNat), data := 0 }] })) ∧
    (Runs s v (.sst t a off sz ord) → exec (.sst t a off sz ord) s = .next (s.issueMem v
      { op := .store, bench := false, size := 2 ^ sz.toNat, dest := .none, acq := false, rel := ord == 2,
        lanes := [{
          lane := v.active.low, addr := v.s a.toNat + off.signExtend 64 * BitVec.ofNat 64 (2 ^ sz.toNat),
          data := BitVec.ofNat 64 ((v.s t.toNat).toNat % 2 ^ (8 * 2 ^ sz.toNat)) }] })) ∧
    (Runs s v (.vld t a off sz ord) → exec (.vld t a off sz ord) s = .next (s.issueMem v
      { op := .load, bench := false, size := 2 ^ sz.toNat, dest := .vec t.toNat,
        acq := ord == 1, rel := false,
        vector := true, lanes := v.active.toList.map (fun n => {
          lane := n, addr := v.s a.toNat + off.signExtend 64 * BitVec.ofNat 64 (2 ^ sz.toNat) + BitVec.ofNat 64 (n * 2 ^ sz.toNat), data := 0 }) })) ∧
    (Runs s v (.vst t a off sz ord) → exec (.vst t a off sz ord) s = .next (s.issueMem v
      { op := .store, bench := false, size := 2 ^ sz.toNat, dest := .none,
        acq := false, rel := ord == 2,
        vector := true, lanes := v.active.toList.map (fun n => {
          lane := n, addr := v.s a.toNat + off.signExtend 64 * BitVec.ofNat 64 (2 ^ sz.toNat) + BitVec.ofNat 64 (n * 2 ^ sz.toNat), data := if sz = 3 then v.v (t.toNat + 1) n ++ v.v t.toNat n
          else BitVec.ofNat 64 ((v.v t.toNat n).toNat % 2 ^ (8 * 2 ^ sz.toNat)) }) })) ∧
    (Runs s v (.vldg t a off sz ord) → exec (.vldg t a off sz ord) s = .next (s.issueMem v
      { op := .load, bench := false, size := 2 ^ sz.toNat, dest := .vec t.toNat,
        acq := ord == 1, rel := false,
        vector := true, lanes := v.active.toList.map (fun n => {
          lane := n, addr := v.s off.toNat + (v.v a.toNat n).signExtend 64 * BitVec.ofNat 64 (2 ^ sz.toNat), data := 0 }) })) ∧
    (Runs s v (.vsts t a off sz ord) → exec (.vsts t a off sz ord) s = .next (s.issueMem v
      { op := .store, bench := false, size := 2 ^ sz.toNat, dest := .none,
        acq := false, rel := ord == 2,
        vector := true, lanes := v.active.toList.map (fun n => {
          lane := n, addr := v.s off.toNat + (v.v a.toNat n).signExtend 64 * BitVec.ofNat 64 (2 ^ sz.toNat), data := if sz = 3 then v.v (t.toNat + 1) n ++ v.v t.toNat n
          else BitVec.ofNat 64 ((v.v t.toNat n).toNat % 2 ^ (8 * 2 ^ sz.toNat)) }) })) ∧
    (Runs s v (.bld t a off sz ord) → exec (.bld t a off sz ord) s = .next (s.issueMem v
      { op := if ord = 0 then .load else .tagLoad (ord == 2), bench := true, size := 2 ^ sz.toNat, dest := .vec t.toNat,
        acq := ord != 0, rel := false,
        scope := some .team,
        vector := true, lanes := v.active.toList.map (fun n => {
          lane := n, addr := v.s a.toNat + off.signExtend 64 * BitVec.ofNat 64 (2 ^ sz.toNat) + BitVec.ofNat 64 (n * 2 ^ sz.toNat), data := 0 }) })) ∧
    (Runs s v (.bst t a off sz ord) → exec (.bst t a off sz ord) s = .next (s.issueMem v
      { op := if ord = 0 then .store else .tagStore (ord == 1), bench := true, size := 2 ^ sz.toNat, dest := .none,
        acq := false, rel := ord != 0,
        scope := some .team,
        vector := true, lanes := v.active.toList.map (fun n => {
          lane := n, addr := v.s a.toNat + off.signExtend 64 * BitVec.ofNat 64 (2 ^ sz.toNat) + BitVec.ofNat 64 (n * 2 ^ sz.toNat), data := if sz = 3 then v.v (t.toNat + 1) n ++ v.v t.toNat n
          else BitVec.ofNat 64 ((v.v t.toNat n).toNat % 2 ^ (8 * 2 ^ sz.toNat)) }) })) ∧
    (Runs s v (.bldg t a off sz ord) → exec (.bldg t a off sz ord) s = .next (s.issueMem v
      { op := if ord = 0 then .load else .tagLoad (ord == 2), bench := true, size := 2 ^ sz.toNat, dest := .vec t.toNat,
        acq := ord != 0, rel := false,
        scope := some .team,
        vector := true, lanes := v.active.toList.map (fun n => {
          lane := n, addr := v.s off.toNat + (v.v a.toNat n).signExtend 64 * BitVec.ofNat 64 (2 ^ sz.toNat), data := 0 }) })) ∧
    (Runs s v (.bsts t a off sz ord) → exec (.bsts t a off sz ord) s = .next (s.issueMem v
      { op := if ord = 0 then .store else .tagStore (ord == 1), bench := true, size := 2 ^ sz.toNat, dest := .none,
        acq := false, rel := ord != 0,
        scope := some .team,
        vector := true, lanes := v.active.toList.map (fun n => {
          lane := n, addr := v.s off.toNat + (v.v a.toNat n).signExtend 64 * BitVec.ofNat 64 (2 ^ sz.toNat), data := if sz = 3 then v.v (t.toNat + 1) n ++ v.v t.toNat n
          else BitVec.ofNat 64 ((v.v t.toNat n).toNat % 2 ^ (8 * 2 ^ sz.toNat)) }) }))

/-- Atomics (R219, R221): AMO issues one access at s[A], VAMO one for each active lane at the pair v[A], v[A+1], each with its function, its
size, its order, its scope and its value, and for a CAS the new value in the registers after it. -/
def Obligations.AtomicsIssue : Prop :=
  ∀ (s : State) (v : View) (d a : BitVec 6) (ord sz sc : BitVec 2),
    (Runs s v (.amoAdd d a ord sz sc) → exec (.amoAdd d a ord sz sc) s = .next (s.issueMem v (v.amoReq 0 d a ord sz sc))) ∧
    (Runs s v (.amoAnd d a ord sz sc) → exec (.amoAnd d a ord sz sc) s = .next (s.issueMem v (v.amoReq 1 d a ord sz sc))) ∧
    (Runs s v (.amoOr d a ord sz sc) → exec (.amoOr d a ord sz sc) s = .next (s.issueMem v (v.amoReq 2 d a ord sz sc))) ∧
    (Runs s v (.amoXor d a ord sz sc) → exec (.amoXor d a ord sz sc) s = .next (s.issueMem v (v.amoReq 3 d a ord sz sc))) ∧
    (Runs s v (.amoMin d a ord sz sc) → exec (.amoMin d a ord sz sc) s = .next (s.issueMem v (v.amoReq 4 d a ord sz sc))) ∧
    (Runs s v (.amoMax d a ord sz sc) → exec (.amoMax d a ord sz sc) s = .next (s.issueMem v (v.amoReq 5 d a ord sz sc))) ∧
    (Runs s v (.amoMinu d a ord sz sc) → exec (.amoMinu d a ord sz sc) s = .next (s.issueMem v (v.amoReq 6 d a ord sz sc))) ∧
    (Runs s v (.amoMaxu d a ord sz sc) → exec (.amoMaxu d a ord sz sc) s = .next (s.issueMem v (v.amoReq 7 d a ord sz sc))) ∧
    (Runs s v (.amoXchg d a ord sz sc) → exec (.amoXchg d a ord sz sc) s = .next (s.issueMem v (v.amoReq 8 d a ord sz sc))) ∧
    (Runs s v (.amoCas d a ord sz sc) → exec (.amoCas d a ord sz sc) s = .next (s.issueMem v (v.amoReq 9 d a ord sz sc))) ∧
    (Runs s v (.amoFadd32 d a ord sc) → exec (.amoFadd32 d a ord sc) s = .next (s.issueMem v (v.amoReq 10 d a ord 2 sc))) ∧
    (Runs s v (.amoFadd16x2 d a ord sc) → exec (.amoFadd16x2 d a ord sc) s = .next (s.issueMem v (v.amoReq 11 d a ord 2 sc))) ∧
    (Runs s v (.amoFmin32 d a ord sc) → exec (.amoFmin32 d a ord sc) s = .next (s.issueMem v (v.amoReq 12 d a ord 2 sc))) ∧
    (Runs s v (.amoFmax32 d a ord sc) → exec (.amoFmax32 d a ord sc) s = .next (s.issueMem v (v.amoReq 13 d a ord 2 sc))) ∧
    (Runs s v (.vamoAdd d a ord sz sc) → exec (.vamoAdd d a ord sz sc) s = .next (s.issueMem v (v.vamoReq 0 d a ord sz sc))) ∧
    (Runs s v (.vamoAnd d a ord sz sc) → exec (.vamoAnd d a ord sz sc) s = .next (s.issueMem v (v.vamoReq 1 d a ord sz sc))) ∧
    (Runs s v (.vamoOr d a ord sz sc) → exec (.vamoOr d a ord sz sc) s = .next (s.issueMem v (v.vamoReq 2 d a ord sz sc))) ∧
    (Runs s v (.vamoXor d a ord sz sc) → exec (.vamoXor d a ord sz sc) s = .next (s.issueMem v (v.vamoReq 3 d a ord sz sc))) ∧
    (Runs s v (.vamoMin d a ord sz sc) → exec (.vamoMin d a ord sz sc) s = .next (s.issueMem v (v.vamoReq 4 d a ord sz sc))) ∧
    (Runs s v (.vamoMax d a ord sz sc) → exec (.vamoMax d a ord sz sc) s = .next (s.issueMem v (v.vamoReq 5 d a ord sz sc))) ∧
    (Runs s v (.vamoMinu d a ord sz sc) → exec (.vamoMinu d a ord sz sc) s = .next (s.issueMem v (v.vamoReq 6 d a ord sz sc))) ∧
    (Runs s v (.vamoMaxu d a ord sz sc) → exec (.vamoMaxu d a ord sz sc) s = .next (s.issueMem v (v.vamoReq 7 d a ord sz sc))) ∧
    (Runs s v (.vamoXchg d a ord sz sc) → exec (.vamoXchg d a ord sz sc) s = .next (s.issueMem v (v.vamoReq 8 d a ord sz sc))) ∧
    (Runs s v (.vamoCas d a ord sz sc) → exec (.vamoCas d a ord sz sc) s = .next (s.issueMem v (v.vamoReq 9 d a ord sz sc))) ∧
    (Runs s v (.vamoFadd32 d a ord sc) → exec (.vamoFadd32 d a ord sc) s = .next (s.issueMem v (v.vamoReq 10 d a ord 2 sc))) ∧
    (Runs s v (.vamoFadd16x2 d a ord sc) → exec (.vamoFadd16x2 d a ord sc) s = .next (s.issueMem v (v.vamoReq 11 d a ord 2 sc))) ∧
    (Runs s v (.vamoFmin32 d a ord sc) → exec (.vamoFmin32 d a ord sc) s = .next (s.issueMem v (v.vamoReq 12 d a ord 2 sc))) ∧
    (Runs s v (.vamoFmax32 d a ord sc) → exec (.vamoFmax32 d a ord sc) s = .next (s.issueMem v (v.vamoReq 13 d a ord 2 sc))) ∧
    (∀ fn : BitVec 4, v.amoReq fn d a ord sz sc =
      { op := .amo fn, bench := false, size := 2 ^ sz.toNat, dest := .scal d.toNat, acq := ord.getLsbD 0,
        rel := ord.getLsbD 1, scope := some (Scope.ofCode sc),
        lanes := [{
          lane := v.active.low, addr := v.s a.toNat, data := lowBytes (2 ^ sz.toNat) (v.s d.toNat),
          new := if fn = 9 then lowBytes (2 ^ sz.toNat) (v.s (d.toNat + 1)) else 0 }] }) ∧
    (∀ fn : BitVec 4, v.vamoReq fn d a ord sz sc =
      { op := .amo fn, bench := false, size := 2 ^ sz.toNat, dest := .vec d.toNat, acq := ord.getLsbD 0,
        rel := ord.getLsbD 1, scope := some (Scope.ofCode sc),
        vector := true, lanes := v.active.toList.map (fun n => {
          lane := n, addr := v.v (a.toNat + 1) n ++ v.v a.toNat n,
          data := if sz = 3 then v.v (d.toNat + 1) n ++ v.v d.toNat n else lowBytes (2 ^ sz.toNat) ((v.v d.toNat n).setWidth 64),
          new := if fn = 9 then (if sz = 3 then v.v (d.toNat + 3) n ++ v.v (d.toNat + 2) n
              else (v.v (d.toNat + 1) n).setWidth 64) else 0 }) })

/-- Issuing a memory word (R96, R100, R210, R212, R218): where some lane passes its checks, or none fails, and none of their bytes lies on a lost die, an
operation of those lanes is outstanding under the next identity, in LC or SC of the fragment, with its scope; the lanes that failed make the group's partial
trap, which keeps the scope; LDF, LDFE and STEF are visibility points at which the fragment waits for the operation; and issue changes no byte of
memory or bench, no register, and nothing else of the fragment. -/
def Obligations.MemoryWordIssues : Prop :=
  ∀ (s : State) (v : View) (f : Frag) (r : MemReq), s.frag? v.fid = some f → ((s.checkWord v r).pass ≠ [] ∨ (s.checkWord v r).failed = []) →
    s.namesLost ((s.checkWord v r).pass.flatMap LaneAcc.locs) = false →
    let wide := (s.checkWord v r).scope.max r.least
    (∃ o, Table.get? (s.issueMem v r).ops s.serial = some o ∧ o.warp = v.wid ∧ o.wg = v.gid ∧ o.op = r.op ∧ o.size = r.size ∧
      o.dest = r.dest ∧ o.lanes = (s.checkWord v r).pass ∧ o.active = v.active ∧ o.acq = r.acq ∧ o.rel = r.rel ∧
      o.scope = r.scope.getD wide ∧ o.got = []) ∧
    (∀ j, j ≠ s.serial → Table.get? (s.issueMem v r).ops j = Table.get? s.ops j) ∧
    (∃ g, (s.issueMem v r).frag? v.fid = some g ∧
      g.lc.members = (if r.op.inLC then s.serial :: f.lc.members else f.lc.members) ∧
      g.sc.members = (if r.op.inLC then f.sc.members else s.serial :: f.sc.members) ∧
      g = { f with lc := g.lc, sc := g.sc, uncovered := g.uncovered }) ∧
    (∀ j, j ≠ v.fid → (s.issueMem v r).frag? j = s.frag? j) ∧
    (∀ i, s.issue = some i → ∃ k, (s.issueMem v r).issue = some k ∧
      (∀ t, (s.checkWord v r).trap = some t → k.partialReq = some ({ t with word := v.i.word },
        { r with lanes := (s.checkWord v r).failed, least := wide },
        Lanes.ofPred (fun n => (s.checkWord v r).failed.any (fun l => l.lane == n)))) ∧
      ((s.checkWord v r).trap = none → k.partialReq = i.partialReq) ∧
      ((∃ e, r.op = .tagLoad e) ∨ r.op = .tagStore true → k.wait = some (.tag s.serial) ∧ k.visible = true) ∧
      ((∀ e, r.op ≠ .tagLoad e) ∧ r.op ≠ .tagStore true → k.wait = i.wait ∧ k.visible = i.visible)) ∧
    (s.issueMem v r).mem = s.mem ∧ (s.issueMem v r).wgs = s.wgs ∧ (s.issueMem v r).warps = s.warps

/-- A load that completes (R100, R200, R216): each of its lanes' values, little-endian, what a part of it performed by itself has read before or what
memory holds now, each part at its place, goes to its lane of the destination, a 64-bit one to two registers, or to the scalar register; every other
element keeps its value, no byte of memory or bench changes, and the operation is out of every set. That parts still outstanding are performed
together at the completion is the model's reading (log 9). -/
def Obligations.LoadsComplete : Prop :=
  ∀ (s : State) (id n : Nat) (o : Op) (w : Warp), Table.get? s.ops id = some o → s.warp? o.warp = some w → o.op = .load →
    s.wgPresent o.wg = true → s.opReady id o = true →
    let xs := o.got ++ o.lanes.map (fun l => (l.lane, 256 ^ l.off * s.readLocs l.locs))
    let value (n : Nat) := ((xs.filter (fun x => x.1 == n)).map Prod.snd).sum
    (∀ x ∈ xs, x.1 < 64) →
    ∃ t, exec (.loadCompletion id) s = .next t ∧ t.mem = s.mem ∧ t.wgs = s.wgs ∧ Table.get? t.ops id = none ∧
      (∀ j, j ≠ id → Table.get? t.ops j = Table.get? s.ops j) ∧
      (∀ j g, t.frag? j = some g → id ∉ g.lc.members ∧ id ∉ g.sc.members) ∧
      (o.dest = .vec n → ∃ u, t.warp? o.warp = some u ∧
        (∀ x ∈ xs, Table.getD u.v (64 * n + x.1) 0 = BitVec.ofNat 32 (value x.1) ∧
          (o.size = 8 → Table.getD u.v (64 * (n + 1) + x.1) 0 = BitVec.ofNat 32 (value x.1 / 2 ^ 32))) ∧
        (∀ k, (∀ x ∈ xs, k ≠ 64 * n + x.1 ∧ (o.size = 8 → k ≠ 64 * (n + 1) + x.1)) → Table.getD u.v k 0 = Table.getD w.v k 0) ∧
        u.s = w.s) ∧
      (∀ l, o.dest = .scal n → n < 48 → xs ≠ [] → (∀ x ∈ xs, x.1 = l) → ∃ u, t.warp? o.warp = some u ∧
        Table.getD u.s n 0 = BitVec.ofNat 64 (value l) ∧ (∀ k, k ≠ n → Table.getD u.s k 0 = Table.getD w.s k 0) ∧ u.v = w.v) ∧
      (∀ l j f, o.dest = .scal n → 48 ≤ n → xs ≠ [] → (∀ x ∈ xs, x.1 = l) → s.frag? j = some f → ∃ g, t.frag? j = some g ∧
        Table.getD g.s n 0 = (if id ∈ f.lc.members ∨ id ∈ f.ec.members then BitVec.ofNat 64 (value l) else Table.getD f.s n 0) ∧
        ∀ k, k ≠ n → Table.getD g.s k 0 = Table.getD f.s k 0)

/-- A store that completes (R100, R216, R217): the lanes are performed in ascending order, so the bytes of a lane hold its data, little-endian,
where no later lane names one of them; every byte that no lane names, of memory and of every bench, reads as before, and no register changes. That
lanes still outstanding are performed together at the completion is the model's reading (log 9). -/
def Obligations.StoresComplete : Prop :=
  ∀ (s : State) (id : Nat) (o : Op), Table.get? s.ops id = some o → o.op = .store → o.dest = .none →
    s.wgPresent o.wg = true → s.opReady id o = true → (∀ g k, Loc.bench g k ∈ o.locs → (s.wg? g).isSome = true) →
    ∃ t, exec (.storeCompletion id) s = .next t ∧ Table.get? t.ops id = none ∧ t.warps = s.warps ∧
      (∀ j g, t.frag? j = some g → id ∉ g.sc.members ∧ ∃ f, s.frag? j = some f ∧ g = { f with lc := g.lc, sc := g.sc, ec := g.ec }) ∧
      (∀ pre l post, o.lanes = pre ++ l :: post → l.locs.Nodup → (∀ x ∈ l.locs, ∀ m ∈ post, x ∉ m.locs) →
        t.readLocs l.locs = l.data.toNat % 256 ^ l.locs.length) ∧
      (∀ x, x ∉ o.locs → t.readLoc x = s.readLoc x)

/-- Atomics and TSREAD that complete (R220, R221, R229). An AMO returns the old value, and writes the new one that its function gives, or nothing where
a CAS's compare fails; every other byte reads as before. The lanes of a VAMO do so in ascending order, so that one which names the same bytes reads
what an earlier one has written; a lane may also be performed by itself, and then the operation keeps what it has read, which is what its fragment has been
told of it, where it has. A TSREAD returns a timebase no lower than before. That lanes still outstanding are performed together at the completion is the model's reading (log 9). -/
def Obligations.AtomicsComplete : Prop :=
  ∀ (s : State) (id n : Nat) (o : Op) (w : Warp), Table.get? s.ops id = some o → s.warp? o.warp = some w → s.wgPresent o.wg = true →
    o.got = [] → (∀ g k, Loc.bench g k ∈ o.locs → (s.wg? g).isSome = true) → (o.lanes.map LaneAcc.lane).Nodup → (∀ l ∈ o.lanes, l.lane < 64) →
    (∀ (fn : BitVec 4), o.op = .amo fn → (∀ l ∈ o.lanes, l.locs.Nodup ∧ l.locs.length = o.size) →
      let new (l : LaneAcc) (m : Nat) := match amoNew fn (8 * o.size) m l.data.toNat l.new.toNat with
        | some x => x % 256 ^ o.size
        | none => m
      (s.opReady id o = true → ∃ t u, exec (.loadCompletion id) s = .next t ∧ t.warp? o.warp = some u ∧
        (∀ x, x ∉ o.locs → t.readLoc x = s.readLoc x) ∧
        (∀ l, o.dest = .scal n → n < 48 → o.lanes = [l] → Table.getD u.s n 0 = BitVec.ofNat 64 (s.readLocs l.locs) ∧
          t.readLocs l.locs = new l (s.readLocs l.locs)) ∧
        (∀ pre l post, o.dest = .vec n → o.lanes = pre ++ l :: post → (∀ x ∈ l.locs, ∀ m ∈ pre, x ∉ m.locs) →
          Table.getD u.v (64 * n + l.lane) 0 = BitVec.ofNat 32 (s.readLocs l.locs) ∧
          (o.size = 8 → Table.getD u.v (64 * (n + 1) + l.lane) 0 = BitVec.ofNat 32 (s.readLocs l.locs / 2 ^ 32)) ∧
          ((∀ x ∈ l.locs, ∀ m ∈ post, x ∉ m.locs) → t.readLocs l.locs = new l (s.readLocs l.locs))) ∧
        (∀ l m, o.dest = .vec n → o.lanes = [l, m] → l.locs = m.locs →
          Table.getD u.v (64 * n + m.lane) 0 = BitVec.ofNat 32 (new l (s.readLocs l.locs)) ∧
          t.readLocs l.locs = new m (new l (s.readLocs l.locs)))) ∧
      (∀ l, l ∈ o.lanes → s.openPart id l.number = some (o, l) → s.mayPerform id o l = true → s.barred id o l = false → s.atomicOpen id o l = true →
        ((∀ x, (l.number, x) ∈ o.told → x = s.readLocs l.locs) → ∃ q,
          Table.get? (s.partAlone id l.number).ops id = some q ∧ q.lanes = o.lanes.filter (fun m => m != l) ∧
          q.got = [(l.lane, s.readLocs l.locs)] ∧ (s.partAlone id l.number).readLocs l.locs = new l (s.readLocs l.locs) ∧
          ∀ x, x ∉ l.locs → (s.partAlone id l.number).readLoc x = s.readLoc x) ∧
        (∀ x, (l.number, x) ∈ o.told → x ≠ s.readLocs l.locs → s.partAlone id l.number = s))) ∧
    (∀ l, o.op = .tsread → o.dest = .scal n → n < 48 → o.lanes = [l] → s.opReady id o = true → s.timebase < 2 ^ 64 → ∃ t u,
      exec (.loadCompletion id) s = .next t ∧ t.warp? o.warp = some u ∧ Table.getD u.s n 0 = BitVec.ofNat 64 t.timebase ∧
      s.timebase ≤ t.timebase ∧ t.timebase < 2 ^ 64 ∧ SameMemory s t ∧ Table.get? t.ops id = none)

/-- The new value of each atomic (R220): of n bits for the integer functions; of FP32, or of two BF16 elements, for the functions 10 to 13, whose sums
are rounded with RNE. -/
def Obligations.AtomicNewValues : Prop :=
  (∀ (n : Nat) (m x y : BitVec n), 0 < n →
    amoNew 0 n m.toNat x.toNat y.toNat = some (m + x).toNat ∧ amoNew 1 n m.toNat x.toNat y.toNat = some (m &&& x).toNat ∧
    amoNew 2 n m.toNat x.toNat y.toNat = some (m ||| x).toNat ∧ amoNew 3 n m.toNat x.toNat y.toNat = some (m ^^^ x).toNat ∧
    amoNew 4 n m.toNat x.toNat y.toNat = some (if x.slt m then x else m).toNat ∧
    amoNew 5 n m.toNat x.toNat y.toNat = some (if x.slt m then m else x).toNat ∧
    amoNew 6 n m.toNat x.toNat y.toNat = some (if x.ult m then x else m).toNat ∧
    amoNew 7 n m.toNat x.toNat y.toNat = some (if x.ult m then m else x).toNat ∧
    amoNew 8 n m.toNat x.toNat y.toNat = some x.toNat ∧
    amoNew 9 n m.toNat x.toNat y.toNat = (if m = x then some y.toNat else none)) ∧
  ∀ (m x : BitVec 32) (y : Nat),
    amoNew 10 32 m.toNat x.toNat y = some (fAdd .fp32 .rne m.toNat x.toNat).bits ∧
    amoNew 11 32 m.toNat x.toNat y = some (2 ^ 16 * (fAdd .bf16 .rne (m.toNat / 2 ^ 16) (x.toNat / 2 ^ 16)).bits +
      (fAdd .bf16 .rne (m.toNat % 2 ^ 16) (x.toNat % 2 ^ 16)).bits) ∧
    amoNew 12 32 m.toNat x.toNat y = some (minMax .fp32 false m.toNat x.toNat).bits ∧
    amoNew 13 32 m.toNat x.toNat y = some (minMax .fp32 true m.toNat x.toNat).bits

/-- Bench words (R185, R188, R189, R225, R227, R230): an LDFE of one word reads it and leaves its tag empty where the tag is full, and an access in a
waiting mode changes nothing while the tag is not the one it waits for; STEF and STF write and leave the tag full; FESET sets the tags of its words
and FETEST returns them, a bit for each word; AINIT writes TARGET, COUNT and INIT and keeps GEN; an arrival of n bytes counts them and advances GEN
once for each whole target reached, and one of no bytes changes nothing. That what is outstanding is performed at the completion is the model's
reading (log 9). -/
def Obligations.BenchWordsComplete : Prop :=
  ∀ (s : State) (id g k r : Nat) (o : Op) (w : Wg) (u : Warp), Table.get? s.ops id = some o → s.wg? g = some w →
    s.warp? o.warp = some u → s.wgPresent o.wg = true → k % 4 = 0 → o.lines = [] → o.got = [] →
    (∀ l, o.lanes = [l] →
      (∀ e, o.op = .tagLoad e → o.dest = .vec r → o.size = 4 → l.locs = benchLocs g k 4 → s.opReady id o = true → ∃ t x,
        exec (.loadCompletion id) s = .next t ∧ t.warp? o.warp = some x ∧
        Table.getD x.v (64 * r + l.lane) 0 = BitVec.ofNat 32 (s.readLocs l.locs) ∧ t.tag (g, k / 4) = !e ∧
        Table.get? t.ops id = none ∧ ∀ m, t.readLoc m = s.readLoc m) ∧
      (∀ e, o.op = .tagLoad e → l.locs = benchLocs g k 4 → s.tag (g, k / 4) = false → exec (.loadCompletion id) s = .next s) ∧
      (o.op = .tagStore true → l.locs = benchLocs g k 4 → s.tag (g, k / 4) = true → exec (.storeCompletion id) s = .next s) ∧
      (∀ e, o.op = .tagStore e → o.dest = .none → l.locs = benchLocs g k 4 → s.opReady id o = true → ∃ t,
        exec (.storeCompletion id) s = .next t ∧ t.readLocs l.locs = l.data.toNat % 2 ^ 32 ∧ t.tag (g, k / 4) = true ∧
        ∀ m, m ∉ l.locs → t.readLoc m = s.readLoc m) ∧
      (∀ n, o.op = .ainit n → o.dest = .none → n < 2 ^ 32 → l.locs.head? = some (.bench g k) → s.opReady id o = true → ∃ t,
        exec (.storeCompletion id) s = .next t ∧ t.arrivalField (.bench g k) 0 = n ∧ t.arrivalField (.bench g k) 1 = 0 ∧
        t.arrivalField (.bench g k) 2 = s.arrivalField (.bench g k) 2 ∧ t.arrivalField (.bench g k) 3 = 1 ∧
        ∀ m, (∀ j, j < 16 → m ≠ .bench g (k + j)) → t.readLoc m = s.readLoc m) ∧
      (∀ n, o.op = .arrive n → o.dest = .none → l.locs.head? = some (.bench g k) → s.opReady id o = true → ∃ t,
        exec (.storeCompletion id) s = .next t ∧
        (0 < n → s.arrivalField (.bench g k) 3 % 2 = 1 → s.arrivalField (.bench g k) 0 ≠ 0 →
          t.arrivalField (.bench g k) 0 = s.arrivalField (.bench g k) 0 ∧
          t.arrivalField (.bench g k) 1 = (s.arrivalField (.bench g k) 1 + n) % s.arrivalField (.bench g k) 0 ∧
          t.arrivalField (.bench g k) 2 =
            (s.arrivalField (.bench g k) 2 + (s.arrivalField (.bench g k) 1 + n) / s.arrivalField (.bench g k) 0) % 2 ^ 32) ∧
        (∀ m, n = 0 ∨ (∀ j, j < 16 → m ≠ .bench g (k + j)) → t.readLoc m = s.readLoc m))) ∧
    (∀ e n, o.op = .feset e n → o.dest = .none → s.opReady id o = true → ∃ t, exec (.storeCompletion id) s = .next t ∧
      (∀ j, t.tag (g, j) = if ∃ l ∈ o.lanes, (g, j) ∈ benchWords l.locs then e else s.tag (g, j)) ∧ ∀ m, t.readLoc m = s.readLoc m) ∧
    (o.op = .fetest → o.dest = .scal r → r < 48 → (o.lanes.map LaneAcc.lane).Nodup → (∀ l ∈ o.lanes, l.lane < 64) → s.opReady id o = true → ∃ t x,
      exec (.loadCompletion id) s = .next t ∧ t.warp? o.warp = some x ∧ (∀ m, t.readLoc m = s.readLoc m) ∧
      (∀ l j, l ∈ o.lanes → l.locs = benchLocs g (4 * j) 4 → (Table.getD x.s r 0).getLsbD l.lane = s.tag (g, j)) ∧
      ∀ i, (∀ l ∈ o.lanes, l.lane ≠ i) → (Table.getD x.s r 0).getLsbD i = false)

/-! ### SYNC, capsules, engines and SYS -/

/-- SYNC (R222 to R230): a fence is recorded after the outstanding operations of its warp; BAR, TBAR and AWAIT are visibility points whose wait
begins as their group ends; a barrier ends once every fragment waits at it and every operation of their lanes is performed, but for those of UO
pages that no fence with UO covers, and not before but for operations that have been left behind (log 9); ARRIVE, AINIT, FESET and FETEST issue an access to the bench word in s[A]; TSREAD enters LC as an operation without memory; IFLUSH
discards what its core has fetched for the context, ends its lanes' fetches of packets as they stood before stores that a FENCE.CODE which they come
after stands behind, and leaves no heat or refusal mark, and no configuration but one that goes at the next boundary
of its loop (R301, R302). That a fence stands behind the outstanding operations of its warp is the model's reading (log 58); that a barrier does not
wait for operations of UO pages without such a fence is R235's and R238's. -/
def Obligations.SyncResults : Prop :=
  ∀ (s : State) (v : View) (d a b : BitVec 6) (flag : BitVec 1) (sc : BitVec 2) (g : Nat) (w : Wg) (off : Nat),
    (Runs s v (.fence flag sc) → ∃ t, exec (.fence flag sc) s = .next t ∧ Fenced s v (flag == 1) false sc t) ∧
    (Runs s v (.fenceCode sc) → ∃ t, exec (.fenceCode sc) s = .next t ∧ Fenced s v true true sc t) ∧
    (Runs s v .bar → exec .bar s = .next (s.modIssue (fun i => { i with wait := some (.bar v.g.barrier), visible := true }))) ∧
    (∀ t, s.team? v.g.team = some t → Runs s v .tbar →
      exec .tbar s = .next (s.modIssue (fun i => { i with wait := some (.tbar t.barrier), visible := true }))) ∧
    (Runs s v (.await a b) → s.benchPlace v.gid v.g (BitVec.ofNat 64 ((v.s a.toNat).toNat % 2 ^ 32)) = some (g, w, off) →
      exec (.await a b) s = .next (s.modIssue (fun i => { i with
        wait := some (.await (.bench g off) ((v.s b.toNat).extractLsb' 0 32)), visible := true }))) ∧
    (Runs s v (.arrive a b) → exec (.arrive a b) s = .next (s.issueMem v
      { op := .arrive ((v.s b.toNat).toNat % 2 ^ 32), bench := true, size := 16, dest := .none, acq := false, rel := true,
        scope := some .team, lanes := [{ lane := v.active.low, addr := BitVec.ofNat 64 ((v.s a.toNat).toNat % 2 ^ 32) }] })) ∧
    (Runs s v (.ainit a b) → exec (.ainit a b) s = .next (s.issueMem v
      { op := .ainit ((v.s b.toNat).toNat % 2 ^ 32), bench := true, size := 16, dest := .none, acq := false, rel := false,
        scope := some .team, lanes := [{ lane := v.active.low, addr := BitVec.ofNat 64 ((v.s a.toNat).toNat % 2 ^ 32) }] })) ∧
    (Runs s v (.feset flag a b) → exec (.feset flag a b) s = .next (s.issueMem v
      { op := .feset (flag == 1) ((v.s b.toNat).toNat % 2 ^ 32), bench := true, size := 4, dest := .none, acq := false, rel := false,
        scope := some .team, lanes := [{ lane := v.active.low, addr := BitVec.ofNat 64 ((v.s a.toNat).toNat % 2 ^ 32) }] })) ∧
    (Runs s v (.fetest d a) → exec (.fetest d a) s = .next (s.issueMem v
      { op := .fetest, bench := true, size := 4, dest := .scal d.toNat, acq := false, rel := false,
        scope := some .team, lanes := [{ lane := v.active.low, addr := BitVec.ofNat 64 ((v.s a.toNat).toNat % 2 ^ 32) }] })) ∧
    (Runs s v (.tsread d) → ∃ t o, exec (.tsread d) s = .next t ∧ Table.get? t.ops s.serial = some o ∧ o.op = .tsread ∧
      o.dest = .scal d.toNat ∧ o.warp = v.wid ∧ o.active = v.active ∧ SameMemory s t ∧
      ∀ f, s.frag? v.fid = some f → ∃ h, t.frag? v.fid = some h ∧ h.lc.members = s.serial :: f.lc.members) ∧
    (Runs s v .iflush → ∃ t, exec .iflush s = .next t ∧ SameMemory s t ∧ t.warps = s.warps ∧
      (∀ cfg, (t.core v.g.core).config = some cfg → cfg.loop.ctx = s.ctxOfWg v.g → cfg.doomed = true ∧ cfg.served.isSome = true) ∧
      (∀ p ∈ t.packets, p.core = v.g.core → p.ctx ≠ s.ctxOfWg v.g) ∧
      (∀ p ∈ t.old, p.ctx = s.ctxOfWg v.g → (∃ c ∈ p.changes, c.trail.has v.wid v.active = true) → (v.wid, v.active) ∈ p.flushed) ∧ (∀ f, t.frag? v.fid = some f → f.packet = []) ∧
      ∀ l ∈ (t.core v.g.core).loops, l.ctx = s.ctxOfWg v.g → l.heat = 0 ∧ l.refused = none) ∧
    (let fs := s.wgFrags g
     (s.wgResident g = true → s.wg? g = some w → fs ≠ [] →
        (∀ p ∈ fs, (∃ n, p.2.wait = some (.bar n)) ∧ ∀ o ∈ s.ops, o.2.warp = p.2.warp → ∀ l ∈ o.2.lanes, l.who &&& p.2.lm ≠ 0 →
          l.kind = .uo ∧ ∀ q ∈ s.fences, o.1 < q.1 → q.2.warp = p.2.warp → q.2.uo = true → q.2.active &&& l.who &&& p.2.lm = 0) →
        (s.settleBar g).wg? g = some { w with barrier := w.barrier + 1 } ∧
        ∀ j f, s.frag? j = some f → (j, f) ∈ fs → (s.settleBar g).frag? j = some ({ f with wait := none }.readyFrom s.tick)) ∧
     ((∃ p ∈ fs, (∀ n, p.2.wait ≠ some (.bar n)) ∨ ∃ o ∈ s.ops, o.1 < s.serial ∧ o.2.warp = p.2.warp ∧ ∃ l ∈ o.2.lanes, l.who &&& p.2.lm ≠ 0 ∧
          s.isLeft o.1 l = false ∧ (l.kind ≠ .uo ∨ ∃ q ∈ s.fences, o.1 < q.1 ∧ q.1 < s.serial ∧ q.2.warp = p.2.warp ∧ q.2.uo = true ∧ q.2.active &&& l.who &&& p.2.lm ≠ 0)) →
        s.settleBar g = s)) ∧
    (∀ (n : Nat) (tm : Team), let fs := (s.wgsOf n).flatMap (fun p => s.wgFrags p.1)
     (s.team? n = some tm → tm.state = .resident → fs ≠ [] →
        (∀ p ∈ fs, (∃ n, p.2.wait = some (.tbar n)) ∧ ∀ o ∈ s.ops, o.2.warp = p.2.warp → ∀ l ∈ o.2.lanes, l.who &&& p.2.lm ≠ 0 →
          l.kind = .uo ∧ ∀ q ∈ s.fences, o.1 < q.1 → q.2.warp = p.2.warp → q.2.uo = true → q.2.active &&& l.who &&& p.2.lm = 0) →
        (s.settleTbar n).team? n = some { tm with barrier := tm.barrier + 1 } ∧
        ∀ j f, s.frag? j = some f → (j, f) ∈ fs → (s.settleTbar n).frag? j = some ({ f with wait := none }.readyFrom s.tick)) ∧
     ((∃ p ∈ fs, (∀ n, p.2.wait ≠ some (.tbar n)) ∨ ∃ o ∈ s.ops, o.1 < s.serial ∧ o.2.warp = p.2.warp ∧ ∃ l ∈ o.2.lanes, l.who &&& p.2.lm ≠ 0 ∧
          s.isLeft o.1 l = false ∧ (l.kind ≠ .uo ∨ ∃ q ∈ s.fences, o.1 < q.1 ∧ q.1 < s.serial ∧ q.2.warp = p.2.warp ∧ q.2.uo = true ∧ q.2.active &&& l.who &&& p.2.lm ≠ 0)) →
        s.settleTbar n = s))

/-- Capsule words (R21, R307 to R317): CAPENT that is served on a free record takes it, with the warp as its owner, STATE 1, STEP 0, one more GEN and
its k registers as KSNAP, and begins a capsule of its body; on a displaced record it adopts the capsule and runs its body from ENTRY on; one that is
not served waits; a memory step is recorded with its access and enters LC or SC, and performs nothing before it commits; KMOVS and KMOVK move 64
bits; CAPSTAT reads the warp's status; CAPEXIT ends its body once every step has committed: the record is free, and an adopter gives the owner its
result and goes back to its own CAPENT. A displaced holder whose result is there returns past its body. A warp whose team is saved has its record
displaced, where no fragment of it is in a handler. The order at a commit is log 83's. -/
def Obligations.CapsuleWordResults : Prop :=
  ∀ (s : State) (v : View) (a r : BitVec 6) (d k : BitVec 3) (sz : BitVec 2) (wide : BitVec 1) (fn : BitVec 4) (f : CapFound) (ls : List Loc)
    (fid wid : Nat) (x : Frag) (w : Warp) (c : Capsule),
    (Runs s v (.capent a) → s.capentCheck v a = .ok f →
      s.namesLost (recLocs f.record 0 128 ++ f.own.locs ++ (f.adopt.map CapBody.locs).getD []) = false → ∃ t, exec (.capent a) s = .next t ∧
      (f.served = true → f.adopt = none → ∃ u c, t.capCtl f.record = ⟨v.w.capid, 1, 0, (s.capCtl f.record).gen + 1⟩ ∧
        t.capEntry f.record = f.own.entry ∧ (∀ n, n < 8 → Table.getD (t.ksnap f.record) n 0 = Table.getD v.w.k n 0) ∧
        t.warp? v.wid = some u ∧ u.capsule = some c ∧ c.record = f.record ∧ c.adopting = false ∧
        c.body = f.own.body ∧ c.first = 0 ∧ c.frag = v.fid ∧ ∀ x, x ∉ recLocs f.record 0 80 → t.readLoc x = s.readLoc x) ∧
      (∀ b, f.served = true → f.adopt = some b → ∃ u c, t.warp? v.wid = some u ∧ u.capsule = some c ∧ c.adopting = true ∧ c.body = b.body ∧
        c.record = f.record ∧ c.first = (s.capCtl f.record).step ∧ c.ownPc = v.i.pc ∧ c.savedK = v.w.k ∧ u.k = s.ksnap f.record ∧
        t.capCtl f.record = { s.capCtl f.record with state := 3 } ∧ (∀ x, x ∉ recLocs f.record 0 8 → t.readLoc x = s.readLoc x) ∧
        ∀ i, s.issue = some i → ∃ j, t.issue = some j ∧ j.ctl = .goto b.entry ∧ j.visible = true) ∧
      (f.served = false → SameMemory s t ∧ t.warps = s.warps ∧
        ∀ i, s.issue = some i → ∃ j, t.issue = some j ∧ j.wait = some (.capent f.record (s.capWord f.record)))) ∧
    (Runs s v .capexit → exec .capexit s = .next (s.modIssue (fun i => { i with ctl := .capexit, visible := true }))) ∧
    (∀ req : MemReq, req = {
        op := .load, bench := false, size := 2 ^ sz.toNat, dest := .kreg d.toNat, lanes := [{ lane := v.active.low, addr := v.k k.toNat }] } →
      Runs s v (.kld d k sz) → s.stepLocs v req = .ok ls → s.namesLost ls = false →
      ∃ t, exec (.kld d k sz) s = .next t ∧ StepIssued s v req ls t) ∧
    (∀ req : MemReq, req = {
        op := .store, bench := false, size := 2 ^ sz.toNat, dest := .none,
        lanes := [{ lane := v.active.low, addr := v.k k.toNat, data := lowBytes (2 ^ sz.toNat) (v.k d.toNat) }] } →
      Runs s v (.kst d k sz) → s.stepLocs v req = .ok ls → s.namesLost ls = false →
      ∃ t, exec (.kst d k sz) s = .next t ∧ StepIssued s v req ls t) ∧
    (∀ req : MemReq, req = {
        op := .amo fn, bench := false, size := if wide = 1 then 8 else 4, dest := .kreg d.toNat,
        lanes := [{
          lane := v.active.low, addr := v.k k.toNat, data := lowBytes (if wide = 1 then 8 else 4) (v.k d.toNat),
          new := if fn = 9 then lowBytes (if wide = 1 then 8 else 4) (v.k (d.toNat + 1)) else 0 }] } →
      Runs s v (.kamo d k wide fn) → s.stepLocs v req = .ok ls → s.namesLost ls = false →
      ∃ t, exec (.kamo d k wide fn) s = .next t ∧ StepIssued s v req ls t) ∧
    (Runs s v (.kmovs r k) → exec (.kmovs r k) s = .next (s.putScalar v 1 r (v.k k.toNat))) ∧
    (Runs s v (.kmovk d r) → exec (.kmovk d r) s = .next ((s.putPend v 1 (.kreg d.toNat (v.s r.toNat))).modCapsule v.wid (fun c =>
      { c with moved := Table.set c.moved d.toNat (v.s r.toNat) }))) ∧
    (Runs s v (.capstat r) → exec (.capstat r) s = .next (s.putScalar v 1 r (v.w.capstat.zeroExtend 64))) ∧
    (s.frag? fid = some x → s.warp? x.warp = some w → w.capsule = some c → s.wgResident w.wg = true →
      (x.wait = some .capexit → c.steps = [] → s.exitReleases x w c = true → ∃ u y, (s.settleWait fid).warp? x.warp = some u ∧
        (s.settleWait fid).frag? fid = some y ∧ u.capsule = none ∧ y.wait = none ∧
        (s.settleWait fid).capCtl c.record = { s.capCtl c.record with state := 0 } ∧
        (∀ l, l ∉ recLocs c.record 0 8 → (s.settleWait fid).readLoc l = s.readLoc l) ∧
        (c.adopting = false → u.k = w.k ∧ u.capstat.getLsbD 0 = false ∧ y.pc = c.exitNext) ∧
        (c.adopting = true → u.k = c.savedK ∧ y.pc = c.ownPc ∧ bitsAt u.capstat 8 8 = min (bitsAt w.capstat 8 8 + 1) 255 ∧
          ∀ n z, n ≠ x.warp → (n, z) ∈ s.warps → s.warp? n = some z → z.capid = (s.capCtl c.record).owner → z.planer = none → z.retired = false →
            (s.ctx (s.ctxOfWarp z)).dead = none → (∀ p ∈ s.warps, p.2.capid = z.capid → p = (n, z)) →
            ∃ z', (s.settleWait fid).warp? n = some z' ∧ z'.returnSlot = some w.k)) ∧
      (∀ ks, x.wait = some .returnSlot → w.returnSlot = some ks → c.frag = fid → ∃ u y, (s.settleWait fid).warp? x.warp = some u ∧
        (s.settleWait fid).frag? fid = some y ∧ u.k = ks ∧ u.capsule = none ∧ u.returnSlot = none ∧ u.capstat = w.capstat ||| 1 ∧
        y.pc = c.exitNext ∧ y.wait = none ∧ SameMemory s (s.settleWait fid))) ∧
    (s.warp? wid = some w → w.capsule = some c → c.adopting = false → c.steps = [] → (∀ p ∈ s.fragsOf wid, p.2.hnd = false) →
      (s.displace wid).capCtl c.record = (if w.returnSlot = none ∧ (s.capCtl c.record).owner = w.capid ∧ (s.capCtl c.record).state = 1 then
        { s.capCtl c.record with state := 2 } else s.capCtl c.record) ∧
      (s.displace wid).warps = s.warps ∧ ∀ l, l ∉ recLocs c.record 0 8 → (s.displace wid).readLoc l = s.readLoc l)

/-- Engine commands with a link (R250 to R260, R269, R276, R285 to R287): each enters EC with what its descriptor, in s[SA] on, and FMT say, its tag
in bits 7:0 of s[SB] and its next tag in bits 15:8. TCOPY's receiver is the member that DST names. MXLDB and MXOP also join the warp's open batch, and
MXOP names the reservations of its bottom row's lease holders. -/
def Obligations.EngineCommandsIssue : Prop :=
  ∀ (s : State) (v : View) (sa sb : BitVec 6) (acq rel hold : BitVec 1) (sc : BitVec 2),
    let w0 := v.s sa.toNat
    let w1 := v.s (sa.toNat + 1)
    let w2 := v.s (sa.toNat + 2)
    let w3 := v.s (sa.toNat + 3)
    let tag := ((v.s sb.toNat).extractLsb' 0 8).toNat
    let next := ((v.s sb.toNat).extractLsb' 8 8).toNat
    (Runs s v (.tcopy sa sb acq rel sc hold) → ∃ t mask, exec (.tcopy sa sb acq rel sc hold) s = .next t ∧
      Queued s v (.tcopy w0 w1 (bitsAt w2 0 16) (bitsAt w2 16 16) (w2.extractLsb' 32 32).toInt (w3.extractLsb' 0 32).toInt (bitsAt w3 32 19)
        (w3.getLsbD 51) (w3.extractLsb' 52 2) mask false) tag next (acq == 1) (rel == 1) (hold == 1) (Scope.ofCode sc) t ∧
      mask = BitVec.ofNat 8 (2 ^ (if w1.toNat < 2 ^ 19 then v.g.member else w1.toNat / 2 ^ 19 % 8))) ∧
    (Runs s v (.tcopym sa sb acq rel sc hold) → ∃ t, exec (.tcopym sa sb acq rel sc hold) s = .next t ∧
      Queued s v (.tcopy w0 w1 (bitsAt w2 0 16) (bitsAt w2 16 16) (w2.extractLsb' 32 32).toInt (w3.extractLsb' 0 32).toInt (bitsAt w3 32 19)
        (w3.getLsbD 51) (w3.extractLsb' 52 2) (w3.extractLsb' 54 8) true) tag next (acq == 1) (rel == 1) (hold == 1) (Scope.ofCode sc) t) ∧
    (Runs s v (.mxldb sa sb acq sc hold) → s.warp? v.wid = some v.w → ∃ t u, exec (.mxldb sa sb acq sc hold) s = .next t ∧
      Queued s v (.mxldb (bitsAt w0 0 19) (bitsAt w0 32 19) (bitsAt w1 0 19) (fmtMB v.fmt) (fmtSB v.fmt)) tag next (acq == 1) false (hold == 1)
        (Scope.ofCode sc) t ∧ t.warp? v.wid = some u ∧ u.batchOpen = v.w.batchOpen ++ [s.serial] ∧
      (t.core v.g.core).width8 = some (!wide16 (fmtMB v.fmt))) ∧
    (Runs s v (.mxop sa sb acq sc hold) → s.warp? v.wid = some v.w → ∃ t u, exec (.mxop sa sb acq sc hold) s = .next t ∧
      Queued s v (.mxop (bitsAt w0 0 19) (bitsAt w0 32 16) (bitsAt w0 48 16) (bitsAt w1 0 19) (fmtMA v.fmt) (fmtSA v.fmt)) tag next (acq == 1)
        false (hold == 1) (Scope.ofCode sc) t ∧ t.warp? v.wid = some u ∧ u.batchOpen = v.w.batchOpen ++ [s.serial] ∧
      ∃ c, Table.get? t.cmds s.serial = some c ∧ c.holders =
        (bottomEdge v.g.core (s.bondSize v.g.core).1 (s.bondSize v.g.core).2).filterMap (fun k => (s.core k).owner)) ∧
    (Runs s v (.msmrd sa sb rel sc hold) → ∃ t, exec (.msmrd sa sb rel sc hold) s = .next t ∧
      Queued s v (.msmrd (bitsAt w0 0 19) (bitsAt w0 32 16) (bitsAt w0 48 16) (bitsAt w1 0 19) (w1.extractLsb' 32 3)
        (if w1.extractLsb' 35 3 = 0 then v.fmt.extractLsb' 0 3 else w1.extractLsb' 35 3) (w1.getLsbD 38)) tag next false (rel == 1) (hold == 1)
        (Scope.ofCode sc) t) ∧
    (Runs s v (.coll sa sb acq rel sc hold) → ∃ t, exec (.coll sa sb acq rel sc hold) s = .next t ∧
      Queued s v (.coll w0 w1 (bitsAt w2 0 32) (bitsAt w2 32 8) (w2.extractLsb' 40 3) (w2.extractLsb' 43 3)
        (if w2.extractLsb' 46 3 = 0 then v.fmt.extractLsb' 0 3 else w2.extractLsb' 46 3) (bitsAt w3 0 22) (s.group (bitsAt w2 32 8))) tag next (acq == 1) (rel == 1)
        (hold == 1) (Scope.ofCode sc) t) ∧
    (Runs s v (.cbulk sa sb acq rel sc hold) → ∃ t, exec (.cbulk sa sb acq rel sc hold) s = .next t ∧
      Queued s v (.cbulk w0 w1 (bitsAt w2 0 32) (w2.extractLsb' 32 3) (w2.extractLsb' 35 2)
        (if w2.extractLsb' 37 3 = 0 then v.fmt.extractLsb' 0 3 else w2.extractLsb' 37 3) (w2.getLsbD 40) (w3.extractLsb' 0 32)) tag next
        (acq == 1) (rel == 1) (hold == 1) (Scope.ofCode sc) t) ∧
    (Runs s v (.compact sa sb acq rel sc hold) → ∃ t, exec (.compact sa sb acq rel sc hold) s = .next t ∧
      Queued s v (.compact w0 w1) tag next (acq == 1) (rel == 1) (hold == 1) (Scope.ofCode sc) t)

/-- The other engine words (R258, R259, R263 to R268, R274, R275, R278 to R284): leases, batches, bonds, MSM reservations, the planer and its queues, and
the words that answer a value, which they read at issue (log 15, the model's reading; PLNSTOP of another workgroup: log 35; a second MSMA: log 74).
QPUSH adds the flags behind its result to ENGSTAT.PL (R83; which flags these are is the model's reading, log 71), and ECANCEL ends the held and queued
commands of its tag. That a running planer is held as a warp of 64 lanes is the model's form (log 66). -/
def Obligations.EngineControlResults : Prop :=
  ∀ (s : State) (v : View) (sa sb : BitVec 6) (ws : List Word) (l : Nat) (m : Wg) (x : Issue), s.warp? v.wid = some v.w → s.issue = some x →
    (Runs s v (.mxfence sb) → ∃ t u, exec (.mxfence sb) s = .next t ∧ Answering s v sb (BitVec.ofNat 64 v.w.batchNext) t ∧
      t.warp? v.wid = some u ∧ u.batchOpen = [] ∧ ⟨v.w.batchNext, v.w.batchOpen⟩ ∈ u.batches ∧
      u.batchNext = (if v.w.batchNext = 2 ^ 32 - 1 then 1 else v.w.batchNext + 1)) ∧
    (Runs s v (.mxwait sa) → ∃ t y, exec (.mxwait sa) s = .next t ∧ t.issue = some y ∧ y.visible = true ∧
      y.wait = some (.mxwait ((v.s sa.toNat).extractLsb' 0 32).toNat)) ∧
    (Runs s v .mxacq → ∃ t y, exec .mxacq s = .next t ∧ t.issue = some y ∧ y.visible = true ∧
      ((s.core v.g.core).owner = some v.wid → (t.core v.g.core).owner = some v.wid ∧ y.wait = x.wait) ∧
      ((s.core v.g.core).owner = none → (s.core v.g.core).fifo = [] → (t.core v.g.core).owner = some v.wid ∧ y.wait = x.wait) ∧
      (∀ o, (s.core v.g.core).owner = some o → o ≠ v.wid → (t.core v.g.core).owner = some o ∧ y.wait = some (.grant s.serial) ∧
        (t.core v.g.core).fifo = (s.core v.g.core).fifo ++ [(v.wid, s.serial)])) ∧
    (Runs s v .mxrel → ∃ t, exec .mxrel s = .next t ∧ (t.core v.g.core).owner = (s.core v.g.core).fifo.head?.map Prod.fst ∧
      (t.core v.g.core).fifo = (s.core v.g.core).fifo.tail ∧ SameMemory s t) ∧
    (Runs s v (.bform sa) → ∃ t, exec (.bform sa) s = .next t ∧ SameMemory s t ∧
      (bitsAt (v.s sa.toNat) 0 3 = 0 → t.bonds = s.bonds) ∧
      (bitsAt (v.s sa.toNat) 0 3 ≠ 0 → ∃ b, Table.get? t.bonds v.g.core = some b ∧ b.shape = bitsAt (v.s sa.toNat) 0 3 ∧ b.formed = false ∧
        b.team = v.g.team ∧ b.cmd = s.serial)) ∧
    (Runs s v (.bjoin sa) → s.member? v.g.team (bitsAt (v.s sa.toNat) 0 3) = some (l, m) → ∃ t, exec (.bjoin sa) s = .next t ∧
      (t.core v.g.core).joined = some ⟨v.g.team, m.core, s.serial, v.wid, v.active⟩ ∧ SameMemory s t) ∧
    (Runs s v .bbrk → ∃ t, exec .bbrk s = .next t ∧ t.bonds = s.bonds ∧ SameMemory s t ∧
      (s.leadsBond v.g.core = true → ∃ c, Table.get? t.cmds s.serial = some c ∧ c.kind = .bbrk ∧ c.state = .queued) ∧
      (s.leadsBond v.g.core = false → Table.get? t.cmds s.serial = none)) ∧
    (Runs s v (.msma sa) → ∃ t y, exec (.msma sa) s = .next t ∧ t.issue = some y ∧ y.wait = some (.grant s.serial) ∧
      ((s.core v.g.core).msmFifo = [] → s.msmUsed v.g.core + (v.s sa.toNat).toNat ≤ 65536 → ∃ u, t.warp? v.wid = some u ∧ u.msmHeld = true ∧
        u.msmSize = (v.s sa.toNat).toNat ∧ u.msm = [] ∧ (t.core v.g.core).msmFifo = []) ∧
      ((s.core v.g.core).msmFifo = [] → 65536 < s.msmUsed v.g.core + (v.s sa.toNat).toNat →
        (t.core v.g.core).msmFifo = [(v.wid, s.serial, (v.s sa.toNat).toNat)] ∧ t.warp? v.wid = some v.w)) ∧
    (Runs s v .msmf → ∃ t u, exec .msmf s = .next t ∧ t.warp? v.wid = some u ∧ SameMemory s t ∧
      (v.w.msmHeld = true → v.w.msmFree = none → u.msmFree = some (s.namesMsm v.wid)) ∧
      (v.w.msmHeld = false ∨ v.w.msmFree.isSome = true → u = v.w)) ∧
    (Runs s v (.plngo sa sb) → s.plngoCheck v (.plngo sa sb) sa = .ok ws →
      s.namesLost (s.codeLocs (s.ctxOfWg v.g) (v.s sa.toNat) ws.length) = false → ∃ t p, exec (.plngo sa sb) s = .next t ∧
      (t.core v.g.core).planerWg = some v.gid ∧ (t.core v.g.core).planer = .running ∧ (t.core v.g.core).program = ws ∧
      (t.core v.g.core).planerWarp = some p ∧ (∃ q, t.warp? p = some q ∧ q.planer = some v.g.core ∧ q.width = 64 ∧ q.wg = v.gid ∧
        Table.getD q.s 0 0 = v.s sb.toNat) ∧ SameMemory s t) ∧
    (Runs s v .plnstop → ∃ t, exec .plnstop s = .next t ∧
      ((s.core v.g.core).planerWg = some v.gid → (t.core v.g.core).planerWarp = none ∧ (t.core v.g.core).planer =
        (if (s.core v.g.core).planer = .faulted then .faulted else .stopped) ∧ (t.core v.g.core).queues = (s.core v.g.core).queues) ∧
      ((s.core v.g.core).planerWg ≠ some v.gid → t.cores = s.cores)) ∧
    (Runs s v (.qpush sa sb) → ∃ t e, exec (.qpush sa sb) s = .next t ∧
      Table.getD (t.core v.g.core).queues sb.toNat [] = Table.getD (s.core v.g.core).queues sb.toNat [] ++ [e] ∧
      (∀ n, n < 64 → Table.getD e n 0 = v.v sa.toNat n) ∧
      (∀ q, q ≠ sb.toNat → Table.getD (t.core v.g.core).queues q [] = Table.getD (s.core v.g.core).queues q []) ∧
      ∀ h, s.wg? v.gid = some h → t.wg? v.gid = some { h with
        engstat := h.engstat ||| ((Table.getD v.w.carried sa.toNat 0).setWidth 32 <<< 8) }) ∧
    (Runs s v (.qstat sb) → ∃ t, exec (.qstat sb) s = .next t ∧ Answering s v sb (s.queueStatus v) t) ∧
    (Runs s v (.epoll sa sb) → ∃ t n, exec (.epoll sa sb) s = .next t ∧
      Answering s v sb (BitVec.ofNat 64 (256 * Table.getD v.g.tokens ((v.s sa.toNat).extractLsb' 0 8).toNat 0 + n)) t ∧
      (∀ j c, Table.get? v.g.tagLast ((v.s sa.toNat).extractLsb' 0 8).toNat = some j → Table.get? s.cmds j = some c →
        n = (match c.state with | .held => 1 | .queued => 2 | .running => 3 | .done => 4 | .cancelled => 5 | .faulted => 6))) ∧
    (Runs s v (.ecancel sa sb) → ∃ t, exec (.ecancel sa sb) s = .next t ∧
      Answering s v sb (BitVec.ofNat 64 (s.cmds.countP (fun p => p.2.wg == v.gid &&
        p.2.tag == ((v.s sa.toNat).extractLsb' 0 8).toNat && (p.2.state == .held || p.2.state == .queued)))) t ∧ SameMemory s t ∧
      ∀ j c, j ≠ s.serial → Table.get? s.cmds j = some c →
        (c.wg = v.gid ∧ c.tag = ((v.s sa.toNat).extractLsb' 0 8).toNat ∧ c.tag ≠ 0 ∧ (c.state = .held ∨ c.state = .queued) →
          Table.get? t.cmds j = some { c with state := .cancelled, ended := true } ∧ ∀ i f, t.frag? i = some f → j ∉ f.ec.members) ∧
        (c.wg ≠ v.gid ∨ c.tag ≠ ((v.s sa.toNat).extractLsb' 0 8).toNat ∨ (c.state ≠ .held ∧ c.state ≠ .queued) → (∀ p ∈ s.cmds, p.1 = j → p.2 = c) → Table.get? t.cmds j = some c))

/-- SYS (R321 to R326, R305): TRAP is taken once its group has issued; BRKPT without BKEN does nothing, and with it raises BREAKPOINT; TRET and EXIT act
at the end of their group; LAUNCH makes the child grid and answers its handle (log 15); LWAIT is a visibility point that waits; JIGHINT records its region. -/
def Obligations.SystemWordResults : Prop :=
  ∀ (s : State) (v : View) (d a b : BitVec 6) (num : BitVec 18) (mode : BitVec 2) (r : RecordWords) (ls : List Loc),
    (Runs s v (.trap num) → exec (.trap num) s =
      .next (s.modIssue (fun i => { i with after := some { code := 0x37, detail := num, word := v.i.word } }))) ∧
    (Runs s v (.brkpt num) → exec (.brkpt num) s = .next s) ∧
    (s.view? = some v → v.inBody = false → v.g.ctl.getLsbD 1 = true →
      exec (.brkpt num) s = .next (s.raiseIssue v (.brkpt num) { code := 0x38, detail := num })) ∧
    (Runs s v .tret → v.f.replay = none → exec .tret s =
      .next (s.modIssue (fun i => { i with ctl := .tret (v.f.tsave1.getLsbD 2), visible := true }))) ∧
    (∀ p, Runs s v .tret → v.f.replay = some p → v.f.tsave1.getLsbD 2 = true →
      p.req.lanes.filter (fun l => v.active.has l.lane && v.f.faultmask.getLsbD l.lane) ≠ [] → exec .tret s =
      .next ((s.modIssue (fun i => { i with ctl := .tret true, visible := true })).issueMem v
        { p.req with lanes := p.req.lanes.filter (fun l => v.active.has l.lane && v.f.faultmask.getLsbD l.lane) })) ∧
    (Runs s v (.launch d a) → s.launchRecord v (v.s a.toNat) = .ok (r, ls) → s.namesLost ls = false → ∃ t g u,
      exec (.launch d a) s = .next t ∧ Table.get? t.grids s.serial = some g ∧ g.ctx = s.ctxOfWg v.g ∧ g.parent = some (s.gridOfWg v.g) ∧
      g.parentWg = v.gid ∧ g.handle = v.g.launchSeq + 1 ∧ g.ready = false ∧ g.record = recParse r ∧ SameMemory s t ∧
      Table.get? t.cmds (s.serial + 1) = some u ∧ u.kind = .launch (BitVec.ofNat 64 (v.g.launchSeq + 1)) s.serial ∧ u.dest = .scal d.toNat) ∧
    (Runs s v (.lwait a) → exec (.lwait a) s =
      .next (s.modIssue (fun i => { i with wait := some (.lwait (v.s a.toNat).toNat), visible := true }))) ∧
    (Runs s v .exit → exec .exit s = .next (s.modIssue (fun i => { i with ctl := .exit }))) ∧
    (Runs s v (.jighint mode a b) → ∃ t, exec (.jighint mode a b) s = .next t ∧ SameMemory s t ∧ t.warps = s.warps ∧
      (t.ctx (s.ctxOfWg v.g)).hints.getLast? = some ⟨packetAddr (v.s a.toNat), packetAddr (v.s b.toNat), mode⟩ ∧
      ((s.ctx (s.ctxOfWg v.g)).hints.length ≤ 8 → (t.ctx (s.ctxOfWg v.g)).hints.length ≤ 8))

/-! ### Events -/

/-- Events of memory, commands and bonds (R71, R78 to R80, R206, R243, R247, R258, R261, R262, R266, R270, R271, R276, R285 to R287, R311, R323,
R376, R377, R383): a response answers its line and frees its slot; an access from outside is answered with what its bytes hold, or reaches them and
no others, an aligned atomic with its value; the failure of a host request kills its context; rows of copies land and are counted; tiles are loaded,
rows of A are added, accumulators read, collectives and bulk updates done; a command starts, and one that answers a value writes it; a LAUNCH makes
its teams; a bond forms; a capsule's oldest step commits with its access, its k register, KSNAP, STEP and ENTRY, or the record refuses it. That each
happens as one action is the model's reading (log 5, 9, 28, 83), and so are: that a LAUNCH's teams are made at its completion (log 60), when a copy
counts (log 23), the shape of a sum in the ports' tree (log 59) with other members' elements as free values (log 4), and INV of infinities beside a
NaN (log 70). -/
def Obligations.MemoryEventResults : Prop :=
  ∀ (s : State) (id n a : Nat) (o : Op) (l : Line) (bs : List Byte) (ls : List Loc) (fn : BitVec 4) (wide : Bool) (x y : Dword) (c : Cmd)
    (b : Bond) (w : Warp) (p : Capsule) (st : CapStep) (rest : List CapStep) (g : Wg),
    (Table.get? s.ops id = some o → o.lines[n]? = some l → l.sent = true → l.answered = false → ∃ t q m,
      exec (.remoteResponse id n) s = .next t ∧ Table.get? t.ops id = some q ∧ q.lines[n]? = some m ∧ m.answered = true ∧ m.port = l.port ∧
      SameMemory s t ∧ (s.wg? o.wg = some g → (∀ e ∈ s.ops, ∀ m ∈ e.2.lines, m.sent = true) →
        t.slotsUsed g.core l.port = s.slotsUsed g.core l.port - 1)) ∧
    (Table.get? s.ops id = none → Table.get? s.cmds id = some c → c.lines[n]? = some l → l.sent = true → l.answered = false → ∃ t q m,
      exec (.remoteResponse id n) s = .next t ∧ Table.get? t.cmds id = some q ∧ q.lines[n]? = some m ∧ m.answered = true ∧ m.port = l.port ∧
      SameMemory s t) ∧
    (∃ t, exec (.inboundDomainRequest (.read a n)) s = .next t ∧ (s.ownBytes a n = none → t = s) ∧
      (s.ownBytes a n = some ls → s.outsideBarred false ls = false → t = { s with answer := ls.map s.readLoc, debts := t.debts, old := t.old })) ∧
    (s.ownBytes a bs.length = some ls → s.outsideBarred true ls = false → ∃ t, exec (.inboundDomainRequest (.write a bs)) s = .next t ∧
      (ls.Nodup → ls.map t.readLoc = bs) ∧ (∀ m, m ∉ ls → t.readLoc m = s.readLoc m) ∧
      t = { s with mem := t.mem, wgs := t.wgs, debts := t.debts, old := t.old }) ∧
    (s.ownBytes a (if wide then 8 else 4) = some ls → a % (if wide then 8 else 4) = 0 → s.outsideBarred true ls = false → ∃ t,
      exec (.inboundDomainRequest (.atomic a fn wide x y)) s = .next t ∧ t.answer = ls.map s.readLoc ∧ (∀ m, m ∉ ls → t.readLoc m = s.readLoc m) ∧
      (ls.Nodup → t.readLocs ls = match amoNew fn (8 * (if wide then 8 else 4)) (s.readLocs ls) x.toNat y.toNat with
        | some z => z % 256 ^ ls.length
        | none => s.readLocs ls)) ∧
    (s.hostBytes a bs.length = some ls → s.outsideBarred true ls = false → ∃ t, exec (.hostDeviceAccess ⟨a, n, some bs⟩) s = .next t ∧
      (ls.Nodup → ls.map t.readLoc = bs) ∧ (∀ m, m ∉ ls → t.readLoc m = s.readLoc m) ∧
      t = { s with mem := t.mem, wgs := t.wgs, debts := t.debts, old := t.old }) ∧
    (s.hostBytes a n = some ls → s.outsideBarred false ls = false → ∃ t, exec (.hostDeviceAccess ⟨a, n, none⟩) s = .next t ∧
      t = { s with answer := ls.map s.readLoc, debts := t.debts, old := t.old }) ∧
    (s.untrailed = true → ∀ b, s.outsideBarred b ls = false) ∧
    (s.hostBytes a n = none → exec (.hostDeviceAccess ⟨a, n, none⟩) s = .next s) ∧
    (.phys a ∈ s.requests n → storeOf a = .host → (s.ctx n).dead = none → ∃ t, exec (.hostRequestFailure ⟨n, a⟩) s = .next t ∧
      (t.ctx n).dead = some 0x3F ∧ (t.ctx n).failedAddr = some a) ∧
    CopyRows ∧ CopiesEnd ∧ TileLoads ∧ MatrixElements ∧ AccumulatorUpdates ∧ MatrixRows ∧ AccumulatorReads ∧ CollectiveResults ∧ SwitchSums ∧ BulkResults ∧
    (Table.get? s.cmds id = some c → s.mayStart id c = true → s.namesLost (s.cmdHomes c) = false → ∃ t d,
      exec (.engineCommandStart id) s = .next t ∧ Table.get? t.cmds id = some d ∧
      d = { c with state := .running, lines := d.lines, slotCore := d.slotCore } ∧
      SameMemory s t) ∧
    (Table.get? s.cmds id = some c → s.mayComplete id c = true → c.kind = .value x → c.dest = .scal n → n < 48 → c.next = 0 → c.tag = 0 →
      c.fault = none → s.warp? c.warp = some w → ∃ t u, exec (.engineCommandCompletion id) s = .next t ∧
      t.warp? c.warp = some u ∧ Table.getD u.s n 0 = x ∧ Table.get? t.cmds id = none ∧ ∀ j f, t.frag? j = some f → id ∉ f.ec.members) ∧
    (∀ q r, Table.get? s.cmds id = some c → s.mayComplete id c = true → c.kind = .launch x q → c.dest = .scal n → n < 48 → s.grid? q = some r →
      s.warp? c.warp = some w → ∃ t u, exec (.engineCommandCompletion id) s = .next t ∧ t.warp? c.warp = some u ∧ Table.getD u.s n 0 = x ∧
      t.grid? q = some { r with ready := true } ∧
      ∀ i, i < r.record.teams → ∃ j m, t.team? j = some m ∧ m.grid = q ∧ m.number = i ∧ m.state = .waiting) ∧
    (Table.get? s.bonds id = some b → s.mayForm id b = true → ∃ t, exec (.bondFormation id) s = .next t ∧
      Table.get? t.bonds id = some { b with formed := true } ∧ SameMemory s t ∧
      ∀ m ∈ b.members, (t.core m).joined = none ∧ (t.core m).tileFmt = none ∧ (t.core m).width8 = none) ∧
    (s.warp? id = some w → w.capsule = some p → p.steps = st :: rest → s.wgPresent w.wg = true → s.mayCommit id w st = true →
      (s.recordTakes w p st = true → ∃ t u q, exec (.capsuleStepCommit id) s = .next t ∧
        (t.capCtl p.record).step = ((s.stepAccess st).1.capCtl p.record).step + 1 ∧ t.capEntry p.record = st.next ∧
        t.warp? id = some u ∧ u.capsule = some q ∧ q.steps = rest ∧ q.entry = st.next ∧ (∀ j f, t.frag? j = some f → st.op ∉ f.lc.members) ∧
        (∀ k, k < 8 → Table.getD (t.ksnap p.record) k 0 = Table.getD q.ks k 0) ∧
        (st.mem = none → (∀ m, m ∉ recLocs p.record 0 80 → t.readLoc m = s.readLoc m) ∧ u.k = w.k ∧
          (∀ k z, st.write = some (k, z) → Table.getD q.ks k 0 = z) ∧
          ∀ k, (∀ z, st.write ≠ some (k, z)) → ((∀ e ∈ st.moved, e.1 ≠ k) → Table.getD q.ks k 0 = Table.getD p.ks k 0) ∧
            ∀ e ∈ st.moved, e.1 = k → (∀ d ∈ st.moved, d.1 = k → d.2 = e.2) → Table.getD q.ks k 0 = e.2) ∧
        (∀ r e k, st.mem = some r → r.lanes = [e] → st.locs.Nodup → (∀ m ∈ st.locs, m ∉ recLocs p.record 0 80 ∧ ∃ j, m = .phys j) →
          (∀ m, m ∉ recLocs p.record 0 80 → m ∉ st.locs → t.readLoc m = s.readLoc m) ∧
          (r.op = .store → t.readLocs st.locs = e.data.toNat % 256 ^ st.locs.length) ∧
          (r.op = .load → t.readLocs st.locs = s.readLocs st.locs) ∧
          (∀ fn, r.op = .amo fn → t.readLocs st.locs = match amoNew fn (8 * r.size) (s.readLocs st.locs) e.data.toNat e.new.toNat with
            | some z => z % 256 ^ st.locs.length
            | none => s.readLocs st.locs) ∧
          (r.op = .load ∨ (∃ fn, r.op = .amo fn) → r.dest = .kreg k → Table.getD q.ks k 0 = BitVec.ofNat 64 (s.readLocs st.locs) ∧
            ((∀ z ∈ rest, z.writesK k = false) → Table.get? p.moved k = none → Table.getD u.k k 0 = BitVec.ofNat 64 (s.readLocs st.locs))))) ∧
      (s.recordTakes w p st = false → ∀ f, s.frag? p.frag = some f → f.warp = id → p.hnd = f.hnd → f.hnd = false → w.planer = none →
        s.wg? w.wg = some g → g.handler ≠ 0 → ∃ t y u q, exec (.capsuleStepCommit id) s = .next t ∧ t.frag? p.frag = some y ∧ y.hnd = true ∧
        y.tsave0 = p.entry ∧ bitsAt y.tsave2 0 8 = 0x31 ∧ y.pc = g.handler ∧ t.warp? id = some u ∧ u.capsule = some q ∧ q.steps = [] ∧
        (∀ k, (∀ m ∈ p.moved :: p.steps.map CapStep.moved, ∀ e ∈ m, e.1 ≠ k) → Table.getD u.k k 0 = Table.getD p.ks k 0) ∧
        (∀ e ∈ p.moved, (∀ d ∈ p.moved, d.1 = e.1 → d.2 = e.2) → Table.getD u.k e.1 0 = e.2) ∧ SameMemory s t))

/-- Events of scheduling and of fragments (R34, R39, R86, R255, R330, R336 to R349, R367, R369, R390): the head record that Lift takes becomes a grid;
the first team in order is placed on its footprint, and where none can be, wait slices start; slices expire; victims that may be chosen are, fewest
teams first, and the footprint is kept for the team that waits; a quiesced team is saved and a saved one resumed; a drained warp retires; windows
start, fragments are promoted, yields end; and what a fragment cannot fetch, or holds, it takes as a trap. That an event whose conditions do not hold
changes nothing, and that a footprint is kept, or sought, are the model's choices (log 5, 47, 115; victims: log 82). -/
def Obligations.SchedulingEventResults : Prop :=
  ∀ (s : State) (id q : Nat) (r : RecordWords) (t : Team) (k : Record) (sp : Spot) (c : Choice) (w : Warp) (g : Wg) (v : View) (f : Frag)
    (e : FetchFail) (x : Fetched) (h : HeldTrap),
    (s.nextHead = none → exec .launchRecordAdmission s = .next s) ∧
    (s.nextHead = some (q, .accept r) → ∃ u n, exec .launchRecordAdmission s = .next u ∧ Table.get? u.grids s.serial = some n ∧
      n.record = recParse r ∧ n.ctx = (s.queue q).ctxid.toNat ∧ n.depth = 1 ∧ n.parent = none ∧
      (u.queue q).head = (s.queue q).head + 1 ∧ SameMemory s u) ∧
    (s.firstPlaceable = some (id, t, sp) → s.team? id = some t → t.state = .waiting → s.recordOf t = some k → ∃ u n,
      exec .teamPlacement s = .next u ∧ u.team? id = some n ∧ n.state = .resident ∧ n.cores = sp.cores ∧
      (t.savedBonds = [] → n.earmark = sp.edges) ∧ n.runStart = s.tick ∧ n.wgs.length = t.wgs.length + sp.cores.length) ∧
    (s.firstPlaceable = none → s.team? id = some t → t.state = .waiting ∨ t.state = .saved → t.waitStart = none → ∃ u,
      exec .teamPlacement s = .next u ∧ u.team? id = some { t with waitStart := some s.tick }) ∧
    (s.team? id = some t → t.state = .resident → s.sliceOver t t.runStart = true → exec (.runSliceExpiry id) s =
      .next (s.setTeam id { t with runExpired := true })) ∧
    (let vs := s.waitersFor 10 t.grid
     let s' := s.modTeam id (fun t => { t with waitStart := some s.tick })
     let cs := s'.choices id t k (fun y => s'.mayYield (s'.clsOfTeam t) y.2 || vs.contains y.1)
     s.waiting.find? s.sliceDue = some (id, t) → s.team? id = some t → s.recordOf t = some k → ∃ u m,
      exec (.waitSliceExpiry id) s = .next u ∧ u.team? id = some m ∧ m.waitStart = some s.tick ∧
      (s'.targetHolds id t = true → u = s') ∧
      (s'.targetHolds id t = false → cs = [] → ∃ q, u = s'.modTeam id (fun t => { t with sought := some q })) ∧
      (s'.targetHolds id t = false → cs ≠ [] → ∃ c ∈ cs, m.target = c.spot.cores ∧ (∀ d ∈ cs, c.victims.length ≤ d.victims.length) ∧
        ∀ j n, j ∈ c.victims → j ≠ id → s.team? j = some n → u.team? j = some { n with state := .chosen, waitStart := some s.tick }) ∧
      ∀ c ∈ cs, ∀ j ∈ c.victims, ∃ n, (j, n) ∈ s'.teams ∧ (j ∈ vs ∨ (n.state = .resident ∧ (s'.clsOfTeam t < s'.clsOfTeam n ∨
        (s'.clsOfTeam n = s'.clsOfTeam t ∧ (n.runExpired = true ∨ s'.sliceOver n n.runStart = true)))))) ∧
    (∀ n, s.team? id = some t → t.state = .resident → s.lwaitChoice id = some (n, c) → n ∉ c.victims → ∃ u,
      exec (.lwaitPreemption id) s = .next u ∧ id ∈ c.victims ∧
      (∀ j m, j ∈ c.victims → s.team? j = some m → u.team? j = some { m with state := .chosen, waitStart := some s.tick }) ∧
      ∀ m, s.team? n = some m → u.team? n = some { m with target := c.spot.cores }) ∧
    (s.team? id = some t → t.state = .saving → s.quiesced id = true → ∃ u n, exec (.teamSave id) s = .next u ∧ u.team? id = some n ∧
      n.state = .saved ∧ n.earmark = 0) ∧
    (s.firstPlaceable = some (id, t, sp) → s.team? id = some t → t.state = .saved → ∃ u n, exec (.teamResume id) s = .next u ∧
      u.team? id = some n ∧ n.state = .resident ∧ n.cores = sp.cores ∧ n.runStart = s.tick) ∧
    (s.warp? id = some w → s.mayRetire id w = true → ∃ u, exec (.warpRetirement id) s = .next u ∧
      ∀ n, u.warp? id = some n → n.retired = true) ∧
    (s.wg? id = some g → g.windowOver = true → ∃ u n, exec (.eventWindowStart id) s = .next u ∧ u.wg? id = some n ∧ n.evtcnt = [] ∧
      n.evtstat = g.evtstat &&& 0xFFFFFFF0 ∧ n.window = g.window % (1024 * bitsAt g.evtctl 0 16)) ∧
    (s.nextView id = some v → v.fid = id → s.frag? id = some f → s.mayPromote v = true → ∃ u n, exec (.fragmentPromotion id) s = .next u ∧
      u.frag? id = some n ∧ n.promoted = some s.tick ∧ n.yieldUntil = 0) ∧
    (s.frag? id = some f → f.yieldUntil ≤ s.tick → exec (.yieldExpiry id) s =
      .next (s.modFrag id (fun y => { y with yieldUntil := if y.yieldUntil ≤ s.tick then 0 else y.yieldUntil }))) ∧
    (s.frag? id = some f → s.attempt id = .noFetch e → exec (.fetchFault id) s =
      .next ((s.modFrag id (fun y => { y with wait := none })).takeTrap id { code := 0x07, detail := e.detail, addr := e.addr } f.pc none false)) ∧
    (s.frag? id = some f → s.attempt id = .held x h → exec (.deferredFaultDelivery id) s =
      .next ((s.modFrag id (fun y => { y with heldTraps := y.heldTraps.tail, wait := none })).takeTrap id h.trap f.pc none h.defer))

/-- Events of the part (R22, R328, R344, R361, R370 to R373, R378 to R380, R385 to R388): the end of a dead context's drain; the loss of dies, with which
every context that names one of them dies and no other does; writes of queue descriptors and management registers; the commands of CMD, of which a
translation invalidation leaves no translation kept for its context; and reset, whose steps stop at the first that stops bring-up, and which is clean
where every step passes. The boot record reads as R386 lays it out. What a reset keeps and what a shutdown meets are the model's choices (log 1, 18, 44);
the outcome and the failed part of a step that is not reached, and the order and numbers of the step records, are its reading (log 16). -/
def Obligations.PartEventResults : Prop :=
  ∀ (s : State) (c n : Nat) (cause : BitVec 8) (dies : BitVec 6) (x : Dword) (op : BitVec 4) (num : BitVec 10) (dom : BitVec 12) (port : PortMode)
    (inp : BootInputs),
    ((s.ctx c).dead = some cause → (s.ctx c).drained = false → ∃ t, exec (.deadContextDrainComplete c) s = .next t ∧
      (t.ctx c).drained = true ∧ (∀ p ∈ t.grids, p.2.ctx ≠ c) ∧ ∃ v d a, t.interrupts.getLast? = some (v, .contextDead c cause d a)) ∧
    (let lost (i : Nat) := dies.getLsbD i || (decide (2 ≤ i ∧ i < 4) && dies.getLsbD (i - 2)) || (decide (i < 2) && dies.getLsbD (i + 2))
     ∃ t, exec (.dieLossDeclaration dies) s = .next t ∧ (∀ i, i < 6 → t.lostDies.getLsbD i = (s.lostDies.getLsbD i || lost i)) ∧
      (∃ d, t.interrupts.getLast? = some (0, .dieLost d)) ∧
      ∀ y, Table.get? s.ctxs c = some y →
        ((∃ i, i < 6 ∧ lost i = true ∧ y.diemask.getLsbD i = true) → (t.ctx c).dead.isSome = true ∧ (y.dead = none → (t.ctx c).dead = some 0x3E)) ∧
        ((∀ i, i < 6 → lost i = true → y.diemask.getLsbD i = false) → t.ctx c = y)) ∧
    (n < 64 → (s.queue n).en = false → exec (.queueDescriptorWrite n 44 4 x) s =
      .next (s.setQueue n { s.queue n with tail := x.extractLsb' 0 32 })) ∧
    (exec (.managementRegisterWrite 0x4008 8 x) s = .next { s with opnd := x }) ∧
    (∀ i, i < 4 → exec (.managementRegisterWrite (0x1000 + 8 * i) 8 x) s =
      .next { s with slices := Table.put 0 s.slices i (x.extractLsb' 0 16) }) ∧
    (exec (.managementRegisterWrite 0x8008 8 x) s = .next { s with pwrlim := x.extractLsb' 0 16 }) ∧
    (s.cmdBusy = true → exec .translationInvalidation s = .next s ∧ exec .hostKill s = .next s ∧ exec .clearRateHint s = .next s) ∧
    (s.cmdBusy = false → ∃ t, exec .translationInvalidation s = .next t ∧ t = { s with cmdOp := 1, cmdBusy := true, kept := t.kept } ∧
      ∀ e, e ∈ t.kept ↔ e ∈ s.kept ∧ e.ctx ≠ s.opnd.toNat % 2 ^ 32) ∧
    (s.cmdBusy = false → ∃ t, exec .hostKill s = .next t ∧ t.cmdBusy = true ∧ t.cmdOp = 2 ∧
      (t.ctx (s.opnd.toNat % 2 ^ 32)).dead.isSome = true ∧
      ((s.ctx (s.opnd.toNat % 2 ^ 32)).dead = none → (t.ctx (s.opnd.toNat % 2 ^ 32)).dead = some 0x3F)) ∧
    (s.cmdBusy = false → ∃ t, exec .clearRateHint s = .next t ∧ t = { s with cmdOp := 3, cmdBusy := true, rateHint := t.rateHint } ∧
      ∀ i, Table.get? t.rateHint i = if s.opnd.toNat < 8 ∧ i = (if s.boot.swap then (s.opnd.toNat + 4) % 8 else s.opnd.toNat) then none
        else Table.get? s.rateHint i) ∧
    (exec (.cmdNoEffect op) s = .next (if s.cmdBusy then s else { s with cmdOp := op })) ∧
    (exec .managementCommandCompletion s = .next { s with cmdBusy := false }) ∧
    (∃ t, exec (.deviceReset ⟨[], [], num, dom, port⟩) s = .next t ∧ Booted s num dom port t) ∧
    (∃ t, exec .thermalShutdown s = .next t ∧ Booted s s.devnum s.domain s.portMode t) ∧
    (∃ t, exec (.deviceReset inp) s = .next t ∧ t.boot.steps.length = 10 ∧ t.boot.bootno = s.boot.bootno + 1 ∧
      (t.unusable = true ↔ ∃ y ∈ t.boot.steps, y.1 = 4) ∧
      ∀ i j, i < j → j < 10 → (t.boot.steps[i]?.map Prod.fst = some 4 → t.boot.steps[j]? = some (5, 0))) ∧
    ((s.managementWord 0x7000).extractLsb' 0 32 = s.boot.bootno ∧ (s.managementWord 0x7000).getLsbD 32 = s.boot.swap ∧
      (∀ i y, i < 8 → s.boot.rate[i]? = some y → (∀ z ∈ s.boot.rate, z < 16) → bitsAt (s.managementWord 0x7018) (4 * i) 4 = y) ∧
      (∀ i y, i < 16 → s.boot.opch[i]? = some y → (∀ z ∈ s.boot.opch, z < 256) → bitsAt (s.managementWord (0x7008 + 8 * (i / 8))) (8 * (i % 8)) 8 = y) ∧
      ∀ i y, i < 10 → s.boot.steps[i]? = some y → y.1 < 256 → y.2 < 256 →
        s.managementWord (0x7040 + 8 * i) = BitVec.ofNat 64 (y.1 + (i + 1) * 2 ^ 8 + y.2 * 2 ^ 16))
end

