-- ==== Sys2Proof/Laws/Table.lean ====
section
/-! SUPPORT. Tables: what reading gives after each change, and that changes keep the canonical form. -/

namespace Sys2Proof.Laws

open Sys2Proof.Machine

variable {α : Type}

@[simp] theorem get_nil (k : Nat) : Table.get? ([] : Table α) k = none := rfl

theorem get_cons (e : Nat × α) (r : Table α) (k : Nat) :
    Table.get? (e :: r) k = if k = e.1 then some e.2 else Table.get? r k := rfl

@[simp] theorem get_set_same (m : Table α) (k : Nat) (v : α) : Table.get? (Table.set m k v) k = some v := by
  induction m with
  | nil => simp [Table.set, get_cons]
  | cons p r ih =>
    simp only [Table.set]
    split
    · simp [get_cons]
    · split
      · simp [get_cons]
      · rename_i h _; simp [get_cons, h, ih]

theorem get_set_other (m : Table α) {k j : Nat} (v : α) (h : j ≠ k) : Table.get? (Table.set m k v) j = Table.get? m j := by
  induction m with
  | nil => simp [Table.set, get_cons, h]
  | cons p r ih =>
    simp only [Table.set]
    split
    · rename_i e; subst e; simp [get_cons, h]
    · split
      · simp [get_cons, h]
      · simp [get_cons, ih]

theorem get_set (m : Table α) (k j : Nat) (v : α) : Table.get? (Table.set m k v) j = if j = k then some v else Table.get? m j := by
  split
  · rename_i h; subst h; exact get_set_same ..
  · exact get_set_other m v ‹_›

theorem get_filter_key (m : Table α) (p : Nat → Bool) (k : Nat) :
    Table.get? (m.filter (fun e => p e.1)) k = if p k then Table.get? m k else none := by
  induction m with
  | nil => simp
  | cons e r ih =>
    simp only [List.filter_cons]
    by_cases hp : p e.1 = true
    · simp only [hp, if_true, get_cons]
      by_cases hk : k = e.1
      · subst hk; simp [hp]
      · simp [hk, ih]
    · simp only [hp, get_cons]
      by_cases hk : k = e.1
      · subst hk; simp [hp, ih]
      · simp [hk, ih]

theorem get_erase (m : Table α) (k j : Nat) : Table.get? (Table.erase m k) j = if j = k then none else Table.get? m j := by
  have h := get_filter_key m (fun x => x != k) j
  simp only [Table.erase, h]
  by_cases e : j = k <;> simp [e]

@[simp] theorem get_erase_same (m : Table α) (k : Nat) : Table.get? (Table.erase m k) k = none := by simp [get_erase]

theorem get_put [DecidableEq α] (d : α) (m : Table α) (k j : Nat) (v : α) :
    Table.get? (Table.put d m k v) j = if j = k then (if v = d then none else some v) else Table.get? m j := by
  simp only [Table.put]
  split
  · simp [get_erase]
  · simp [get_set]

theorem getD_put [DecidableEq α] (d : α) (m : Table α) (k j : Nat) (v : α) :
    Table.getD (Table.put d m k v) j d = if j = k then v else Table.getD m j d := by
  simp only [Table.getD, get_put]
  by_cases h : j = k
  · by_cases e : v = d <;> simp [h, e]
  · simp [h]

@[simp] theorem getD_put_same [DecidableEq α] (d : α) (m : Table α) (k : Nat) (v : α) : Table.getD (Table.put d m k v) k d = v := by
  simp [getD_put]

theorem getD_put_other [DecidableEq α] (d : α) (m : Table α) {k j : Nat} (v : α) (h : j ≠ k) :
    Table.getD (Table.put d m k v) j d = Table.getD m j d := by
  simp [getD_put, h]

theorem get_modify (m : Table α) (k j : Nat) (f : α → α) :
    Table.get? (Table.modify m k f) j = if j = k then (Table.get? m j).map f else Table.get? m j := by
  induction m with
  | nil => simp [Table.modify]
  | cons e r ih =>
    simp only [Table.modify, List.map_cons] at ih ⊢
    by_cases h : e.1 = k
    · simp only [h, if_true, get_cons]
      by_cases hj : j = k
      · simp [hj]
      · simp [hj, ih]
    · simp only [h, if_false, get_cons]
      by_cases hj : j = e.1
      · subst hj; simp [h]
      · simp [hj, ih]

theorem get_map_val (m : Table α) (f : Nat → α → α) (j : Nat) :
    Table.get? (m.map (fun p => (p.1, f p.1 p.2))) j = (Table.get? m j).map (f j) := by
  induction m with
  | nil => simp
  | cons e r ih =>
    simp only [List.map_cons, get_cons]
    by_cases h : j = e.1
    · subst h; simp
    · simp [h, ih]

/-! ### The canonical form -/

theorem sorted_iff (m : Table α) : Table.sorted m = true ↔ (m.map Prod.fst).Pairwise (· < ·) := by
  induction m with
  | nil => simp [Table.sorted]
  | cons e r ih =>
    cases r with
    | nil => simp [Table.sorted]
    | cons f t =>
      simp only [Table.sorted, Bool.and_eq_true, decide_eq_true_eq, ih, List.map_cons, List.pairwise_cons, List.mem_cons,
        forall_eq_or_imp]
      constructor
      · rintro ⟨h, h2, h3⟩
        exact ⟨⟨h, fun a ha => h.trans (h2 a ha)⟩, h2, h3⟩
      · rintro ⟨⟨h, _⟩, h2, h3⟩
        exact ⟨h, h2, h3⟩

theorem mem_keys_set (m : Table α) (k : Nat) (v : α) : ∀ x ∈ (Table.set m k v).map Prod.fst, x = k ∨ x ∈ m.map Prod.fst := by
  induction m with
  | nil => simp [Table.set]
  | cons e r ih =>
    intro x
    simp only [Table.set]
    split
    · rename_i h; subst h; simp
    · split
      · simp
      · simp only [List.map_cons, List.mem_cons]
        rintro (h | h)
        · exact .inr (.inl h)
        · rcases ih x h with h | h
          · exact .inl h
          · exact .inr (.inr h)

theorem sorted_set {m : Table α} (h : Table.sorted m = true) (k : Nat) (v : α) : Table.sorted (Table.set m k v) = true := by
  rw [sorted_iff] at h ⊢
  induction m with
  | nil => simp [Table.set]
  | cons e r ih =>
    simp only [List.map_cons, List.pairwise_cons] at h
    simp only [Table.set]
    split
    · rename_i hk; subst hk; simpa using h
    · split
      · rename_i hk
        simp only [List.map_cons, List.pairwise_cons, List.mem_cons, forall_eq_or_imp]
        exact ⟨⟨hk, fun a ha => hk.trans (h.1 a ha)⟩, h.1, h.2⟩
      · rename_i h1 h2
        simp only [List.map_cons, List.pairwise_cons]
        refine ⟨fun a ha => ?_, ih h.2⟩
        rcases mem_keys_set r k v a ha with hx | hx
        · subst hx; omega
        · exact h.1 a hx

theorem sorted_filter {m : Table α} (h : Table.sorted m = true) (p : Nat × α → Bool) : Table.sorted (m.filter p) = true := by
  rw [sorted_iff] at h ⊢
  exact h.sublist ((List.filter_sublist).map Prod.fst)

theorem mem_set {m : Table α} {k : Nat} {v : α} {e : Nat × α} (h : e ∈ Table.set m k v) : e = (k, v) ∨ e ∈ m := by
  induction m with
  | nil => simpa [Table.set] using h
  | cons f r ih =>
    simp only [Table.set] at h
    split at h
    · simp only [List.mem_cons] at h ⊢; tauto
    · split at h
      · simp only [List.mem_cons] at h ⊢; tauto
      · simp only [List.mem_cons] at h ⊢
        rcases h with h | h
        · exact .inr (.inl h)
        · rcases ih h with h | h
          · exact .inl h
          · exact .inr (.inr h)

theorem wf_put [DecidableEq α] {d : α} {m : Table α} (h : Table.wf d m = true) (k : Nat) (v : α) :
    Table.wf d (Table.put d m k v) = true := by
  simp only [Table.wf, Bool.and_eq_true, List.all_eq_true, decide_eq_true_eq] at h ⊢
  simp only [Table.put]
  split
  · exact ⟨sorted_filter h.1 _, fun e he => h.2 e (List.mem_of_mem_filter he)⟩
  · refine ⟨sorted_set h.1 k v, fun e he => ?_⟩
    rcases mem_set he with rfl | he
    · assumption
    · exact h.2 e he

theorem wf_filter [DecidableEq α] {d : α} {m : Table α} (h : Table.wf d m = true) (p : Nat × α → Bool) :
    Table.wf d (m.filter p) = true := by
  simp only [Table.wf, Bool.and_eq_true, List.all_eq_true] at h ⊢
  exact ⟨sorted_filter h.1 _, fun e he => h.2 e (List.mem_of_mem_filter he)⟩

/-- Two canonical tables that read alike are the same table. -/
theorem wf_ext [DecidableEq α] {d : α} {m n : Table α} (hm : Table.wf d m = true) (hn : Table.wf d n = true)
    (h : ∀ k, Table.getD m k d = Table.getD n k d) : m = n := by
  have key : ∀ (m : Table α), Table.wf d m = true → ∀ k, (Table.get? m k = none ↔ Table.getD m k d = d) := by
    intro m hm k
    simp only [Table.wf, Bool.and_eq_true, List.all_eq_true, decide_eq_true_eq] at hm
    have : ∀ v, Table.get? m k = some v → v ≠ d := by
      intro v
      clear h hn
      obtain ⟨-, hm⟩ := hm
      induction m with
      | nil => simp
      | cons e r ih =>
        simp only [get_cons]
        split
        · intro hv; cases hv; exact hm e (by simp)
        · exact ih (fun x hx => hm x (by simp [hx]))
    cases hg : Table.get? m k with
    | none => simp [Table.getD, hg]
    | some v => simpa [Table.getD, hg] using this v hg
  have hget : ∀ k, Table.get? m k = Table.get? n k := by
    intro k
    have h1 := key m hm k
    have h2 := key n hn k
    have h3 := h k
    cases a : Table.get? m k <;> cases b : Table.get? n k <;> simp_all [Table.getD]
  simp only [Table.wf, Bool.and_eq_true] at hm hn
  have hs := (sorted_iff m).mp hm.1
  have ht := (sorted_iff n).mp hn.1
  clear key h hm hn
  induction m generalizing n with
  | nil =>
    cases n with
    | nil => rfl
    | cons e r => have := hget e.1; simp [get_cons] at this
  | cons e r ih =>
    have absent : ∀ (r : Table α) (k : Nat), (∀ x ∈ r.map Prod.fst, k < x) → Table.get? r k = none := by
      intro r k hr
      induction r with
      | nil => rfl
      | cons e r ih =>
        have h1 := hr e.1 (by simp)
        simp only [get_cons]
        rw [if_neg (by omega)]
        exact ih (fun x hx => hr x (by simp_all))
    simp only [List.map_cons, List.pairwise_cons] at hs
    cases n with
    | nil => have := hget e.1; simp [get_cons] at this
    | cons f t =>
      simp only [List.map_cons, List.pairwise_cons] at ht
      have hk : e.1 = f.1 := by
        rcases Nat.lt_trichotomy e.1 f.1 with h | h | h
        · have := hget e.1
          rw [get_cons, if_pos rfl, get_cons, if_neg (by omega), absent t e.1 (fun x hx => h.trans (ht.1 x hx))] at this
          simp at this
        · exact h
        · have := hget f.1
          rw [get_cons, if_neg (by omega), absent r f.1 (fun x hx => h.trans (hs.1 x hx)), get_cons, if_pos rfl] at this
          simp at this
      have hv : e.2 = f.2 := by
        have := hget e.1
        rw [get_cons, if_pos rfl, get_cons, if_pos hk] at this
        simpa using this
      have hr : r = t := by
        apply ih (n := t) _ hs.2 ht.2
        intro k
        by_cases hke : k = e.1
        · rw [hke, absent r e.1 hs.1, hk, absent t f.1 ht.1]
        · have := hget k
          rwa [get_cons, if_neg hke, get_cons, if_neg (hk ▸ hke)] at this
      obtain ⟨e1, e2⟩ := e
      obtain ⟨f1, f2⟩ := f
      simp_all

end Sys2Proof.Laws
end

