-- ==== Sys2Proof/Laws/State.lean ====
section
/-! SUPPORT. State: what each update leaves in each field, and what looking a unit up gives after it. -/

namespace Sys2Proof.Laws

open Sys2Proof Sys2Proof.Machine

set_option Elab.async false

/-! ### Fields after updates -/

@[simp] theorem setFrag_tick (s : State) (i : Nat) (x : Frag) : (s.setFrag i x).tick = s.tick := rfl
@[simp] theorem setFrag_mem (s : State) (i : Nat) (x : Frag) : (s.setFrag i x).mem = s.mem := rfl
@[simp] theorem setFrag_queues (s : State) (i : Nat) (x : Frag) : (s.setFrag i x).queues = s.queues := rfl
@[simp] theorem setFrag_slices (s : State) (i : Nat) (x : Frag) : (s.setFrag i x).slices = s.slices := rfl
@[simp] theorem setFrag_ctxTable (s : State) (i : Nat) (x : Frag) : (s.setFrag i x).ctxTable = s.ctxTable := rfl
@[simp] theorem setFrag_cmdOp (s : State) (i : Nat) (x : Frag) : (s.setFrag i x).cmdOp = s.cmdOp := rfl
@[simp] theorem setFrag_cmdBusy (s : State) (i : Nat) (x : Frag) : (s.setFrag i x).cmdBusy = s.cmdBusy := rfl
@[simp] theorem setFrag_opnd (s : State) (i : Nat) (x : Frag) : (s.setFrag i x).opnd = s.opnd := rfl
@[simp] theorem setFrag_groups (s : State) (i : Nat) (x : Frag) : (s.setFrag i x).groups = s.groups := rfl
@[simp] theorem setFrag_routes (s : State) (i : Nat) (x : Frag) : (s.setFrag i x).routes = s.routes := rfl
@[simp] theorem setFrag_boot (s : State) (i : Nat) (x : Frag) : (s.setFrag i x).boot = s.boot := rfl
@[simp] theorem setFrag_rateHint (s : State) (i : Nat) (x : Frag) : (s.setFrag i x).rateHint = s.rateHint := rfl
@[simp] theorem setFrag_devnum (s : State) (i : Nat) (x : Frag) : (s.setFrag i x).devnum = s.devnum := rfl
@[simp] theorem setFrag_domain (s : State) (i : Nat) (x : Frag) : (s.setFrag i x).domain = s.domain := rfl
@[simp] theorem setFrag_portMode (s : State) (i : Nat) (x : Frag) : (s.setFrag i x).portMode = s.portMode := rfl
@[simp] theorem setFrag_answer (s : State) (i : Nat) (x : Frag) : (s.setFrag i x).answer = s.answer := rfl
@[simp] theorem setFrag_pwrlim (s : State) (i : Nat) (x : Frag) : (s.setFrag i x).pwrlim = s.pwrlim := rfl
@[simp] theorem setFrag_lostDies (s : State) (i : Nat) (x : Frag) : (s.setFrag i x).lostDies = s.lostDies := rfl
@[simp] theorem setFrag_unusable (s : State) (i : Nat) (x : Frag) : (s.setFrag i x).unusable = s.unusable := rfl
@[simp] theorem setFrag_interrupts (s : State) (i : Nat) (x : Frag) : (s.setFrag i x).interrupts = s.interrupts := rfl
@[simp] theorem setFrag_slots (s : State) (i : Nat) (x : Frag) : (s.setFrag i x).slots = s.slots := rfl
@[simp] theorem setFrag_lastQueue (s : State) (i : Nat) (x : Frag) : (s.setFrag i x).lastQueue = s.lastQueue := rfl
@[simp] theorem setFrag_timebase (s : State) (i : Nat) (x : Frag) : (s.setFrag i x).timebase = s.timebase := rfl
@[simp] theorem setFrag_ctxs (s : State) (i : Nat) (x : Frag) : (s.setFrag i x).ctxs = s.ctxs := rfl
@[simp] theorem setFrag_grids (s : State) (i : Nat) (x : Frag) : (s.setFrag i x).grids = s.grids := rfl
@[simp] theorem setFrag_teams (s : State) (i : Nat) (x : Frag) : (s.setFrag i x).teams = s.teams := rfl
@[simp] theorem setFrag_wgs (s : State) (i : Nat) (x : Frag) : (s.setFrag i x).wgs = s.wgs := rfl
@[simp] theorem setFrag_warps (s : State) (i : Nat) (x : Frag) : (s.setFrag i x).warps = s.warps := rfl
@[simp] theorem setFrag_frags (s : State) (i : Nat) (x : Frag) : (s.setFrag i x).frags = Table.set s.frags i x := rfl
@[simp] theorem setFrag_cores (s : State) (i : Nat) (x : Frag) : (s.setFrag i x).cores = s.cores := rfl
@[simp] theorem setFrag_ops (s : State) (i : Nat) (x : Frag) : (s.setFrag i x).ops = s.ops := rfl
@[simp] theorem setFrag_fences (s : State) (i : Nat) (x : Frag) : (s.setFrag i x).fences = s.fences := rfl
@[simp] theorem setFrag_debts (s : State) (i : Nat) (x : Frag) : (s.setFrag i x).debts = s.debts := rfl
@[simp] theorem setFrag_early (s : State) (i : Nat) (x : Frag) : (s.setFrag i x).early = s.early := rfl
@[simp] theorem setFrag_packets (s : State) (i : Nat) (x : Frag) : (s.setFrag i x).packets = s.packets := rfl
@[simp] theorem setFrag_old (s : State) (i : Nat) (x : Frag) : (s.setFrag i x).old = s.old := rfl
@[simp] theorem setFrag_kept (s : State) (i : Nat) (x : Frag) : (s.setFrag i x).kept = s.kept := rfl
@[simp] theorem setFrag_cmds (s : State) (i : Nat) (x : Frag) : (s.setFrag i x).cmds = s.cmds := rfl
@[simp] theorem setFrag_bonds (s : State) (i : Nat) (x : Frag) : (s.setFrag i x).bonds = s.bonds := rfl
@[simp] theorem setFrag_issue (s : State) (i : Nat) (x : Frag) : (s.setFrag i x).issue = s.issue := rfl
@[simp] theorem setFrag_claims (s : State) (i : Nat) (x : Frag) : (s.setFrag i x).claims = s.claims := rfl
@[simp] theorem setFrag_serial (s : State) (i : Nat) (x : Frag) : (s.setFrag i x).serial = s.serial := rfl
@[simp] theorem setFrag_free (s : State) (i : Nat) (x : Frag) : (s.setFrag i x).free = s.free := rfl
@[simp] theorem setFrag_agenda (s : State) (i : Nat) (x : Frag) : (s.setFrag i x).agenda = s.agenda := rfl

@[simp] theorem modFrag_tick (s : State) (i : Nat) (f : Frag → Frag) : (s.modFrag i f).tick = s.tick := rfl
@[simp] theorem modFrag_mem (s : State) (i : Nat) (f : Frag → Frag) : (s.modFrag i f).mem = s.mem := rfl
@[simp] theorem modFrag_queues (s : State) (i : Nat) (f : Frag → Frag) : (s.modFrag i f).queues = s.queues := rfl
@[simp] theorem modFrag_slices (s : State) (i : Nat) (f : Frag → Frag) : (s.modFrag i f).slices = s.slices := rfl
@[simp] theorem modFrag_ctxTable (s : State) (i : Nat) (f : Frag → Frag) : (s.modFrag i f).ctxTable = s.ctxTable := rfl
@[simp] theorem modFrag_cmdOp (s : State) (i : Nat) (f : Frag → Frag) : (s.modFrag i f).cmdOp = s.cmdOp := rfl
@[simp] theorem modFrag_cmdBusy (s : State) (i : Nat) (f : Frag → Frag) : (s.modFrag i f).cmdBusy = s.cmdBusy := rfl
@[simp] theorem modFrag_opnd (s : State) (i : Nat) (f : Frag → Frag) : (s.modFrag i f).opnd = s.opnd := rfl
@[simp] theorem modFrag_groups (s : State) (i : Nat) (f : Frag → Frag) : (s.modFrag i f).groups = s.groups := rfl
@[simp] theorem modFrag_routes (s : State) (i : Nat) (f : Frag → Frag) : (s.modFrag i f).routes = s.routes := rfl
@[simp] theorem modFrag_boot (s : State) (i : Nat) (f : Frag → Frag) : (s.modFrag i f).boot = s.boot := rfl
@[simp] theorem modFrag_rateHint (s : State) (i : Nat) (f : Frag → Frag) : (s.modFrag i f).rateHint = s.rateHint := rfl
@[simp] theorem modFrag_devnum (s : State) (i : Nat) (f : Frag → Frag) : (s.modFrag i f).devnum = s.devnum := rfl
@[simp] theorem modFrag_domain (s : State) (i : Nat) (f : Frag → Frag) : (s.modFrag i f).domain = s.domain := rfl
@[simp] theorem modFrag_portMode (s : State) (i : Nat) (f : Frag → Frag) : (s.modFrag i f).portMode = s.portMode := rfl
@[simp] theorem modFrag_answer (s : State) (i : Nat) (f : Frag → Frag) : (s.modFrag i f).answer = s.answer := rfl
@[simp] theorem modFrag_pwrlim (s : State) (i : Nat) (f : Frag → Frag) : (s.modFrag i f).pwrlim = s.pwrlim := rfl
@[simp] theorem modFrag_lostDies (s : State) (i : Nat) (f : Frag → Frag) : (s.modFrag i f).lostDies = s.lostDies := rfl
@[simp] theorem modFrag_unusable (s : State) (i : Nat) (f : Frag → Frag) : (s.modFrag i f).unusable = s.unusable := rfl
@[simp] theorem modFrag_interrupts (s : State) (i : Nat) (f : Frag → Frag) : (s.modFrag i f).interrupts = s.interrupts := rfl
@[simp] theorem modFrag_slots (s : State) (i : Nat) (f : Frag → Frag) : (s.modFrag i f).slots = s.slots := rfl
@[simp] theorem modFrag_lastQueue (s : State) (i : Nat) (f : Frag → Frag) : (s.modFrag i f).lastQueue = s.lastQueue := rfl
@[simp] theorem modFrag_timebase (s : State) (i : Nat) (f : Frag → Frag) : (s.modFrag i f).timebase = s.timebase := rfl
@[simp] theorem modFrag_ctxs (s : State) (i : Nat) (f : Frag → Frag) : (s.modFrag i f).ctxs = s.ctxs := rfl
@[simp] theorem modFrag_grids (s : State) (i : Nat) (f : Frag → Frag) : (s.modFrag i f).grids = s.grids := rfl
@[simp] theorem modFrag_teams (s : State) (i : Nat) (f : Frag → Frag) : (s.modFrag i f).teams = s.teams := rfl
@[simp] theorem modFrag_wgs (s : State) (i : Nat) (f : Frag → Frag) : (s.modFrag i f).wgs = s.wgs := rfl
@[simp] theorem modFrag_warps (s : State) (i : Nat) (f : Frag → Frag) : (s.modFrag i f).warps = s.warps := rfl
@[simp] theorem modFrag_frags (s : State) (i : Nat) (f : Frag → Frag) : (s.modFrag i f).frags = Table.modify s.frags i f := rfl
@[simp] theorem modFrag_cores (s : State) (i : Nat) (f : Frag → Frag) : (s.modFrag i f).cores = s.cores := rfl
@[simp] theorem modFrag_ops (s : State) (i : Nat) (f : Frag → Frag) : (s.modFrag i f).ops = s.ops := rfl
@[simp] theorem modFrag_fences (s : State) (i : Nat) (f : Frag → Frag) : (s.modFrag i f).fences = s.fences := rfl
@[simp] theorem modFrag_debts (s : State) (i : Nat) (f : Frag → Frag) : (s.modFrag i f).debts = s.debts := rfl
@[simp] theorem modFrag_early (s : State) (i : Nat) (f : Frag → Frag) : (s.modFrag i f).early = s.early := rfl
@[simp] theorem modFrag_packets (s : State) (i : Nat) (f : Frag → Frag) : (s.modFrag i f).packets = s.packets := rfl
@[simp] theorem modFrag_old (s : State) (i : Nat) (f : Frag → Frag) : (s.modFrag i f).old = s.old := rfl
@[simp] theorem modFrag_kept (s : State) (i : Nat) (f : Frag → Frag) : (s.modFrag i f).kept = s.kept := rfl
@[simp] theorem modFrag_cmds (s : State) (i : Nat) (f : Frag → Frag) : (s.modFrag i f).cmds = s.cmds := rfl
@[simp] theorem modFrag_bonds (s : State) (i : Nat) (f : Frag → Frag) : (s.modFrag i f).bonds = s.bonds := rfl
@[simp] theorem modFrag_issue (s : State) (i : Nat) (f : Frag → Frag) : (s.modFrag i f).issue = s.issue := rfl
@[simp] theorem modFrag_claims (s : State) (i : Nat) (f : Frag → Frag) : (s.modFrag i f).claims = s.claims := rfl
@[simp] theorem modFrag_serial (s : State) (i : Nat) (f : Frag → Frag) : (s.modFrag i f).serial = s.serial := rfl
@[simp] theorem modFrag_free (s : State) (i : Nat) (f : Frag → Frag) : (s.modFrag i f).free = s.free := rfl
@[simp] theorem modFrag_agenda (s : State) (i : Nat) (f : Frag → Frag) : (s.modFrag i f).agenda = s.agenda := rfl

@[simp] theorem setWarp_tick (s : State) (i : Nat) (x : Warp) : (s.setWarp i x).tick = s.tick := rfl
@[simp] theorem setWarp_mem (s : State) (i : Nat) (x : Warp) : (s.setWarp i x).mem = s.mem := rfl
@[simp] theorem setWarp_queues (s : State) (i : Nat) (x : Warp) : (s.setWarp i x).queues = s.queues := rfl
@[simp] theorem setWarp_slices (s : State) (i : Nat) (x : Warp) : (s.setWarp i x).slices = s.slices := rfl
@[simp] theorem setWarp_ctxTable (s : State) (i : Nat) (x : Warp) : (s.setWarp i x).ctxTable = s.ctxTable := rfl
@[simp] theorem setWarp_cmdOp (s : State) (i : Nat) (x : Warp) : (s.setWarp i x).cmdOp = s.cmdOp := rfl
@[simp] theorem setWarp_cmdBusy (s : State) (i : Nat) (x : Warp) : (s.setWarp i x).cmdBusy = s.cmdBusy := rfl
@[simp] theorem setWarp_opnd (s : State) (i : Nat) (x : Warp) : (s.setWarp i x).opnd = s.opnd := rfl
@[simp] theorem setWarp_groups (s : State) (i : Nat) (x : Warp) : (s.setWarp i x).groups = s.groups := rfl
@[simp] theorem setWarp_routes (s : State) (i : Nat) (x : Warp) : (s.setWarp i x).routes = s.routes := rfl
@[simp] theorem setWarp_boot (s : State) (i : Nat) (x : Warp) : (s.setWarp i x).boot = s.boot := rfl
@[simp] theorem setWarp_rateHint (s : State) (i : Nat) (x : Warp) : (s.setWarp i x).rateHint = s.rateHint := rfl
@[simp] theorem setWarp_devnum (s : State) (i : Nat) (x : Warp) : (s.setWarp i x).devnum = s.devnum := rfl
@[simp] theorem setWarp_domain (s : State) (i : Nat) (x : Warp) : (s.setWarp i x).domain = s.domain := rfl
@[simp] theorem setWarp_portMode (s : State) (i : Nat) (x : Warp) : (s.setWarp i x).portMode = s.portMode := rfl
@[simp] theorem setWarp_answer (s : State) (i : Nat) (x : Warp) : (s.setWarp i x).answer = s.answer := rfl
@[simp] theorem setWarp_pwrlim (s : State) (i : Nat) (x : Warp) : (s.setWarp i x).pwrlim = s.pwrlim := rfl
@[simp] theorem setWarp_lostDies (s : State) (i : Nat) (x : Warp) : (s.setWarp i x).lostDies = s.lostDies := rfl
@[simp] theorem setWarp_unusable (s : State) (i : Nat) (x : Warp) : (s.setWarp i x).unusable = s.unusable := rfl
@[simp] theorem setWarp_interrupts (s : State) (i : Nat) (x : Warp) : (s.setWarp i x).interrupts = s.interrupts := rfl
@[simp] theorem setWarp_slots (s : State) (i : Nat) (x : Warp) : (s.setWarp i x).slots = s.slots := rfl
@[simp] theorem setWarp_lastQueue (s : State) (i : Nat) (x : Warp) : (s.setWarp i x).lastQueue = s.lastQueue := rfl
@[simp] theorem setWarp_timebase (s : State) (i : Nat) (x : Warp) : (s.setWarp i x).timebase = s.timebase := rfl
@[simp] theorem setWarp_ctxs (s : State) (i : Nat) (x : Warp) : (s.setWarp i x).ctxs = s.ctxs := rfl
@[simp] theorem setWarp_grids (s : State) (i : Nat) (x : Warp) : (s.setWarp i x).grids = s.grids := rfl
@[simp] theorem setWarp_teams (s : State) (i : Nat) (x : Warp) : (s.setWarp i x).teams = s.teams := rfl
@[simp] theorem setWarp_wgs (s : State) (i : Nat) (x : Warp) : (s.setWarp i x).wgs = s.wgs := rfl
@[simp] theorem setWarp_warps (s : State) (i : Nat) (x : Warp) : (s.setWarp i x).warps = Table.set s.warps i x := rfl
@[simp] theorem setWarp_frags (s : State) (i : Nat) (x : Warp) : (s.setWarp i x).frags = s.frags := rfl
@[simp] theorem setWarp_cores (s : State) (i : Nat) (x : Warp) : (s.setWarp i x).cores = s.cores := rfl
@[simp] theorem setWarp_ops (s : State) (i : Nat) (x : Warp) : (s.setWarp i x).ops = s.ops := rfl
@[simp] theorem setWarp_fences (s : State) (i : Nat) (x : Warp) : (s.setWarp i x).fences = s.fences := rfl
@[simp] theorem setWarp_debts (s : State) (i : Nat) (x : Warp) : (s.setWarp i x).debts = s.debts := rfl
@[simp] theorem setWarp_early (s : State) (i : Nat) (x : Warp) : (s.setWarp i x).early = s.early := rfl
@[simp] theorem setWarp_packets (s : State) (i : Nat) (x : Warp) : (s.setWarp i x).packets = s.packets := rfl
@[simp] theorem setWarp_old (s : State) (i : Nat) (x : Warp) : (s.setWarp i x).old = s.old := rfl
@[simp] theorem setWarp_kept (s : State) (i : Nat) (x : Warp) : (s.setWarp i x).kept = s.kept := rfl
@[simp] theorem setWarp_cmds (s : State) (i : Nat) (x : Warp) : (s.setWarp i x).cmds = s.cmds := rfl
@[simp] theorem setWarp_bonds (s : State) (i : Nat) (x : Warp) : (s.setWarp i x).bonds = s.bonds := rfl
@[simp] theorem setWarp_issue (s : State) (i : Nat) (x : Warp) : (s.setWarp i x).issue = s.issue := rfl
@[simp] theorem setWarp_claims (s : State) (i : Nat) (x : Warp) : (s.setWarp i x).claims = s.claims := rfl
@[simp] theorem setWarp_serial (s : State) (i : Nat) (x : Warp) : (s.setWarp i x).serial = s.serial := rfl
@[simp] theorem setWarp_free (s : State) (i : Nat) (x : Warp) : (s.setWarp i x).free = s.free := rfl
@[simp] theorem setWarp_agenda (s : State) (i : Nat) (x : Warp) : (s.setWarp i x).agenda = s.agenda := rfl

@[simp] theorem modWarp_tick (s : State) (i : Nat) (f : Warp → Warp) : (s.modWarp i f).tick = s.tick := rfl
@[simp] theorem modWarp_mem (s : State) (i : Nat) (f : Warp → Warp) : (s.modWarp i f).mem = s.mem := rfl
@[simp] theorem modWarp_queues (s : State) (i : Nat) (f : Warp → Warp) : (s.modWarp i f).queues = s.queues := rfl
@[simp] theorem modWarp_slices (s : State) (i : Nat) (f : Warp → Warp) : (s.modWarp i f).slices = s.slices := rfl
@[simp] theorem modWarp_ctxTable (s : State) (i : Nat) (f : Warp → Warp) : (s.modWarp i f).ctxTable = s.ctxTable := rfl
@[simp] theorem modWarp_cmdOp (s : State) (i : Nat) (f : Warp → Warp) : (s.modWarp i f).cmdOp = s.cmdOp := rfl
@[simp] theorem modWarp_cmdBusy (s : State) (i : Nat) (f : Warp → Warp) : (s.modWarp i f).cmdBusy = s.cmdBusy := rfl
@[simp] theorem modWarp_opnd (s : State) (i : Nat) (f : Warp → Warp) : (s.modWarp i f).opnd = s.opnd := rfl
@[simp] theorem modWarp_groups (s : State) (i : Nat) (f : Warp → Warp) : (s.modWarp i f).groups = s.groups := rfl
@[simp] theorem modWarp_routes (s : State) (i : Nat) (f : Warp → Warp) : (s.modWarp i f).routes = s.routes := rfl
@[simp] theorem modWarp_boot (s : State) (i : Nat) (f : Warp → Warp) : (s.modWarp i f).boot = s.boot := rfl
@[simp] theorem modWarp_rateHint (s : State) (i : Nat) (f : Warp → Warp) : (s.modWarp i f).rateHint = s.rateHint := rfl
@[simp] theorem modWarp_devnum (s : State) (i : Nat) (f : Warp → Warp) : (s.modWarp i f).devnum = s.devnum := rfl
@[simp] theorem modWarp_domain (s : State) (i : Nat) (f : Warp → Warp) : (s.modWarp i f).domain = s.domain := rfl
@[simp] theorem modWarp_portMode (s : State) (i : Nat) (f : Warp → Warp) : (s.modWarp i f).portMode = s.portMode := rfl
@[simp] theorem modWarp_answer (s : State) (i : Nat) (f : Warp → Warp) : (s.modWarp i f).answer = s.answer := rfl
@[simp] theorem modWarp_pwrlim (s : State) (i : Nat) (f : Warp → Warp) : (s.modWarp i f).pwrlim = s.pwrlim := rfl
@[simp] theorem modWarp_lostDies (s : State) (i : Nat) (f : Warp → Warp) : (s.modWarp i f).lostDies = s.lostDies := rfl
@[simp] theorem modWarp_unusable (s : State) (i : Nat) (f : Warp → Warp) : (s.modWarp i f).unusable = s.unusable := rfl
@[simp] theorem modWarp_interrupts (s : State) (i : Nat) (f : Warp → Warp) : (s.modWarp i f).interrupts = s.interrupts := rfl
@[simp] theorem modWarp_slots (s : State) (i : Nat) (f : Warp → Warp) : (s.modWarp i f).slots = s.slots := rfl
@[simp] theorem modWarp_lastQueue (s : State) (i : Nat) (f : Warp → Warp) : (s.modWarp i f).lastQueue = s.lastQueue := rfl
@[simp] theorem modWarp_timebase (s : State) (i : Nat) (f : Warp → Warp) : (s.modWarp i f).timebase = s.timebase := rfl
@[simp] theorem modWarp_ctxs (s : State) (i : Nat) (f : Warp → Warp) : (s.modWarp i f).ctxs = s.ctxs := rfl
@[simp] theorem modWarp_grids (s : State) (i : Nat) (f : Warp → Warp) : (s.modWarp i f).grids = s.grids := rfl
@[simp] theorem modWarp_teams (s : State) (i : Nat) (f : Warp → Warp) : (s.modWarp i f).teams = s.teams := rfl
@[simp] theorem modWarp_wgs (s : State) (i : Nat) (f : Warp → Warp) : (s.modWarp i f).wgs = s.wgs := rfl
@[simp] theorem modWarp_warps (s : State) (i : Nat) (f : Warp → Warp) : (s.modWarp i f).warps = Table.modify s.warps i f := rfl
@[simp] theorem modWarp_frags (s : State) (i : Nat) (f : Warp → Warp) : (s.modWarp i f).frags = s.frags := rfl
@[simp] theorem modWarp_cores (s : State) (i : Nat) (f : Warp → Warp) : (s.modWarp i f).cores = s.cores := rfl
@[simp] theorem modWarp_ops (s : State) (i : Nat) (f : Warp → Warp) : (s.modWarp i f).ops = s.ops := rfl
@[simp] theorem modWarp_fences (s : State) (i : Nat) (f : Warp → Warp) : (s.modWarp i f).fences = s.fences := rfl
@[simp] theorem modWarp_debts (s : State) (i : Nat) (f : Warp → Warp) : (s.modWarp i f).debts = s.debts := rfl
@[simp] theorem modWarp_early (s : State) (i : Nat) (f : Warp → Warp) : (s.modWarp i f).early = s.early := rfl
@[simp] theorem modWarp_packets (s : State) (i : Nat) (f : Warp → Warp) : (s.modWarp i f).packets = s.packets := rfl
@[simp] theorem modWarp_old (s : State) (i : Nat) (f : Warp → Warp) : (s.modWarp i f).old = s.old := rfl
@[simp] theorem modWarp_kept (s : State) (i : Nat) (f : Warp → Warp) : (s.modWarp i f).kept = s.kept := rfl
@[simp] theorem modWarp_cmds (s : State) (i : Nat) (f : Warp → Warp) : (s.modWarp i f).cmds = s.cmds := rfl
@[simp] theorem modWarp_bonds (s : State) (i : Nat) (f : Warp → Warp) : (s.modWarp i f).bonds = s.bonds := rfl
@[simp] theorem modWarp_issue (s : State) (i : Nat) (f : Warp → Warp) : (s.modWarp i f).issue = s.issue := rfl
@[simp] theorem modWarp_claims (s : State) (i : Nat) (f : Warp → Warp) : (s.modWarp i f).claims = s.claims := rfl
@[simp] theorem modWarp_serial (s : State) (i : Nat) (f : Warp → Warp) : (s.modWarp i f).serial = s.serial := rfl
@[simp] theorem modWarp_free (s : State) (i : Nat) (f : Warp → Warp) : (s.modWarp i f).free = s.free := rfl
@[simp] theorem modWarp_agenda (s : State) (i : Nat) (f : Warp → Warp) : (s.modWarp i f).agenda = s.agenda := rfl

@[simp] theorem setWg_tick (s : State) (i : Nat) (x : Wg) : (s.setWg i x).tick = s.tick := rfl
@[simp] theorem setWg_mem (s : State) (i : Nat) (x : Wg) : (s.setWg i x).mem = s.mem := rfl
@[simp] theorem setWg_queues (s : State) (i : Nat) (x : Wg) : (s.setWg i x).queues = s.queues := rfl
@[simp] theorem setWg_slices (s : State) (i : Nat) (x : Wg) : (s.setWg i x).slices = s.slices := rfl
@[simp] theorem setWg_ctxTable (s : State) (i : Nat) (x : Wg) : (s.setWg i x).ctxTable = s.ctxTable := rfl
@[simp] theorem setWg_cmdOp (s : State) (i : Nat) (x : Wg) : (s.setWg i x).cmdOp = s.cmdOp := rfl
@[simp] theorem setWg_cmdBusy (s : State) (i : Nat) (x : Wg) : (s.setWg i x).cmdBusy = s.cmdBusy := rfl
@[simp] theorem setWg_opnd (s : State) (i : Nat) (x : Wg) : (s.setWg i x).opnd = s.opnd := rfl
@[simp] theorem setWg_groups (s : State) (i : Nat) (x : Wg) : (s.setWg i x).groups = s.groups := rfl
@[simp] theorem setWg_routes (s : State) (i : Nat) (x : Wg) : (s.setWg i x).routes = s.routes := rfl
@[simp] theorem setWg_boot (s : State) (i : Nat) (x : Wg) : (s.setWg i x).boot = s.boot := rfl
@[simp] theorem setWg_rateHint (s : State) (i : Nat) (x : Wg) : (s.setWg i x).rateHint = s.rateHint := rfl
@[simp] theorem setWg_devnum (s : State) (i : Nat) (x : Wg) : (s.setWg i x).devnum = s.devnum := rfl
@[simp] theorem setWg_domain (s : State) (i : Nat) (x : Wg) : (s.setWg i x).domain = s.domain := rfl
@[simp] theorem setWg_portMode (s : State) (i : Nat) (x : Wg) : (s.setWg i x).portMode = s.portMode := rfl
@[simp] theorem setWg_answer (s : State) (i : Nat) (x : Wg) : (s.setWg i x).answer = s.answer := rfl
@[simp] theorem setWg_pwrlim (s : State) (i : Nat) (x : Wg) : (s.setWg i x).pwrlim = s.pwrlim := rfl
@[simp] theorem setWg_lostDies (s : State) (i : Nat) (x : Wg) : (s.setWg i x).lostDies = s.lostDies := rfl
@[simp] theorem setWg_unusable (s : State) (i : Nat) (x : Wg) : (s.setWg i x).unusable = s.unusable := rfl
@[simp] theorem setWg_interrupts (s : State) (i : Nat) (x : Wg) : (s.setWg i x).interrupts = s.interrupts := rfl
@[simp] theorem setWg_slots (s : State) (i : Nat) (x : Wg) : (s.setWg i x).slots = s.slots := rfl
@[simp] theorem setWg_lastQueue (s : State) (i : Nat) (x : Wg) : (s.setWg i x).lastQueue = s.lastQueue := rfl
@[simp] theorem setWg_timebase (s : State) (i : Nat) (x : Wg) : (s.setWg i x).timebase = s.timebase := rfl
@[simp] theorem setWg_ctxs (s : State) (i : Nat) (x : Wg) : (s.setWg i x).ctxs = s.ctxs := rfl
@[simp] theorem setWg_grids (s : State) (i : Nat) (x : Wg) : (s.setWg i x).grids = s.grids := rfl
@[simp] theorem setWg_teams (s : State) (i : Nat) (x : Wg) : (s.setWg i x).teams = s.teams := rfl
@[simp] theorem setWg_wgs (s : State) (i : Nat) (x : Wg) : (s.setWg i x).wgs = Table.set s.wgs i x := rfl
@[simp] theorem setWg_warps (s : State) (i : Nat) (x : Wg) : (s.setWg i x).warps = s.warps := rfl
@[simp] theorem setWg_frags (s : State) (i : Nat) (x : Wg) : (s.setWg i x).frags = s.frags := rfl
@[simp] theorem setWg_cores (s : State) (i : Nat) (x : Wg) : (s.setWg i x).cores = s.cores := rfl
@[simp] theorem setWg_ops (s : State) (i : Nat) (x : Wg) : (s.setWg i x).ops = s.ops := rfl
@[simp] theorem setWg_fences (s : State) (i : Nat) (x : Wg) : (s.setWg i x).fences = s.fences := rfl
@[simp] theorem setWg_debts (s : State) (i : Nat) (x : Wg) : (s.setWg i x).debts = s.debts := rfl
@[simp] theorem setWg_early (s : State) (i : Nat) (x : Wg) : (s.setWg i x).early = s.early := rfl
@[simp] theorem setWg_packets (s : State) (i : Nat) (x : Wg) : (s.setWg i x).packets = s.packets := rfl
@[simp] theorem setWg_old (s : State) (i : Nat) (x : Wg) : (s.setWg i x).old = s.old := rfl
@[simp] theorem setWg_kept (s : State) (i : Nat) (x : Wg) : (s.setWg i x).kept = s.kept := rfl
@[simp] theorem setWg_cmds (s : State) (i : Nat) (x : Wg) : (s.setWg i x).cmds = s.cmds := rfl
@[simp] theorem setWg_bonds (s : State) (i : Nat) (x : Wg) : (s.setWg i x).bonds = s.bonds := rfl
@[simp] theorem setWg_issue (s : State) (i : Nat) (x : Wg) : (s.setWg i x).issue = s.issue := rfl
@[simp] theorem setWg_claims (s : State) (i : Nat) (x : Wg) : (s.setWg i x).claims = s.claims := rfl
@[simp] theorem setWg_serial (s : State) (i : Nat) (x : Wg) : (s.setWg i x).serial = s.serial := rfl
@[simp] theorem setWg_free (s : State) (i : Nat) (x : Wg) : (s.setWg i x).free = s.free := rfl
@[simp] theorem setWg_agenda (s : State) (i : Nat) (x : Wg) : (s.setWg i x).agenda = s.agenda := rfl

@[simp] theorem modWg_tick (s : State) (i : Nat) (f : Wg → Wg) : (s.modWg i f).tick = s.tick := rfl
@[simp] theorem modWg_mem (s : State) (i : Nat) (f : Wg → Wg) : (s.modWg i f).mem = s.mem := rfl
@[simp] theorem modWg_queues (s : State) (i : Nat) (f : Wg → Wg) : (s.modWg i f).queues = s.queues := rfl
@[simp] theorem modWg_slices (s : State) (i : Nat) (f : Wg → Wg) : (s.modWg i f).slices = s.slices := rfl
@[simp] theorem modWg_ctxTable (s : State) (i : Nat) (f : Wg → Wg) : (s.modWg i f).ctxTable = s.ctxTable := rfl
@[simp] theorem modWg_cmdOp (s : State) (i : Nat) (f : Wg → Wg) : (s.modWg i f).cmdOp = s.cmdOp := rfl
@[simp] theorem modWg_cmdBusy (s : State) (i : Nat) (f : Wg → Wg) : (s.modWg i f).cmdBusy = s.cmdBusy := rfl
@[simp] theorem modWg_opnd (s : State) (i : Nat) (f : Wg → Wg) : (s.modWg i f).opnd = s.opnd := rfl
@[simp] theorem modWg_groups (s : State) (i : Nat) (f : Wg → Wg) : (s.modWg i f).groups = s.groups := rfl
@[simp] theorem modWg_routes (s : State) (i : Nat) (f : Wg → Wg) : (s.modWg i f).routes = s.routes := rfl
@[simp] theorem modWg_boot (s : State) (i : Nat) (f : Wg → Wg) : (s.modWg i f).boot = s.boot := rfl
@[simp] theorem modWg_rateHint (s : State) (i : Nat) (f : Wg → Wg) : (s.modWg i f).rateHint = s.rateHint := rfl
@[simp] theorem modWg_devnum (s : State) (i : Nat) (f : Wg → Wg) : (s.modWg i f).devnum = s.devnum := rfl
@[simp] theorem modWg_domain (s : State) (i : Nat) (f : Wg → Wg) : (s.modWg i f).domain = s.domain := rfl
@[simp] theorem modWg_portMode (s : State) (i : Nat) (f : Wg → Wg) : (s.modWg i f).portMode = s.portMode := rfl
@[simp] theorem modWg_answer (s : State) (i : Nat) (f : Wg → Wg) : (s.modWg i f).answer = s.answer := rfl
@[simp] theorem modWg_pwrlim (s : State) (i : Nat) (f : Wg → Wg) : (s.modWg i f).pwrlim = s.pwrlim := rfl
@[simp] theorem modWg_lostDies (s : State) (i : Nat) (f : Wg → Wg) : (s.modWg i f).lostDies = s.lostDies := rfl
@[simp] theorem modWg_unusable (s : State) (i : Nat) (f : Wg → Wg) : (s.modWg i f).unusable = s.unusable := rfl
@[simp] theorem modWg_interrupts (s : State) (i : Nat) (f : Wg → Wg) : (s.modWg i f).interrupts = s.interrupts := rfl
@[simp] theorem modWg_slots (s : State) (i : Nat) (f : Wg → Wg) : (s.modWg i f).slots = s.slots := rfl
@[simp] theorem modWg_lastQueue (s : State) (i : Nat) (f : Wg → Wg) : (s.modWg i f).lastQueue = s.lastQueue := rfl
@[simp] theorem modWg_timebase (s : State) (i : Nat) (f : Wg → Wg) : (s.modWg i f).timebase = s.timebase := rfl
@[simp] theorem modWg_ctxs (s : State) (i : Nat) (f : Wg → Wg) : (s.modWg i f).ctxs = s.ctxs := rfl
@[simp] theorem modWg_grids (s : State) (i : Nat) (f : Wg → Wg) : (s.modWg i f).grids = s.grids := rfl
@[simp] theorem modWg_teams (s : State) (i : Nat) (f : Wg → Wg) : (s.modWg i f).teams = s.teams := rfl
@[simp] theorem modWg_wgs (s : State) (i : Nat) (f : Wg → Wg) : (s.modWg i f).wgs = Table.modify s.wgs i f := rfl
@[simp] theorem modWg_warps (s : State) (i : Nat) (f : Wg → Wg) : (s.modWg i f).warps = s.warps := rfl
@[simp] theorem modWg_frags (s : State) (i : Nat) (f : Wg → Wg) : (s.modWg i f).frags = s.frags := rfl
@[simp] theorem modWg_cores (s : State) (i : Nat) (f : Wg → Wg) : (s.modWg i f).cores = s.cores := rfl
@[simp] theorem modWg_ops (s : State) (i : Nat) (f : Wg → Wg) : (s.modWg i f).ops = s.ops := rfl
@[simp] theorem modWg_fences (s : State) (i : Nat) (f : Wg → Wg) : (s.modWg i f).fences = s.fences := rfl
@[simp] theorem modWg_debts (s : State) (i : Nat) (f : Wg → Wg) : (s.modWg i f).debts = s.debts := rfl
@[simp] theorem modWg_early (s : State) (i : Nat) (f : Wg → Wg) : (s.modWg i f).early = s.early := rfl
@[simp] theorem modWg_packets (s : State) (i : Nat) (f : Wg → Wg) : (s.modWg i f).packets = s.packets := rfl
@[simp] theorem modWg_old (s : State) (i : Nat) (f : Wg → Wg) : (s.modWg i f).old = s.old := rfl
@[simp] theorem modWg_kept (s : State) (i : Nat) (f : Wg → Wg) : (s.modWg i f).kept = s.kept := rfl
@[simp] theorem modWg_cmds (s : State) (i : Nat) (f : Wg → Wg) : (s.modWg i f).cmds = s.cmds := rfl
@[simp] theorem modWg_bonds (s : State) (i : Nat) (f : Wg → Wg) : (s.modWg i f).bonds = s.bonds := rfl
@[simp] theorem modWg_issue (s : State) (i : Nat) (f : Wg → Wg) : (s.modWg i f).issue = s.issue := rfl
@[simp] theorem modWg_claims (s : State) (i : Nat) (f : Wg → Wg) : (s.modWg i f).claims = s.claims := rfl
@[simp] theorem modWg_serial (s : State) (i : Nat) (f : Wg → Wg) : (s.modWg i f).serial = s.serial := rfl
@[simp] theorem modWg_free (s : State) (i : Nat) (f : Wg → Wg) : (s.modWg i f).free = s.free := rfl
@[simp] theorem modWg_agenda (s : State) (i : Nat) (f : Wg → Wg) : (s.modWg i f).agenda = s.agenda := rfl

@[simp] theorem setTeam_tick (s : State) (i : Nat) (x : Team) : (s.setTeam i x).tick = s.tick := rfl
@[simp] theorem setTeam_mem (s : State) (i : Nat) (x : Team) : (s.setTeam i x).mem = s.mem := rfl
@[simp] theorem setTeam_queues (s : State) (i : Nat) (x : Team) : (s.setTeam i x).queues = s.queues := rfl
@[simp] theorem setTeam_slices (s : State) (i : Nat) (x : Team) : (s.setTeam i x).slices = s.slices := rfl
@[simp] theorem setTeam_ctxTable (s : State) (i : Nat) (x : Team) : (s.setTeam i x).ctxTable = s.ctxTable := rfl
@[simp] theorem setTeam_cmdOp (s : State) (i : Nat) (x : Team) : (s.setTeam i x).cmdOp = s.cmdOp := rfl
@[simp] theorem setTeam_cmdBusy (s : State) (i : Nat) (x : Team) : (s.setTeam i x).cmdBusy = s.cmdBusy := rfl
@[simp] theorem setTeam_opnd (s : State) (i : Nat) (x : Team) : (s.setTeam i x).opnd = s.opnd := rfl
@[simp] theorem setTeam_groups (s : State) (i : Nat) (x : Team) : (s.setTeam i x).groups = s.groups := rfl
@[simp] theorem setTeam_routes (s : State) (i : Nat) (x : Team) : (s.setTeam i x).routes = s.routes := rfl
@[simp] theorem setTeam_boot (s : State) (i : Nat) (x : Team) : (s.setTeam i x).boot = s.boot := rfl
@[simp] theorem setTeam_rateHint (s : State) (i : Nat) (x : Team) : (s.setTeam i x).rateHint = s.rateHint := rfl
@[simp] theorem setTeam_devnum (s : State) (i : Nat) (x : Team) : (s.setTeam i x).devnum = s.devnum := rfl
@[simp] theorem setTeam_domain (s : State) (i : Nat) (x : Team) : (s.setTeam i x).domain = s.domain := rfl
@[simp] theorem setTeam_portMode (s : State) (i : Nat) (x : Team) : (s.setTeam i x).portMode = s.portMode := rfl
@[simp] theorem setTeam_answer (s : State) (i : Nat) (x : Team) : (s.setTeam i x).answer = s.answer := rfl
@[simp] theorem setTeam_pwrlim (s : State) (i : Nat) (x : Team) : (s.setTeam i x).pwrlim = s.pwrlim := rfl
@[simp] theorem setTeam_lostDies (s : State) (i : Nat) (x : Team) : (s.setTeam i x).lostDies = s.lostDies := rfl
@[simp] theorem setTeam_unusable (s : State) (i : Nat) (x : Team) : (s.setTeam i x).unusable = s.unusable := rfl
@[simp] theorem setTeam_interrupts (s : State) (i : Nat) (x : Team) : (s.setTeam i x).interrupts = s.interrupts := rfl
@[simp] theorem setTeam_slots (s : State) (i : Nat) (x : Team) : (s.setTeam i x).slots = s.slots := rfl
@[simp] theorem setTeam_lastQueue (s : State) (i : Nat) (x : Team) : (s.setTeam i x).lastQueue = s.lastQueue := rfl
@[simp] theorem setTeam_timebase (s : State) (i : Nat) (x : Team) : (s.setTeam i x).timebase = s.timebase := rfl
@[simp] theorem setTeam_ctxs (s : State) (i : Nat) (x : Team) : (s.setTeam i x).ctxs = s.ctxs := rfl
@[simp] theorem setTeam_grids (s : State) (i : Nat) (x : Team) : (s.setTeam i x).grids = s.grids := rfl
@[simp] theorem setTeam_teams (s : State) (i : Nat) (x : Team) : (s.setTeam i x).teams = Table.set s.teams i x := rfl
@[simp] theorem setTeam_wgs (s : State) (i : Nat) (x : Team) : (s.setTeam i x).wgs = s.wgs := rfl
@[simp] theorem setTeam_warps (s : State) (i : Nat) (x : Team) : (s.setTeam i x).warps = s.warps := rfl
@[simp] theorem setTeam_frags (s : State) (i : Nat) (x : Team) : (s.setTeam i x).frags = s.frags := rfl
@[simp] theorem setTeam_cores (s : State) (i : Nat) (x : Team) : (s.setTeam i x).cores = s.cores := rfl
@[simp] theorem setTeam_ops (s : State) (i : Nat) (x : Team) : (s.setTeam i x).ops = s.ops := rfl
@[simp] theorem setTeam_fences (s : State) (i : Nat) (x : Team) : (s.setTeam i x).fences = s.fences := rfl
@[simp] theorem setTeam_debts (s : State) (i : Nat) (x : Team) : (s.setTeam i x).debts = s.debts := rfl
@[simp] theorem setTeam_early (s : State) (i : Nat) (x : Team) : (s.setTeam i x).early = s.early := rfl
@[simp] theorem setTeam_packets (s : State) (i : Nat) (x : Team) : (s.setTeam i x).packets = s.packets := rfl
@[simp] theorem setTeam_old (s : State) (i : Nat) (x : Team) : (s.setTeam i x).old = s.old := rfl
@[simp] theorem setTeam_kept (s : State) (i : Nat) (x : Team) : (s.setTeam i x).kept = s.kept := rfl
@[simp] theorem setTeam_cmds (s : State) (i : Nat) (x : Team) : (s.setTeam i x).cmds = s.cmds := rfl
@[simp] theorem setTeam_bonds (s : State) (i : Nat) (x : Team) : (s.setTeam i x).bonds = s.bonds := rfl
@[simp] theorem setTeam_issue (s : State) (i : Nat) (x : Team) : (s.setTeam i x).issue = s.issue := rfl
@[simp] theorem setTeam_claims (s : State) (i : Nat) (x : Team) : (s.setTeam i x).claims = s.claims := rfl
@[simp] theorem setTeam_serial (s : State) (i : Nat) (x : Team) : (s.setTeam i x).serial = s.serial := rfl
@[simp] theorem setTeam_free (s : State) (i : Nat) (x : Team) : (s.setTeam i x).free = s.free := rfl
@[simp] theorem setTeam_agenda (s : State) (i : Nat) (x : Team) : (s.setTeam i x).agenda = s.agenda := rfl

@[simp] theorem modTeam_tick (s : State) (i : Nat) (f : Team → Team) : (s.modTeam i f).tick = s.tick := rfl
@[simp] theorem modTeam_mem (s : State) (i : Nat) (f : Team → Team) : (s.modTeam i f).mem = s.mem := rfl
@[simp] theorem modTeam_queues (s : State) (i : Nat) (f : Team → Team) : (s.modTeam i f).queues = s.queues := rfl
@[simp] theorem modTeam_slices (s : State) (i : Nat) (f : Team → Team) : (s.modTeam i f).slices = s.slices := rfl
@[simp] theorem modTeam_ctxTable (s : State) (i : Nat) (f : Team → Team) : (s.modTeam i f).ctxTable = s.ctxTable := rfl
@[simp] theorem modTeam_cmdOp (s : State) (i : Nat) (f : Team → Team) : (s.modTeam i f).cmdOp = s.cmdOp := rfl
@[simp] theorem modTeam_cmdBusy (s : State) (i : Nat) (f : Team → Team) : (s.modTeam i f).cmdBusy = s.cmdBusy := rfl
@[simp] theorem modTeam_opnd (s : State) (i : Nat) (f : Team → Team) : (s.modTeam i f).opnd = s.opnd := rfl
@[simp] theorem modTeam_groups (s : State) (i : Nat) (f : Team → Team) : (s.modTeam i f).groups = s.groups := rfl
@[simp] theorem modTeam_routes (s : State) (i : Nat) (f : Team → Team) : (s.modTeam i f).routes = s.routes := rfl
@[simp] theorem modTeam_boot (s : State) (i : Nat) (f : Team → Team) : (s.modTeam i f).boot = s.boot := rfl
@[simp] theorem modTeam_rateHint (s : State) (i : Nat) (f : Team → Team) : (s.modTeam i f).rateHint = s.rateHint := rfl
@[simp] theorem modTeam_devnum (s : State) (i : Nat) (f : Team → Team) : (s.modTeam i f).devnum = s.devnum := rfl
@[simp] theorem modTeam_domain (s : State) (i : Nat) (f : Team → Team) : (s.modTeam i f).domain = s.domain := rfl
@[simp] theorem modTeam_portMode (s : State) (i : Nat) (f : Team → Team) : (s.modTeam i f).portMode = s.portMode := rfl
@[simp] theorem modTeam_answer (s : State) (i : Nat) (f : Team → Team) : (s.modTeam i f).answer = s.answer := rfl
@[simp] theorem modTeam_pwrlim (s : State) (i : Nat) (f : Team → Team) : (s.modTeam i f).pwrlim = s.pwrlim := rfl
@[simp] theorem modTeam_lostDies (s : State) (i : Nat) (f : Team → Team) : (s.modTeam i f).lostDies = s.lostDies := rfl
@[simp] theorem modTeam_unusable (s : State) (i : Nat) (f : Team → Team) : (s.modTeam i f).unusable = s.unusable := rfl
@[simp] theorem modTeam_interrupts (s : State) (i : Nat) (f : Team → Team) : (s.modTeam i f).interrupts = s.interrupts := rfl
@[simp] theorem modTeam_slots (s : State) (i : Nat) (f : Team → Team) : (s.modTeam i f).slots = s.slots := rfl
@[simp] theorem modTeam_lastQueue (s : State) (i : Nat) (f : Team → Team) : (s.modTeam i f).lastQueue = s.lastQueue := rfl
@[simp] theorem modTeam_timebase (s : State) (i : Nat) (f : Team → Team) : (s.modTeam i f).timebase = s.timebase := rfl
@[simp] theorem modTeam_ctxs (s : State) (i : Nat) (f : Team → Team) : (s.modTeam i f).ctxs = s.ctxs := rfl
@[simp] theorem modTeam_grids (s : State) (i : Nat) (f : Team → Team) : (s.modTeam i f).grids = s.grids := rfl
@[simp] theorem modTeam_teams (s : State) (i : Nat) (f : Team → Team) : (s.modTeam i f).teams = Table.modify s.teams i f := rfl
@[simp] theorem modTeam_wgs (s : State) (i : Nat) (f : Team → Team) : (s.modTeam i f).wgs = s.wgs := rfl
@[simp] theorem modTeam_warps (s : State) (i : Nat) (f : Team → Team) : (s.modTeam i f).warps = s.warps := rfl
@[simp] theorem modTeam_frags (s : State) (i : Nat) (f : Team → Team) : (s.modTeam i f).frags = s.frags := rfl
@[simp] theorem modTeam_cores (s : State) (i : Nat) (f : Team → Team) : (s.modTeam i f).cores = s.cores := rfl
@[simp] theorem modTeam_ops (s : State) (i : Nat) (f : Team → Team) : (s.modTeam i f).ops = s.ops := rfl
@[simp] theorem modTeam_fences (s : State) (i : Nat) (f : Team → Team) : (s.modTeam i f).fences = s.fences := rfl
@[simp] theorem modTeam_debts (s : State) (i : Nat) (f : Team → Team) : (s.modTeam i f).debts = s.debts := rfl
@[simp] theorem modTeam_early (s : State) (i : Nat) (f : Team → Team) : (s.modTeam i f).early = s.early := rfl
@[simp] theorem modTeam_packets (s : State) (i : Nat) (f : Team → Team) : (s.modTeam i f).packets = s.packets := rfl
@[simp] theorem modTeam_old (s : State) (i : Nat) (f : Team → Team) : (s.modTeam i f).old = s.old := rfl
@[simp] theorem modTeam_kept (s : State) (i : Nat) (f : Team → Team) : (s.modTeam i f).kept = s.kept := rfl
@[simp] theorem modTeam_cmds (s : State) (i : Nat) (f : Team → Team) : (s.modTeam i f).cmds = s.cmds := rfl
@[simp] theorem modTeam_bonds (s : State) (i : Nat) (f : Team → Team) : (s.modTeam i f).bonds = s.bonds := rfl
@[simp] theorem modTeam_issue (s : State) (i : Nat) (f : Team → Team) : (s.modTeam i f).issue = s.issue := rfl
@[simp] theorem modTeam_claims (s : State) (i : Nat) (f : Team → Team) : (s.modTeam i f).claims = s.claims := rfl
@[simp] theorem modTeam_serial (s : State) (i : Nat) (f : Team → Team) : (s.modTeam i f).serial = s.serial := rfl
@[simp] theorem modTeam_free (s : State) (i : Nat) (f : Team → Team) : (s.modTeam i f).free = s.free := rfl
@[simp] theorem modTeam_agenda (s : State) (i : Nat) (f : Team → Team) : (s.modTeam i f).agenda = s.agenda := rfl

@[simp] theorem setGrid_tick (s : State) (i : Nat) (x : Grid) : (s.setGrid i x).tick = s.tick := rfl
@[simp] theorem setGrid_mem (s : State) (i : Nat) (x : Grid) : (s.setGrid i x).mem = s.mem := rfl
@[simp] theorem setGrid_queues (s : State) (i : Nat) (x : Grid) : (s.setGrid i x).queues = s.queues := rfl
@[simp] theorem setGrid_slices (s : State) (i : Nat) (x : Grid) : (s.setGrid i x).slices = s.slices := rfl
@[simp] theorem setGrid_ctxTable (s : State) (i : Nat) (x : Grid) : (s.setGrid i x).ctxTable = s.ctxTable := rfl
@[simp] theorem setGrid_cmdOp (s : State) (i : Nat) (x : Grid) : (s.setGrid i x).cmdOp = s.cmdOp := rfl
@[simp] theorem setGrid_cmdBusy (s : State) (i : Nat) (x : Grid) : (s.setGrid i x).cmdBusy = s.cmdBusy := rfl
@[simp] theorem setGrid_opnd (s : State) (i : Nat) (x : Grid) : (s.setGrid i x).opnd = s.opnd := rfl
@[simp] theorem setGrid_groups (s : State) (i : Nat) (x : Grid) : (s.setGrid i x).groups = s.groups := rfl
@[simp] theorem setGrid_routes (s : State) (i : Nat) (x : Grid) : (s.setGrid i x).routes = s.routes := rfl
@[simp] theorem setGrid_boot (s : State) (i : Nat) (x : Grid) : (s.setGrid i x).boot = s.boot := rfl
@[simp] theorem setGrid_rateHint (s : State) (i : Nat) (x : Grid) : (s.setGrid i x).rateHint = s.rateHint := rfl
@[simp] theorem setGrid_devnum (s : State) (i : Nat) (x : Grid) : (s.setGrid i x).devnum = s.devnum := rfl
@[simp] theorem setGrid_domain (s : State) (i : Nat) (x : Grid) : (s.setGrid i x).domain = s.domain := rfl
@[simp] theorem setGrid_portMode (s : State) (i : Nat) (x : Grid) : (s.setGrid i x).portMode = s.portMode := rfl
@[simp] theorem setGrid_answer (s : State) (i : Nat) (x : Grid) : (s.setGrid i x).answer = s.answer := rfl
@[simp] theorem setGrid_pwrlim (s : State) (i : Nat) (x : Grid) : (s.setGrid i x).pwrlim = s.pwrlim := rfl
@[simp] theorem setGrid_lostDies (s : State) (i : Nat) (x : Grid) : (s.setGrid i x).lostDies = s.lostDies := rfl
@[simp] theorem setGrid_unusable (s : State) (i : Nat) (x : Grid) : (s.setGrid i x).unusable = s.unusable := rfl
@[simp] theorem setGrid_interrupts (s : State) (i : Nat) (x : Grid) : (s.setGrid i x).interrupts = s.interrupts := rfl
@[simp] theorem setGrid_slots (s : State) (i : Nat) (x : Grid) : (s.setGrid i x).slots = s.slots := rfl
@[simp] theorem setGrid_lastQueue (s : State) (i : Nat) (x : Grid) : (s.setGrid i x).lastQueue = s.lastQueue := rfl
@[simp] theorem setGrid_timebase (s : State) (i : Nat) (x : Grid) : (s.setGrid i x).timebase = s.timebase := rfl
@[simp] theorem setGrid_ctxs (s : State) (i : Nat) (x : Grid) : (s.setGrid i x).ctxs = s.ctxs := rfl
@[simp] theorem setGrid_grids (s : State) (i : Nat) (x : Grid) : (s.setGrid i x).grids = Table.set s.grids i x := rfl
@[simp] theorem setGrid_teams (s : State) (i : Nat) (x : Grid) : (s.setGrid i x).teams = s.teams := rfl
@[simp] theorem setGrid_wgs (s : State) (i : Nat) (x : Grid) : (s.setGrid i x).wgs = s.wgs := rfl
@[simp] theorem setGrid_warps (s : State) (i : Nat) (x : Grid) : (s.setGrid i x).warps = s.warps := rfl
@[simp] theorem setGrid_frags (s : State) (i : Nat) (x : Grid) : (s.setGrid i x).frags = s.frags := rfl
@[simp] theorem setGrid_cores (s : State) (i : Nat) (x : Grid) : (s.setGrid i x).cores = s.cores := rfl
@[simp] theorem setGrid_ops (s : State) (i : Nat) (x : Grid) : (s.setGrid i x).ops = s.ops := rfl
@[simp] theorem setGrid_fences (s : State) (i : Nat) (x : Grid) : (s.setGrid i x).fences = s.fences := rfl
@[simp] theorem setGrid_debts (s : State) (i : Nat) (x : Grid) : (s.setGrid i x).debts = s.debts := rfl
@[simp] theorem setGrid_early (s : State) (i : Nat) (x : Grid) : (s.setGrid i x).early = s.early := rfl
@[simp] theorem setGrid_packets (s : State) (i : Nat) (x : Grid) : (s.setGrid i x).packets = s.packets := rfl
@[simp] theorem setGrid_old (s : State) (i : Nat) (x : Grid) : (s.setGrid i x).old = s.old := rfl
@[simp] theorem setGrid_kept (s : State) (i : Nat) (x : Grid) : (s.setGrid i x).kept = s.kept := rfl
@[simp] theorem setGrid_cmds (s : State) (i : Nat) (x : Grid) : (s.setGrid i x).cmds = s.cmds := rfl
@[simp] theorem setGrid_bonds (s : State) (i : Nat) (x : Grid) : (s.setGrid i x).bonds = s.bonds := rfl
@[simp] theorem setGrid_issue (s : State) (i : Nat) (x : Grid) : (s.setGrid i x).issue = s.issue := rfl
@[simp] theorem setGrid_claims (s : State) (i : Nat) (x : Grid) : (s.setGrid i x).claims = s.claims := rfl
@[simp] theorem setGrid_serial (s : State) (i : Nat) (x : Grid) : (s.setGrid i x).serial = s.serial := rfl
@[simp] theorem setGrid_free (s : State) (i : Nat) (x : Grid) : (s.setGrid i x).free = s.free := rfl
@[simp] theorem setGrid_agenda (s : State) (i : Nat) (x : Grid) : (s.setGrid i x).agenda = s.agenda := rfl

@[simp] theorem modGrid_tick (s : State) (i : Nat) (f : Grid → Grid) : (s.modGrid i f).tick = s.tick := rfl
@[simp] theorem modGrid_mem (s : State) (i : Nat) (f : Grid → Grid) : (s.modGrid i f).mem = s.mem := rfl
@[simp] theorem modGrid_queues (s : State) (i : Nat) (f : Grid → Grid) : (s.modGrid i f).queues = s.queues := rfl
@[simp] theorem modGrid_slices (s : State) (i : Nat) (f : Grid → Grid) : (s.modGrid i f).slices = s.slices := rfl
@[simp] theorem modGrid_ctxTable (s : State) (i : Nat) (f : Grid → Grid) : (s.modGrid i f).ctxTable = s.ctxTable := rfl
@[simp] theorem modGrid_cmdOp (s : State) (i : Nat) (f : Grid → Grid) : (s.modGrid i f).cmdOp = s.cmdOp := rfl
@[simp] theorem modGrid_cmdBusy (s : State) (i : Nat) (f : Grid → Grid) : (s.modGrid i f).cmdBusy = s.cmdBusy := rfl
@[simp] theorem modGrid_opnd (s : State) (i : Nat) (f : Grid → Grid) : (s.modGrid i f).opnd = s.opnd := rfl
@[simp] theorem modGrid_groups (s : State) (i : Nat) (f : Grid → Grid) : (s.modGrid i f).groups = s.groups := rfl
@[simp] theorem modGrid_routes (s : State) (i : Nat) (f : Grid → Grid) : (s.modGrid i f).routes = s.routes := rfl
@[simp] theorem modGrid_boot (s : State) (i : Nat) (f : Grid → Grid) : (s.modGrid i f).boot = s.boot := rfl
@[simp] theorem modGrid_rateHint (s : State) (i : Nat) (f : Grid → Grid) : (s.modGrid i f).rateHint = s.rateHint := rfl
@[simp] theorem modGrid_devnum (s : State) (i : Nat) (f : Grid → Grid) : (s.modGrid i f).devnum = s.devnum := rfl
@[simp] theorem modGrid_domain (s : State) (i : Nat) (f : Grid → Grid) : (s.modGrid i f).domain = s.domain := rfl
@[simp] theorem modGrid_portMode (s : State) (i : Nat) (f : Grid → Grid) : (s.modGrid i f).portMode = s.portMode := rfl
@[simp] theorem modGrid_answer (s : State) (i : Nat) (f : Grid → Grid) : (s.modGrid i f).answer = s.answer := rfl
@[simp] theorem modGrid_pwrlim (s : State) (i : Nat) (f : Grid → Grid) : (s.modGrid i f).pwrlim = s.pwrlim := rfl
@[simp] theorem modGrid_lostDies (s : State) (i : Nat) (f : Grid → Grid) : (s.modGrid i f).lostDies = s.lostDies := rfl
@[simp] theorem modGrid_unusable (s : State) (i : Nat) (f : Grid → Grid) : (s.modGrid i f).unusable = s.unusable := rfl
@[simp] theorem modGrid_interrupts (s : State) (i : Nat) (f : Grid → Grid) : (s.modGrid i f).interrupts = s.interrupts := rfl
@[simp] theorem modGrid_slots (s : State) (i : Nat) (f : Grid → Grid) : (s.modGrid i f).slots = s.slots := rfl
@[simp] theorem modGrid_lastQueue (s : State) (i : Nat) (f : Grid → Grid) : (s.modGrid i f).lastQueue = s.lastQueue := rfl
@[simp] theorem modGrid_timebase (s : State) (i : Nat) (f : Grid → Grid) : (s.modGrid i f).timebase = s.timebase := rfl
@[simp] theorem modGrid_ctxs (s : State) (i : Nat) (f : Grid → Grid) : (s.modGrid i f).ctxs = s.ctxs := rfl
@[simp] theorem modGrid_grids (s : State) (i : Nat) (f : Grid → Grid) : (s.modGrid i f).grids = Table.modify s.grids i f := rfl
@[simp] theorem modGrid_teams (s : State) (i : Nat) (f : Grid → Grid) : (s.modGrid i f).teams = s.teams := rfl
@[simp] theorem modGrid_wgs (s : State) (i : Nat) (f : Grid → Grid) : (s.modGrid i f).wgs = s.wgs := rfl
@[simp] theorem modGrid_warps (s : State) (i : Nat) (f : Grid → Grid) : (s.modGrid i f).warps = s.warps := rfl
@[simp] theorem modGrid_frags (s : State) (i : Nat) (f : Grid → Grid) : (s.modGrid i f).frags = s.frags := rfl
@[simp] theorem modGrid_cores (s : State) (i : Nat) (f : Grid → Grid) : (s.modGrid i f).cores = s.cores := rfl
@[simp] theorem modGrid_ops (s : State) (i : Nat) (f : Grid → Grid) : (s.modGrid i f).ops = s.ops := rfl
@[simp] theorem modGrid_fences (s : State) (i : Nat) (f : Grid → Grid) : (s.modGrid i f).fences = s.fences := rfl
@[simp] theorem modGrid_debts (s : State) (i : Nat) (f : Grid → Grid) : (s.modGrid i f).debts = s.debts := rfl
@[simp] theorem modGrid_early (s : State) (i : Nat) (f : Grid → Grid) : (s.modGrid i f).early = s.early := rfl
@[simp] theorem modGrid_packets (s : State) (i : Nat) (f : Grid → Grid) : (s.modGrid i f).packets = s.packets := rfl
@[simp] theorem modGrid_old (s : State) (i : Nat) (f : Grid → Grid) : (s.modGrid i f).old = s.old := rfl
@[simp] theorem modGrid_kept (s : State) (i : Nat) (f : Grid → Grid) : (s.modGrid i f).kept = s.kept := rfl
@[simp] theorem modGrid_cmds (s : State) (i : Nat) (f : Grid → Grid) : (s.modGrid i f).cmds = s.cmds := rfl
@[simp] theorem modGrid_bonds (s : State) (i : Nat) (f : Grid → Grid) : (s.modGrid i f).bonds = s.bonds := rfl
@[simp] theorem modGrid_issue (s : State) (i : Nat) (f : Grid → Grid) : (s.modGrid i f).issue = s.issue := rfl
@[simp] theorem modGrid_claims (s : State) (i : Nat) (f : Grid → Grid) : (s.modGrid i f).claims = s.claims := rfl
@[simp] theorem modGrid_serial (s : State) (i : Nat) (f : Grid → Grid) : (s.modGrid i f).serial = s.serial := rfl
@[simp] theorem modGrid_free (s : State) (i : Nat) (f : Grid → Grid) : (s.modGrid i f).free = s.free := rfl
@[simp] theorem modGrid_agenda (s : State) (i : Nat) (f : Grid → Grid) : (s.modGrid i f).agenda = s.agenda := rfl

@[simp] theorem setCore_tick (s : State) (i : Nat) (x : Core) : (s.setCore i x).tick = s.tick := rfl
@[simp] theorem setCore_mem (s : State) (i : Nat) (x : Core) : (s.setCore i x).mem = s.mem := rfl
@[simp] theorem setCore_queues (s : State) (i : Nat) (x : Core) : (s.setCore i x).queues = s.queues := rfl
@[simp] theorem setCore_slices (s : State) (i : Nat) (x : Core) : (s.setCore i x).slices = s.slices := rfl
@[simp] theorem setCore_ctxTable (s : State) (i : Nat) (x : Core) : (s.setCore i x).ctxTable = s.ctxTable := rfl
@[simp] theorem setCore_cmdOp (s : State) (i : Nat) (x : Core) : (s.setCore i x).cmdOp = s.cmdOp := rfl
@[simp] theorem setCore_cmdBusy (s : State) (i : Nat) (x : Core) : (s.setCore i x).cmdBusy = s.cmdBusy := rfl
@[simp] theorem setCore_opnd (s : State) (i : Nat) (x : Core) : (s.setCore i x).opnd = s.opnd := rfl
@[simp] theorem setCore_groups (s : State) (i : Nat) (x : Core) : (s.setCore i x).groups = s.groups := rfl
@[simp] theorem setCore_routes (s : State) (i : Nat) (x : Core) : (s.setCore i x).routes = s.routes := rfl
@[simp] theorem setCore_boot (s : State) (i : Nat) (x : Core) : (s.setCore i x).boot = s.boot := rfl
@[simp] theorem setCore_rateHint (s : State) (i : Nat) (x : Core) : (s.setCore i x).rateHint = s.rateHint := rfl
@[simp] theorem setCore_devnum (s : State) (i : Nat) (x : Core) : (s.setCore i x).devnum = s.devnum := rfl
@[simp] theorem setCore_domain (s : State) (i : Nat) (x : Core) : (s.setCore i x).domain = s.domain := rfl
@[simp] theorem setCore_portMode (s : State) (i : Nat) (x : Core) : (s.setCore i x).portMode = s.portMode := rfl
@[simp] theorem setCore_answer (s : State) (i : Nat) (x : Core) : (s.setCore i x).answer = s.answer := rfl
@[simp] theorem setCore_pwrlim (s : State) (i : Nat) (x : Core) : (s.setCore i x).pwrlim = s.pwrlim := rfl
@[simp] theorem setCore_lostDies (s : State) (i : Nat) (x : Core) : (s.setCore i x).lostDies = s.lostDies := rfl
@[simp] theorem setCore_unusable (s : State) (i : Nat) (x : Core) : (s.setCore i x).unusable = s.unusable := rfl
@[simp] theorem setCore_interrupts (s : State) (i : Nat) (x : Core) : (s.setCore i x).interrupts = s.interrupts := rfl
@[simp] theorem setCore_slots (s : State) (i : Nat) (x : Core) : (s.setCore i x).slots = s.slots := rfl
@[simp] theorem setCore_lastQueue (s : State) (i : Nat) (x : Core) : (s.setCore i x).lastQueue = s.lastQueue := rfl
@[simp] theorem setCore_timebase (s : State) (i : Nat) (x : Core) : (s.setCore i x).timebase = s.timebase := rfl
@[simp] theorem setCore_ctxs (s : State) (i : Nat) (x : Core) : (s.setCore i x).ctxs = s.ctxs := rfl
@[simp] theorem setCore_grids (s : State) (i : Nat) (x : Core) : (s.setCore i x).grids = s.grids := rfl
@[simp] theorem setCore_teams (s : State) (i : Nat) (x : Core) : (s.setCore i x).teams = s.teams := rfl
@[simp] theorem setCore_wgs (s : State) (i : Nat) (x : Core) : (s.setCore i x).wgs = s.wgs := rfl
@[simp] theorem setCore_warps (s : State) (i : Nat) (x : Core) : (s.setCore i x).warps = s.warps := rfl
@[simp] theorem setCore_frags (s : State) (i : Nat) (x : Core) : (s.setCore i x).frags = s.frags := rfl
@[simp] theorem setCore_cores (s : State) (i : Nat) (x : Core) : (s.setCore i x).cores = Table.put {} s.cores i x := rfl
@[simp] theorem setCore_ops (s : State) (i : Nat) (x : Core) : (s.setCore i x).ops = s.ops := rfl
@[simp] theorem setCore_fences (s : State) (i : Nat) (x : Core) : (s.setCore i x).fences = s.fences := rfl
@[simp] theorem setCore_debts (s : State) (i : Nat) (x : Core) : (s.setCore i x).debts = s.debts := rfl
@[simp] theorem setCore_early (s : State) (i : Nat) (x : Core) : (s.setCore i x).early = s.early := rfl
@[simp] theorem setCore_packets (s : State) (i : Nat) (x : Core) : (s.setCore i x).packets = s.packets := rfl
@[simp] theorem setCore_old (s : State) (i : Nat) (x : Core) : (s.setCore i x).old = s.old := rfl
@[simp] theorem setCore_kept (s : State) (i : Nat) (x : Core) : (s.setCore i x).kept = s.kept := rfl
@[simp] theorem setCore_cmds (s : State) (i : Nat) (x : Core) : (s.setCore i x).cmds = s.cmds := rfl
@[simp] theorem setCore_bonds (s : State) (i : Nat) (x : Core) : (s.setCore i x).bonds = s.bonds := rfl
@[simp] theorem setCore_issue (s : State) (i : Nat) (x : Core) : (s.setCore i x).issue = s.issue := rfl
@[simp] theorem setCore_claims (s : State) (i : Nat) (x : Core) : (s.setCore i x).claims = s.claims := rfl
@[simp] theorem setCore_serial (s : State) (i : Nat) (x : Core) : (s.setCore i x).serial = s.serial := rfl
@[simp] theorem setCore_free (s : State) (i : Nat) (x : Core) : (s.setCore i x).free = s.free := rfl
@[simp] theorem setCore_agenda (s : State) (i : Nat) (x : Core) : (s.setCore i x).agenda = s.agenda := rfl

@[simp] theorem modCore_tick (s : State) (i : Nat) (f : Core → Core) : (s.modCore i f).tick = s.tick := rfl
@[simp] theorem modCore_mem (s : State) (i : Nat) (f : Core → Core) : (s.modCore i f).mem = s.mem := rfl
@[simp] theorem modCore_queues (s : State) (i : Nat) (f : Core → Core) : (s.modCore i f).queues = s.queues := rfl
@[simp] theorem modCore_slices (s : State) (i : Nat) (f : Core → Core) : (s.modCore i f).slices = s.slices := rfl
@[simp] theorem modCore_ctxTable (s : State) (i : Nat) (f : Core → Core) : (s.modCore i f).ctxTable = s.ctxTable := rfl
@[simp] theorem modCore_cmdOp (s : State) (i : Nat) (f : Core → Core) : (s.modCore i f).cmdOp = s.cmdOp := rfl
@[simp] theorem modCore_cmdBusy (s : State) (i : Nat) (f : Core → Core) : (s.modCore i f).cmdBusy = s.cmdBusy := rfl
@[simp] theorem modCore_opnd (s : State) (i : Nat) (f : Core → Core) : (s.modCore i f).opnd = s.opnd := rfl
@[simp] theorem modCore_groups (s : State) (i : Nat) (f : Core → Core) : (s.modCore i f).groups = s.groups := rfl
@[simp] theorem modCore_routes (s : State) (i : Nat) (f : Core → Core) : (s.modCore i f).routes = s.routes := rfl
@[simp] theorem modCore_boot (s : State) (i : Nat) (f : Core → Core) : (s.modCore i f).boot = s.boot := rfl
@[simp] theorem modCore_rateHint (s : State) (i : Nat) (f : Core → Core) : (s.modCore i f).rateHint = s.rateHint := rfl
@[simp] theorem modCore_devnum (s : State) (i : Nat) (f : Core → Core) : (s.modCore i f).devnum = s.devnum := rfl
@[simp] theorem modCore_domain (s : State) (i : Nat) (f : Core → Core) : (s.modCore i f).domain = s.domain := rfl
@[simp] theorem modCore_portMode (s : State) (i : Nat) (f : Core → Core) : (s.modCore i f).portMode = s.portMode := rfl
@[simp] theorem modCore_answer (s : State) (i : Nat) (f : Core → Core) : (s.modCore i f).answer = s.answer := rfl
@[simp] theorem modCore_pwrlim (s : State) (i : Nat) (f : Core → Core) : (s.modCore i f).pwrlim = s.pwrlim := rfl
@[simp] theorem modCore_lostDies (s : State) (i : Nat) (f : Core → Core) : (s.modCore i f).lostDies = s.lostDies := rfl
@[simp] theorem modCore_unusable (s : State) (i : Nat) (f : Core → Core) : (s.modCore i f).unusable = s.unusable := rfl
@[simp] theorem modCore_interrupts (s : State) (i : Nat) (f : Core → Core) : (s.modCore i f).interrupts = s.interrupts := rfl
@[simp] theorem modCore_slots (s : State) (i : Nat) (f : Core → Core) : (s.modCore i f).slots = s.slots := rfl
@[simp] theorem modCore_lastQueue (s : State) (i : Nat) (f : Core → Core) : (s.modCore i f).lastQueue = s.lastQueue := rfl
@[simp] theorem modCore_timebase (s : State) (i : Nat) (f : Core → Core) : (s.modCore i f).timebase = s.timebase := rfl
@[simp] theorem modCore_ctxs (s : State) (i : Nat) (f : Core → Core) : (s.modCore i f).ctxs = s.ctxs := rfl
@[simp] theorem modCore_grids (s : State) (i : Nat) (f : Core → Core) : (s.modCore i f).grids = s.grids := rfl
@[simp] theorem modCore_teams (s : State) (i : Nat) (f : Core → Core) : (s.modCore i f).teams = s.teams := rfl
@[simp] theorem modCore_wgs (s : State) (i : Nat) (f : Core → Core) : (s.modCore i f).wgs = s.wgs := rfl
@[simp] theorem modCore_warps (s : State) (i : Nat) (f : Core → Core) : (s.modCore i f).warps = s.warps := rfl
@[simp] theorem modCore_frags (s : State) (i : Nat) (f : Core → Core) : (s.modCore i f).frags = s.frags := rfl
@[simp] theorem modCore_cores (s : State) (i : Nat) (f : Core → Core) : (s.modCore i f).cores = Table.put {} s.cores i (f (s.core i)) := rfl
@[simp] theorem modCore_ops (s : State) (i : Nat) (f : Core → Core) : (s.modCore i f).ops = s.ops := rfl
@[simp] theorem modCore_fences (s : State) (i : Nat) (f : Core → Core) : (s.modCore i f).fences = s.fences := rfl
@[simp] theorem modCore_debts (s : State) (i : Nat) (f : Core → Core) : (s.modCore i f).debts = s.debts := rfl
@[simp] theorem modCore_early (s : State) (i : Nat) (f : Core → Core) : (s.modCore i f).early = s.early := rfl
@[simp] theorem modCore_packets (s : State) (i : Nat) (f : Core → Core) : (s.modCore i f).packets = s.packets := rfl
@[simp] theorem modCore_old (s : State) (i : Nat) (f : Core → Core) : (s.modCore i f).old = s.old := rfl
@[simp] theorem modCore_kept (s : State) (i : Nat) (f : Core → Core) : (s.modCore i f).kept = s.kept := rfl
@[simp] theorem modCore_cmds (s : State) (i : Nat) (f : Core → Core) : (s.modCore i f).cmds = s.cmds := rfl
@[simp] theorem modCore_bonds (s : State) (i : Nat) (f : Core → Core) : (s.modCore i f).bonds = s.bonds := rfl
@[simp] theorem modCore_issue (s : State) (i : Nat) (f : Core → Core) : (s.modCore i f).issue = s.issue := rfl
@[simp] theorem modCore_claims (s : State) (i : Nat) (f : Core → Core) : (s.modCore i f).claims = s.claims := rfl
@[simp] theorem modCore_serial (s : State) (i : Nat) (f : Core → Core) : (s.modCore i f).serial = s.serial := rfl
@[simp] theorem modCore_free (s : State) (i : Nat) (f : Core → Core) : (s.modCore i f).free = s.free := rfl
@[simp] theorem modCore_agenda (s : State) (i : Nat) (f : Core → Core) : (s.modCore i f).agenda = s.agenda := rfl

@[simp] theorem setCtx_tick (s : State) (i : Nat) (x : Ctx) : (s.setCtx i x).tick = s.tick := rfl
@[simp] theorem setCtx_mem (s : State) (i : Nat) (x : Ctx) : (s.setCtx i x).mem = s.mem := rfl
@[simp] theorem setCtx_queues (s : State) (i : Nat) (x : Ctx) : (s.setCtx i x).queues = s.queues := rfl
@[simp] theorem setCtx_slices (s : State) (i : Nat) (x : Ctx) : (s.setCtx i x).slices = s.slices := rfl
@[simp] theorem setCtx_ctxTable (s : State) (i : Nat) (x : Ctx) : (s.setCtx i x).ctxTable = s.ctxTable := rfl
@[simp] theorem setCtx_cmdOp (s : State) (i : Nat) (x : Ctx) : (s.setCtx i x).cmdOp = s.cmdOp := rfl
@[simp] theorem setCtx_cmdBusy (s : State) (i : Nat) (x : Ctx) : (s.setCtx i x).cmdBusy = s.cmdBusy := rfl
@[simp] theorem setCtx_opnd (s : State) (i : Nat) (x : Ctx) : (s.setCtx i x).opnd = s.opnd := rfl
@[simp] theorem setCtx_groups (s : State) (i : Nat) (x : Ctx) : (s.setCtx i x).groups = s.groups := rfl
@[simp] theorem setCtx_routes (s : State) (i : Nat) (x : Ctx) : (s.setCtx i x).routes = s.routes := rfl
@[simp] theorem setCtx_boot (s : State) (i : Nat) (x : Ctx) : (s.setCtx i x).boot = s.boot := rfl
@[simp] theorem setCtx_rateHint (s : State) (i : Nat) (x : Ctx) : (s.setCtx i x).rateHint = s.rateHint := rfl
@[simp] theorem setCtx_devnum (s : State) (i : Nat) (x : Ctx) : (s.setCtx i x).devnum = s.devnum := rfl
@[simp] theorem setCtx_domain (s : State) (i : Nat) (x : Ctx) : (s.setCtx i x).domain = s.domain := rfl
@[simp] theorem setCtx_portMode (s : State) (i : Nat) (x : Ctx) : (s.setCtx i x).portMode = s.portMode := rfl
@[simp] theorem setCtx_answer (s : State) (i : Nat) (x : Ctx) : (s.setCtx i x).answer = s.answer := rfl
@[simp] theorem setCtx_pwrlim (s : State) (i : Nat) (x : Ctx) : (s.setCtx i x).pwrlim = s.pwrlim := rfl
@[simp] theorem setCtx_lostDies (s : State) (i : Nat) (x : Ctx) : (s.setCtx i x).lostDies = s.lostDies := rfl
@[simp] theorem setCtx_unusable (s : State) (i : Nat) (x : Ctx) : (s.setCtx i x).unusable = s.unusable := rfl
@[simp] theorem setCtx_interrupts (s : State) (i : Nat) (x : Ctx) : (s.setCtx i x).interrupts = s.interrupts := rfl
@[simp] theorem setCtx_slots (s : State) (i : Nat) (x : Ctx) : (s.setCtx i x).slots = s.slots := rfl
@[simp] theorem setCtx_lastQueue (s : State) (i : Nat) (x : Ctx) : (s.setCtx i x).lastQueue = s.lastQueue := rfl
@[simp] theorem setCtx_timebase (s : State) (i : Nat) (x : Ctx) : (s.setCtx i x).timebase = s.timebase := rfl
@[simp] theorem setCtx_ctxs (s : State) (i : Nat) (x : Ctx) : (s.setCtx i x).ctxs = Table.set s.ctxs i x := rfl
@[simp] theorem setCtx_grids (s : State) (i : Nat) (x : Ctx) : (s.setCtx i x).grids = s.grids := rfl
@[simp] theorem setCtx_teams (s : State) (i : Nat) (x : Ctx) : (s.setCtx i x).teams = s.teams := rfl
@[simp] theorem setCtx_wgs (s : State) (i : Nat) (x : Ctx) : (s.setCtx i x).wgs = s.wgs := rfl
@[simp] theorem setCtx_warps (s : State) (i : Nat) (x : Ctx) : (s.setCtx i x).warps = s.warps := rfl
@[simp] theorem setCtx_frags (s : State) (i : Nat) (x : Ctx) : (s.setCtx i x).frags = s.frags := rfl
@[simp] theorem setCtx_cores (s : State) (i : Nat) (x : Ctx) : (s.setCtx i x).cores = s.cores := rfl
@[simp] theorem setCtx_ops (s : State) (i : Nat) (x : Ctx) : (s.setCtx i x).ops = s.ops := rfl
@[simp] theorem setCtx_fences (s : State) (i : Nat) (x : Ctx) : (s.setCtx i x).fences = s.fences := rfl
@[simp] theorem setCtx_debts (s : State) (i : Nat) (x : Ctx) : (s.setCtx i x).debts = s.debts := rfl
@[simp] theorem setCtx_early (s : State) (i : Nat) (x : Ctx) : (s.setCtx i x).early = s.early := rfl
@[simp] theorem setCtx_packets (s : State) (i : Nat) (x : Ctx) : (s.setCtx i x).packets = s.packets := rfl
@[simp] theorem setCtx_old (s : State) (i : Nat) (x : Ctx) : (s.setCtx i x).old = s.old := rfl
@[simp] theorem setCtx_kept (s : State) (i : Nat) (x : Ctx) : (s.setCtx i x).kept = s.kept := rfl
@[simp] theorem setCtx_cmds (s : State) (i : Nat) (x : Ctx) : (s.setCtx i x).cmds = s.cmds := rfl
@[simp] theorem setCtx_bonds (s : State) (i : Nat) (x : Ctx) : (s.setCtx i x).bonds = s.bonds := rfl
@[simp] theorem setCtx_issue (s : State) (i : Nat) (x : Ctx) : (s.setCtx i x).issue = s.issue := rfl
@[simp] theorem setCtx_claims (s : State) (i : Nat) (x : Ctx) : (s.setCtx i x).claims = s.claims := rfl
@[simp] theorem setCtx_serial (s : State) (i : Nat) (x : Ctx) : (s.setCtx i x).serial = s.serial := rfl
@[simp] theorem setCtx_free (s : State) (i : Nat) (x : Ctx) : (s.setCtx i x).free = s.free := rfl
@[simp] theorem setCtx_agenda (s : State) (i : Nat) (x : Ctx) : (s.setCtx i x).agenda = s.agenda := rfl

@[simp] theorem modCtx_tick (s : State) (i : Nat) (f : Ctx → Ctx) : (s.modCtx i f).tick = s.tick := rfl
@[simp] theorem modCtx_mem (s : State) (i : Nat) (f : Ctx → Ctx) : (s.modCtx i f).mem = s.mem := rfl
@[simp] theorem modCtx_queues (s : State) (i : Nat) (f : Ctx → Ctx) : (s.modCtx i f).queues = s.queues := rfl
@[simp] theorem modCtx_slices (s : State) (i : Nat) (f : Ctx → Ctx) : (s.modCtx i f).slices = s.slices := rfl
@[simp] theorem modCtx_ctxTable (s : State) (i : Nat) (f : Ctx → Ctx) : (s.modCtx i f).ctxTable = s.ctxTable := rfl
@[simp] theorem modCtx_cmdOp (s : State) (i : Nat) (f : Ctx → Ctx) : (s.modCtx i f).cmdOp = s.cmdOp := rfl
@[simp] theorem modCtx_cmdBusy (s : State) (i : Nat) (f : Ctx → Ctx) : (s.modCtx i f).cmdBusy = s.cmdBusy := rfl
@[simp] theorem modCtx_opnd (s : State) (i : Nat) (f : Ctx → Ctx) : (s.modCtx i f).opnd = s.opnd := rfl
@[simp] theorem modCtx_groups (s : State) (i : Nat) (f : Ctx → Ctx) : (s.modCtx i f).groups = s.groups := rfl
@[simp] theorem modCtx_routes (s : State) (i : Nat) (f : Ctx → Ctx) : (s.modCtx i f).routes = s.routes := rfl
@[simp] theorem modCtx_boot (s : State) (i : Nat) (f : Ctx → Ctx) : (s.modCtx i f).boot = s.boot := rfl
@[simp] theorem modCtx_rateHint (s : State) (i : Nat) (f : Ctx → Ctx) : (s.modCtx i f).rateHint = s.rateHint := rfl
@[simp] theorem modCtx_devnum (s : State) (i : Nat) (f : Ctx → Ctx) : (s.modCtx i f).devnum = s.devnum := rfl
@[simp] theorem modCtx_domain (s : State) (i : Nat) (f : Ctx → Ctx) : (s.modCtx i f).domain = s.domain := rfl
@[simp] theorem modCtx_portMode (s : State) (i : Nat) (f : Ctx → Ctx) : (s.modCtx i f).portMode = s.portMode := rfl
@[simp] theorem modCtx_answer (s : State) (i : Nat) (f : Ctx → Ctx) : (s.modCtx i f).answer = s.answer := rfl
@[simp] theorem modCtx_pwrlim (s : State) (i : Nat) (f : Ctx → Ctx) : (s.modCtx i f).pwrlim = s.pwrlim := rfl
@[simp] theorem modCtx_lostDies (s : State) (i : Nat) (f : Ctx → Ctx) : (s.modCtx i f).lostDies = s.lostDies := rfl
@[simp] theorem modCtx_unusable (s : State) (i : Nat) (f : Ctx → Ctx) : (s.modCtx i f).unusable = s.unusable := rfl
@[simp] theorem modCtx_interrupts (s : State) (i : Nat) (f : Ctx → Ctx) : (s.modCtx i f).interrupts = s.interrupts := rfl
@[simp] theorem modCtx_slots (s : State) (i : Nat) (f : Ctx → Ctx) : (s.modCtx i f).slots = s.slots := rfl
@[simp] theorem modCtx_lastQueue (s : State) (i : Nat) (f : Ctx → Ctx) : (s.modCtx i f).lastQueue = s.lastQueue := rfl
@[simp] theorem modCtx_timebase (s : State) (i : Nat) (f : Ctx → Ctx) : (s.modCtx i f).timebase = s.timebase := rfl
@[simp] theorem modCtx_ctxs (s : State) (i : Nat) (f : Ctx → Ctx) : (s.modCtx i f).ctxs = Table.set s.ctxs i (f (s.ctx i)) := rfl
@[simp] theorem modCtx_grids (s : State) (i : Nat) (f : Ctx → Ctx) : (s.modCtx i f).grids = s.grids := rfl
@[simp] theorem modCtx_teams (s : State) (i : Nat) (f : Ctx → Ctx) : (s.modCtx i f).teams = s.teams := rfl
@[simp] theorem modCtx_wgs (s : State) (i : Nat) (f : Ctx → Ctx) : (s.modCtx i f).wgs = s.wgs := rfl
@[simp] theorem modCtx_warps (s : State) (i : Nat) (f : Ctx → Ctx) : (s.modCtx i f).warps = s.warps := rfl
@[simp] theorem modCtx_frags (s : State) (i : Nat) (f : Ctx → Ctx) : (s.modCtx i f).frags = s.frags := rfl
@[simp] theorem modCtx_cores (s : State) (i : Nat) (f : Ctx → Ctx) : (s.modCtx i f).cores = s.cores := rfl
@[simp] theorem modCtx_ops (s : State) (i : Nat) (f : Ctx → Ctx) : (s.modCtx i f).ops = s.ops := rfl
@[simp] theorem modCtx_fences (s : State) (i : Nat) (f : Ctx → Ctx) : (s.modCtx i f).fences = s.fences := rfl
@[simp] theorem modCtx_debts (s : State) (i : Nat) (f : Ctx → Ctx) : (s.modCtx i f).debts = s.debts := rfl
@[simp] theorem modCtx_early (s : State) (i : Nat) (f : Ctx → Ctx) : (s.modCtx i f).early = s.early := rfl
@[simp] theorem modCtx_packets (s : State) (i : Nat) (f : Ctx → Ctx) : (s.modCtx i f).packets = s.packets := rfl
@[simp] theorem modCtx_old (s : State) (i : Nat) (f : Ctx → Ctx) : (s.modCtx i f).old = s.old := rfl
@[simp] theorem modCtx_kept (s : State) (i : Nat) (f : Ctx → Ctx) : (s.modCtx i f).kept = s.kept := rfl
@[simp] theorem modCtx_cmds (s : State) (i : Nat) (f : Ctx → Ctx) : (s.modCtx i f).cmds = s.cmds := rfl
@[simp] theorem modCtx_bonds (s : State) (i : Nat) (f : Ctx → Ctx) : (s.modCtx i f).bonds = s.bonds := rfl
@[simp] theorem modCtx_issue (s : State) (i : Nat) (f : Ctx → Ctx) : (s.modCtx i f).issue = s.issue := rfl
@[simp] theorem modCtx_claims (s : State) (i : Nat) (f : Ctx → Ctx) : (s.modCtx i f).claims = s.claims := rfl
@[simp] theorem modCtx_serial (s : State) (i : Nat) (f : Ctx → Ctx) : (s.modCtx i f).serial = s.serial := rfl
@[simp] theorem modCtx_free (s : State) (i : Nat) (f : Ctx → Ctx) : (s.modCtx i f).free = s.free := rfl
@[simp] theorem modCtx_agenda (s : State) (i : Nat) (f : Ctx → Ctx) : (s.modCtx i f).agenda = s.agenda := rfl

@[simp] theorem setQueue_tick (s : State) (i : Nat) (x : Queue) : (s.setQueue i x).tick = s.tick := rfl
@[simp] theorem setQueue_mem (s : State) (i : Nat) (x : Queue) : (s.setQueue i x).mem = s.mem := rfl
@[simp] theorem setQueue_queues (s : State) (i : Nat) (x : Queue) : (s.setQueue i x).queues = Table.put {} s.queues i x := rfl
@[simp] theorem setQueue_slices (s : State) (i : Nat) (x : Queue) : (s.setQueue i x).slices = s.slices := rfl
@[simp] theorem setQueue_ctxTable (s : State) (i : Nat) (x : Queue) : (s.setQueue i x).ctxTable = s.ctxTable := rfl
@[simp] theorem setQueue_cmdOp (s : State) (i : Nat) (x : Queue) : (s.setQueue i x).cmdOp = s.cmdOp := rfl
@[simp] theorem setQueue_cmdBusy (s : State) (i : Nat) (x : Queue) : (s.setQueue i x).cmdBusy = s.cmdBusy := rfl
@[simp] theorem setQueue_opnd (s : State) (i : Nat) (x : Queue) : (s.setQueue i x).opnd = s.opnd := rfl
@[simp] theorem setQueue_groups (s : State) (i : Nat) (x : Queue) : (s.setQueue i x).groups = s.groups := rfl
@[simp] theorem setQueue_routes (s : State) (i : Nat) (x : Queue) : (s.setQueue i x).routes = s.routes := rfl
@[simp] theorem setQueue_boot (s : State) (i : Nat) (x : Queue) : (s.setQueue i x).boot = s.boot := rfl
@[simp] theorem setQueue_rateHint (s : State) (i : Nat) (x : Queue) : (s.setQueue i x).rateHint = s.rateHint := rfl
@[simp] theorem setQueue_devnum (s : State) (i : Nat) (x : Queue) : (s.setQueue i x).devnum = s.devnum := rfl
@[simp] theorem setQueue_domain (s : State) (i : Nat) (x : Queue) : (s.setQueue i x).domain = s.domain := rfl
@[simp] theorem setQueue_portMode (s : State) (i : Nat) (x : Queue) : (s.setQueue i x).portMode = s.portMode := rfl
@[simp] theorem setQueue_answer (s : State) (i : Nat) (x : Queue) : (s.setQueue i x).answer = s.answer := rfl
@[simp] theorem setQueue_pwrlim (s : State) (i : Nat) (x : Queue) : (s.setQueue i x).pwrlim = s.pwrlim := rfl
@[simp] theorem setQueue_lostDies (s : State) (i : Nat) (x : Queue) : (s.setQueue i x).lostDies = s.lostDies := rfl
@[simp] theorem setQueue_unusable (s : State) (i : Nat) (x : Queue) : (s.setQueue i x).unusable = s.unusable := rfl
@[simp] theorem setQueue_interrupts (s : State) (i : Nat) (x : Queue) : (s.setQueue i x).interrupts = s.interrupts := rfl
@[simp] theorem setQueue_slots (s : State) (i : Nat) (x : Queue) : (s.setQueue i x).slots = s.slots := rfl
@[simp] theorem setQueue_lastQueue (s : State) (i : Nat) (x : Queue) : (s.setQueue i x).lastQueue = s.lastQueue := rfl
@[simp] theorem setQueue_timebase (s : State) (i : Nat) (x : Queue) : (s.setQueue i x).timebase = s.timebase := rfl
@[simp] theorem setQueue_ctxs (s : State) (i : Nat) (x : Queue) : (s.setQueue i x).ctxs = s.ctxs := rfl
@[simp] theorem setQueue_grids (s : State) (i : Nat) (x : Queue) : (s.setQueue i x).grids = s.grids := rfl
@[simp] theorem setQueue_teams (s : State) (i : Nat) (x : Queue) : (s.setQueue i x).teams = s.teams := rfl
@[simp] theorem setQueue_wgs (s : State) (i : Nat) (x : Queue) : (s.setQueue i x).wgs = s.wgs := rfl
@[simp] theorem setQueue_warps (s : State) (i : Nat) (x : Queue) : (s.setQueue i x).warps = s.warps := rfl
@[simp] theorem setQueue_frags (s : State) (i : Nat) (x : Queue) : (s.setQueue i x).frags = s.frags := rfl
@[simp] theorem setQueue_cores (s : State) (i : Nat) (x : Queue) : (s.setQueue i x).cores = s.cores := rfl
@[simp] theorem setQueue_ops (s : State) (i : Nat) (x : Queue) : (s.setQueue i x).ops = s.ops := rfl
@[simp] theorem setQueue_fences (s : State) (i : Nat) (x : Queue) : (s.setQueue i x).fences = s.fences := rfl
@[simp] theorem setQueue_debts (s : State) (i : Nat) (x : Queue) : (s.setQueue i x).debts = s.debts := rfl
@[simp] theorem setQueue_early (s : State) (i : Nat) (x : Queue) : (s.setQueue i x).early = s.early := rfl
@[simp] theorem setQueue_packets (s : State) (i : Nat) (x : Queue) : (s.setQueue i x).packets = s.packets := rfl
@[simp] theorem setQueue_old (s : State) (i : Nat) (x : Queue) : (s.setQueue i x).old = s.old := rfl
@[simp] theorem setQueue_kept (s : State) (i : Nat) (x : Queue) : (s.setQueue i x).kept = s.kept := rfl
@[simp] theorem setQueue_cmds (s : State) (i : Nat) (x : Queue) : (s.setQueue i x).cmds = s.cmds := rfl
@[simp] theorem setQueue_bonds (s : State) (i : Nat) (x : Queue) : (s.setQueue i x).bonds = s.bonds := rfl
@[simp] theorem setQueue_issue (s : State) (i : Nat) (x : Queue) : (s.setQueue i x).issue = s.issue := rfl
@[simp] theorem setQueue_claims (s : State) (i : Nat) (x : Queue) : (s.setQueue i x).claims = s.claims := rfl
@[simp] theorem setQueue_serial (s : State) (i : Nat) (x : Queue) : (s.setQueue i x).serial = s.serial := rfl
@[simp] theorem setQueue_free (s : State) (i : Nat) (x : Queue) : (s.setQueue i x).free = s.free := rfl
@[simp] theorem setQueue_agenda (s : State) (i : Nat) (x : Queue) : (s.setQueue i x).agenda = s.agenda := rfl

@[simp] theorem modCmd_tick (s : State) (i : Nat) (f : Cmd → Cmd) : (s.modCmd i f).tick = s.tick := rfl
@[simp] theorem modCmd_mem (s : State) (i : Nat) (f : Cmd → Cmd) : (s.modCmd i f).mem = s.mem := rfl
@[simp] theorem modCmd_queues (s : State) (i : Nat) (f : Cmd → Cmd) : (s.modCmd i f).queues = s.queues := rfl
@[simp] theorem modCmd_slices (s : State) (i : Nat) (f : Cmd → Cmd) : (s.modCmd i f).slices = s.slices := rfl
@[simp] theorem modCmd_ctxTable (s : State) (i : Nat) (f : Cmd → Cmd) : (s.modCmd i f).ctxTable = s.ctxTable := rfl
@[simp] theorem modCmd_cmdOp (s : State) (i : Nat) (f : Cmd → Cmd) : (s.modCmd i f).cmdOp = s.cmdOp := rfl
@[simp] theorem modCmd_cmdBusy (s : State) (i : Nat) (f : Cmd → Cmd) : (s.modCmd i f).cmdBusy = s.cmdBusy := rfl
@[simp] theorem modCmd_opnd (s : State) (i : Nat) (f : Cmd → Cmd) : (s.modCmd i f).opnd = s.opnd := rfl
@[simp] theorem modCmd_groups (s : State) (i : Nat) (f : Cmd → Cmd) : (s.modCmd i f).groups = s.groups := rfl
@[simp] theorem modCmd_routes (s : State) (i : Nat) (f : Cmd → Cmd) : (s.modCmd i f).routes = s.routes := rfl
@[simp] theorem modCmd_boot (s : State) (i : Nat) (f : Cmd → Cmd) : (s.modCmd i f).boot = s.boot := rfl
@[simp] theorem modCmd_rateHint (s : State) (i : Nat) (f : Cmd → Cmd) : (s.modCmd i f).rateHint = s.rateHint := rfl
@[simp] theorem modCmd_devnum (s : State) (i : Nat) (f : Cmd → Cmd) : (s.modCmd i f).devnum = s.devnum := rfl
@[simp] theorem modCmd_domain (s : State) (i : Nat) (f : Cmd → Cmd) : (s.modCmd i f).domain = s.domain := rfl
@[simp] theorem modCmd_portMode (s : State) (i : Nat) (f : Cmd → Cmd) : (s.modCmd i f).portMode = s.portMode := rfl
@[simp] theorem modCmd_answer (s : State) (i : Nat) (f : Cmd → Cmd) : (s.modCmd i f).answer = s.answer := rfl
@[simp] theorem modCmd_pwrlim (s : State) (i : Nat) (f : Cmd → Cmd) : (s.modCmd i f).pwrlim = s.pwrlim := rfl
@[simp] theorem modCmd_lostDies (s : State) (i : Nat) (f : Cmd → Cmd) : (s.modCmd i f).lostDies = s.lostDies := rfl
@[simp] theorem modCmd_unusable (s : State) (i : Nat) (f : Cmd → Cmd) : (s.modCmd i f).unusable = s.unusable := rfl
@[simp] theorem modCmd_interrupts (s : State) (i : Nat) (f : Cmd → Cmd) : (s.modCmd i f).interrupts = s.interrupts := rfl
@[simp] theorem modCmd_slots (s : State) (i : Nat) (f : Cmd → Cmd) : (s.modCmd i f).slots = s.slots := rfl
@[simp] theorem modCmd_lastQueue (s : State) (i : Nat) (f : Cmd → Cmd) : (s.modCmd i f).lastQueue = s.lastQueue := rfl
@[simp] theorem modCmd_timebase (s : State) (i : Nat) (f : Cmd → Cmd) : (s.modCmd i f).timebase = s.timebase := rfl
@[simp] theorem modCmd_ctxs (s : State) (i : Nat) (f : Cmd → Cmd) : (s.modCmd i f).ctxs = s.ctxs := rfl
@[simp] theorem modCmd_grids (s : State) (i : Nat) (f : Cmd → Cmd) : (s.modCmd i f).grids = s.grids := rfl
@[simp] theorem modCmd_teams (s : State) (i : Nat) (f : Cmd → Cmd) : (s.modCmd i f).teams = s.teams := rfl
@[simp] theorem modCmd_wgs (s : State) (i : Nat) (f : Cmd → Cmd) : (s.modCmd i f).wgs = s.wgs := rfl
@[simp] theorem modCmd_warps (s : State) (i : Nat) (f : Cmd → Cmd) : (s.modCmd i f).warps = s.warps := rfl
@[simp] theorem modCmd_frags (s : State) (i : Nat) (f : Cmd → Cmd) : (s.modCmd i f).frags = s.frags := rfl
@[simp] theorem modCmd_cores (s : State) (i : Nat) (f : Cmd → Cmd) : (s.modCmd i f).cores = s.cores := rfl
@[simp] theorem modCmd_ops (s : State) (i : Nat) (f : Cmd → Cmd) : (s.modCmd i f).ops = s.ops := rfl
@[simp] theorem modCmd_fences (s : State) (i : Nat) (f : Cmd → Cmd) : (s.modCmd i f).fences = s.fences := rfl
@[simp] theorem modCmd_debts (s : State) (i : Nat) (f : Cmd → Cmd) : (s.modCmd i f).debts = s.debts := rfl
@[simp] theorem modCmd_early (s : State) (i : Nat) (f : Cmd → Cmd) : (s.modCmd i f).early = s.early := rfl
@[simp] theorem modCmd_packets (s : State) (i : Nat) (f : Cmd → Cmd) : (s.modCmd i f).packets = s.packets := rfl
@[simp] theorem modCmd_old (s : State) (i : Nat) (f : Cmd → Cmd) : (s.modCmd i f).old = s.old := rfl
@[simp] theorem modCmd_kept (s : State) (i : Nat) (f : Cmd → Cmd) : (s.modCmd i f).kept = s.kept := rfl
@[simp] theorem modCmd_cmds (s : State) (i : Nat) (f : Cmd → Cmd) : (s.modCmd i f).cmds = Table.modify s.cmds i f := rfl
@[simp] theorem modCmd_bonds (s : State) (i : Nat) (f : Cmd → Cmd) : (s.modCmd i f).bonds = s.bonds := rfl
@[simp] theorem modCmd_issue (s : State) (i : Nat) (f : Cmd → Cmd) : (s.modCmd i f).issue = s.issue := rfl
@[simp] theorem modCmd_claims (s : State) (i : Nat) (f : Cmd → Cmd) : (s.modCmd i f).claims = s.claims := rfl
@[simp] theorem modCmd_serial (s : State) (i : Nat) (f : Cmd → Cmd) : (s.modCmd i f).serial = s.serial := rfl
@[simp] theorem modCmd_free (s : State) (i : Nat) (f : Cmd → Cmd) : (s.modCmd i f).free = s.free := rfl
@[simp] theorem modCmd_agenda (s : State) (i : Nat) (f : Cmd → Cmd) : (s.modCmd i f).agenda = s.agenda := rfl

@[simp] theorem modOp_tick (s : State) (i : Nat) (f : Op → Op) : (s.modOp i f).tick = s.tick := rfl
@[simp] theorem modOp_mem (s : State) (i : Nat) (f : Op → Op) : (s.modOp i f).mem = s.mem := rfl
@[simp] theorem modOp_queues (s : State) (i : Nat) (f : Op → Op) : (s.modOp i f).queues = s.queues := rfl
@[simp] theorem modOp_slices (s : State) (i : Nat) (f : Op → Op) : (s.modOp i f).slices = s.slices := rfl
@[simp] theorem modOp_ctxTable (s : State) (i : Nat) (f : Op → Op) : (s.modOp i f).ctxTable = s.ctxTable := rfl
@[simp] theorem modOp_cmdOp (s : State) (i : Nat) (f : Op → Op) : (s.modOp i f).cmdOp = s.cmdOp := rfl
@[simp] theorem modOp_cmdBusy (s : State) (i : Nat) (f : Op → Op) : (s.modOp i f).cmdBusy = s.cmdBusy := rfl
@[simp] theorem modOp_opnd (s : State) (i : Nat) (f : Op → Op) : (s.modOp i f).opnd = s.opnd := rfl
@[simp] theorem modOp_groups (s : State) (i : Nat) (f : Op → Op) : (s.modOp i f).groups = s.groups := rfl
@[simp] theorem modOp_routes (s : State) (i : Nat) (f : Op → Op) : (s.modOp i f).routes = s.routes := rfl
@[simp] theorem modOp_boot (s : State) (i : Nat) (f : Op → Op) : (s.modOp i f).boot = s.boot := rfl
@[simp] theorem modOp_rateHint (s : State) (i : Nat) (f : Op → Op) : (s.modOp i f).rateHint = s.rateHint := rfl
@[simp] theorem modOp_devnum (s : State) (i : Nat) (f : Op → Op) : (s.modOp i f).devnum = s.devnum := rfl
@[simp] theorem modOp_domain (s : State) (i : Nat) (f : Op → Op) : (s.modOp i f).domain = s.domain := rfl
@[simp] theorem modOp_portMode (s : State) (i : Nat) (f : Op → Op) : (s.modOp i f).portMode = s.portMode := rfl
@[simp] theorem modOp_answer (s : State) (i : Nat) (f : Op → Op) : (s.modOp i f).answer = s.answer := rfl
@[simp] theorem modOp_pwrlim (s : State) (i : Nat) (f : Op → Op) : (s.modOp i f).pwrlim = s.pwrlim := rfl
@[simp] theorem modOp_lostDies (s : State) (i : Nat) (f : Op → Op) : (s.modOp i f).lostDies = s.lostDies := rfl
@[simp] theorem modOp_unusable (s : State) (i : Nat) (f : Op → Op) : (s.modOp i f).unusable = s.unusable := rfl
@[simp] theorem modOp_interrupts (s : State) (i : Nat) (f : Op → Op) : (s.modOp i f).interrupts = s.interrupts := rfl
@[simp] theorem modOp_slots (s : State) (i : Nat) (f : Op → Op) : (s.modOp i f).slots = s.slots := rfl
@[simp] theorem modOp_lastQueue (s : State) (i : Nat) (f : Op → Op) : (s.modOp i f).lastQueue = s.lastQueue := rfl
@[simp] theorem modOp_timebase (s : State) (i : Nat) (f : Op → Op) : (s.modOp i f).timebase = s.timebase := rfl
@[simp] theorem modOp_ctxs (s : State) (i : Nat) (f : Op → Op) : (s.modOp i f).ctxs = s.ctxs := rfl
@[simp] theorem modOp_grids (s : State) (i : Nat) (f : Op → Op) : (s.modOp i f).grids = s.grids := rfl
@[simp] theorem modOp_teams (s : State) (i : Nat) (f : Op → Op) : (s.modOp i f).teams = s.teams := rfl
@[simp] theorem modOp_wgs (s : State) (i : Nat) (f : Op → Op) : (s.modOp i f).wgs = s.wgs := rfl
@[simp] theorem modOp_warps (s : State) (i : Nat) (f : Op → Op) : (s.modOp i f).warps = s.warps := rfl
@[simp] theorem modOp_frags (s : State) (i : Nat) (f : Op → Op) : (s.modOp i f).frags = s.frags := rfl
@[simp] theorem modOp_cores (s : State) (i : Nat) (f : Op → Op) : (s.modOp i f).cores = s.cores := rfl
@[simp] theorem modOp_ops (s : State) (i : Nat) (f : Op → Op) : (s.modOp i f).ops = Table.modify s.ops i f := rfl
@[simp] theorem modOp_fences (s : State) (i : Nat) (f : Op → Op) : (s.modOp i f).fences = s.fences := rfl
@[simp] theorem modOp_debts (s : State) (i : Nat) (f : Op → Op) : (s.modOp i f).debts = s.debts := rfl
@[simp] theorem modOp_early (s : State) (i : Nat) (f : Op → Op) : (s.modOp i f).early = s.early := rfl
@[simp] theorem modOp_packets (s : State) (i : Nat) (f : Op → Op) : (s.modOp i f).packets = s.packets := rfl
@[simp] theorem modOp_old (s : State) (i : Nat) (f : Op → Op) : (s.modOp i f).old = s.old := rfl
@[simp] theorem modOp_kept (s : State) (i : Nat) (f : Op → Op) : (s.modOp i f).kept = s.kept := rfl
@[simp] theorem modOp_cmds (s : State) (i : Nat) (f : Op → Op) : (s.modOp i f).cmds = s.cmds := rfl
@[simp] theorem modOp_bonds (s : State) (i : Nat) (f : Op → Op) : (s.modOp i f).bonds = s.bonds := rfl
@[simp] theorem modOp_issue (s : State) (i : Nat) (f : Op → Op) : (s.modOp i f).issue = s.issue := rfl
@[simp] theorem modOp_claims (s : State) (i : Nat) (f : Op → Op) : (s.modOp i f).claims = s.claims := rfl
@[simp] theorem modOp_serial (s : State) (i : Nat) (f : Op → Op) : (s.modOp i f).serial = s.serial := rfl
@[simp] theorem modOp_free (s : State) (i : Nat) (f : Op → Op) : (s.modOp i f).free = s.free := rfl
@[simp] theorem modOp_agenda (s : State) (i : Nat) (f : Op → Op) : (s.modOp i f).agenda = s.agenda := rfl

@[simp] theorem modIssue_tick (s : State) (f : Issue → Issue) : (s.modIssue f).tick = s.tick := rfl
@[simp] theorem modIssue_mem (s : State) (f : Issue → Issue) : (s.modIssue f).mem = s.mem := rfl
@[simp] theorem modIssue_queues (s : State) (f : Issue → Issue) : (s.modIssue f).queues = s.queues := rfl
@[simp] theorem modIssue_slices (s : State) (f : Issue → Issue) : (s.modIssue f).slices = s.slices := rfl
@[simp] theorem modIssue_ctxTable (s : State) (f : Issue → Issue) : (s.modIssue f).ctxTable = s.ctxTable := rfl
@[simp] theorem modIssue_cmdOp (s : State) (f : Issue → Issue) : (s.modIssue f).cmdOp = s.cmdOp := rfl
@[simp] theorem modIssue_cmdBusy (s : State) (f : Issue → Issue) : (s.modIssue f).cmdBusy = s.cmdBusy := rfl
@[simp] theorem modIssue_opnd (s : State) (f : Issue → Issue) : (s.modIssue f).opnd = s.opnd := rfl
@[simp] theorem modIssue_groups (s : State) (f : Issue → Issue) : (s.modIssue f).groups = s.groups := rfl
@[simp] theorem modIssue_routes (s : State) (f : Issue → Issue) : (s.modIssue f).routes = s.routes := rfl
@[simp] theorem modIssue_boot (s : State) (f : Issue → Issue) : (s.modIssue f).boot = s.boot := rfl
@[simp] theorem modIssue_rateHint (s : State) (f : Issue → Issue) : (s.modIssue f).rateHint = s.rateHint := rfl
@[simp] theorem modIssue_devnum (s : State) (f : Issue → Issue) : (s.modIssue f).devnum = s.devnum := rfl
@[simp] theorem modIssue_domain (s : State) (f : Issue → Issue) : (s.modIssue f).domain = s.domain := rfl
@[simp] theorem modIssue_portMode (s : State) (f : Issue → Issue) : (s.modIssue f).portMode = s.portMode := rfl
@[simp] theorem modIssue_answer (s : State) (f : Issue → Issue) : (s.modIssue f).answer = s.answer := rfl
@[simp] theorem modIssue_pwrlim (s : State) (f : Issue → Issue) : (s.modIssue f).pwrlim = s.pwrlim := rfl
@[simp] theorem modIssue_lostDies (s : State) (f : Issue → Issue) : (s.modIssue f).lostDies = s.lostDies := rfl
@[simp] theorem modIssue_unusable (s : State) (f : Issue → Issue) : (s.modIssue f).unusable = s.unusable := rfl
@[simp] theorem modIssue_interrupts (s : State) (f : Issue → Issue) : (s.modIssue f).interrupts = s.interrupts := rfl
@[simp] theorem modIssue_slots (s : State) (f : Issue → Issue) : (s.modIssue f).slots = s.slots := rfl
@[simp] theorem modIssue_lastQueue (s : State) (f : Issue → Issue) : (s.modIssue f).lastQueue = s.lastQueue := rfl
@[simp] theorem modIssue_timebase (s : State) (f : Issue → Issue) : (s.modIssue f).timebase = s.timebase := rfl
@[simp] theorem modIssue_ctxs (s : State) (f : Issue → Issue) : (s.modIssue f).ctxs = s.ctxs := rfl
@[simp] theorem modIssue_grids (s : State) (f : Issue → Issue) : (s.modIssue f).grids = s.grids := rfl
@[simp] theorem modIssue_teams (s : State) (f : Issue → Issue) : (s.modIssue f).teams = s.teams := rfl
@[simp] theorem modIssue_wgs (s : State) (f : Issue → Issue) : (s.modIssue f).wgs = s.wgs := rfl
@[simp] theorem modIssue_warps (s : State) (f : Issue → Issue) : (s.modIssue f).warps = s.warps := rfl
@[simp] theorem modIssue_frags (s : State) (f : Issue → Issue) : (s.modIssue f).frags = s.frags := rfl
@[simp] theorem modIssue_cores (s : State) (f : Issue → Issue) : (s.modIssue f).cores = s.cores := rfl
@[simp] theorem modIssue_ops (s : State) (f : Issue → Issue) : (s.modIssue f).ops = s.ops := rfl
@[simp] theorem modIssue_fences (s : State) (f : Issue → Issue) : (s.modIssue f).fences = s.fences := rfl
@[simp] theorem modIssue_debts (s : State) (f : Issue → Issue) : (s.modIssue f).debts = s.debts := rfl
@[simp] theorem modIssue_early (s : State) (f : Issue → Issue) : (s.modIssue f).early = s.early := rfl
@[simp] theorem modIssue_packets (s : State) (f : Issue → Issue) : (s.modIssue f).packets = s.packets := rfl
@[simp] theorem modIssue_old (s : State) (f : Issue → Issue) : (s.modIssue f).old = s.old := rfl
@[simp] theorem modIssue_kept (s : State) (f : Issue → Issue) : (s.modIssue f).kept = s.kept := rfl
@[simp] theorem modIssue_cmds (s : State) (f : Issue → Issue) : (s.modIssue f).cmds = s.cmds := rfl
@[simp] theorem modIssue_bonds (s : State) (f : Issue → Issue) : (s.modIssue f).bonds = s.bonds := rfl
@[simp] theorem modIssue_issue (s : State) (f : Issue → Issue) : (s.modIssue f).issue = s.issue.map f := rfl
@[simp] theorem modIssue_claims (s : State) (f : Issue → Issue) : (s.modIssue f).claims = s.claims := rfl
@[simp] theorem modIssue_serial (s : State) (f : Issue → Issue) : (s.modIssue f).serial = s.serial := rfl
@[simp] theorem modIssue_free (s : State) (f : Issue → Issue) : (s.modIssue f).free = s.free := rfl
@[simp] theorem modIssue_agenda (s : State) (f : Issue → Issue) : (s.modIssue f).agenda = s.agenda := rfl

@[simp] theorem post_tick (s : State) (n : Nat) (x : Notice) : (s.post n x).tick = s.tick := rfl
@[simp] theorem post_mem (s : State) (n : Nat) (x : Notice) : (s.post n x).mem = s.mem := rfl
@[simp] theorem post_queues (s : State) (n : Nat) (x : Notice) : (s.post n x).queues = s.queues := rfl
@[simp] theorem post_slices (s : State) (n : Nat) (x : Notice) : (s.post n x).slices = s.slices := rfl
@[simp] theorem post_ctxTable (s : State) (n : Nat) (x : Notice) : (s.post n x).ctxTable = s.ctxTable := rfl
@[simp] theorem post_cmdOp (s : State) (n : Nat) (x : Notice) : (s.post n x).cmdOp = s.cmdOp := rfl
@[simp] theorem post_cmdBusy (s : State) (n : Nat) (x : Notice) : (s.post n x).cmdBusy = s.cmdBusy := rfl
@[simp] theorem post_opnd (s : State) (n : Nat) (x : Notice) : (s.post n x).opnd = s.opnd := rfl
@[simp] theorem post_groups (s : State) (n : Nat) (x : Notice) : (s.post n x).groups = s.groups := rfl
@[simp] theorem post_routes (s : State) (n : Nat) (x : Notice) : (s.post n x).routes = s.routes := rfl
@[simp] theorem post_boot (s : State) (n : Nat) (x : Notice) : (s.post n x).boot = s.boot := rfl
@[simp] theorem post_rateHint (s : State) (n : Nat) (x : Notice) : (s.post n x).rateHint = s.rateHint := rfl
@[simp] theorem post_devnum (s : State) (n : Nat) (x : Notice) : (s.post n x).devnum = s.devnum := rfl
@[simp] theorem post_domain (s : State) (n : Nat) (x : Notice) : (s.post n x).domain = s.domain := rfl
@[simp] theorem post_portMode (s : State) (n : Nat) (x : Notice) : (s.post n x).portMode = s.portMode := rfl
@[simp] theorem post_answer (s : State) (n : Nat) (x : Notice) : (s.post n x).answer = s.answer := rfl
@[simp] theorem post_pwrlim (s : State) (n : Nat) (x : Notice) : (s.post n x).pwrlim = s.pwrlim := rfl
@[simp] theorem post_lostDies (s : State) (n : Nat) (x : Notice) : (s.post n x).lostDies = s.lostDies := rfl
@[simp] theorem post_unusable (s : State) (n : Nat) (x : Notice) : (s.post n x).unusable = s.unusable := rfl
@[simp] theorem post_interrupts (s : State) (n : Nat) (x : Notice) : (s.post n x).interrupts = s.interrupts ++ [(n, x)] := rfl
@[simp] theorem post_slots (s : State) (n : Nat) (x : Notice) : (s.post n x).slots = s.slots := rfl
@[simp] theorem post_lastQueue (s : State) (n : Nat) (x : Notice) : (s.post n x).lastQueue = s.lastQueue := rfl
@[simp] theorem post_timebase (s : State) (n : Nat) (x : Notice) : (s.post n x).timebase = s.timebase := rfl
@[simp] theorem post_ctxs (s : State) (n : Nat) (x : Notice) : (s.post n x).ctxs = s.ctxs := rfl
@[simp] theorem post_grids (s : State) (n : Nat) (x : Notice) : (s.post n x).grids = s.grids := rfl
@[simp] theorem post_teams (s : State) (n : Nat) (x : Notice) : (s.post n x).teams = s.teams := rfl
@[simp] theorem post_wgs (s : State) (n : Nat) (x : Notice) : (s.post n x).wgs = s.wgs := rfl
@[simp] theorem post_warps (s : State) (n : Nat) (x : Notice) : (s.post n x).warps = s.warps := rfl
@[simp] theorem post_frags (s : State) (n : Nat) (x : Notice) : (s.post n x).frags = s.frags := rfl
@[simp] theorem post_cores (s : State) (n : Nat) (x : Notice) : (s.post n x).cores = s.cores := rfl
@[simp] theorem post_ops (s : State) (n : Nat) (x : Notice) : (s.post n x).ops = s.ops := rfl
@[simp] theorem post_fences (s : State) (n : Nat) (x : Notice) : (s.post n x).fences = s.fences := rfl
@[simp] theorem post_debts (s : State) (n : Nat) (x : Notice) : (s.post n x).debts = s.debts := rfl
@[simp] theorem post_early (s : State) (n : Nat) (x : Notice) : (s.post n x).early = s.early := rfl
@[simp] theorem post_packets (s : State) (n : Nat) (x : Notice) : (s.post n x).packets = s.packets := rfl
@[simp] theorem post_old (s : State) (n : Nat) (x : Notice) : (s.post n x).old = s.old := rfl
@[simp] theorem post_kept (s : State) (n : Nat) (x : Notice) : (s.post n x).kept = s.kept := rfl
@[simp] theorem post_cmds (s : State) (n : Nat) (x : Notice) : (s.post n x).cmds = s.cmds := rfl
@[simp] theorem post_bonds (s : State) (n : Nat) (x : Notice) : (s.post n x).bonds = s.bonds := rfl
@[simp] theorem post_issue (s : State) (n : Nat) (x : Notice) : (s.post n x).issue = s.issue := rfl
@[simp] theorem post_claims (s : State) (n : Nat) (x : Notice) : (s.post n x).claims = s.claims := rfl
@[simp] theorem post_serial (s : State) (n : Nat) (x : Notice) : (s.post n x).serial = s.serial := rfl
@[simp] theorem post_free (s : State) (n : Nat) (x : Notice) : (s.post n x).free = s.free := rfl
@[simp] theorem post_agenda (s : State) (n : Nat) (x : Notice) : (s.post n x).agenda = s.agenda := rfl

@[simp] theorem writeByte_tick (s : State) (a : Nat) (x : Byte) : (s.writeByte a x).tick = s.tick := rfl
@[simp] theorem writeByte_mem (s : State) (a : Nat) (x : Byte) : (s.writeByte a x).mem = Table.put 0 s.mem a x := rfl
@[simp] theorem writeByte_queues (s : State) (a : Nat) (x : Byte) : (s.writeByte a x).queues = s.queues := rfl
@[simp] theorem writeByte_slices (s : State) (a : Nat) (x : Byte) : (s.writeByte a x).slices = s.slices := rfl
@[simp] theorem writeByte_ctxTable (s : State) (a : Nat) (x : Byte) : (s.writeByte a x).ctxTable = s.ctxTable := rfl
@[simp] theorem writeByte_cmdOp (s : State) (a : Nat) (x : Byte) : (s.writeByte a x).cmdOp = s.cmdOp := rfl
@[simp] theorem writeByte_cmdBusy (s : State) (a : Nat) (x : Byte) : (s.writeByte a x).cmdBusy = s.cmdBusy := rfl
@[simp] theorem writeByte_opnd (s : State) (a : Nat) (x : Byte) : (s.writeByte a x).opnd = s.opnd := rfl
@[simp] theorem writeByte_groups (s : State) (a : Nat) (x : Byte) : (s.writeByte a x).groups = s.groups := rfl
@[simp] theorem writeByte_routes (s : State) (a : Nat) (x : Byte) : (s.writeByte a x).routes = s.routes := rfl
@[simp] theorem writeByte_boot (s : State) (a : Nat) (x : Byte) : (s.writeByte a x).boot = s.boot := rfl
@[simp] theorem writeByte_rateHint (s : State) (a : Nat) (x : Byte) : (s.writeByte a x).rateHint = s.rateHint := rfl
@[simp] theorem writeByte_devnum (s : State) (a : Nat) (x : Byte) : (s.writeByte a x).devnum = s.devnum := rfl
@[simp] theorem writeByte_domain (s : State) (a : Nat) (x : Byte) : (s.writeByte a x).domain = s.domain := rfl
@[simp] theorem writeByte_portMode (s : State) (a : Nat) (x : Byte) : (s.writeByte a x).portMode = s.portMode := rfl
@[simp] theorem writeByte_answer (s : State) (a : Nat) (x : Byte) : (s.writeByte a x).answer = s.answer := rfl
@[simp] theorem writeByte_pwrlim (s : State) (a : Nat) (x : Byte) : (s.writeByte a x).pwrlim = s.pwrlim := rfl
@[simp] theorem writeByte_lostDies (s : State) (a : Nat) (x : Byte) : (s.writeByte a x).lostDies = s.lostDies := rfl
@[simp] theorem writeByte_unusable (s : State) (a : Nat) (x : Byte) : (s.writeByte a x).unusable = s.unusable := rfl
@[simp] theorem writeByte_interrupts (s : State) (a : Nat) (x : Byte) : (s.writeByte a x).interrupts = s.interrupts := rfl
@[simp] theorem writeByte_slots (s : State) (a : Nat) (x : Byte) : (s.writeByte a x).slots = s.slots := rfl
@[simp] theorem writeByte_lastQueue (s : State) (a : Nat) (x : Byte) : (s.writeByte a x).lastQueue = s.lastQueue := rfl
@[simp] theorem writeByte_timebase (s : State) (a : Nat) (x : Byte) : (s.writeByte a x).timebase = s.timebase := rfl
@[simp] theorem writeByte_ctxs (s : State) (a : Nat) (x : Byte) : (s.writeByte a x).ctxs = s.ctxs := rfl
@[simp] theorem writeByte_grids (s : State) (a : Nat) (x : Byte) : (s.writeByte a x).grids = s.grids := rfl
@[simp] theorem writeByte_teams (s : State) (a : Nat) (x : Byte) : (s.writeByte a x).teams = s.teams := rfl
@[simp] theorem writeByte_wgs (s : State) (a : Nat) (x : Byte) : (s.writeByte a x).wgs = s.wgs := rfl
@[simp] theorem writeByte_warps (s : State) (a : Nat) (x : Byte) : (s.writeByte a x).warps = s.warps := rfl
@[simp] theorem writeByte_frags (s : State) (a : Nat) (x : Byte) : (s.writeByte a x).frags = s.frags := rfl
@[simp] theorem writeByte_cores (s : State) (a : Nat) (x : Byte) : (s.writeByte a x).cores = s.cores := rfl
@[simp] theorem writeByte_ops (s : State) (a : Nat) (x : Byte) : (s.writeByte a x).ops = s.ops := rfl
@[simp] theorem writeByte_fences (s : State) (a : Nat) (x : Byte) : (s.writeByte a x).fences = s.fences := rfl
@[simp] theorem writeByte_debts (s : State) (a : Nat) (x : Byte) : (s.writeByte a x).debts = s.debts := rfl
@[simp] theorem writeByte_early (s : State) (a : Nat) (x : Byte) : (s.writeByte a x).early = s.early := rfl
@[simp] theorem writeByte_packets (s : State) (a : Nat) (x : Byte) : (s.writeByte a x).packets = s.packets := rfl
@[simp] theorem writeByte_old (s : State) (a : Nat) (x : Byte) : (s.writeByte a x).old = s.old := rfl
@[simp] theorem writeByte_kept (s : State) (a : Nat) (x : Byte) : (s.writeByte a x).kept = s.kept := rfl
@[simp] theorem writeByte_cmds (s : State) (a : Nat) (x : Byte) : (s.writeByte a x).cmds = s.cmds := rfl
@[simp] theorem writeByte_bonds (s : State) (a : Nat) (x : Byte) : (s.writeByte a x).bonds = s.bonds := rfl
@[simp] theorem writeByte_issue (s : State) (a : Nat) (x : Byte) : (s.writeByte a x).issue = s.issue := rfl
@[simp] theorem writeByte_claims (s : State) (a : Nat) (x : Byte) : (s.writeByte a x).claims = s.claims := rfl
@[simp] theorem writeByte_serial (s : State) (a : Nat) (x : Byte) : (s.writeByte a x).serial = s.serial := rfl
@[simp] theorem writeByte_free (s : State) (a : Nat) (x : Byte) : (s.writeByte a x).free = s.free := rfl
@[simp] theorem writeByte_agenda (s : State) (a : Nat) (x : Byte) : (s.writeByte a x).agenda = s.agenda := rfl

@[simp] theorem setSlots_tick (s : State) (c p n : Nat) : (s.setSlots c p n).tick = s.tick := rfl
@[simp] theorem setSlots_mem (s : State) (c p n : Nat) : (s.setSlots c p n).mem = s.mem := rfl
@[simp] theorem setSlots_queues (s : State) (c p n : Nat) : (s.setSlots c p n).queues = s.queues := rfl
@[simp] theorem setSlots_slices (s : State) (c p n : Nat) : (s.setSlots c p n).slices = s.slices := rfl
@[simp] theorem setSlots_ctxTable (s : State) (c p n : Nat) : (s.setSlots c p n).ctxTable = s.ctxTable := rfl
@[simp] theorem setSlots_cmdOp (s : State) (c p n : Nat) : (s.setSlots c p n).cmdOp = s.cmdOp := rfl
@[simp] theorem setSlots_cmdBusy (s : State) (c p n : Nat) : (s.setSlots c p n).cmdBusy = s.cmdBusy := rfl
@[simp] theorem setSlots_opnd (s : State) (c p n : Nat) : (s.setSlots c p n).opnd = s.opnd := rfl
@[simp] theorem setSlots_groups (s : State) (c p n : Nat) : (s.setSlots c p n).groups = s.groups := rfl
@[simp] theorem setSlots_routes (s : State) (c p n : Nat) : (s.setSlots c p n).routes = s.routes := rfl
@[simp] theorem setSlots_boot (s : State) (c p n : Nat) : (s.setSlots c p n).boot = s.boot := rfl
@[simp] theorem setSlots_rateHint (s : State) (c p n : Nat) : (s.setSlots c p n).rateHint = s.rateHint := rfl
@[simp] theorem setSlots_devnum (s : State) (c p n : Nat) : (s.setSlots c p n).devnum = s.devnum := rfl
@[simp] theorem setSlots_domain (s : State) (c p n : Nat) : (s.setSlots c p n).domain = s.domain := rfl
@[simp] theorem setSlots_portMode (s : State) (c p n : Nat) : (s.setSlots c p n).portMode = s.portMode := rfl
@[simp] theorem setSlots_answer (s : State) (c p n : Nat) : (s.setSlots c p n).answer = s.answer := rfl
@[simp] theorem setSlots_pwrlim (s : State) (c p n : Nat) : (s.setSlots c p n).pwrlim = s.pwrlim := rfl
@[simp] theorem setSlots_lostDies (s : State) (c p n : Nat) : (s.setSlots c p n).lostDies = s.lostDies := rfl
@[simp] theorem setSlots_unusable (s : State) (c p n : Nat) : (s.setSlots c p n).unusable = s.unusable := rfl
@[simp] theorem setSlots_interrupts (s : State) (c p n : Nat) : (s.setSlots c p n).interrupts = s.interrupts := rfl
@[simp] theorem setSlots_slots (s : State) (c p n : Nat) : (s.setSlots c p n).slots = Table.put 0 s.slots (slotKey c p) n := rfl
@[simp] theorem setSlots_lastQueue (s : State) (c p n : Nat) : (s.setSlots c p n).lastQueue = s.lastQueue := rfl
@[simp] theorem setSlots_timebase (s : State) (c p n : Nat) : (s.setSlots c p n).timebase = s.timebase := rfl
@[simp] theorem setSlots_ctxs (s : State) (c p n : Nat) : (s.setSlots c p n).ctxs = s.ctxs := rfl
@[simp] theorem setSlots_grids (s : State) (c p n : Nat) : (s.setSlots c p n).grids = s.grids := rfl
@[simp] theorem setSlots_teams (s : State) (c p n : Nat) : (s.setSlots c p n).teams = s.teams := rfl
@[simp] theorem setSlots_wgs (s : State) (c p n : Nat) : (s.setSlots c p n).wgs = s.wgs := rfl
@[simp] theorem setSlots_warps (s : State) (c p n : Nat) : (s.setSlots c p n).warps = s.warps := rfl
@[simp] theorem setSlots_frags (s : State) (c p n : Nat) : (s.setSlots c p n).frags = s.frags := rfl
@[simp] theorem setSlots_cores (s : State) (c p n : Nat) : (s.setSlots c p n).cores = s.cores := rfl
@[simp] theorem setSlots_ops (s : State) (c p n : Nat) : (s.setSlots c p n).ops = s.ops := rfl
@[simp] theorem setSlots_fences (s : State) (c p n : Nat) : (s.setSlots c p n).fences = s.fences := rfl
@[simp] theorem setSlots_debts (s : State) (c p n : Nat) : (s.setSlots c p n).debts = s.debts := rfl
@[simp] theorem setSlots_early (s : State) (c p n : Nat) : (s.setSlots c p n).early = s.early := rfl
@[simp] theorem setSlots_packets (s : State) (c p n : Nat) : (s.setSlots c p n).packets = s.packets := rfl
@[simp] theorem setSlots_old (s : State) (c p n : Nat) : (s.setSlots c p n).old = s.old := rfl
@[simp] theorem setSlots_kept (s : State) (c p n : Nat) : (s.setSlots c p n).kept = s.kept := rfl
@[simp] theorem setSlots_cmds (s : State) (c p n : Nat) : (s.setSlots c p n).cmds = s.cmds := rfl
@[simp] theorem setSlots_bonds (s : State) (c p n : Nat) : (s.setSlots c p n).bonds = s.bonds := rfl
@[simp] theorem setSlots_issue (s : State) (c p n : Nat) : (s.setSlots c p n).issue = s.issue := rfl
@[simp] theorem setSlots_claims (s : State) (c p n : Nat) : (s.setSlots c p n).claims = s.claims := rfl
@[simp] theorem setSlots_serial (s : State) (c p n : Nat) : (s.setSlots c p n).serial = s.serial := rfl
@[simp] theorem setSlots_free (s : State) (c p n : Nat) : (s.setSlots c p n).free = s.free := rfl
@[simp] theorem setSlots_agenda (s : State) (c p n : Nat) : (s.setSlots c p n).agenda = s.agenda := rfl

/-! ### Looking units up -/

theorem frag_set (s : State) (i j : Nat) (x : Frag) : (s.setFrag i x).frag? j = if j = i then some x else s.frag? j := get_set ..
theorem frag_mod (s : State) (i j : Nat) (f : Frag → Frag) :
    (s.modFrag i f).frag? j = if j = i then (s.frag? j).map f else s.frag? j := get_modify ..
@[simp] theorem frag_setWarp (s : State) (i : Nat) (x : Warp) (j : Nat) : (s.setWarp i x).frag? j = s.frag? j := rfl
@[simp] theorem frag_modWarp (s : State) (i : Nat) (f : Warp → Warp) (j : Nat) : (s.modWarp i f).frag? j = s.frag? j := rfl
@[simp] theorem frag_setWg (s : State) (i : Nat) (x : Wg) (j : Nat) : (s.setWg i x).frag? j = s.frag? j := rfl
@[simp] theorem frag_modWg (s : State) (i : Nat) (f : Wg → Wg) (j : Nat) : (s.modWg i f).frag? j = s.frag? j := rfl
@[simp] theorem frag_setTeam (s : State) (i : Nat) (x : Team) (j : Nat) : (s.setTeam i x).frag? j = s.frag? j := rfl
@[simp] theorem frag_modTeam (s : State) (i : Nat) (f : Team → Team) (j : Nat) : (s.modTeam i f).frag? j = s.frag? j := rfl
@[simp] theorem frag_setGrid (s : State) (i : Nat) (x : Grid) (j : Nat) : (s.setGrid i x).frag? j = s.frag? j := rfl
@[simp] theorem frag_modGrid (s : State) (i : Nat) (f : Grid → Grid) (j : Nat) : (s.modGrid i f).frag? j = s.frag? j := rfl
@[simp] theorem frag_setCore (s : State) (i : Nat) (x : Core) (j : Nat) : (s.setCore i x).frag? j = s.frag? j := rfl
@[simp] theorem frag_modCore (s : State) (i : Nat) (f : Core → Core) (j : Nat) : (s.modCore i f).frag? j = s.frag? j := rfl
@[simp] theorem frag_setCtx (s : State) (i : Nat) (x : Ctx) (j : Nat) : (s.setCtx i x).frag? j = s.frag? j := rfl
@[simp] theorem frag_modCtx (s : State) (i : Nat) (f : Ctx → Ctx) (j : Nat) : (s.modCtx i f).frag? j = s.frag? j := rfl
@[simp] theorem frag_setQueue (s : State) (i : Nat) (x : Queue) (j : Nat) : (s.setQueue i x).frag? j = s.frag? j := rfl
@[simp] theorem frag_modCmd (s : State) (i : Nat) (f : Cmd → Cmd) (j : Nat) : (s.modCmd i f).frag? j = s.frag? j := rfl
@[simp] theorem frag_modOp (s : State) (i : Nat) (f : Op → Op) (j : Nat) : (s.modOp i f).frag? j = s.frag? j := rfl
@[simp] theorem frag_modIssue (s : State) (f : Issue → Issue) (j : Nat) : (s.modIssue f).frag? j = s.frag? j := rfl
@[simp] theorem frag_post (s : State) (n : Nat) (x : Notice) (j : Nat) : (s.post n x).frag? j = s.frag? j := rfl
@[simp] theorem frag_writeByte (s : State) (a : Nat) (x : Byte) (j : Nat) : (s.writeByte a x).frag? j = s.frag? j := rfl
@[simp] theorem frag_setSlots (s : State) (c p n : Nat) (j : Nat) : (s.setSlots c p n).frag? j = s.frag? j := rfl

theorem warp_set (s : State) (i j : Nat) (x : Warp) : (s.setWarp i x).warp? j = if j = i then some x else s.warp? j := get_set ..
theorem warp_mod (s : State) (i j : Nat) (f : Warp → Warp) :
    (s.modWarp i f).warp? j = if j = i then (s.warp? j).map f else s.warp? j := get_modify ..
@[simp] theorem warp_setFrag (s : State) (i : Nat) (x : Frag) (j : Nat) : (s.setFrag i x).warp? j = s.warp? j := rfl
@[simp] theorem warp_modFrag (s : State) (i : Nat) (f : Frag → Frag) (j : Nat) : (s.modFrag i f).warp? j = s.warp? j := rfl
@[simp] theorem warp_setWg (s : State) (i : Nat) (x : Wg) (j : Nat) : (s.setWg i x).warp? j = s.warp? j := rfl
@[simp] theorem warp_modWg (s : State) (i : Nat) (f : Wg → Wg) (j : Nat) : (s.modWg i f).warp? j = s.warp? j := rfl
@[simp] theorem warp_setTeam (s : State) (i : Nat) (x : Team) (j : Nat) : (s.setTeam i x).warp? j = s.warp? j := rfl
@[simp] theorem warp_modTeam (s : State) (i : Nat) (f : Team → Team) (j : Nat) : (s.modTeam i f).warp? j = s.warp? j := rfl
@[simp] theorem warp_setGrid (s : State) (i : Nat) (x : Grid) (j : Nat) : (s.setGrid i x).warp? j = s.warp? j := rfl
@[simp] theorem warp_modGrid (s : State) (i : Nat) (f : Grid → Grid) (j : Nat) : (s.modGrid i f).warp? j = s.warp? j := rfl
@[simp] theorem warp_setCore (s : State) (i : Nat) (x : Core) (j : Nat) : (s.setCore i x).warp? j = s.warp? j := rfl
@[simp] theorem warp_modCore (s : State) (i : Nat) (f : Core → Core) (j : Nat) : (s.modCore i f).warp? j = s.warp? j := rfl
@[simp] theorem warp_setCtx (s : State) (i : Nat) (x : Ctx) (j : Nat) : (s.setCtx i x).warp? j = s.warp? j := rfl
@[simp] theorem warp_modCtx (s : State) (i : Nat) (f : Ctx → Ctx) (j : Nat) : (s.modCtx i f).warp? j = s.warp? j := rfl
@[simp] theorem warp_setQueue (s : State) (i : Nat) (x : Queue) (j : Nat) : (s.setQueue i x).warp? j = s.warp? j := rfl
@[simp] theorem warp_modCmd (s : State) (i : Nat) (f : Cmd → Cmd) (j : Nat) : (s.modCmd i f).warp? j = s.warp? j := rfl
@[simp] theorem warp_modOp (s : State) (i : Nat) (f : Op → Op) (j : Nat) : (s.modOp i f).warp? j = s.warp? j := rfl
@[simp] theorem warp_modIssue (s : State) (f : Issue → Issue) (j : Nat) : (s.modIssue f).warp? j = s.warp? j := rfl
@[simp] theorem warp_post (s : State) (n : Nat) (x : Notice) (j : Nat) : (s.post n x).warp? j = s.warp? j := rfl
@[simp] theorem warp_writeByte (s : State) (a : Nat) (x : Byte) (j : Nat) : (s.writeByte a x).warp? j = s.warp? j := rfl
@[simp] theorem warp_setSlots (s : State) (c p n : Nat) (j : Nat) : (s.setSlots c p n).warp? j = s.warp? j := rfl

theorem wg_set (s : State) (i j : Nat) (x : Wg) : (s.setWg i x).wg? j = if j = i then some x else s.wg? j := get_set ..
theorem wg_mod (s : State) (i j : Nat) (f : Wg → Wg) :
    (s.modWg i f).wg? j = if j = i then (s.wg? j).map f else s.wg? j := get_modify ..
@[simp] theorem wg_setFrag (s : State) (i : Nat) (x : Frag) (j : Nat) : (s.setFrag i x).wg? j = s.wg? j := rfl
@[simp] theorem wg_modFrag (s : State) (i : Nat) (f : Frag → Frag) (j : Nat) : (s.modFrag i f).wg? j = s.wg? j := rfl
@[simp] theorem wg_setWarp (s : State) (i : Nat) (x : Warp) (j : Nat) : (s.setWarp i x).wg? j = s.wg? j := rfl
@[simp] theorem wg_modWarp (s : State) (i : Nat) (f : Warp → Warp) (j : Nat) : (s.modWarp i f).wg? j = s.wg? j := rfl
@[simp] theorem wg_setTeam (s : State) (i : Nat) (x : Team) (j : Nat) : (s.setTeam i x).wg? j = s.wg? j := rfl
@[simp] theorem wg_modTeam (s : State) (i : Nat) (f : Team → Team) (j : Nat) : (s.modTeam i f).wg? j = s.wg? j := rfl
@[simp] theorem wg_setGrid (s : State) (i : Nat) (x : Grid) (j : Nat) : (s.setGrid i x).wg? j = s.wg? j := rfl
@[simp] theorem wg_modGrid (s : State) (i : Nat) (f : Grid → Grid) (j : Nat) : (s.modGrid i f).wg? j = s.wg? j := rfl
@[simp] theorem wg_setCore (s : State) (i : Nat) (x : Core) (j : Nat) : (s.setCore i x).wg? j = s.wg? j := rfl
@[simp] theorem wg_modCore (s : State) (i : Nat) (f : Core → Core) (j : Nat) : (s.modCore i f).wg? j = s.wg? j := rfl
@[simp] theorem wg_setCtx (s : State) (i : Nat) (x : Ctx) (j : Nat) : (s.setCtx i x).wg? j = s.wg? j := rfl
@[simp] theorem wg_modCtx (s : State) (i : Nat) (f : Ctx → Ctx) (j : Nat) : (s.modCtx i f).wg? j = s.wg? j := rfl
@[simp] theorem wg_setQueue (s : State) (i : Nat) (x : Queue) (j : Nat) : (s.setQueue i x).wg? j = s.wg? j := rfl
@[simp] theorem wg_modCmd (s : State) (i : Nat) (f : Cmd → Cmd) (j : Nat) : (s.modCmd i f).wg? j = s.wg? j := rfl
@[simp] theorem wg_modOp (s : State) (i : Nat) (f : Op → Op) (j : Nat) : (s.modOp i f).wg? j = s.wg? j := rfl
@[simp] theorem wg_modIssue (s : State) (f : Issue → Issue) (j : Nat) : (s.modIssue f).wg? j = s.wg? j := rfl
@[simp] theorem wg_post (s : State) (n : Nat) (x : Notice) (j : Nat) : (s.post n x).wg? j = s.wg? j := rfl
@[simp] theorem wg_writeByte (s : State) (a : Nat) (x : Byte) (j : Nat) : (s.writeByte a x).wg? j = s.wg? j := rfl
@[simp] theorem wg_setSlots (s : State) (c p n : Nat) (j : Nat) : (s.setSlots c p n).wg? j = s.wg? j := rfl

theorem team_set (s : State) (i j : Nat) (x : Team) : (s.setTeam i x).team? j = if j = i then some x else s.team? j := get_set ..
theorem team_mod (s : State) (i j : Nat) (f : Team → Team) :
    (s.modTeam i f).team? j = if j = i then (s.team? j).map f else s.team? j := get_modify ..
@[simp] theorem team_setFrag (s : State) (i : Nat) (x : Frag) (j : Nat) : (s.setFrag i x).team? j = s.team? j := rfl
@[simp] theorem team_modFrag (s : State) (i : Nat) (f : Frag → Frag) (j : Nat) : (s.modFrag i f).team? j = s.team? j := rfl
@[simp] theorem team_setWarp (s : State) (i : Nat) (x : Warp) (j : Nat) : (s.setWarp i x).team? j = s.team? j := rfl
@[simp] theorem team_modWarp (s : State) (i : Nat) (f : Warp → Warp) (j : Nat) : (s.modWarp i f).team? j = s.team? j := rfl
@[simp] theorem team_setWg (s : State) (i : Nat) (x : Wg) (j : Nat) : (s.setWg i x).team? j = s.team? j := rfl
@[simp] theorem team_modWg (s : State) (i : Nat) (f : Wg → Wg) (j : Nat) : (s.modWg i f).team? j = s.team? j := rfl
@[simp] theorem team_setGrid (s : State) (i : Nat) (x : Grid) (j : Nat) : (s.setGrid i x).team? j = s.team? j := rfl
@[simp] theorem team_modGrid (s : State) (i : Nat) (f : Grid → Grid) (j : Nat) : (s.modGrid i f).team? j = s.team? j := rfl
@[simp] theorem team_setCore (s : State) (i : Nat) (x : Core) (j : Nat) : (s.setCore i x).team? j = s.team? j := rfl
@[simp] theorem team_modCore (s : State) (i : Nat) (f : Core → Core) (j : Nat) : (s.modCore i f).team? j = s.team? j := rfl
@[simp] theorem team_setCtx (s : State) (i : Nat) (x : Ctx) (j : Nat) : (s.setCtx i x).team? j = s.team? j := rfl
@[simp] theorem team_modCtx (s : State) (i : Nat) (f : Ctx → Ctx) (j : Nat) : (s.modCtx i f).team? j = s.team? j := rfl
@[simp] theorem team_setQueue (s : State) (i : Nat) (x : Queue) (j : Nat) : (s.setQueue i x).team? j = s.team? j := rfl
@[simp] theorem team_modCmd (s : State) (i : Nat) (f : Cmd → Cmd) (j : Nat) : (s.modCmd i f).team? j = s.team? j := rfl
@[simp] theorem team_modOp (s : State) (i : Nat) (f : Op → Op) (j : Nat) : (s.modOp i f).team? j = s.team? j := rfl
@[simp] theorem team_modIssue (s : State) (f : Issue → Issue) (j : Nat) : (s.modIssue f).team? j = s.team? j := rfl
@[simp] theorem team_post (s : State) (n : Nat) (x : Notice) (j : Nat) : (s.post n x).team? j = s.team? j := rfl
@[simp] theorem team_writeByte (s : State) (a : Nat) (x : Byte) (j : Nat) : (s.writeByte a x).team? j = s.team? j := rfl
@[simp] theorem team_setSlots (s : State) (c p n : Nat) (j : Nat) : (s.setSlots c p n).team? j = s.team? j := rfl

theorem grid_set (s : State) (i j : Nat) (x : Grid) : (s.setGrid i x).grid? j = if j = i then some x else s.grid? j := get_set ..
theorem grid_mod (s : State) (i j : Nat) (f : Grid → Grid) :
    (s.modGrid i f).grid? j = if j = i then (s.grid? j).map f else s.grid? j := get_modify ..
@[simp] theorem grid_setFrag (s : State) (i : Nat) (x : Frag) (j : Nat) : (s.setFrag i x).grid? j = s.grid? j := rfl
@[simp] theorem grid_modFrag (s : State) (i : Nat) (f : Frag → Frag) (j : Nat) : (s.modFrag i f).grid? j = s.grid? j := rfl
@[simp] theorem grid_setWarp (s : State) (i : Nat) (x : Warp) (j : Nat) : (s.setWarp i x).grid? j = s.grid? j := rfl
@[simp] theorem grid_modWarp (s : State) (i : Nat) (f : Warp → Warp) (j : Nat) : (s.modWarp i f).grid? j = s.grid? j := rfl
@[simp] theorem grid_setWg (s : State) (i : Nat) (x : Wg) (j : Nat) : (s.setWg i x).grid? j = s.grid? j := rfl
@[simp] theorem grid_modWg (s : State) (i : Nat) (f : Wg → Wg) (j : Nat) : (s.modWg i f).grid? j = s.grid? j := rfl
@[simp] theorem grid_setTeam (s : State) (i : Nat) (x : Team) (j : Nat) : (s.setTeam i x).grid? j = s.grid? j := rfl
@[simp] theorem grid_modTeam (s : State) (i : Nat) (f : Team → Team) (j : Nat) : (s.modTeam i f).grid? j = s.grid? j := rfl
@[simp] theorem grid_setCore (s : State) (i : Nat) (x : Core) (j : Nat) : (s.setCore i x).grid? j = s.grid? j := rfl
@[simp] theorem grid_modCore (s : State) (i : Nat) (f : Core → Core) (j : Nat) : (s.modCore i f).grid? j = s.grid? j := rfl
@[simp] theorem grid_setCtx (s : State) (i : Nat) (x : Ctx) (j : Nat) : (s.setCtx i x).grid? j = s.grid? j := rfl
@[simp] theorem grid_modCtx (s : State) (i : Nat) (f : Ctx → Ctx) (j : Nat) : (s.modCtx i f).grid? j = s.grid? j := rfl
@[simp] theorem grid_setQueue (s : State) (i : Nat) (x : Queue) (j : Nat) : (s.setQueue i x).grid? j = s.grid? j := rfl
@[simp] theorem grid_modCmd (s : State) (i : Nat) (f : Cmd → Cmd) (j : Nat) : (s.modCmd i f).grid? j = s.grid? j := rfl
@[simp] theorem grid_modOp (s : State) (i : Nat) (f : Op → Op) (j : Nat) : (s.modOp i f).grid? j = s.grid? j := rfl
@[simp] theorem grid_modIssue (s : State) (f : Issue → Issue) (j : Nat) : (s.modIssue f).grid? j = s.grid? j := rfl
@[simp] theorem grid_post (s : State) (n : Nat) (x : Notice) (j : Nat) : (s.post n x).grid? j = s.grid? j := rfl
@[simp] theorem grid_writeByte (s : State) (a : Nat) (x : Byte) (j : Nat) : (s.writeByte a x).grid? j = s.grid? j := rfl
@[simp] theorem grid_setSlots (s : State) (c p n : Nat) (j : Nat) : (s.setSlots c p n).grid? j = s.grid? j := rfl

theorem core_set (s : State) (i j : Nat) (x : Core) : (s.setCore i x).core j = if j = i then x else s.core j := getD_put ..
theorem core_mod (s : State) (i j : Nat) (f : Core → Core) : (s.modCore i f).core j = if j = i then f (s.core j) else s.core j := by
  simp only [State.modCore, core_set]; split <;> simp_all
theorem ctx_set (s : State) (i j : Nat) (x : Ctx) : (s.setCtx i x).ctx j = if j = i then x else s.ctx j := by
  simp only [State.setCtx, State.ctx, Table.getD, get_set]; split <;> rfl
theorem ctx_mod (s : State) (i j : Nat) (f : Ctx → Ctx) : (s.modCtx i f).ctx j = if j = i then f (s.ctx j) else s.ctx j := by
  simp only [State.modCtx, ctx_set]; split <;> simp_all
theorem queue_set (s : State) (i j : Nat) (x : Queue) : (s.setQueue i x).queue j = if j = i then x else s.queue j := getD_put ..

@[simp] theorem core_setFrag (s : State) (i : Nat) (x : Frag) (j : Nat) : (s.setFrag i x).core j = s.core j := rfl
@[simp] theorem ctx_setFrag (s : State) (i : Nat) (x : Frag) (j : Nat) : (s.setFrag i x).ctx j = s.ctx j := rfl
@[simp] theorem core_modFrag (s : State) (i : Nat) (f : Frag → Frag) (j : Nat) : (s.modFrag i f).core j = s.core j := rfl
@[simp] theorem ctx_modFrag (s : State) (i : Nat) (f : Frag → Frag) (j : Nat) : (s.modFrag i f).ctx j = s.ctx j := rfl
@[simp] theorem core_setWarp (s : State) (i : Nat) (x : Warp) (j : Nat) : (s.setWarp i x).core j = s.core j := rfl
@[simp] theorem ctx_setWarp (s : State) (i : Nat) (x : Warp) (j : Nat) : (s.setWarp i x).ctx j = s.ctx j := rfl
@[simp] theorem core_modWarp (s : State) (i : Nat) (f : Warp → Warp) (j : Nat) : (s.modWarp i f).core j = s.core j := rfl
@[simp] theorem ctx_modWarp (s : State) (i : Nat) (f : Warp → Warp) (j : Nat) : (s.modWarp i f).ctx j = s.ctx j := rfl
@[simp] theorem core_setWg (s : State) (i : Nat) (x : Wg) (j : Nat) : (s.setWg i x).core j = s.core j := rfl
@[simp] theorem ctx_setWg (s : State) (i : Nat) (x : Wg) (j : Nat) : (s.setWg i x).ctx j = s.ctx j := rfl
@[simp] theorem core_modWg (s : State) (i : Nat) (f : Wg → Wg) (j : Nat) : (s.modWg i f).core j = s.core j := rfl
@[simp] theorem ctx_modWg (s : State) (i : Nat) (f : Wg → Wg) (j : Nat) : (s.modWg i f).ctx j = s.ctx j := rfl
@[simp] theorem core_setTeam (s : State) (i : Nat) (x : Team) (j : Nat) : (s.setTeam i x).core j = s.core j := rfl
@[simp] theorem ctx_setTeam (s : State) (i : Nat) (x : Team) (j : Nat) : (s.setTeam i x).ctx j = s.ctx j := rfl
@[simp] theorem core_modTeam (s : State) (i : Nat) (f : Team → Team) (j : Nat) : (s.modTeam i f).core j = s.core j := rfl
@[simp] theorem ctx_modTeam (s : State) (i : Nat) (f : Team → Team) (j : Nat) : (s.modTeam i f).ctx j = s.ctx j := rfl
@[simp] theorem core_setGrid (s : State) (i : Nat) (x : Grid) (j : Nat) : (s.setGrid i x).core j = s.core j := rfl
@[simp] theorem ctx_setGrid (s : State) (i : Nat) (x : Grid) (j : Nat) : (s.setGrid i x).ctx j = s.ctx j := rfl
@[simp] theorem core_modGrid (s : State) (i : Nat) (f : Grid → Grid) (j : Nat) : (s.modGrid i f).core j = s.core j := rfl
@[simp] theorem ctx_modGrid (s : State) (i : Nat) (f : Grid → Grid) (j : Nat) : (s.modGrid i f).ctx j = s.ctx j := rfl
@[simp] theorem ctx_setCore (s : State) (i : Nat) (x : Core) (j : Nat) : (s.setCore i x).ctx j = s.ctx j := rfl
@[simp] theorem ctx_modCore (s : State) (i : Nat) (f : Core → Core) (j : Nat) : (s.modCore i f).ctx j = s.ctx j := rfl
@[simp] theorem core_setCtx (s : State) (i : Nat) (x : Ctx) (j : Nat) : (s.setCtx i x).core j = s.core j := rfl
@[simp] theorem core_modCtx (s : State) (i : Nat) (f : Ctx → Ctx) (j : Nat) : (s.modCtx i f).core j = s.core j := rfl
@[simp] theorem core_setQueue (s : State) (i : Nat) (x : Queue) (j : Nat) : (s.setQueue i x).core j = s.core j := rfl
@[simp] theorem ctx_setQueue (s : State) (i : Nat) (x : Queue) (j : Nat) : (s.setQueue i x).ctx j = s.ctx j := rfl
@[simp] theorem core_modCmd (s : State) (i : Nat) (f : Cmd → Cmd) (j : Nat) : (s.modCmd i f).core j = s.core j := rfl
@[simp] theorem ctx_modCmd (s : State) (i : Nat) (f : Cmd → Cmd) (j : Nat) : (s.modCmd i f).ctx j = s.ctx j := rfl
@[simp] theorem core_modOp (s : State) (i : Nat) (f : Op → Op) (j : Nat) : (s.modOp i f).core j = s.core j := rfl
@[simp] theorem ctx_modOp (s : State) (i : Nat) (f : Op → Op) (j : Nat) : (s.modOp i f).ctx j = s.ctx j := rfl
@[simp] theorem core_modIssue (s : State) (f : Issue → Issue) (j : Nat) : (s.modIssue f).core j = s.core j := rfl
@[simp] theorem ctx_modIssue (s : State) (f : Issue → Issue) (j : Nat) : (s.modIssue f).ctx j = s.ctx j := rfl
@[simp] theorem core_post (s : State) (n : Nat) (x : Notice) (j : Nat) : (s.post n x).core j = s.core j := rfl
@[simp] theorem ctx_post (s : State) (n : Nat) (x : Notice) (j : Nat) : (s.post n x).ctx j = s.ctx j := rfl
@[simp] theorem core_writeByte (s : State) (a : Nat) (x : Byte) (j : Nat) : (s.writeByte a x).core j = s.core j := rfl
@[simp] theorem ctx_writeByte (s : State) (a : Nat) (x : Byte) (j : Nat) : (s.writeByte a x).ctx j = s.ctx j := rfl
@[simp] theorem core_setSlots (s : State) (c p n : Nat) (j : Nat) : (s.setSlots c p n).core j = s.core j := rfl
@[simp] theorem ctx_setSlots (s : State) (c p n : Nat) (j : Nat) : (s.setSlots c p n).ctx j = s.ctx j := rfl

end Sys2Proof.Laws
end

