-- ==== Sys2Proof/Laws/Memory.lean ====
section
/-! SUPPORT. Memory: every operation on bytes keeps the canonical form and leaves the rest of the state, and what the operations that share
it leave of memory. -/

namespace Sys2Proof.Laws

open Sys2Proof Sys2Proof.Machine

/-- Memory after reset has the canonical form. -/
theorem reset_memory_wf : Memory.wf State.reset.mem := rfl

theorem wf_writeByte {s : State} (h : Memory.wf s.mem) (a : Nat) (x : Byte) : Memory.wf (s.writeByte a x).mem := wf_put h a x

theorem wf_writeLoc {s : State} (h : Memory.wf s.mem) (l : Loc) (x : Byte) : Memory.wf (s.writeLoc l x).mem := by
  cases l with
  | phys a => exact wf_writeByte h a x
  | bench g o => exact h

theorem wf_writeLocs {s : State} (h : Memory.wf s.mem) (ls : List Loc) (x : Nat) : Memory.wf (s.writeLocs ls x).mem := by
  induction ls generalizing s x with
  | nil => exact h
  | cons l r ih => exact ih (wf_writeLoc h l _) _

theorem wf_writeBytes {s : State} (h : Memory.wf s.mem) (ls : List Loc) (bs : List Byte) : Memory.wf (s.writeBytes ls bs).mem := by
  induction ls generalizing s bs with
  | nil => exact h
  | cons l r ih =>
    cases bs with
    | nil => exact h
    | cons b t => exact ih (wf_writeLoc h l b) t

/-- Writing bytes changes memory and benches, and nothing else. -/
theorem writeLoc_only (s : State) (l : Loc) (x : Byte) :
    s.writeLoc l x = { s with mem := (s.writeLoc l x).mem, wgs := (s.writeLoc l x).wgs } := by
  cases l <;> rfl

theorem writeLocs_only (s : State) (ls : List Loc) (x : Nat) :
    s.writeLocs ls x = { s with mem := (s.writeLocs ls x).mem, wgs := (s.writeLocs ls x).wgs } := by
  induction ls generalizing s x with
  | nil => rfl
  | cons l r ih =>
    simp only [State.writeLocs]
    rw [ih]
    cases l <;> rfl

theorem writeBytes_only (s : State) (ls : List Loc) (bs : List Byte) :
    s.writeBytes ls bs = { s with mem := (s.writeBytes ls bs).mem, wgs := (s.writeBytes ls bs).wgs } := by
  induction ls generalizing s bs with
  | nil => rfl
  | cons l r ih =>
    cases bs with
    | nil => rfl
    | cons b t =>
      simp only [State.writeBytes]
      rw [ih]
      cases l <;> rfl

@[simp] theorem writeLoc_frags (s : State) (l : Loc) (x : Byte) : (s.writeLoc l x).frags = s.frags := by rw [writeLoc_only]
@[simp] theorem writeLoc_warps (s : State) (l : Loc) (x : Byte) : (s.writeLoc l x).warps = s.warps := by rw [writeLoc_only]
@[simp] theorem writeLocs_frags (s : State) (ls : List Loc) (x : Nat) : (s.writeLocs ls x).frags = s.frags := by rw [writeLocs_only]
@[simp] theorem writeLocs_warps (s : State) (ls : List Loc) (x : Nat) : (s.writeLocs ls x).warps = s.warps := by rw [writeLocs_only]
@[simp] theorem writeLocs_ops (s : State) (ls : List Loc) (x : Nat) : (s.writeLocs ls x).ops = s.ops := by rw [writeLocs_only]
@[simp] theorem writeLocs_cmds (s : State) (ls : List Loc) (x : Nat) : (s.writeLocs ls x).cmds = s.cmds := by rw [writeLocs_only]
@[simp] theorem writeLocs_issue (s : State) (ls : List Loc) (x : Nat) : (s.writeLocs ls x).issue = s.issue := by rw [writeLocs_only]

/-- Every workgroup is still there after a byte is written, with its record but for the bench. -/
theorem wg_writeLoc (s : State) (l : Loc) (x : Byte) (g : Nat) :
    ∃ f : Table Byte → Table Byte, (s.writeLoc l x).wg? g = (s.wg? g).map (fun w => { w with bench := f w.bench }) := by
  cases l with
  | phys a => exact ⟨id, by simp [State.writeLoc]⟩
  | bench h o =>
    by_cases e : g = h
    · exact ⟨fun b => Table.put 0 b o x, by simp [State.writeLoc, wg_mod, e]⟩
    · exact ⟨id, by simp [State.writeLoc, wg_mod, e]⟩

theorem wg_isSome_writeLoc (s : State) (l : Loc) (x : Byte) (g : Nat) : ((s.writeLoc l x).wg? g).isSome = (s.wg? g).isSome := by
  obtain ⟨f, h⟩ := wg_writeLoc s l x g
  rw [h, Option.isSome_map]

theorem wg_isSome_writeLocs (s : State) (ls : List Loc) (x : Nat) (g : Nat) : ((s.writeLocs ls x).wg? g).isSome = (s.wg? g).isSome := by
  induction ls generalizing s x with
  | nil => rfl
  | cons l r ih => rw [State.writeLocs, ih, wg_isSome_writeLoc]

/-! ### Updates of registers and tables read the same bytes -/

/-- Bytes are read from memory and benches alone. -/
theorem readLoc_congr {s t : State} (hm : t.mem = s.mem) (hw : ∀ g, (t.wg? g).map Wg.bench = (s.wg? g).map Wg.bench) (l : Loc) :
    t.readLoc l = s.readLoc l := by
  cases l with
  | phys a => simp [State.readLoc, State.readByte, hm]
  | bench g o =>
    have h := hw g
    simp only [State.readLoc]
    cases ht : t.wg? g <;> cases hs : s.wg? g <;> simp_all

theorem readLocs_congr {s t : State} (h : ∀ l, t.readLoc l = s.readLoc l) (ls : List Loc) : t.readLocs ls = s.readLocs ls := by
  induction ls with
  | nil => rfl
  | cons l r ih => simp [State.readLocs, h, ih]

/-! ### The operations that a memory word shares -/

@[simp] theorem fresh_fst (s : State) : s.fresh.1 = s.serial := rfl
@[simp] theorem fresh_snd (s : State) : s.fresh.2 = { s with serial := s.serial + 1 } := rfl

/-- Sending lines takes slots, and nothing else. -/
theorem sendLines_only (s : State) (core : Nat) (ls : List Line) :
    (s.sendLines core ls).1 = { s with slots := (s.sendLines core ls).1.slots } := by
  induction ls generalizing s with
  | nil => rfl
  | cons l r ih =>
    simp only [State.sendLines]
    split
    · exact (ih (s.setSlots core l.port (s.slotsUsed core l.port + 1))).trans rfl
    · exact ih s

/-- Marking dies changes DIEMASK of one context, and nothing else. -/
theorem markDies_only (s : State) (c : Nat) (b : BitVec 8) : s.markDies c b = { s with ctxs := (s.markDies c b).ctxs } := by
  simp only [State.markDies]; split <;> rfl

/-- Taking an operation into the tables touches the operation table, the fragment's sets, slots, dies, the loads made early and the next
identity. -/
theorem addOp_only (s : State) (fid core : Nat) (o : Op) (rs : List Reg) :
    (s.addOp fid core o rs).2 = { s with
      serial := s.serial + 1
      slots := (s.addOp fid core o rs).2.slots
      early := (s.addOp fid core o rs).2.early
      ops := (s.addOp fid core o rs).2.ops
      frags := (s.addOp fid core o rs).2.frags
      ctxs := (s.addOp fid core o rs).2.ctxs } := by
  simp only [State.addOp]
  rw [markDies_only, sendLines_only]
  rfl

theorem addOp_fst (s : State) (fid core : Nat) (o : Op) (rs : List Reg) : (s.addOp fid core o rs).1 = s.serial := rfl

/-- The operation under the next identity. -/
theorem addOp_ops (s : State) (fid core : Nat) (o : Op) (rs : List Reg) : ∃ ls,
    (s.addOp fid core o rs).2.ops = Table.set s.ops s.serial { o with lines := ls, arrived := s.serial } := by
  refine ⟨(s.fresh.2.sendLines core ((s.fresh.2.linesOf o.lanes).map (fun p => ⟨p.1, p.2, false, false⟩))).2, ?_⟩
  simp only [State.addOp]
  rw [markDies_only, sendLines_only]
  rfl

/-- Performing the lanes of a load changes registers alone. -/
theorem writeDest_memory (s : State) (id w n : Nat) (d : Dest) (lane x : Nat) :
    (s.writeDest id w n d lane x).mem = s.mem ∧ (s.writeDest id w n d lane x).wgs = s.wgs := by
  cases d <;> simp only [State.writeDest]
  · exact ⟨trivial, trivial⟩
  · exact ⟨rfl, rfl⟩
  · split <;> exact ⟨rfl, rfl⟩
  · exact ⟨rfl, rfl⟩

end Sys2Proof.Laws
end

