-- ==== Sys2Proof/Laws/Order.lean ====
section
/-! SUPPORT. What is noted of operations left behind touches nothing else of the machine; and where nothing is left behind, nothing is noted. -/

namespace Sys2Proof.Laws

open Sys2Proof.Machine

/-- Nothing differs but what is noted of operations left behind and of packets as they once stood. -/
def OnlyTrails (s t : State) : Prop := t = { s with debts := t.debts, old := t.old }

theorem OnlyTrails.refl (s : State) : OnlyTrails s s := rfl

theorem OnlyTrails.trans {s t u : State} (h : OnlyTrails s t) (k : OnlyTrails t u) : OnlyTrails s u := by
  unfold OnlyTrails at *
  rw [k, h]

/-- No byte of memory or bench differs. -/
theorem OnlyTrails.readLoc {s t : State} (h : OnlyTrails s t) (l : Loc) : t.readLoc l = s.readLoc l := by
  rw [h]
  cases l <;> rfl

theorem mapTrails_onlyTrails (s : State) (f : Trail → Trail) : OnlyTrails s (s.mapTrails f) := by
  unfold State.mapTrails OnlyTrails
  split <;> rfl

theorem mapTrails_untrailed {s : State} (h : s.untrailed = true) (f : Trail → Trail) : s.mapTrails f = s := by
  simp only [State.mapTrails, h, if_true]

/-- Which operations are left behind, and which packets are held as they once stood, is as before. -/
theorem mapTrails_debts (s : State) (f : Trail → Trail) : (s.mapTrails f).debts.map Debt.op = s.debts.map Debt.op := by
  unfold State.mapTrails
  split
  · rfl
  · simp [Function.comp_def]

theorem mapTrails_old (s : State) (f : Trail → Trail) : (s.mapTrails f).old.map OldPacket.words = s.old.map OldPacket.words := by
  unfold State.mapTrails
  split
  · rfl
  · simp [Function.comp_def]

theorem overwritten_onlyTrails (s : State) (ls : List Loc) : OnlyTrails s (s.overwritten ls) := mapTrails_onlyTrails s _
theorem releaseTo_onlyTrails (s : State) (w j : Nat) (ls : Lanes) (c : Carrier) : OnlyTrails s (s.releaseTo w j ls c) := mapTrails_onlyTrails s _
theorem passOn_onlyTrails (s : State) (p : Carrier → Bool) (c : Carrier) : OnlyTrails s (s.passOn p c) := mapTrails_onlyTrails s _
theorem handTo_onlyTrails (s : State) (p : Carrier → Bool) (w g : Nat) (ls : Lanes) : OnlyTrails s (s.handTo p w g ls) := mapTrails_onlyTrails s _
theorem learnEnds_onlyTrails (s : State) (p : Nat → Bool) (w g : Nat) (ls : Lanes) : OnlyTrails s (s.learnEnds p w g ls) := mapTrails_onlyTrails s _
theorem learnArrivals_onlyTrails (s : State) (l : List (Nat × Nat × Lanes)) : OnlyTrails s (s.learnArrivals l) := mapTrails_onlyTrails s _

theorem changeCode_onlyTrails (s : State) (i : Nat) (o : Op) (l : LaneAcc) (t : Trail) : OnlyTrails s (s.changeCode i o l t) := by
  unfold State.changeCode
  split <;> rfl

/-- The performing of a part, as what is left behind sees it. -/
theorem note_onlyTrails (s : State) (i : Nat) (k : Option Nat) (o : Op) (l : LaneAcc) : OnlyTrails s (s.note i k o l) := by
  unfold State.note
  split
  · rfl
  · have h : OnlyTrails s (({ s with debts := s.debts.filter (fun d => !(d.op == i && d.part == l.number)) } : State).mapTrails (s.traced i k o l)) :=
      OnlyTrails.trans (by rfl) (mapTrails_onlyTrails _ _)
    dsimp only
    split
    · exact h.trans (changeCode_onlyTrails _ _ _ _ _)
    · exact h

theorem trackPart_onlyTrails (s : State) (i : Nat) (o : Op) (l : LaneAcc) (b : Bool) : OnlyTrails s (s.trackPart i o l b) := by
  unfold State.trackPart
  split <;> rfl

theorem noteRead_onlyTrails (s : State) (i : Nat) (o : Op) (l : LaneAcc) : OnlyTrails s (s.noteRead i o l) := by
  unfold State.noteRead
  split
  · rfl
  · exact mapTrails_onlyTrails s _

/-- A part that is left behind is not performed by that. -/
theorem leavePart_onlyTrails (s : State) (i : Nat) (o : Op) (l : LaneAcc) : OnlyTrails s (s.leavePart i o l) := by
  unfold State.leavePart
  split
  · exact (noteRead_onlyTrails s i o l).trans (trackPart_onlyTrails _ _ _ _ _)
  · rfl

/-- Where nothing is left behind, no operation is kept back by what has passed another. -/
theorem barred_of_no_debts {s : State} (h : s.debts = []) (i : Nat) (y : Op) (m : LaneAcc) : s.barred i y m = false := by
  simp only [State.barred, h, List.any_nil]

end Sys2Proof.Laws
end

