-- ==== Sys2Proof/Laws/PerInstr.lean ====
section
/-! SUPPORT. The encoding of every instruction, one lemma for each constructor: its word decodes to it (R89, R105, R109). -/

namespace Sys2Proof.Laws.Encoding

set_option Elab.async false
set_option linter.unusedSimpArgs false

/-- Where the operands of an instruction hold no reserved value, the word written for it with any chain bit and stall count decodes
to that chain bit, that stall count and that instruction, with every operand. An event has no word. -/
def Statement (i : Instr) : Prop :=
  ∀ (c : Bool) (st : BitVec 3) (w : Word), i.wf = true → encodeWord c st i = some w → decode w = .ok ⟨c, st, i⟩

/-- A field within the lower of two joined parts. -/
theorem field_low {v w : Nat} {x : BitVec v} {y : BitVec w} {lo len : Nat} (h : lo + len ≤ w) :
    (x ++ y).extractLsb' lo len = y.extractLsb' lo len := BitVec.extractLsb'_append_eq_of_add_le h

/-- A field within the upper of two joined parts. -/
theorem field_high {v w : Nat} {x : BitVec v} {y : BitVec w} {lo len : Nat} (h : w ≤ lo) :
    (x ++ y).extractLsb' lo len = x.extractLsb' (lo - w) len := BitVec.extractLsb'_append_eq_of_le h

/-- A field of the operand bits is a field of the word. -/
theorem field_nested {n : Nat} (x : BitVec n) (lo len m : Nat) (h : lo + len ≤ m) :
    (x.extractLsb' 0 m).extractLsb' lo len = x.extractLsb' lo len := by
  ext i hi
  simp
  omega

/-- A word is read by its opcode and operand bits; its chain bit and stall count stand above them. -/
theorem reads {n : Nat} (hn : n = 28) (c : Bool) (st : BitVec 3) (x : BitVec n) (w : Word)
    (hx : w = (BitVec.ofBool c ++ st ++ x).cast (by subst hn; rfl)) (r : Except Reject Instr)
    (ho : decodeShape (x.extractLsb' 22 6) (x.extractLsb' 0 22) = r) {i : Instr} (h : r = .ok i) (hw : i.wf = true) :
    decode w = .ok ⟨c, st, i⟩ := by
  subst hn hx
  rw [h] at ho
  rw [BitVec.cast_eq]
  have op : (BitVec.ofBool c ++ st ++ x).extractLsb' 22 6 = x.extractLsb' 22 6 := field_low (by omega)
  have args : (BitVec.ofBool c ++ st ++ x).extractLsb' 0 22 = x.extractLsb' 0 22 := field_low (by omega)
  have stall : (BitVec.ofBool c ++ st ++ x).extractLsb' 28 3 = st := by
    rw [field_high (by omega), field_low (by omega)]
    simp
  have chain : (BitVec.ofBool c ++ st ++ x).getLsbD 31 = c := by
    rw [BitVec.getLsbD_append, if_neg (by omega), BitVec.getLsbD_append, if_neg (by omega)]
    cases c <;> rfl
  simp only [decode, decodeBody, op, args, stall, chain, ho, hw, if_true]

theorem sadd (d a b) : Statement (.sadd d a b) := fun c st w hw h =>
  reads (n := 6+6+6+6+4) rfl c st (0x01#6 ++ d ++ a ++ b ++ 0#4) w (Option.some.inj h).symm
    (decodeOp01 _) (by simp (disch := omega) only [field_high]; rfl)
    (by simp (disch := omega) only [-Nat.reduceAdd, decodeOp01, field_low, field_high, field_nested, BitVec.extractLsb'_eq_self, Nat.reduceSub]) hw
theorem ssub (d a b) : Statement (.ssub d a b) := fun c st w hw h =>
  reads (n := 6+6+6+6+4) rfl c st (0x01#6 ++ d ++ a ++ b ++ 1#4) w (Option.some.inj h).symm
    (decodeOp01 _) (by simp (disch := omega) only [field_high]; rfl)
    (by simp (disch := omega) only [-Nat.reduceAdd, decodeOp01, field_low, field_high, field_nested, BitVec.extractLsb'_eq_self, Nat.reduceSub]) hw
theorem smul (d a b) : Statement (.smul d a b) := fun c st w hw h =>
  reads (n := 6+6+6+6+4) rfl c st (0x01#6 ++ d ++ a ++ b ++ 2#4) w (Option.some.inj h).symm
    (decodeOp01 _) (by simp (disch := omega) only [field_high]; rfl)
    (by simp (disch := omega) only [-Nat.reduceAdd, decodeOp01, field_low, field_high, field_nested, BitVec.extractLsb'_eq_self, Nat.reduceSub]) hw
theorem smulh (d a b) : Statement (.smulh d a b) := fun c st w hw h =>
  reads (n := 6+6+6+6+4) rfl c st (0x01#6 ++ d ++ a ++ b ++ 3#4) w (Option.some.inj h).symm
    (decodeOp01 _) (by simp (disch := omega) only [field_high]; rfl)
    (by simp (disch := omega) only [-Nat.reduceAdd, decodeOp01, field_low, field_high, field_nested, BitVec.extractLsb'_eq_self, Nat.reduceSub]) hw
theorem smulhu (d a b) : Statement (.smulhu d a b) := fun c st w hw h =>
  reads (n := 6+6+6+6+4) rfl c st (0x01#6 ++ d ++ a ++ b ++ 4#4) w (Option.some.inj h).symm
    (decodeOp01 _) (by simp (disch := omega) only [field_high]; rfl)
    (by simp (disch := omega) only [-Nat.reduceAdd, decodeOp01, field_low, field_high, field_nested, BitVec.extractLsb'_eq_self, Nat.reduceSub]) hw
theorem sand (d a b) : Statement (.sand d a b) := fun c st w hw h =>
  reads (n := 6+6+6+6+4) rfl c st (0x01#6 ++ d ++ a ++ b ++ 5#4) w (Option.some.inj h).symm
    (decodeOp01 _) (by simp (disch := omega) only [field_high]; rfl)
    (by simp (disch := omega) only [-Nat.reduceAdd, decodeOp01, field_low, field_high, field_nested, BitVec.extractLsb'_eq_self, Nat.reduceSub]) hw
theorem sor (d a b) : Statement (.sor d a b) := fun c st w hw h =>
  reads (n := 6+6+6+6+4) rfl c st (0x01#6 ++ d ++ a ++ b ++ 6#4) w (Option.some.inj h).symm
    (decodeOp01 _) (by simp (disch := omega) only [field_high]; rfl)
    (by simp (disch := omega) only [-Nat.reduceAdd, decodeOp01, field_low, field_high, field_nested, BitVec.extractLsb'_eq_self, Nat.reduceSub]) hw
theorem sxor (d a b) : Statement (.sxor d a b) := fun c st w hw h =>
  reads (n := 6+6+6+6+4) rfl c st (0x01#6 ++ d ++ a ++ b ++ 7#4) w (Option.some.inj h).symm
    (decodeOp01 _) (by simp (disch := omega) only [field_high]; rfl)
    (by simp (disch := omega) only [-Nat.reduceAdd, decodeOp01, field_low, field_high, field_nested, BitVec.extractLsb'_eq_self, Nat.reduceSub]) hw
theorem sshl (d a b) : Statement (.sshl d a b) := fun c st w hw h =>
  reads (n := 6+6+6+6+4) rfl c st (0x01#6 ++ d ++ a ++ b ++ 8#4) w (Option.some.inj h).symm
    (decodeOp01 _) (by simp (disch := omega) only [field_high]; rfl)
    (by simp (disch := omega) only [-Nat.reduceAdd, decodeOp01, field_low, field_high, field_nested, BitVec.extractLsb'_eq_self, Nat.reduceSub]) hw
theorem sshr (d a b) : Statement (.sshr d a b) := fun c st w hw h =>
  reads (n := 6+6+6+6+4) rfl c st (0x01#6 ++ d ++ a ++ b ++ 9#4) w (Option.some.inj h).symm
    (decodeOp01 _) (by simp (disch := omega) only [field_high]; rfl)
    (by simp (disch := omega) only [-Nat.reduceAdd, decodeOp01, field_low, field_high, field_nested, BitVec.extractLsb'_eq_self, Nat.reduceSub]) hw
theorem ssra (d a b) : Statement (.ssra d a b) := fun c st w hw h =>
  reads (n := 6+6+6+6+4) rfl c st (0x01#6 ++ d ++ a ++ b ++ 10#4) w (Option.some.inj h).symm
    (decodeOp01 _) (by simp (disch := omega) only [field_high]; rfl)
    (by simp (disch := omega) only [-Nat.reduceAdd, decodeOp01, field_low, field_high, field_nested, BitVec.extractLsb'_eq_self, Nat.reduceSub]) hw
theorem smin (d a b) : Statement (.smin d a b) := fun c st w hw h =>
  reads (n := 6+6+6+6+4) rfl c st (0x01#6 ++ d ++ a ++ b ++ 11#4) w (Option.some.inj h).symm
    (decodeOp01 _) (by simp (disch := omega) only [field_high]; rfl)
    (by simp (disch := omega) only [-Nat.reduceAdd, decodeOp01, field_low, field_high, field_nested, BitVec.extractLsb'_eq_self, Nat.reduceSub]) hw
theorem smax (d a b) : Statement (.smax d a b) := fun c st w hw h =>
  reads (n := 6+6+6+6+4) rfl c st (0x01#6 ++ d ++ a ++ b ++ 12#4) w (Option.some.inj h).symm
    (decodeOp01 _) (by simp (disch := omega) only [field_high]; rfl)
    (by simp (disch := omega) only [-Nat.reduceAdd, decodeOp01, field_low, field_high, field_nested, BitVec.extractLsb'_eq_self, Nat.reduceSub]) hw
theorem sminu (d a b) : Statement (.sminu d a b) := fun c st w hw h =>
  reads (n := 6+6+6+6+4) rfl c st (0x01#6 ++ d ++ a ++ b ++ 13#4) w (Option.some.inj h).symm
    (decodeOp01 _) (by simp (disch := omega) only [field_high]; rfl)
    (by simp (disch := omega) only [-Nat.reduceAdd, decodeOp01, field_low, field_high, field_nested, BitVec.extractLsb'_eq_self, Nat.reduceSub]) hw
theorem smaxu (d a b) : Statement (.smaxu d a b) := fun c st w hw h =>
  reads (n := 6+6+6+6+4) rfl c st (0x01#6 ++ d ++ a ++ b ++ 14#4) w (Option.some.inj h).symm
    (decodeOp01 _) (by simp (disch := omega) only [field_high]; rfl)
    (by simp (disch := omega) only [-Nat.reduceAdd, decodeOp01, field_low, field_high, field_nested, BitVec.extractLsb'_eq_self, Nat.reduceSub]) hw
theorem sslt (d a b) : Statement (.sslt d a b) := fun c st w hw h =>
  reads (n := 6+6+6+6+4) rfl c st (0x01#6 ++ d ++ a ++ b ++ 15#4) w (Option.some.inj h).symm
    (decodeOp01 _) (by simp (disch := omega) only [field_high]; rfl)
    (by simp (disch := omega) only [-Nat.reduceAdd, decodeOp01, field_low, field_high, field_nested, BitVec.extractLsb'_eq_self, Nat.reduceSub]; rfl) hw
theorem ssltu (d a b) : Statement (.ssltu d a b) := fun c st w hw h =>
  reads (n := 6+6+6+6+4) rfl c st (0x02#6 ++ d ++ a ++ b ++ 0#4) w (Option.some.inj h).symm
    (decodeOp02 _) (by simp (disch := omega) only [field_high]; rfl)
    (by simp (disch := omega) only [-Nat.reduceAdd, decodeOp02, field_low, field_high, field_nested, BitVec.extractLsb'_eq_self, Nat.reduceSub]) hw
theorem sdiv (d a b) : Statement (.sdiv d a b) := fun c st w hw h =>
  reads (n := 6+6+6+6+4) rfl c st (0x02#6 ++ d ++ a ++ b ++ 1#4) w (Option.some.inj h).symm
    (decodeOp02 _) (by simp (disch := omega) only [field_high]; rfl)
    (by simp (disch := omega) only [-Nat.reduceAdd, decodeOp02, field_low, field_high, field_nested, BitVec.extractLsb'_eq_self, Nat.reduceSub]) hw
theorem sdivu (d a b) : Statement (.sdivu d a b) := fun c st w hw h =>
  reads (n := 6+6+6+6+4) rfl c st (0x02#6 ++ d ++ a ++ b ++ 2#4) w (Option.some.inj h).symm
    (decodeOp02 _) (by simp (disch := omega) only [field_high]; rfl)
    (by simp (disch := omega) only [-Nat.reduceAdd, decodeOp02, field_low, field_high, field_nested, BitVec.extractLsb'_eq_self, Nat.reduceSub]) hw
theorem srem (d a b) : Statement (.srem d a b) := fun c st w hw h =>
  reads (n := 6+6+6+6+4) rfl c st (0x02#6 ++ d ++ a ++ b ++ 3#4) w (Option.some.inj h).symm
    (decodeOp02 _) (by simp (disch := omega) only [field_high]; rfl)
    (by simp (disch := omega) only [-Nat.reduceAdd, decodeOp02, field_low, field_high, field_nested, BitVec.extractLsb'_eq_self, Nat.reduceSub]) hw
theorem sremu (d a b) : Statement (.sremu d a b) := fun c st w hw h =>
  reads (n := 6+6+6+6+4) rfl c st (0x02#6 ++ d ++ a ++ b ++ 4#4) w (Option.some.inj h).symm
    (decodeOp02 _) (by simp (disch := omega) only [field_high]; rfl)
    (by simp (disch := omega) only [-Nat.reduceAdd, decodeOp02, field_low, field_high, field_nested, BitVec.extractLsb'_eq_self, Nat.reduceSub]) hw
theorem sclz (d a) : Statement (.sclz d a) := fun c st w hw h =>
  reads (n := 6+6+6+10) rfl c st (0x02#6 ++ d ++ a ++ 5#10) w (Option.some.inj h).symm
    (decodeOp02 _) (by simp (disch := omega) only [field_high]; rfl)
    (by simp (disch := omega) only [-Nat.reduceAdd, decodeOp02, field_low, field_high, field_nested, BitVec.extractLsb'_eq_self, Nat.reduceSub]; rfl) hw
theorem spopc (d a) : Statement (.spopc d a) := fun c st w hw h =>
  reads (n := 6+6+6+10) rfl c st (0x02#6 ++ d ++ a ++ 6#10) w (Option.some.inj h).symm
    (decodeOp02 _) (by simp (disch := omega) only [field_high]; rfl)
    (by simp (disch := omega) only [-Nat.reduceAdd, decodeOp02, field_low, field_high, field_nested, BitVec.extractLsb'_eq_self, Nat.reduceSub]; rfl) hw
theorem sbrev (d a) : Statement (.sbrev d a) := fun c st w hw h =>
  reads (n := 6+6+6+10) rfl c st (0x02#6 ++ d ++ a ++ 7#10) w (Option.some.inj h).symm
    (decodeOp02 _) (by simp (disch := omega) only [field_high]; rfl)
    (by simp (disch := omega) only [-Nat.reduceAdd, decodeOp02, field_low, field_high, field_nested, BitVec.extractLsb'_eq_self, Nat.reduceSub]; rfl) hw
theorem ssext (d a wc) : Statement (.ssext d a wc) := fun c st w hw h =>
  reads (n := 6+6+6+6+4) rfl c st (0x02#6 ++ d ++ a ++ wc ++ 8#4) w (Option.some.inj h).symm
    (decodeOp02 _) (by simp (disch := omega) only [field_high]; rfl)
    (by simp (disch := omega) only [-Nat.reduceAdd, decodeOp02, field_low, field_high, field_nested, BitVec.extractLsb'_eq_self, Nat.reduceSub]) hw
theorem szext (d a wc) : Statement (.szext d a wc) := fun c st w hw h =>
  reads (n := 6+6+6+6+4) rfl c st (0x02#6 ++ d ++ a ++ wc ++ 9#4) w (Option.some.inj h).symm
    (decodeOp02 _) (by simp (disch := omega) only [field_high]; rfl)
    (by simp (disch := omega) only [-Nat.reduceAdd, decodeOp02, field_low, field_high, field_nested, BitVec.extractLsb'_eq_self, Nat.reduceSub]) hw
theorem saddi (d a imm) : Statement (.saddi d a imm) := fun c st w hw h =>
  reads (n := 6+6+6+10) rfl c st (0x03#6 ++ d ++ a ++ imm) w (Option.some.inj h).symm
    (decodeOp03 _) (by simp (disch := omega) only [field_high]; rfl)
    (by simp (disch := omega) only [-Nat.reduceAdd, decodeOp03, field_low, field_high, field_nested, BitVec.extractLsb'_eq_self, Nat.reduceSub]) hw
theorem sandi (d a imm) : Statement (.sandi d a imm) := fun c st w hw h =>
  reads (n := 6+6+6+10) rfl c st (0x04#6 ++ d ++ a ++ imm) w (Option.some.inj h).symm
    (decodeOp04 _) (by simp (disch := omega) only [field_high]; rfl)
    (by simp (disch := omega) only [-Nat.reduceAdd, decodeOp04, field_low, field_high, field_nested, BitVec.extractLsb'_eq_self, Nat.reduceSub]) hw
theorem sori (d a imm) : Statement (.sori d a imm) := fun c st w hw h =>
  reads (n := 6+6+6+10) rfl c st (0x05#6 ++ d ++ a ++ imm) w (Option.some.inj h).symm
    (decodeOp05 _) (by simp (disch := omega) only [field_high]; rfl)
    (by simp (disch := omega) only [-Nat.reduceAdd, decodeOp05, field_low, field_high, field_nested, BitVec.extractLsb'_eq_self, Nat.reduceSub]) hw
theorem sxori (d a imm) : Statement (.sxori d a imm) := fun c st w hw h =>
  reads (n := 6+6+6+10) rfl c st (0x06#6 ++ d ++ a ++ imm) w (Option.some.inj h).symm
    (decodeOp06 _) (by simp (disch := omega) only [field_high]; rfl)
    (by simp (disch := omega) only [-Nat.reduceAdd, decodeOp06, field_low, field_high, field_nested, BitVec.extractLsb'_eq_self, Nat.reduceSub]) hw
theorem sshiShl (d a amt) : Statement (.sshiShl d a amt) := fun c st w hw h =>
  reads (n := 6+6+6+4+6) rfl c st (0x07#6 ++ d ++ a ++ 0#4 ++ amt) w (Option.some.inj h).symm
    (decodeOp07 _) (by simp (disch := omega) only [field_high]; rfl)
    (by simp (disch := omega) only [-Nat.reduceAdd, decodeOp07, field_low, field_high, field_nested, BitVec.extractLsb'_eq_self, Nat.reduceSub]; rfl) hw
theorem sshiShr (d a amt) : Statement (.sshiShr d a amt) := fun c st w hw h =>
  reads (n := 6+6+6+4+6) rfl c st (0x07#6 ++ d ++ a ++ 4#4 ++ amt) w (Option.some.inj h).symm
    (decodeOp07 _) (by simp (disch := omega) only [field_high]; rfl)
    (by simp (disch := omega) only [-Nat.reduceAdd, decodeOp07, field_low, field_high, field_nested, BitVec.extractLsb'_eq_self, Nat.reduceSub]; rfl) hw
theorem sshiSra (d a amt) : Statement (.sshiSra d a amt) := fun c st w hw h =>
  reads (n := 6+6+6+4+6) rfl c st (0x07#6 ++ d ++ a ++ 8#4 ++ amt) w (Option.some.inj h).symm
    (decodeOp07 _) (by simp (disch := omega) only [field_high]; rfl)
    (by simp (disch := omega) only [-Nat.reduceAdd, decodeOp07, field_low, field_high, field_nested, BitVec.extractLsb'_eq_self, Nat.reduceSub]; rfl) hw
theorem sshiRor (d a amt) : Statement (.sshiRor d a amt) := fun c st w hw h =>
  reads (n := 6+6+6+4+6) rfl c st (0x07#6 ++ d ++ a ++ 12#4 ++ amt) w (Option.some.inj h).symm
    (decodeOp07 _) (by simp (disch := omega) only [field_high]; rfl)
    (by simp (disch := omega) only [-Nat.reduceAdd, decodeOp07, field_low, field_high, field_nested, BitVec.extractLsb'_eq_self, Nat.reduceSub]; rfl) hw
theorem smovk (d imm) : Statement (.smovk d imm) := fun c st w hw h =>
  reads (n := 6+6+16) rfl c st (0x08#6 ++ d ++ imm) w (Option.some.inj h).symm
    (decodeOp08 _) (by simp (disch := omega) only [field_high]; rfl)
    (by simp (disch := omega) only [-Nat.reduceAdd, decodeOp08, field_low, field_high, field_nested, BitVec.extractLsb'_eq_self, Nat.reduceSub]) hw
theorem smovks (d imm) : Statement (.smovks d imm) := fun c st w hw h =>
  reads (n := 6+6+16) rfl c st (0x09#6 ++ d ++ imm) w (Option.some.inj h).symm
    (decodeOp09 _) (by simp (disch := omega) only [field_high]; rfl)
    (by simp (disch := omega) only [-Nat.reduceAdd, decodeOp09, field_low, field_high, field_nested, BitVec.extractLsb'_eq_self, Nat.reduceSub]) hw
theorem brcEqz (a off) : Statement (.brcEqz a off) := fun c st w hw h =>
  reads (n := 6+4+6+12) rfl c st (0x0A#6 ++ 0#4 ++ a ++ off) w (Option.some.inj h).symm
    (decodeOp0A _) (by simp (disch := omega) only [field_high]; rfl)
    (by simp (disch := omega) only [-Nat.reduceAdd, decodeOp0A, field_low, field_high, field_nested, BitVec.extractLsb'_eq_self, Nat.reduceSub]) hw
theorem brcNez (a off) : Statement (.brcNez a off) := fun c st w hw h =>
  reads (n := 6+4+6+12) rfl c st (0x0A#6 ++ 1#4 ++ a ++ off) w (Option.some.inj h).symm
    (decodeOp0A _) (by simp (disch := omega) only [field_high]; rfl)
    (by simp (disch := omega) only [-Nat.reduceAdd, decodeOp0A, field_low, field_high, field_nested, BitVec.extractLsb'_eq_self, Nat.reduceSub]) hw
theorem brcLtz (a off) : Statement (.brcLtz a off) := fun c st w hw h =>
  reads (n := 6+4+6+12) rfl c st (0x0A#6 ++ 2#4 ++ a ++ off) w (Option.some.inj h).symm
    (decodeOp0A _) (by simp (disch := omega) only [field_high]; rfl)
    (by simp (disch := omega) only [-Nat.reduceAdd, decodeOp0A, field_low, field_high, field_nested, BitVec.extractLsb'_eq_self, Nat.reduceSub]) hw
theorem brcGez (a off) : Statement (.brcGez a off) := fun c st w hw h =>
  reads (n := 6+4+6+12) rfl c st (0x0A#6 ++ 3#4 ++ a ++ off) w (Option.some.inj h).symm
    (decodeOp0A _) (by simp (disch := omega) only [field_high]; rfl)
    (by simp (disch := omega) only [-Nat.reduceAdd, decodeOp0A, field_low, field_high, field_nested, BitVec.extractLsb'_eq_self, Nat.reduceSub]) hw
theorem brcAny (m off) : Statement (.brcAny m off) := fun c st w hw h =>
  reads (n := 6+7+3+12) rfl c st (0x0A#6 ++ 32#7 ++ m ++ off) w (Option.some.inj h).symm
    (decodeOp0A _) (by simp (disch := omega) only [field_high]; rfl)
    (by simp (disch := omega) only [-Nat.reduceAdd, decodeOp0A, field_low, field_high, field_nested, BitVec.extractLsb'_eq_self, Nat.reduceSub]; rfl) hw
theorem brcAll (m off) : Statement (.brcAll m off) := fun c st w hw h =>
  reads (n := 6+7+3+12) rfl c st (0x0A#6 ++ 40#7 ++ m ++ off) w (Option.some.inj h).symm
    (decodeOp0A _) (by simp (disch := omega) only [field_high]; rfl)
    (by simp (disch := omega) only [-Nat.reduceAdd, decodeOp0A, field_low, field_high, field_nested, BitVec.extractLsb'_eq_self, Nat.reduceSub]; rfl) hw
theorem brcNone (m off) : Statement (.brcNone m off) := fun c st w hw h =>
  reads (n := 6+7+3+12) rfl c st (0x0A#6 ++ 48#7 ++ m ++ off) w (Option.some.inj h).symm
    (decodeOp0A _) (by simp (disch := omega) only [field_high]; rfl)
    (by simp (disch := omega) only [-Nat.reduceAdd, decodeOp0A, field_low, field_high, field_nested, BitVec.extractLsb'_eq_self, Nat.reduceSub]; rfl) hw
theorem brcSplit (m off) : Statement (.brcSplit m off) := fun c st w hw h =>
  reads (n := 6+7+3+12) rfl c st (0x0A#6 ++ 56#7 ++ m ++ off) w (Option.some.inj h).symm
    (decodeOp0A _) (by simp (disch := omega) only [field_high]; rfl)
    (by simp (disch := omega) only [-Nat.reduceAdd, decodeOp0A, field_low, field_high, field_nested, BitVec.extractLsb'_eq_self, Nat.reduceSub]; rfl) hw
theorem jmp (off) : Statement (.jmp off) := fun c st w hw h =>
  reads (n := 6+22) rfl c st (0x0B#6 ++ off) w (Option.some.inj h).symm
    (decodeOp0B _) (by simp (disch := omega) only [field_high]; rfl)
    (by simp (disch := omega) only [-Nat.reduceAdd, decodeOp0B, field_low, field_high, field_nested, BitVec.extractLsb'_eq_self, Nat.reduceSub]) hw
theorem call (off) : Statement (.call off) := fun c st w hw h =>
  reads (n := 6+22) rfl c st (0x0C#6 ++ off) w (Option.some.inj h).symm
    (decodeOp0C _) (by simp (disch := omega) only [field_high]; rfl)
    (by simp (disch := omega) only [-Nat.reduceAdd, decodeOp0C, field_low, field_high, field_nested, BitVec.extractLsb'_eq_self, Nat.reduceSub]) hw
theorem jmpr (a) : Statement (.jmpr a) := fun c st w hw h =>
  reads (n := 6+6+6+10) rfl c st (0x0D#6 ++ 0#6 ++ a ++ 0#10) w (Option.some.inj h).symm
    (decodeOp0D _) (by simp (disch := omega) only [field_high]; rfl)
    (by simp (disch := omega) only [-Nat.reduceAdd, decodeOp0D, field_low, field_high, field_nested, BitVec.extractLsb'_eq_self, Nat.reduceSub]; rfl) hw
theorem callr (a) : Statement (.callr a) := fun c st w hw h =>
  reads (n := 6+6+6+10) rfl c st (0x0D#6 ++ 0#6 ++ a ++ 1#10) w (Option.some.inj h).symm
    (decodeOp0D _) (by simp (disch := omega) only [field_high]; rfl)
    (by simp (disch := omega) only [-Nat.reduceAdd, decodeOp0D, field_low, field_high, field_nested, BitVec.extractLsb'_eq_self, Nat.reduceSub]; rfl) hw
theorem ret (a) : Statement (.ret a) := fun c st w hw h =>
  reads (n := 6+6+6+10) rfl c st (0x0D#6 ++ 0#6 ++ a ++ 2#10) w (Option.some.inj h).symm
    (decodeOp0D _) (by simp (disch := omega) only [field_high]; rfl)
    (by simp (disch := omega) only [-Nat.reduceAdd, decodeOp0D, field_low, field_high, field_nested, BitVec.extractLsb'_eq_self, Nat.reduceSub]; rfl) hw
theorem mand (d a b) : Statement (.mand d a b) := fun c st w hw h =>
  reads (n := 6+3+3+3+3+3+3+4) rfl c st (0x0E#6 ++ 0#3 ++ d ++ 0#3 ++ a ++ 0#3 ++ b ++ 0#4) w (Option.some.inj h).symm
    (decodeOp0E _) (by simp (disch := omega) only [field_high]; rfl)
    (by simp (disch := omega) only [-Nat.reduceAdd, decodeOp0E, field_low, field_high, field_nested, BitVec.extractLsb'_eq_self, Nat.reduceSub]; rfl) hw
theorem mor (d a b) : Statement (.mor d a b) := fun c st w hw h =>
  reads (n := 6+3+3+3+3+3+3+4) rfl c st (0x0E#6 ++ 0#3 ++ d ++ 0#3 ++ a ++ 0#3 ++ b ++ 1#4) w (Option.some.inj h).symm
    (decodeOp0E _) (by simp (disch := omega) only [field_high]; rfl)
    (by simp (disch := omega) only [-Nat.reduceAdd, decodeOp0E, field_low, field_high, field_nested, BitVec.extractLsb'_eq_self, Nat.reduceSub]; rfl) hw
theorem mxor (d a b) : Statement (.mxor d a b) := fun c st w hw h =>
  reads (n := 6+3+3+3+3+3+3+4) rfl c st (0x0E#6 ++ 0#3 ++ d ++ 0#3 ++ a ++ 0#3 ++ b ++ 2#4) w (Option.some.inj h).symm
    (decodeOp0E _) (by simp (disch := omega) only [field_high]; rfl)
    (by simp (disch := omega) only [-Nat.reduceAdd, decodeOp0E, field_low, field_high, field_nested, BitVec.extractLsb'_eq_self, Nat.reduceSub]; rfl) hw
theorem mandn (d a b) : Statement (.mandn d a b) := fun c st w hw h =>
  reads (n := 6+3+3+3+3+3+3+4) rfl c st (0x0E#6 ++ 0#3 ++ d ++ 0#3 ++ a ++ 0#3 ++ b ++ 3#4) w (Option.some.inj h).symm
    (decodeOp0E _) (by simp (disch := omega) only [field_high]; rfl)
    (by simp (disch := omega) only [-Nat.reduceAdd, decodeOp0E, field_low, field_high, field_nested, BitVec.extractLsb'_eq_self, Nat.reduceSub]; rfl) hw
theorem mnot (d a) : Statement (.mnot d a) := fun c st w hw h =>
  reads (n := 6+3+3+3+3+10) rfl c st (0x0E#6 ++ 0#3 ++ d ++ 0#3 ++ a ++ 4#10) w (Option.some.inj h).symm
    (decodeOp0E _) (by simp (disch := omega) only [field_high]; rfl)
    (by simp (disch := omega) only [-Nat.reduceAdd, decodeOp0E, field_low, field_high, field_nested, BitVec.extractLsb'_eq_self, Nat.reduceSub]; rfl) hw
theorem mpopc (d a) : Statement (.mpopc d a) := fun c st w hw h =>
  reads (n := 6+6+3+3+10) rfl c st (0x0E#6 ++ d ++ 0#3 ++ a ++ 5#10) w (Option.some.inj h).symm
    (decodeOp0E _) (by simp (disch := omega) only [field_high]; rfl)
    (by simp (disch := omega) only [-Nat.reduceAdd, decodeOp0E, field_low, field_high, field_nested, BitVec.extractLsb'_eq_self, Nat.reduceSub]; rfl) hw
theorem mffs (d a) : Statement (.mffs d a) := fun c st w hw h =>
  reads (n := 6+6+3+3+10) rfl c st (0x0E#6 ++ d ++ 0#3 ++ a ++ 6#10) w (Option.some.inj h).symm
    (decodeOp0E _) (by simp (disch := omega) only [field_high]; rfl)
    (by simp (disch := omega) only [-Nat.reduceAdd, decodeOp0E, field_low, field_high, field_nested, BitVec.extractLsb'_eq_self, Nat.reduceSub]; rfl) hw
theorem mtos (d a) : Statement (.mtos d a) := fun c st w hw h =>
  reads (n := 6+6+3+3+10) rfl c st (0x0E#6 ++ d ++ 0#3 ++ a ++ 7#10) w (Option.some.inj h).symm
    (decodeOp0E _) (by simp (disch := omega) only [field_high]; rfl)
    (by simp (disch := omega) only [-Nat.reduceAdd, decodeOp0E, field_low, field_high, field_nested, BitVec.extractLsb'_eq_self, Nat.reduceSub]; rfl) hw
theorem stom (d a) : Statement (.stom d a) := fun c st w hw h =>
  reads (n := 6+3+3+6+10) rfl c st (0x0E#6 ++ 0#3 ++ d ++ a ++ 8#10) w (Option.some.inj h).symm
    (decodeOp0E _) (by simp (disch := omega) only [field_high]; rfl)
    (by simp (disch := omega) only [-Nat.reduceAdd, decodeOp0E, field_low, field_high, field_nested, BitVec.extractLsb'_eq_self, Nat.reduceSub]; rfl) hw
theorem mact (d) : Statement (.mact d) := fun c st w hw h =>
  reads (n := 6+3+3+16) rfl c st (0x0E#6 ++ 0#3 ++ d ++ 9#16) w (Option.some.inj h).symm
    (decodeOp0E _) (by simp (disch := omega) only [field_high]; rfl)
    (by simp (disch := omega) only [-Nat.reduceAdd, decodeOp0E, field_low, field_high, field_nested, BitVec.extractLsb'_eq_self, Nat.reduceSub]; rfl) hw
theorem regang : Statement .regang := fun c st w hw h =>
  reads (n := 6+22) rfl c st (0x0F#6 ++ 0#22) w (Option.some.inj h).symm (.ok .regang) rfl rfl hw
theorem setfmt (a) : Statement (.setfmt a) := fun c st w hw h =>
  reads (n := 6+6+6+10) rfl c st (0x0F#6 ++ 0#6 ++ a ++ 1#10) w (Option.some.inj h).symm
    (decodeOp0F _) (by simp (disch := omega) only [field_high]; rfl)
    (by simp (disch := omega) only [-Nat.reduceAdd, decodeOp0F, field_low, field_high, field_nested, BitVec.extractLsb'_eq_self, Nat.reduceSub]; rfl) hw
theorem getfmt (d) : Statement (.getfmt d) := fun c st w hw h =>
  reads (n := 6+6+16) rfl c st (0x0F#6 ++ d ++ 2#16) w (Option.some.inj h).symm
    (decodeOp0F _) (by simp (disch := omega) only [field_high]; rfl)
    (by simp (disch := omega) only [-Nat.reduceAdd, decodeOp0F, field_low, field_high, field_nested, BitVec.extractLsb'_eq_self, Nat.reduceSub]; rfl) hw
theorem setrm (mode) : Statement (.setrm mode) := fun c st w hw h =>
  reads (n := 6+15+3+4) rfl c st (0x0F#6 ++ 0#15 ++ mode ++ 3#4) w (Option.some.inj h).symm
    (decodeOp0F _) (by simp (disch := omega) only [field_high]; rfl)
    (by simp (disch := omega) only [-Nat.reduceAdd, decodeOp0F, field_low, field_high, field_nested, BitVec.extractLsb'_eq_self, Nat.reduceSub]; rfl) hw
theorem yield : Statement .yield := fun c st w hw h =>
  reads (n := 6+22) rfl c st (0x0F#6 ++ 4#22) w (Option.some.inj h).symm (.ok .yield) rfl rfl hw
theorem getcr (d num) : Statement (.getcr d num) := fun c st w hw h =>
  reads (n := 6+6+12+4) rfl c st (0x0F#6 ++ d ++ num ++ 5#4) w (Option.some.inj h).symm
    (decodeOp0F _) (by simp (disch := omega) only [field_high]; rfl)
    (by simp (disch := omega) only [-Nat.reduceAdd, decodeOp0F, field_low, field_high, field_nested, BitVec.extractLsb'_eq_self, Nat.reduceSub]) hw
theorem setcr (d num) : Statement (.setcr d num) := fun c st w hw h =>
  reads (n := 6+6+12+4) rfl c st (0x0F#6 ++ d ++ num ++ 6#4) w (Option.some.inj h).symm
    (decodeOp0F _) (by simp (disch := omega) only [field_high]; rfl)
    (by simp (disch := omega) only [-Nat.reduceAdd, decodeOp0F, field_low, field_high, field_nested, BitVec.extractLsb'_eq_self, Nat.reduceSub]) hw
theorem sqmap (a) : Statement (.sqmap a) := fun c st w hw h =>
  reads (n := 6+6+6+10) rfl c st (0x0F#6 ++ 0#6 ++ a ++ 7#10) w (Option.some.inj h).symm
    (decodeOp0F _) (by simp (disch := omega) only [field_high]; rfl)
    (by simp (disch := omega) only [-Nat.reduceAdd, decodeOp0F, field_low, field_high, field_nested, BitVec.extractLsb'_eq_self, Nat.reduceSub]; rfl) hw
theorem fragid (d) : Statement (.fragid d) := fun c st w hw h =>
  reads (n := 6+6+16) rfl c st (0x0F#6 ++ d ++ 8#16) w (Option.some.inj h).symm
    (decodeOp0F _) (by simp (disch := omega) only [field_high]; rfl)
    (by simp (disch := omega) only [-Nat.reduceAdd, decodeOp0F, field_low, field_high, field_nested, BitVec.extractLsb'_eq_self, Nat.reduceSub]; rfl) hw
theorem waitc (lc sc ec) : Statement (.waitc lc sc ec) := fun c st w hw h =>
  reads (n := 6+6+6+4+6) rfl c st (0x10#6 ++ lc ++ sc ++ 0#4 ++ ec) w (Option.some.inj h).symm
    (decodeOp10 _) (by simp (disch := omega) only [field_high]; rfl)
    (by simp (disch := omega) only [-Nat.reduceAdd, decodeOp10, field_low, field_high, field_nested, BitVec.extractLsb'_eq_self, Nat.reduceSub]; rfl) hw
theorem vadd (d a b ha hb) : Statement (.vadd d a b ha hb) := fun c st w hw h =>
  reads (n := 6+6+6+6+1+1+2) rfl c st (0x11#6 ++ d ++ a ++ b ++ ha ++ hb ++ 0#2) w (Option.some.inj h).symm
    (decodeOp11 _) (by simp (disch := omega) only [field_high]; rfl)
    (by simp (disch := omega) only [-Nat.reduceAdd, decodeOp11, field_low, field_high, field_nested, BitVec.extractLsb'_eq_self, Nat.reduceSub]) hw
theorem vsub (d a b ha hb) : Statement (.vsub d a b ha hb) := fun c st w hw h =>
  reads (n := 6+6+6+6+1+1+2) rfl c st (0x11#6 ++ d ++ a ++ b ++ ha ++ hb ++ 1#2) w (Option.some.inj h).symm
    (decodeOp11 _) (by simp (disch := omega) only [field_high]; rfl)
    (by simp (disch := omega) only [-Nat.reduceAdd, decodeOp11, field_low, field_high, field_nested, BitVec.extractLsb'_eq_self, Nat.reduceSub]) hw
theorem vadds (d a b ha hb) : Statement (.vadds d a b ha hb) := fun c st w hw h =>
  reads (n := 6+6+6+6+1+1+2) rfl c st (0x11#6 ++ d ++ a ++ b ++ ha ++ hb ++ 2#2) w (Option.some.inj h).symm
    (decodeOp11 _) (by simp (disch := omega) only [field_high]; rfl)
    (by simp (disch := omega) only [-Nat.reduceAdd, decodeOp11, field_low, field_high, field_nested, BitVec.extractLsb'_eq_self, Nat.reduceSub]) hw
theorem vsubs (d a b ha hb) : Statement (.vsubs d a b ha hb) := fun c st w hw h =>
  reads (n := 6+6+6+6+1+1+2) rfl c st (0x11#6 ++ d ++ a ++ b ++ ha ++ hb ++ 3#2) w (Option.some.inj h).symm
    (decodeOp11 _) (by simp (disch := omega) only [field_high]; rfl)
    (by simp (disch := omega) only [-Nat.reduceAdd, decodeOp11, field_low, field_high, field_nested, BitVec.extractLsb'_eq_self, Nat.reduceSub]; rfl) hw
theorem vmul (d a b ha hb) : Statement (.vmul d a b ha hb) := fun c st w hw h =>
  reads (n := 6+6+6+6+1+1+2) rfl c st (0x12#6 ++ d ++ a ++ b ++ ha ++ hb ++ 0#2) w (Option.some.inj h).symm
    (decodeOp12 _) (by simp (disch := omega) only [field_high]; rfl)
    (by simp (disch := omega) only [-Nat.reduceAdd, decodeOp12, field_low, field_high, field_nested, BitVec.extractLsb'_eq_self, Nat.reduceSub]) hw
theorem vmulh (d a b ha hb) : Statement (.vmulh d a b ha hb) := fun c st w hw h =>
  reads (n := 6+6+6+6+1+1+2) rfl c st (0x12#6 ++ d ++ a ++ b ++ ha ++ hb ++ 1#2) w (Option.some.inj h).symm
    (decodeOp12 _) (by simp (disch := omega) only [field_high]; rfl)
    (by simp (disch := omega) only [-Nat.reduceAdd, decodeOp12, field_low, field_high, field_nested, BitVec.extractLsb'_eq_self, Nat.reduceSub]) hw
theorem vmulhu (d a b ha hb) : Statement (.vmulhu d a b ha hb) := fun c st w hw h =>
  reads (n := 6+6+6+6+1+1+2) rfl c st (0x12#6 ++ d ++ a ++ b ++ ha ++ hb ++ 2#2) w (Option.some.inj h).symm
    (decodeOp12 _) (by simp (disch := omega) only [field_high]; rfl)
    (by simp (disch := omega) only [-Nat.reduceAdd, decodeOp12, field_low, field_high, field_nested, BitVec.extractLsb'_eq_self, Nat.reduceSub]) hw
theorem vmad (d a b ha hb) : Statement (.vmad d a b ha hb) := fun c st w hw h =>
  reads (n := 6+6+6+6+1+1+2) rfl c st (0x12#6 ++ d ++ a ++ b ++ ha ++ hb ++ 3#2) w (Option.some.inj h).symm
    (decodeOp12 _) (by simp (disch := omega) only [field_high]; rfl)
    (by simp (disch := omega) only [-Nat.reduceAdd, decodeOp12, field_low, field_high, field_nested, BitVec.extractLsb'_eq_self, Nat.reduceSub]; rfl) hw
theorem vand (d a b ha hb) : Statement (.vand d a b ha hb) := fun c st w hw h =>
  reads (n := 6+6+6+6+1+1+2) rfl c st (0x13#6 ++ d ++ a ++ b ++ ha ++ hb ++ 0#2) w (Option.some.inj h).symm
    (decodeOp13 _) (by simp (disch := omega) only [field_high]; rfl)
    (by simp (disch := omega) only [-Nat.reduceAdd, decodeOp13, field_low, field_high, field_nested, BitVec.extractLsb'_eq_self, Nat.reduceSub]) hw
theorem vor (d a b ha hb) : Statement (.vor d a b ha hb) := fun c st w hw h =>
  reads (n := 6+6+6+6+1+1+2) rfl c st (0x13#6 ++ d ++ a ++ b ++ ha ++ hb ++ 1#2) w (Option.some.inj h).symm
    (decodeOp13 _) (by simp (disch := omega) only [field_high]; rfl)
    (by simp (disch := omega) only [-Nat.reduceAdd, decodeOp13, field_low, field_high, field_nested, BitVec.extractLsb'_eq_self, Nat.reduceSub]) hw
theorem vxor (d a b ha hb) : Statement (.vxor d a b ha hb) := fun c st w hw h =>
  reads (n := 6+6+6+6+1+1+2) rfl c st (0x13#6 ++ d ++ a ++ b ++ ha ++ hb ++ 2#2) w (Option.some.inj h).symm
    (decodeOp13 _) (by simp (disch := omega) only [field_high]; rfl)
    (by simp (disch := omega) only [-Nat.reduceAdd, decodeOp13, field_low, field_high, field_nested, BitVec.extractLsb'_eq_self, Nat.reduceSub]) hw
theorem vandn (d a b ha hb) : Statement (.vandn d a b ha hb) := fun c st w hw h =>
  reads (n := 6+6+6+6+1+1+2) rfl c st (0x13#6 ++ d ++ a ++ b ++ ha ++ hb ++ 3#2) w (Option.some.inj h).symm
    (decodeOp13 _) (by simp (disch := omega) only [field_high]; rfl)
    (by simp (disch := omega) only [-Nat.reduceAdd, decodeOp13, field_low, field_high, field_nested, BitVec.extractLsb'_eq_self, Nat.reduceSub]; rfl) hw
theorem vshl (d a b ha hb) : Statement (.vshl d a b ha hb) := fun c st w hw h =>
  reads (n := 6+6+6+6+1+1+2) rfl c st (0x14#6 ++ d ++ a ++ b ++ ha ++ hb ++ 0#2) w (Option.some.inj h).symm
    (decodeOp14 _) (by simp (disch := omega) only [field_high]; rfl)
    (by simp (disch := omega) only [-Nat.reduceAdd, decodeOp14, field_low, field_high, field_nested, BitVec.extractLsb'_eq_self, Nat.reduceSub]) hw
theorem vshr (d a b ha hb) : Statement (.vshr d a b ha hb) := fun c st w hw h =>
  reads (n := 6+6+6+6+1+1+2) rfl c st (0x14#6 ++ d ++ a ++ b ++ ha ++ hb ++ 1#2) w (Option.some.inj h).symm
    (decodeOp14 _) (by simp (disch := omega) only [field_high]; rfl)
    (by simp (disch := omega) only [-Nat.reduceAdd, decodeOp14, field_low, field_high, field_nested, BitVec.extractLsb'_eq_self, Nat.reduceSub]) hw
theorem vsra (d a b ha hb) : Statement (.vsra d a b ha hb) := fun c st w hw h =>
  reads (n := 6+6+6+6+1+1+2) rfl c st (0x14#6 ++ d ++ a ++ b ++ ha ++ hb ++ 2#2) w (Option.some.inj h).symm
    (decodeOp14 _) (by simp (disch := omega) only [field_high]; rfl)
    (by simp (disch := omega) only [-Nat.reduceAdd, decodeOp14, field_low, field_high, field_nested, BitVec.extractLsb'_eq_self, Nat.reduceSub]) hw
theorem vrot (d a b ha hb) : Statement (.vrot d a b ha hb) := fun c st w hw h =>
  reads (n := 6+6+6+6+1+1+2) rfl c st (0x14#6 ++ d ++ a ++ b ++ ha ++ hb ++ 3#2) w (Option.some.inj h).symm
    (decodeOp14 _) (by simp (disch := omega) only [field_high]; rfl)
    (by simp (disch := omega) only [-Nat.reduceAdd, decodeOp14, field_low, field_high, field_nested, BitVec.extractLsb'_eq_self, Nat.reduceSub]; rfl) hw
theorem vmin (d a b ha hb) : Statement (.vmin d a b ha hb) := fun c st w hw h =>
  reads (n := 6+6+6+6+1+1+2) rfl c st (0x15#6 ++ d ++ a ++ b ++ ha ++ hb ++ 0#2) w (Option.some.inj h).symm
    (decodeOp15 _) (by simp (disch := omega) only [field_high]; rfl)
    (by simp (disch := omega) only [-Nat.reduceAdd, decodeOp15, field_low, field_high, field_nested, BitVec.extractLsb'_eq_self, Nat.reduceSub]) hw
theorem vmax (d a b ha hb) : Statement (.vmax d a b ha hb) := fun c st w hw h =>
  reads (n := 6+6+6+6+1+1+2) rfl c st (0x15#6 ++ d ++ a ++ b ++ ha ++ hb ++ 1#2) w (Option.some.inj h).symm
    (decodeOp15 _) (by simp (disch := omega) only [field_high]; rfl)
    (by simp (disch := omega) only [-Nat.reduceAdd, decodeOp15, field_low, field_high, field_nested, BitVec.extractLsb'_eq_self, Nat.reduceSub]) hw
theorem vminu (d a b ha hb) : Statement (.vminu d a b ha hb) := fun c st w hw h =>
  reads (n := 6+6+6+6+1+1+2) rfl c st (0x15#6 ++ d ++ a ++ b ++ ha ++ hb ++ 2#2) w (Option.some.inj h).symm
    (decodeOp15 _) (by simp (disch := omega) only [field_high]; rfl)
    (by simp (disch := omega) only [-Nat.reduceAdd, decodeOp15, field_low, field_high, field_nested, BitVec.extractLsb'_eq_self, Nat.reduceSub]) hw
theorem vmaxu (d a b ha hb) : Statement (.vmaxu d a b ha hb) := fun c st w hw h =>
  reads (n := 6+6+6+6+1+1+2) rfl c st (0x15#6 ++ d ++ a ++ b ++ ha ++ hb ++ 3#2) w (Option.some.inj h).symm
    (decodeOp15 _) (by simp (disch := omega) only [field_high]; rfl)
    (by simp (disch := omega) only [-Nat.reduceAdd, decodeOp15, field_low, field_high, field_nested, BitVec.extractLsb'_eq_self, Nat.reduceSub]; rfl) hw
theorem vceq (m a b ha hb) : Statement (.vceq m a b ha hb) := fun c st w hw h =>
  reads (n := 6+3+3+6+6+1+1+2) rfl c st (0x16#6 ++ 0#3 ++ m ++ a ++ b ++ ha ++ hb ++ 0#2) w (Option.some.inj h).symm
    (decodeOp16 _) (by simp (disch := omega) only [field_high]; rfl)
    (by simp (disch := omega) only [-Nat.reduceAdd, decodeOp16, field_low, field_high, field_nested, BitVec.extractLsb'_eq_self, Nat.reduceSub]; rfl) hw
theorem vclt (m a b ha hb) : Statement (.vclt m a b ha hb) := fun c st w hw h =>
  reads (n := 6+3+3+6+6+1+1+2) rfl c st (0x16#6 ++ 0#3 ++ m ++ a ++ b ++ ha ++ hb ++ 1#2) w (Option.some.inj h).symm
    (decodeOp16 _) (by simp (disch := omega) only [field_high]; rfl)
    (by simp (disch := omega) only [-Nat.reduceAdd, decodeOp16, field_low, field_high, field_nested, BitVec.extractLsb'_eq_self, Nat.reduceSub]; rfl) hw
theorem vcltu (m a b ha hb) : Statement (.vcltu m a b ha hb) := fun c st w hw h =>
  reads (n := 6+3+3+6+6+1+1+2) rfl c st (0x16#6 ++ 0#3 ++ m ++ a ++ b ++ ha ++ hb ++ 2#2) w (Option.some.inj h).symm
    (decodeOp16 _) (by simp (disch := omega) only [field_high]; rfl)
    (by simp (disch := omega) only [-Nat.reduceAdd, decodeOp16, field_low, field_high, field_nested, BitVec.extractLsb'_eq_self, Nat.reduceSub]; rfl) hw
theorem vcle (m a b ha hb) : Statement (.vcle m a b ha hb) := fun c st w hw h =>
  reads (n := 6+3+3+6+6+1+1+2) rfl c st (0x16#6 ++ 0#3 ++ m ++ a ++ b ++ ha ++ hb ++ 3#2) w (Option.some.inj h).symm
    (decodeOp16 _) (by simp (disch := omega) only [field_high]; rfl)
    (by simp (disch := omega) only [-Nat.reduceAdd, decodeOp16, field_low, field_high, field_nested, BitVec.extractLsb'_eq_self, Nat.reduceSub]; rfl) hw
theorem vbcs (d a ha) : Statement (.vbcs d a ha) := fun c st w hw h =>
  reads (n := 6+6+6+6+1+3) rfl c st (0x17#6 ++ d ++ a ++ 0#6 ++ ha ++ 0#3) w (Option.some.inj h).symm
    (decodeOp17 _) (by simp (disch := omega) only [field_high]; rfl)
    (by simp (disch := omega) only [-Nat.reduceAdd, decodeOp17, field_low, field_high, field_nested, BitVec.extractLsb'_eq_self, Nat.reduceSub]; rfl) hw
theorem vmovm (d a b ha hb) : Statement (.vmovm d a b ha hb) := fun c st w hw h =>
  reads (n := 6+6+6+3+3+1+1+2) rfl c st (0x17#6 ++ d ++ a ++ 0#3 ++ b ++ ha ++ hb ++ 1#2) w (Option.some.inj h).symm
    (decodeOp17 _) (by simp (disch := omega) only [field_high]; rfl)
    (by simp (disch := omega) only [-Nat.reduceAdd, decodeOp17, field_low, field_high, field_nested, BitVec.extractLsb'_eq_self, Nat.reduceSub]; rfl) hw
theorem vlane (d a ha) : Statement (.vlane d a ha) := fun c st w hw h =>
  reads (n := 6+6+6+6+1+3) rfl c st (0x17#6 ++ d ++ a ++ 0#6 ++ ha ++ 2#3) w (Option.some.inj h).symm
    (decodeOp17 _) (by simp (disch := omega) only [field_high]; rfl)
    (by simp (disch := omega) only [-Nat.reduceAdd, decodeOp17, field_low, field_high, field_nested, BitVec.extractLsb'_eq_self, Nat.reduceSub]; rfl) hw
theorem vtos (d a b ha hb) : Statement (.vtos d a b ha hb) := fun c st w hw h =>
  reads (n := 6+6+6+6+1+1+2) rfl c st (0x17#6 ++ d ++ a ++ b ++ ha ++ hb ++ 3#2) w (Option.some.inj h).symm
    (decodeOp17 _) (by simp (disch := omega) only [field_high]; rfl)
    (by simp (disch := omega) only [-Nat.reduceAdd, decodeOp17, field_low, field_high, field_nested, BitVec.extractLsb'_eq_self, Nat.reduceSub]; rfl) hw
theorem vaddi (d a imm) : Statement (.vaddi d a imm) := fun c st w hw h =>
  reads (n := 6+6+6+10) rfl c st (0x18#6 ++ d ++ a ++ imm) w (Option.some.inj h).symm
    (decodeOp18 _) (by simp (disch := omega) only [field_high]; rfl)
    (by simp (disch := omega) only [-Nat.reduceAdd, decodeOp18, field_low, field_high, field_nested, BitVec.extractLsb'_eq_self, Nat.reduceSub]) hw
theorem vshfl (d a b ha hb) : Statement (.vshfl d a b ha hb) := fun c st w hw h =>
  reads (n := 6+6+6+6+1+1+2) rfl c st (0x19#6 ++ d ++ a ++ b ++ ha ++ hb ++ 0#2) w (Option.some.inj h).symm
    (decodeOp19 _) (by simp (disch := omega) only [field_high]; rfl)
    (by simp (disch := omega) only [-Nat.reduceAdd, decodeOp19, field_low, field_high, field_nested, BitVec.extractLsb'_eq_self, Nat.reduceSub]) hw
theorem vbcl (d a b ha hb) : Statement (.vbcl d a b ha hb) := fun c st w hw h =>
  reads (n := 6+6+6+6+1+1+2) rfl c st (0x19#6 ++ d ++ a ++ b ++ ha ++ hb ++ 1#2) w (Option.some.inj h).symm
    (decodeOp19 _) (by simp (disch := omega) only [field_high]; rfl)
    (by simp (disch := omega) only [-Nat.reduceAdd, decodeOp19, field_low, field_high, field_nested, BitVec.extractLsb'_eq_self, Nat.reduceSub]) hw
theorem vrotl (d a b ha hb) : Statement (.vrotl d a b ha hb) := fun c st w hw h =>
  reads (n := 6+6+6+6+1+1+2) rfl c st (0x19#6 ++ d ++ a ++ b ++ ha ++ hb ++ 2#2) w (Option.some.inj h).symm
    (decodeOp19 _) (by simp (disch := omega) only [field_high]; rfl)
    (by simp (disch := omega) only [-Nat.reduceAdd, decodeOp19, field_low, field_high, field_nested, BitVec.extractLsb'_eq_self, Nat.reduceSub]) hw
theorem vperm (d a b ha hb) : Statement (.vperm d a b ha hb) := fun c st w hw h =>
  reads (n := 6+6+6+6+1+1+2) rfl c st (0x19#6 ++ d ++ a ++ b ++ ha ++ hb ++ 3#2) w (Option.some.inj h).symm
    (decodeOp19 _) (by simp (disch := omega) only [field_high]; rfl)
    (by simp (disch := omega) only [-Nat.reduceAdd, decodeOp19, field_low, field_high, field_nested, BitVec.extractLsb'_eq_self, Nat.reduceSub]; rfl) hw
theorem vredadd (d a ha) : Statement (.vredadd d a ha) := fun c st w hw h =>
  reads (n := 6+6+6+6+1+3) rfl c st (0x1A#6 ++ d ++ a ++ 0#6 ++ ha ++ 0#3) w (Option.some.inj h).symm
    (decodeOp1A _) (by simp (disch := omega) only [field_high]; rfl)
    (by simp (disch := omega) only [-Nat.reduceAdd, decodeOp1A, field_low, field_high, field_nested, BitVec.extractLsb'_eq_self, Nat.reduceSub]; rfl) hw
theorem vredmin (d a ha) : Statement (.vredmin d a ha) := fun c st w hw h =>
  reads (n := 6+6+6+6+1+3) rfl c st (0x1A#6 ++ d ++ a ++ 0#6 ++ ha ++ 1#3) w (Option.some.inj h).symm
    (decodeOp1A _) (by simp (disch := omega) only [field_high]; rfl)
    (by simp (disch := omega) only [-Nat.reduceAdd, decodeOp1A, field_low, field_high, field_nested, BitVec.extractLsb'_eq_self, Nat.reduceSub]; rfl) hw
theorem vredmax (d a ha) : Statement (.vredmax d a ha) := fun c st w hw h =>
  reads (n := 6+6+6+6+1+3) rfl c st (0x1A#6 ++ d ++ a ++ 0#6 ++ ha ++ 2#3) w (Option.some.inj h).symm
    (decodeOp1A _) (by simp (disch := omega) only [field_high]; rfl)
    (by simp (disch := omega) only [-Nat.reduceAdd, decodeOp1A, field_low, field_high, field_nested, BitVec.extractLsb'_eq_self, Nat.reduceSub]; rfl) hw
theorem vredor (d a ha) : Statement (.vredor d a ha) := fun c st w hw h =>
  reads (n := 6+6+6+6+1+3) rfl c st (0x1A#6 ++ d ++ a ++ 0#6 ++ ha ++ 3#3) w (Option.some.inj h).symm
    (decodeOp1A _) (by simp (disch := omega) only [field_high]; rfl)
    (by simp (disch := omega) only [-Nat.reduceAdd, decodeOp1A, field_low, field_high, field_nested, BitVec.extractLsb'_eq_self, Nat.reduceSub]; rfl) hw
theorem vscanadd (d a ha) : Statement (.vscanadd d a ha) := fun c st w hw h =>
  reads (n := 6+6+6+6+1+3) rfl c st (0x1B#6 ++ d ++ a ++ 0#6 ++ ha ++ 0#3) w (Option.some.inj h).symm
    (decodeOp1B _) (by simp (disch := omega) only [field_high]; rfl)
    (by simp (disch := omega) only [-Nat.reduceAdd, decodeOp1B, field_low, field_high, field_nested, BitVec.extractLsb'_eq_self, Nat.reduceSub]; rfl) hw
theorem vscanmax (d a ha) : Statement (.vscanmax d a ha) := fun c st w hw h =>
  reads (n := 6+6+6+6+1+3) rfl c st (0x1B#6 ++ d ++ a ++ 0#6 ++ ha ++ 1#3) w (Option.some.inj h).symm
    (decodeOp1B _) (by simp (disch := omega) only [field_high]; rfl)
    (by simp (disch := omega) only [-Nat.reduceAdd, decodeOp1B, field_low, field_high, field_nested, BitVec.extractLsb'_eq_self, Nat.reduceSub]; rfl) hw
theorem vscanmin (d a ha) : Statement (.vscanmin d a ha) := fun c st w hw h =>
  reads (n := 6+6+6+6+1+3) rfl c st (0x1B#6 ++ d ++ a ++ 0#6 ++ ha ++ 2#3) w (Option.some.inj h).symm
    (decodeOp1B _) (by simp (disch := omega) only [field_high]; rfl)
    (by simp (disch := omega) only [-Nat.reduceAdd, decodeOp1B, field_low, field_high, field_nested, BitVec.extractLsb'_eq_self, Nat.reduceSub]; rfl) hw
theorem vscanaddx (d a ha) : Statement (.vscanaddx d a ha) := fun c st w hw h =>
  reads (n := 6+6+6+6+1+3) rfl c st (0x1B#6 ++ d ++ a ++ 0#6 ++ ha ++ 3#3) w (Option.some.inj h).symm
    (decodeOp1B _) (by simp (disch := omega) only [field_high]; rfl)
    (by simp (disch := omega) only [-Nat.reduceAdd, decodeOp1B, field_low, field_high, field_nested, BitVec.extractLsb'_eq_self, Nat.reduceSub]; rfl) hw
theorem vclz (d a ha) : Statement (.vclz d a ha) := fun c st w hw h =>
  reads (n := 6+6+6+6+1+3) rfl c st (0x1C#6 ++ d ++ a ++ 0#6 ++ ha ++ 0#3) w (Option.some.inj h).symm
    (decodeOp1C _) (by simp (disch := omega) only [field_high]; rfl)
    (by simp (disch := omega) only [-Nat.reduceAdd, decodeOp1C, field_low, field_high, field_nested, BitVec.extractLsb'_eq_self, Nat.reduceSub]; rfl) hw
theorem vpopc (d a ha) : Statement (.vpopc d a ha) := fun c st w hw h =>
  reads (n := 6+6+6+6+1+3) rfl c st (0x1C#6 ++ d ++ a ++ 0#6 ++ ha ++ 1#3) w (Option.some.inj h).symm
    (decodeOp1C _) (by simp (disch := omega) only [field_high]; rfl)
    (by simp (disch := omega) only [-Nat.reduceAdd, decodeOp1C, field_low, field_high, field_nested, BitVec.extractLsb'_eq_self, Nat.reduceSub]; rfl) hw
theorem vbrev (d a ha) : Statement (.vbrev d a ha) := fun c st w hw h =>
  reads (n := 6+6+6+6+1+3) rfl c st (0x1C#6 ++ d ++ a ++ 0#6 ++ ha ++ 2#3) w (Option.some.inj h).symm
    (decodeOp1C _) (by simp (disch := omega) only [field_high]; rfl)
    (by simp (disch := omega) only [-Nat.reduceAdd, decodeOp1C, field_low, field_high, field_nested, BitVec.extractLsb'_eq_self, Nat.reduceSub]; rfl) hw
theorem vsext (d a wc ha) : Statement (.vsext d a wc ha) := fun c st w hw h =>
  reads (n := 6+6+6+6+1+3) rfl c st (0x1C#6 ++ d ++ a ++ wc ++ ha ++ 3#3) w (Option.some.inj h).symm
    (decodeOp1C _) (by simp (disch := omega) only [field_high]; rfl)
    (by simp (disch := omega) only [-Nat.reduceAdd, decodeOp1C, field_low, field_high, field_nested, BitVec.extractLsb'_eq_self, Nat.reduceSub]; rfl) hw
theorem vpk16 (d a b ha hb) : Statement (.vpk16 d a b ha hb) := fun c st w hw h =>
  reads (n := 6+6+6+6+1+1+2) rfl c st (0x1D#6 ++ d ++ a ++ b ++ ha ++ hb ++ 0#2) w (Option.some.inj h).symm
    (decodeOp1D _) (by simp (disch := omega) only [field_high]; rfl)
    (by simp (disch := omega) only [-Nat.reduceAdd, decodeOp1D, field_low, field_high, field_nested, BitVec.extractLsb'_eq_self, Nat.reduceSub]) hw
theorem vupkl16 (d a ha) : Statement (.vupkl16 d a ha) := fun c st w hw h =>
  reads (n := 6+6+6+6+1+3) rfl c st (0x1D#6 ++ d ++ a ++ 0#6 ++ ha ++ 1#3) w (Option.some.inj h).symm
    (decodeOp1D _) (by simp (disch := omega) only [field_high]; rfl)
    (by simp (disch := omega) only [-Nat.reduceAdd, decodeOp1D, field_low, field_high, field_nested, BitVec.extractLsb'_eq_self, Nat.reduceSub]; rfl) hw
theorem vupkh16 (d a ha) : Statement (.vupkh16 d a ha) := fun c st w hw h =>
  reads (n := 6+6+6+6+1+3) rfl c st (0x1D#6 ++ d ++ a ++ 0#6 ++ ha ++ 2#3) w (Option.some.inj h).symm
    (decodeOp1D _) (by simp (disch := omega) only [field_high]; rfl)
    (by simp (disch := omega) only [-Nat.reduceAdd, decodeOp1D, field_low, field_high, field_nested, BitVec.extractLsb'_eq_self, Nat.reduceSub]; rfl) hw
theorem vbyte (d a b ha hb) : Statement (.vbyte d a b ha hb) := fun c st w hw h =>
  reads (n := 6+6+6+6+1+1+2) rfl c st (0x1D#6 ++ d ++ a ++ b ++ ha ++ hb ++ 3#2) w (Option.some.inj h).symm
    (decodeOp1D _) (by simp (disch := omega) only [field_high]; rfl)
    (by simp (disch := omega) only [-Nat.reduceAdd, decodeOp1D, field_low, field_high, field_nested, BitVec.extractLsb'_eq_self, Nat.reduceSub]; rfl) hw
theorem vfadd (d a b rm) : Statement (.vfadd d a b rm) := fun c st w hw h =>
  reads (n := 6+6+6+6+3+1) rfl c st (0x20#6 ++ d ++ a ++ b ++ rm ++ 0#1) w (Option.some.inj h).symm
    (decodeOp20 _) (by simp (disch := omega) only [field_high]; rfl)
    (by simp (disch := omega) only [-Nat.reduceAdd, decodeOp20, field_low, field_high, field_nested, BitVec.extractLsb'_eq_self, Nat.reduceSub]) hw
theorem vfsub (d a b rm) : Statement (.vfsub d a b rm) := fun c st w hw h =>
  reads (n := 6+6+6+6+3+1) rfl c st (0x20#6 ++ d ++ a ++ b ++ rm ++ 1#1) w (Option.some.inj h).symm
    (decodeOp20 _) (by simp (disch := omega) only [field_high]; rfl)
    (by simp (disch := omega) only [-Nat.reduceAdd, decodeOp20, field_low, field_high, field_nested, BitVec.extractLsb'_eq_self, Nat.reduceSub]; rfl) hw
theorem vfmul (d a b rm) : Statement (.vfmul d a b rm) := fun c st w hw h =>
  reads (n := 6+6+6+6+3+1) rfl c st (0x21#6 ++ d ++ a ++ b ++ rm ++ 0#1) w (Option.some.inj h).symm
    (decodeOp21 _) (by simp (disch := omega) only [field_high]; rfl)
    (by simp (disch := omega) only [-Nat.reduceAdd, decodeOp21, field_low, field_high, field_nested, BitVec.extractLsb'_eq_self, Nat.reduceSub]) hw
theorem vfdiv (d a b rm) : Statement (.vfdiv d a b rm) := fun c st w hw h =>
  reads (n := 6+6+6+6+3+1) rfl c st (0x21#6 ++ d ++ a ++ b ++ rm ++ 1#1) w (Option.some.inj h).symm
    (decodeOp21 _) (by simp (disch := omega) only [field_high]; rfl)
    (by simp (disch := omega) only [-Nat.reduceAdd, decodeOp21, field_low, field_high, field_nested, BitVec.extractLsb'_eq_self, Nat.reduceSub]; rfl) hw
theorem vfma (d a b rm) : Statement (.vfma d a b rm) := fun c st w hw h =>
  reads (n := 6+6+6+6+3+1) rfl c st (0x22#6 ++ d ++ a ++ b ++ rm ++ 0#1) w (Option.some.inj h).symm
    (decodeOp22 _) (by simp (disch := omega) only [field_high]; rfl)
    (by simp (disch := omega) only [-Nat.reduceAdd, decodeOp22, field_low, field_high, field_nested, BitVec.extractLsb'_eq_self, Nat.reduceSub]) hw
theorem vfms (d a b rm) : Statement (.vfms d a b rm) := fun c st w hw h =>
  reads (n := 6+6+6+6+3+1) rfl c st (0x22#6 ++ d ++ a ++ b ++ rm ++ 1#1) w (Option.some.inj h).symm
    (decodeOp22 _) (by simp (disch := omega) only [field_high]; rfl)
    (by simp (disch := omega) only [-Nat.reduceAdd, decodeOp22, field_low, field_high, field_nested, BitVec.extractLsb'_eq_self, Nat.reduceSub]; rfl) hw
theorem vfmin (d a b) : Statement (.vfmin d a b) := fun c st w hw h =>
  reads (n := 6+6+6+6+4) rfl c st (0x23#6 ++ d ++ a ++ b ++ 0#4) w (Option.some.inj h).symm
    (decodeOp23 _) (by simp (disch := omega) only [field_high]; rfl)
    (by simp (disch := omega) only [-Nat.reduceAdd, decodeOp23, field_low, field_high, field_nested, BitVec.extractLsb'_eq_self, Nat.reduceSub]; rfl) hw
theorem vfmax (d a b) : Statement (.vfmax d a b) := fun c st w hw h =>
  reads (n := 6+6+6+6+4) rfl c st (0x23#6 ++ d ++ a ++ b ++ 1#4) w (Option.some.inj h).symm
    (decodeOp23 _) (by simp (disch := omega) only [field_high]; rfl)
    (by simp (disch := omega) only [-Nat.reduceAdd, decodeOp23, field_low, field_high, field_nested, BitVec.extractLsb'_eq_self, Nat.reduceSub]; rfl) hw
theorem vfcmpEq (m a b) : Statement (.vfcmpEq m a b) := fun c st w hw h =>
  reads (n := 6+3+3+6+6+4) rfl c st (0x24#6 ++ 0#3 ++ m ++ a ++ b ++ 0#4) w (Option.some.inj h).symm
    (decodeOp24 _) (by simp (disch := omega) only [field_high]; rfl)
    (by simp (disch := omega) only [-Nat.reduceAdd, decodeOp24, field_low, field_high, field_nested, BitVec.extractLsb'_eq_self, Nat.reduceSub]; rfl) hw
theorem vfcmpLt (m a b) : Statement (.vfcmpLt m a b) := fun c st w hw h =>
  reads (n := 6+3+3+6+6+4) rfl c st (0x24#6 ++ 0#3 ++ m ++ a ++ b ++ 2#4) w (Option.some.inj h).symm
    (decodeOp24 _) (by simp (disch := omega) only [field_high]; rfl)
    (by simp (disch := omega) only [-Nat.reduceAdd, decodeOp24, field_low, field_high, field_nested, BitVec.extractLsb'_eq_self, Nat.reduceSub]; rfl) hw
theorem vfcmpLe (m a b) : Statement (.vfcmpLe m a b) := fun c st w hw h =>
  reads (n := 6+3+3+6+6+4) rfl c st (0x24#6 ++ 0#3 ++ m ++ a ++ b ++ 4#4) w (Option.some.inj h).symm
    (decodeOp24 _) (by simp (disch := omega) only [field_high]; rfl)
    (by simp (disch := omega) only [-Nat.reduceAdd, decodeOp24, field_low, field_high, field_nested, BitVec.extractLsb'_eq_self, Nat.reduceSub]; rfl) hw
theorem vfcmpUn (m a b) : Statement (.vfcmpUn m a b) := fun c st w hw h =>
  reads (n := 6+3+3+6+6+4) rfl c st (0x24#6 ++ 0#3 ++ m ++ a ++ b ++ 6#4) w (Option.some.inj h).symm
    (decodeOp24 _) (by simp (disch := omega) only [field_high]; rfl)
    (by simp (disch := omega) only [-Nat.reduceAdd, decodeOp24, field_low, field_high, field_nested, BitVec.extractLsb'_eq_self, Nat.reduceSub]; rfl) hw
theorem vfcmpNe (m a b) : Statement (.vfcmpNe m a b) := fun c st w hw h =>
  reads (n := 6+3+3+6+6+4) rfl c st (0x24#6 ++ 0#3 ++ m ++ a ++ b ++ 8#4) w (Option.some.inj h).symm
    (decodeOp24 _) (by simp (disch := omega) only [field_high]; rfl)
    (by simp (disch := omega) only [-Nat.reduceAdd, decodeOp24, field_low, field_high, field_nested, BitVec.extractLsb'_eq_self, Nat.reduceSub]; rfl) hw
theorem vfredadd (d a rm) : Statement (.vfredadd d a rm) := fun c st w hw h =>
  reads (n := 6+6+6+6+3+1) rfl c st (0x25#6 ++ d ++ a ++ 0#6 ++ rm ++ 0#1) w (Option.some.inj h).symm
    (decodeOp25 _) (by simp (disch := omega) only [field_high]; rfl)
    (by simp (disch := omega) only [-Nat.reduceAdd, decodeOp25, field_low, field_high, field_nested, BitVec.extractLsb'_eq_self, Nat.reduceSub]; rfl) hw
theorem vfredmax (d a) : Statement (.vfredmax d a) := fun c st w hw h =>
  reads (n := 6+6+6+10) rfl c st (0x25#6 ++ d ++ a ++ 1#10) w (Option.some.inj h).symm
    (decodeOp25 _) (by simp (disch := omega) only [field_high]; rfl)
    (by simp (disch := omega) only [-Nat.reduceAdd, decodeOp25, field_low, field_high, field_nested, BitVec.extractLsb'_eq_self, Nat.reduceSub]; rfl) hw
theorem vfscanadd (d a rm) : Statement (.vfscanadd d a rm) := fun c st w hw h =>
  reads (n := 6+6+6+6+3+1) rfl c st (0x26#6 ++ d ++ a ++ 0#6 ++ rm ++ 0#1) w (Option.some.inj h).symm
    (decodeOp26 _) (by simp (disch := omega) only [field_high]; rfl)
    (by simp (disch := omega) only [-Nat.reduceAdd, decodeOp26, field_low, field_high, field_nested, BitVec.extractLsb'_eq_self, Nat.reduceSub]; rfl) hw
theorem vfscanmax (d a) : Statement (.vfscanmax d a) := fun c st w hw h =>
  reads (n := 6+6+6+10) rfl c st (0x26#6 ++ d ++ a ++ 1#10) w (Option.some.inj h).symm
    (decodeOp26 _) (by simp (disch := omega) only [field_high]; rfl)
    (by simp (disch := omega) only [-Nat.reduceAdd, decodeOp26, field_low, field_high, field_nested, BitVec.extractLsb'_eq_self, Nat.reduceSub]; rfl) hw
theorem vsfuRcp (d a rm) : Statement (.vsfuRcp d a rm) := fun c st w hw h =>
  reads (n := 6+6+6+6+3+1) rfl c st (0x27#6 ++ d ++ a ++ 0#6 ++ rm ++ 0#1) w (Option.some.inj h).symm
    (decodeOp27 _) (by simp (disch := omega) only [field_high]; rfl)
    (by simp (disch := omega) only [-Nat.reduceAdd, decodeOp27, field_low, field_high, field_nested, BitVec.extractLsb'_eq_self, Nat.reduceSub]; rfl) hw
theorem vsfuRsq (d a rm) : Statement (.vsfuRsq d a rm) := fun c st w hw h =>
  reads (n := 6+6+6+6+3+1) rfl c st (0x27#6 ++ d ++ a ++ 1#6 ++ rm ++ 0#1) w (Option.some.inj h).symm
    (decodeOp27 _) (by simp (disch := omega) only [field_high]; rfl)
    (by simp (disch := omega) only [-Nat.reduceAdd, decodeOp27, field_low, field_high, field_nested, BitVec.extractLsb'_eq_self, Nat.reduceSub]; rfl) hw
theorem vsfuSqrt (d a rm) : Statement (.vsfuSqrt d a rm) := fun c st w hw h =>
  reads (n := 6+6+6+6+3+1) rfl c st (0x27#6 ++ d ++ a ++ 2#6 ++ rm ++ 0#1) w (Option.some.inj h).symm
    (decodeOp27 _) (by simp (disch := omega) only [field_high]; rfl)
    (by simp (disch := omega) only [-Nat.reduceAdd, decodeOp27, field_low, field_high, field_nested, BitVec.extractLsb'_eq_self, Nat.reduceSub]; rfl) hw
theorem vsfuEx2 (d a rm) : Statement (.vsfuEx2 d a rm) := fun c st w hw h =>
  reads (n := 6+6+6+6+3+1) rfl c st (0x27#6 ++ d ++ a ++ 3#6 ++ rm ++ 0#1) w (Option.some.inj h).symm
    (decodeOp27 _) (by simp (disch := omega) only [field_high]; rfl)
    (by simp (disch := omega) only [-Nat.reduceAdd, decodeOp27, field_low, field_high, field_nested, BitVec.extractLsb'_eq_self, Nat.reduceSub]; rfl) hw
theorem vsfuLg2 (d a rm) : Statement (.vsfuLg2 d a rm) := fun c st w hw h =>
  reads (n := 6+6+6+6+3+1) rfl c st (0x27#6 ++ d ++ a ++ 4#6 ++ rm ++ 0#1) w (Option.some.inj h).symm
    (decodeOp27 _) (by simp (disch := omega) only [field_high]; rfl)
    (by simp (disch := omega) only [-Nat.reduceAdd, decodeOp27, field_low, field_high, field_nested, BitVec.extractLsb'_eq_self, Nat.reduceSub]; rfl) hw
theorem vsfuSin (d a rm) : Statement (.vsfuSin d a rm) := fun c st w hw h =>
  reads (n := 6+6+6+6+3+1) rfl c st (0x27#6 ++ d ++ a ++ 5#6 ++ rm ++ 0#1) w (Option.some.inj h).symm
    (decodeOp27 _) (by simp (disch := omega) only [field_high]; rfl)
    (by simp (disch := omega) only [-Nat.reduceAdd, decodeOp27, field_low, field_high, field_nested, BitVec.extractLsb'_eq_self, Nat.reduceSub]; rfl) hw
theorem vsfuCos (d a rm) : Statement (.vsfuCos d a rm) := fun c st w hw h =>
  reads (n := 6+6+6+6+3+1) rfl c st (0x27#6 ++ d ++ a ++ 6#6 ++ rm ++ 0#1) w (Option.some.inj h).symm
    (decodeOp27 _) (by simp (disch := omega) only [field_high]; rfl)
    (by simp (disch := omega) only [-Nat.reduceAdd, decodeOp27, field_low, field_high, field_nested, BitVec.extractLsb'_eq_self, Nat.reduceSub]; rfl) hw
theorem vsfuTanh (d a rm) : Statement (.vsfuTanh d a rm) := fun c st w hw h =>
  reads (n := 6+6+6+6+3+1) rfl c st (0x27#6 ++ d ++ a ++ 7#6 ++ rm ++ 0#1) w (Option.some.inj h).symm
    (decodeOp27 _) (by simp (disch := omega) only [field_high]; rfl)
    (by simp (disch := omega) only [-Nat.reduceAdd, decodeOp27, field_low, field_high, field_nested, BitVec.extractLsb'_eq_self, Nat.reduceSub]; rfl) hw
theorem vsfuSigm (d a rm) : Statement (.vsfuSigm d a rm) := fun c st w hw h =>
  reads (n := 6+6+6+6+3+1) rfl c st (0x27#6 ++ d ++ a ++ 8#6 ++ rm ++ 0#1) w (Option.some.inj h).symm
    (decodeOp27 _) (by simp (disch := omega) only [field_high]; rfl)
    (by simp (disch := omega) only [-Nat.reduceAdd, decodeOp27, field_low, field_high, field_nested, BitVec.extractLsb'_eq_self, Nat.reduceSub]; rfl) hw
theorem vfabs (d a) : Statement (.vfabs d a) := fun c st w hw h =>
  reads (n := 6+6+6+10) rfl c st (0x28#6 ++ d ++ a ++ 0#10) w (Option.some.inj h).symm
    (decodeOp28 _) (by simp (disch := omega) only [field_high]; rfl)
    (by simp (disch := omega) only [-Nat.reduceAdd, decodeOp28, field_low, field_high, field_nested, BitVec.extractLsb'_eq_self, Nat.reduceSub]; rfl) hw
theorem vfcls (d a) : Statement (.vfcls d a) := fun c st w hw h =>
  reads (n := 6+6+6+10) rfl c st (0x28#6 ++ d ++ a ++ 1#10) w (Option.some.inj h).symm
    (decodeOp28 _) (by simp (disch := omega) only [field_high]; rfl)
    (by simp (disch := omega) only [-Nat.reduceAdd, decodeOp28, field_low, field_high, field_nested, BitVec.extractLsb'_eq_self, Nat.reduceSub]; rfl) hw
theorem vcvt (d a src dst rm) : Statement (.vcvt d a src dst rm) := fun c st w hw h =>
  reads (n := 6+6+6+3+3+3+1) rfl c st (0x29#6 ++ d ++ a ++ src ++ dst ++ rm ++ 0#1) w (Option.some.inj h).symm
    (decodeOp29 _) (by simp (disch := omega) only [field_high]; rfl)
    (by simp (disch := omega) only [-Nat.reduceAdd, decodeOp29, field_low, field_high, field_nested, BitVec.extractLsb'_eq_self, Nat.reduceSub]; rfl) hw
theorem vqnt (d a b rm) : Statement (.vqnt d a b rm) := fun c st w hw h =>
  reads (n := 6+6+6+6+3+1) rfl c st (0x2A#6 ++ d ++ a ++ b ++ rm ++ 0#1) w (Option.some.inj h).symm
    (decodeOp2A _) (by simp (disch := omega) only [field_high]; rfl)
    (by simp (disch := omega) only [-Nat.reduceAdd, decodeOp2A, field_low, field_high, field_nested, BitVec.extractLsb'_eq_self, Nat.reduceSub]; rfl) hw
theorem vdqnt (d a b rm) : Statement (.vdqnt d a b rm) := fun c st w hw h =>
  reads (n := 6+6+6+6+3+1) rfl c st (0x2B#6 ++ d ++ a ++ b ++ rm ++ 0#1) w (Option.some.inj h).symm
    (decodeOp2B _) (by simp (disch := omega) only [field_high]; rfl)
    (by simp (disch := omega) only [-Nat.reduceAdd, decodeOp2B, field_low, field_high, field_nested, BitVec.extractLsb'_eq_self, Nat.reduceSub]; rfl) hw
theorem vlqenc (d a b ha hb) : Statement (.vlqenc d a b ha hb) := fun c st w hw h =>
  reads (n := 6+6+6+6+1+1+2) rfl c st (0x2C#6 ++ d ++ a ++ b ++ ha ++ hb ++ 0#2) w (Option.some.inj h).symm
    (decodeOp2C _) (by simp (disch := omega) only [field_high]; rfl)
    (by simp (disch := omega) only [-Nat.reduceAdd, decodeOp2C, field_low, field_high, field_nested, BitVec.extractLsb'_eq_self, Nat.reduceSub]) hw
theorem vlqdec (d a b ha hb) : Statement (.vlqdec d a b ha hb) := fun c st w hw h =>
  reads (n := 6+6+6+6+1+1+2) rfl c st (0x2C#6 ++ d ++ a ++ b ++ ha ++ hb ++ 1#2) w (Option.some.inj h).symm
    (decodeOp2C _) (by simp (disch := omega) only [field_high]; rfl)
    (by simp (disch := omega) only [-Nat.reduceAdd, decodeOp2C, field_low, field_high, field_nested, BitVec.extractLsb'_eq_self, Nat.reduceSub]) hw
theorem vlqins (d a b ha hb) : Statement (.vlqins d a b ha hb) := fun c st w hw h =>
  reads (n := 6+6+6+6+1+1+2) rfl c st (0x2C#6 ++ d ++ a ++ b ++ ha ++ hb ++ 2#2) w (Option.some.inj h).symm
    (decodeOp2C _) (by simp (disch := omega) only [field_high]; rfl)
    (by simp (disch := omega) only [-Nat.reduceAdd, decodeOp2C, field_low, field_high, field_nested, BitVec.extractLsb'_eq_self, Nat.reduceSub]) hw
theorem vlqerr (d a b ha hb) : Statement (.vlqerr d a b ha hb) := fun c st w hw h =>
  reads (n := 6+6+6+6+1+1+2) rfl c st (0x2C#6 ++ d ++ a ++ b ++ ha ++ hb ++ 3#2) w (Option.some.inj h).symm
    (decodeOp2C _) (by simp (disch := omega) only [field_high]; rfl)
    (by simp (disch := omega) only [-Nat.reduceAdd, decodeOp2C, field_low, field_high, field_nested, BitVec.extractLsb'_eq_self, Nat.reduceSub]; rfl) hw
theorem coll (sa sb acq rel scope hold) : Statement (.coll sa sb acq rel scope hold) := fun c st w hw h =>
  reads (n := 6+4+6+6+1+1+2+1+1) rfl c st (0x2D#6 ++ 0#4 ++ sa ++ sb ++ acq ++ rel ++ scope ++ hold ++ 0#1) w (Option.some.inj h).symm
    (decodeOp2D _) (by simp (disch := omega) only [field_high]; rfl)
    (by simp (disch := omega) only [-Nat.reduceAdd, decodeOp2D, field_low, field_high, field_nested, BitVec.extractLsb'_eq_self, Nat.reduceSub]; rfl) hw
theorem cbulk (sa sb acq rel scope hold) : Statement (.cbulk sa sb acq rel scope hold) := fun c st w hw h =>
  reads (n := 6+4+6+6+1+1+2+1+1) rfl c st (0x2D#6 ++ 1#4 ++ sa ++ sb ++ acq ++ rel ++ scope ++ hold ++ 0#1) w (Option.some.inj h).symm
    (decodeOp2D _) (by simp (disch := omega) only [field_high]; rfl)
    (by simp (disch := omega) only [-Nat.reduceAdd, decodeOp2D, field_low, field_high, field_nested, BitVec.extractLsb'_eq_self, Nat.reduceSub]; rfl) hw
theorem compact (sa sb acq rel scope hold) : Statement (.compact sa sb acq rel scope hold) := fun c st w hw h =>
  reads (n := 6+4+6+6+1+1+2+1+1) rfl c st (0x2D#6 ++ 2#4 ++ sa ++ sb ++ acq ++ rel ++ scope ++ hold ++ 0#1) w (Option.some.inj h).symm
    (decodeOp2D _) (by simp (disch := omega) only [field_high]; rfl)
    (by simp (disch := omega) only [-Nat.reduceAdd, decodeOp2D, field_low, field_high, field_nested, BitVec.extractLsb'_eq_self, Nat.reduceSub]; rfl) hw
theorem qpush (sa sb) : Statement (.qpush sa sb) := fun c st w hw h =>
  reads (n := 6+4+6+6+6) rfl c st (0x2D#6 ++ 3#4 ++ sa ++ sb ++ 0#6) w (Option.some.inj h).symm
    (decodeOp2D _) (by simp (disch := omega) only [field_high]; rfl)
    (by simp (disch := omega) only [-Nat.reduceAdd, decodeOp2D, field_low, field_high, field_nested, BitVec.extractLsb'_eq_self, Nat.reduceSub]; rfl) hw
theorem qstat (sb) : Statement (.qstat sb) := fun c st w hw h =>
  reads (n := 6+10+6+6) rfl c st (0x2D#6 ++ 256#10 ++ sb ++ 0#6) w (Option.some.inj h).symm
    (decodeOp2D _) (by simp (disch := omega) only [field_high]; rfl)
    (by simp (disch := omega) only [-Nat.reduceAdd, decodeOp2D, field_low, field_high, field_nested, BitVec.extractLsb'_eq_self, Nat.reduceSub]; rfl) hw
theorem epoll (sa sb) : Statement (.epoll sa sb) := fun c st w hw h =>
  reads (n := 6+4+6+6+6) rfl c st (0x2D#6 ++ 5#4 ++ sa ++ sb ++ 0#6) w (Option.some.inj h).symm
    (decodeOp2D _) (by simp (disch := omega) only [field_high]; rfl)
    (by simp (disch := omega) only [-Nat.reduceAdd, decodeOp2D, field_low, field_high, field_nested, BitVec.extractLsb'_eq_self, Nat.reduceSub]; rfl) hw
theorem ecancel (sa sb) : Statement (.ecancel sa sb) := fun c st w hw h =>
  reads (n := 6+4+6+6+6) rfl c st (0x2D#6 ++ 6#4 ++ sa ++ sb ++ 0#6) w (Option.some.inj h).symm
    (decodeOp2D _) (by simp (disch := omega) only [field_high]; rfl)
    (by simp (disch := omega) only [-Nat.reduceAdd, decodeOp2D, field_low, field_high, field_nested, BitVec.extractLsb'_eq_self, Nat.reduceSub]; rfl) hw
theorem capent (a) : Statement (.capent a) := fun c st w hw h =>
  reads (n := 6+6+6+10) rfl c st (0x2E#6 ++ 0#6 ++ a ++ 0#10) w (Option.some.inj h).symm
    (decodeOp2E _) (by simp (disch := omega) only [field_high]; rfl)
    (by simp (disch := omega) only [-Nat.reduceAdd, decodeOp2E, field_low, field_high, field_nested, BitVec.extractLsb'_eq_self, Nat.reduceSub]; rfl) hw
theorem capexit : Statement .capexit := fun c st w hw h =>
  reads (n := 6+22) rfl c st (0x2E#6 ++ 1#22) w (Option.some.inj h).symm (.ok .capexit) rfl rfl hw
theorem kld (d a sz) : Statement (.kld d a sz) := fun c st w hw h =>
  reads (n := 6+3+3+3+3+4+2+4) rfl c st (0x2E#6 ++ 0#3 ++ d ++ 0#3 ++ a ++ 0#4 ++ sz ++ 2#4) w (Option.some.inj h).symm
    (decodeOp2E _) (by simp (disch := omega) only [field_high]; rfl)
    (by simp (disch := omega) only [-Nat.reduceAdd, decodeOp2E, field_low, field_high, field_nested, BitVec.extractLsb'_eq_self, Nat.reduceSub]; rfl) hw
theorem kst (d a sz) : Statement (.kst d a sz) := fun c st w hw h =>
  reads (n := 6+3+3+3+3+4+2+4) rfl c st (0x2E#6 ++ 0#3 ++ d ++ 0#3 ++ a ++ 0#4 ++ sz ++ 3#4) w (Option.some.inj h).symm
    (decodeOp2E _) (by simp (disch := omega) only [field_high]; rfl)
    (by simp (disch := omega) only [-Nat.reduceAdd, decodeOp2E, field_low, field_high, field_nested, BitVec.extractLsb'_eq_self, Nat.reduceSub]; rfl) hw
theorem kamo (d a sz fn) : Statement (.kamo d a sz fn) := fun c st w hw h =>
  reads (n := 6+3+3+3+3+1+1+4+4) rfl c st (0x2E#6 ++ 0#3 ++ d ++ 0#3 ++ a ++ 0#1 ++ sz ++ fn ++ 4#4) w (Option.some.inj h).symm
    (decodeOp2E _) (by simp (disch := omega) only [field_high]; rfl)
    (by simp (disch := omega) only [-Nat.reduceAdd, decodeOp2E, field_low, field_high, field_nested, BitVec.extractLsb'_eq_self, Nat.reduceSub]; rfl) hw
theorem kmovs (d a) : Statement (.kmovs d a) := fun c st w hw h =>
  reads (n := 6+6+3+3+10) rfl c st (0x2E#6 ++ d ++ 0#3 ++ a ++ 5#10) w (Option.some.inj h).symm
    (decodeOp2E _) (by simp (disch := omega) only [field_high]; rfl)
    (by simp (disch := omega) only [-Nat.reduceAdd, decodeOp2E, field_low, field_high, field_nested, BitVec.extractLsb'_eq_self, Nat.reduceSub]; rfl) hw
theorem kmovk (d a) : Statement (.kmovk d a) := fun c st w hw h =>
  reads (n := 6+3+3+6+10) rfl c st (0x2E#6 ++ 0#3 ++ d ++ a ++ 6#10) w (Option.some.inj h).symm
    (decodeOp2E _) (by simp (disch := omega) only [field_high]; rfl)
    (by simp (disch := omega) only [-Nat.reduceAdd, decodeOp2E, field_low, field_high, field_nested, BitVec.extractLsb'_eq_self, Nat.reduceSub]; rfl) hw
theorem capstat (d) : Statement (.capstat d) := fun c st w hw h =>
  reads (n := 6+6+16) rfl c st (0x2E#6 ++ d ++ 7#16) w (Option.some.inj h).symm
    (decodeOp2E _) (by simp (disch := omega) only [field_high]; rfl)
    (by simp (disch := omega) only [-Nat.reduceAdd, decodeOp2E, field_low, field_high, field_nested, BitVec.extractLsb'_eq_self, Nat.reduceSub]; rfl) hw
theorem sld (t a off sz ord) : Statement (.sld t a off sz ord) := fun c st w hw h =>
  reads (n := 6+6+6+6+2+2) rfl c st (0x30#6 ++ t ++ a ++ off ++ sz ++ ord) w (Option.some.inj h).symm
    (decodeOp30 _) (by simp (disch := omega) only [field_high]; rfl)
    (by simp (disch := omega) only [-Nat.reduceAdd, decodeOp30, field_low, field_high, field_nested, BitVec.extractLsb'_eq_self, Nat.reduceSub]) hw
theorem sst (t a off sz ord) : Statement (.sst t a off sz ord) := fun c st w hw h =>
  reads (n := 6+6+6+6+2+2) rfl c st (0x31#6 ++ t ++ a ++ off ++ sz ++ ord) w (Option.some.inj h).symm
    (decodeOp31 _) (by simp (disch := omega) only [field_high]; rfl)
    (by simp (disch := omega) only [-Nat.reduceAdd, decodeOp31, field_low, field_high, field_nested, BitVec.extractLsb'_eq_self, Nat.reduceSub]) hw
theorem vld (t a off sz ord) : Statement (.vld t a off sz ord) := fun c st w hw h =>
  reads (n := 6+6+6+6+2+2) rfl c st (0x32#6 ++ t ++ a ++ off ++ sz ++ ord) w (Option.some.inj h).symm
    (decodeOp32 _) (by simp (disch := omega) only [field_high]; rfl)
    (by simp (disch := omega) only [-Nat.reduceAdd, decodeOp32, field_low, field_high, field_nested, BitVec.extractLsb'_eq_self, Nat.reduceSub]) hw
theorem vst (t a off sz ord) : Statement (.vst t a off sz ord) := fun c st w hw h =>
  reads (n := 6+6+6+6+2+2) rfl c st (0x33#6 ++ t ++ a ++ off ++ sz ++ ord) w (Option.some.inj h).symm
    (decodeOp33 _) (by simp (disch := omega) only [field_high]; rfl)
    (by simp (disch := omega) only [-Nat.reduceAdd, decodeOp33, field_low, field_high, field_nested, BitVec.extractLsb'_eq_self, Nat.reduceSub]) hw
theorem vldg (t a off sz ord) : Statement (.vldg t a off sz ord) := fun c st w hw h =>
  reads (n := 6+6+6+6+2+2) rfl c st (0x34#6 ++ t ++ a ++ off ++ sz ++ ord) w (Option.some.inj h).symm
    (decodeOp34 _) (by simp (disch := omega) only [field_high]; rfl)
    (by simp (disch := omega) only [-Nat.reduceAdd, decodeOp34, field_low, field_high, field_nested, BitVec.extractLsb'_eq_self, Nat.reduceSub]) hw
theorem vsts (t a off sz ord) : Statement (.vsts t a off sz ord) := fun c st w hw h =>
  reads (n := 6+6+6+6+2+2) rfl c st (0x35#6 ++ t ++ a ++ off ++ sz ++ ord) w (Option.some.inj h).symm
    (decodeOp35 _) (by simp (disch := omega) only [field_high]; rfl)
    (by simp (disch := omega) only [-Nat.reduceAdd, decodeOp35, field_low, field_high, field_nested, BitVec.extractLsb'_eq_self, Nat.reduceSub]) hw
theorem bld (t a off sz ord) : Statement (.bld t a off sz ord) := fun c st w hw h =>
  reads (n := 6+6+6+6+2+2) rfl c st (0x36#6 ++ t ++ a ++ off ++ sz ++ ord) w (Option.some.inj h).symm
    (decodeOp36 _) (by simp (disch := omega) only [field_high]; rfl)
    (by simp (disch := omega) only [-Nat.reduceAdd, decodeOp36, field_low, field_high, field_nested, BitVec.extractLsb'_eq_self, Nat.reduceSub]) hw
theorem bst (t a off sz ord) : Statement (.bst t a off sz ord) := fun c st w hw h =>
  reads (n := 6+6+6+6+2+2) rfl c st (0x37#6 ++ t ++ a ++ off ++ sz ++ ord) w (Option.some.inj h).symm
    (decodeOp37 _) (by simp (disch := omega) only [field_high]; rfl)
    (by simp (disch := omega) only [-Nat.reduceAdd, decodeOp37, field_low, field_high, field_nested, BitVec.extractLsb'_eq_self, Nat.reduceSub]) hw
theorem bldg (t a off sz ord) : Statement (.bldg t a off sz ord) := fun c st w hw h =>
  reads (n := 6+6+6+6+2+2) rfl c st (0x38#6 ++ t ++ a ++ off ++ sz ++ ord) w (Option.some.inj h).symm
    (decodeOp38 _) (by simp (disch := omega) only [field_high]; rfl)
    (by simp (disch := omega) only [-Nat.reduceAdd, decodeOp38, field_low, field_high, field_nested, BitVec.extractLsb'_eq_self, Nat.reduceSub]) hw
theorem bsts (t a off sz ord) : Statement (.bsts t a off sz ord) := fun c st w hw h =>
  reads (n := 6+6+6+6+2+2) rfl c st (0x39#6 ++ t ++ a ++ off ++ sz ++ ord) w (Option.some.inj h).symm
    (decodeOp39 _) (by simp (disch := omega) only [field_high]; rfl)
    (by simp (disch := omega) only [-Nat.reduceAdd, decodeOp39, field_low, field_high, field_nested, BitVec.extractLsb'_eq_self, Nat.reduceSub]) hw
theorem amoAdd (d a ord sz sc) : Statement (.amoAdd d a ord sz sc) := fun c st w hw h =>
  reads (n := 6+6+6+4+2+2+2) rfl c st (0x3A#6 ++ d ++ a ++ 0#4 ++ ord ++ sz ++ sc) w (Option.some.inj h).symm
    (decodeOp3A _) (by simp (disch := omega) only [field_high]; rfl)
    (by simp (disch := omega) only [-Nat.reduceAdd, decodeOp3A, field_low, field_high, field_nested, BitVec.extractLsb'_eq_self, Nat.reduceSub]) hw
theorem amoAnd (d a ord sz sc) : Statement (.amoAnd d a ord sz sc) := fun c st w hw h =>
  reads (n := 6+6+6+4+2+2+2) rfl c st (0x3A#6 ++ d ++ a ++ 1#4 ++ ord ++ sz ++ sc) w (Option.some.inj h).symm
    (decodeOp3A _) (by simp (disch := omega) only [field_high]; rfl)
    (by simp (disch := omega) only [-Nat.reduceAdd, decodeOp3A, field_low, field_high, field_nested, BitVec.extractLsb'_eq_self, Nat.reduceSub]) hw
theorem amoOr (d a ord sz sc) : Statement (.amoOr d a ord sz sc) := fun c st w hw h =>
  reads (n := 6+6+6+4+2+2+2) rfl c st (0x3A#6 ++ d ++ a ++ 2#4 ++ ord ++ sz ++ sc) w (Option.some.inj h).symm
    (decodeOp3A _) (by simp (disch := omega) only [field_high]; rfl)
    (by simp (disch := omega) only [-Nat.reduceAdd, decodeOp3A, field_low, field_high, field_nested, BitVec.extractLsb'_eq_self, Nat.reduceSub]) hw
theorem amoXor (d a ord sz sc) : Statement (.amoXor d a ord sz sc) := fun c st w hw h =>
  reads (n := 6+6+6+4+2+2+2) rfl c st (0x3A#6 ++ d ++ a ++ 3#4 ++ ord ++ sz ++ sc) w (Option.some.inj h).symm
    (decodeOp3A _) (by simp (disch := omega) only [field_high]; rfl)
    (by simp (disch := omega) only [-Nat.reduceAdd, decodeOp3A, field_low, field_high, field_nested, BitVec.extractLsb'_eq_self, Nat.reduceSub]) hw
theorem amoMin (d a ord sz sc) : Statement (.amoMin d a ord sz sc) := fun c st w hw h =>
  reads (n := 6+6+6+4+2+2+2) rfl c st (0x3A#6 ++ d ++ a ++ 4#4 ++ ord ++ sz ++ sc) w (Option.some.inj h).symm
    (decodeOp3A _) (by simp (disch := omega) only [field_high]; rfl)
    (by simp (disch := omega) only [-Nat.reduceAdd, decodeOp3A, field_low, field_high, field_nested, BitVec.extractLsb'_eq_self, Nat.reduceSub]) hw
theorem amoMax (d a ord sz sc) : Statement (.amoMax d a ord sz sc) := fun c st w hw h =>
  reads (n := 6+6+6+4+2+2+2) rfl c st (0x3A#6 ++ d ++ a ++ 5#4 ++ ord ++ sz ++ sc) w (Option.some.inj h).symm
    (decodeOp3A _) (by simp (disch := omega) only [field_high]; rfl)
    (by simp (disch := omega) only [-Nat.reduceAdd, decodeOp3A, field_low, field_high, field_nested, BitVec.extractLsb'_eq_self, Nat.reduceSub]) hw
theorem amoMinu (d a ord sz sc) : Statement (.amoMinu d a ord sz sc) := fun c st w hw h =>
  reads (n := 6+6+6+4+2+2+2) rfl c st (0x3A#6 ++ d ++ a ++ 6#4 ++ ord ++ sz ++ sc) w (Option.some.inj h).symm
    (decodeOp3A _) (by simp (disch := omega) only [field_high]; rfl)
    (by simp (disch := omega) only [-Nat.reduceAdd, decodeOp3A, field_low, field_high, field_nested, BitVec.extractLsb'_eq_self, Nat.reduceSub]) hw
theorem amoMaxu (d a ord sz sc) : Statement (.amoMaxu d a ord sz sc) := fun c st w hw h =>
  reads (n := 6+6+6+4+2+2+2) rfl c st (0x3A#6 ++ d ++ a ++ 7#4 ++ ord ++ sz ++ sc) w (Option.some.inj h).symm
    (decodeOp3A _) (by simp (disch := omega) only [field_high]; rfl)
    (by simp (disch := omega) only [-Nat.reduceAdd, decodeOp3A, field_low, field_high, field_nested, BitVec.extractLsb'_eq_self, Nat.reduceSub]) hw
theorem amoXchg (d a ord sz sc) : Statement (.amoXchg d a ord sz sc) := fun c st w hw h =>
  reads (n := 6+6+6+4+2+2+2) rfl c st (0x3A#6 ++ d ++ a ++ 8#4 ++ ord ++ sz ++ sc) w (Option.some.inj h).symm
    (decodeOp3A _) (by simp (disch := omega) only [field_high]; rfl)
    (by simp (disch := omega) only [-Nat.reduceAdd, decodeOp3A, field_low, field_high, field_nested, BitVec.extractLsb'_eq_self, Nat.reduceSub]) hw
theorem amoCas (d a ord sz sc) : Statement (.amoCas d a ord sz sc) := fun c st w hw h =>
  reads (n := 6+6+6+4+2+2+2) rfl c st (0x3A#6 ++ d ++ a ++ 9#4 ++ ord ++ sz ++ sc) w (Option.some.inj h).symm
    (decodeOp3A _) (by simp (disch := omega) only [field_high]; rfl)
    (by simp (disch := omega) only [-Nat.reduceAdd, decodeOp3A, field_low, field_high, field_nested, BitVec.extractLsb'_eq_self, Nat.reduceSub]) hw
theorem amoFadd32 (d a ord sc) : Statement (.amoFadd32 d a ord sc) := fun c st w hw h =>
  reads (n := 6+6+6+4+2+2+2) rfl c st (0x3A#6 ++ d ++ a ++ 10#4 ++ ord ++ 2#2 ++ sc) w (Option.some.inj h).symm
    (decodeOp3A _) (by simp (disch := omega) only [field_high]; rfl)
    (by simp (disch := omega) only [-Nat.reduceAdd, decodeOp3A, field_low, field_high, field_nested, BitVec.extractLsb'_eq_self, Nat.reduceSub]; rfl) hw
theorem amoFadd16x2 (d a ord sc) : Statement (.amoFadd16x2 d a ord sc) := fun c st w hw h =>
  reads (n := 6+6+6+4+2+2+2) rfl c st (0x3A#6 ++ d ++ a ++ 11#4 ++ ord ++ 2#2 ++ sc) w (Option.some.inj h).symm
    (decodeOp3A _) (by simp (disch := omega) only [field_high]; rfl)
    (by simp (disch := omega) only [-Nat.reduceAdd, decodeOp3A, field_low, field_high, field_nested, BitVec.extractLsb'_eq_self, Nat.reduceSub]; rfl) hw
theorem amoFmin32 (d a ord sc) : Statement (.amoFmin32 d a ord sc) := fun c st w hw h =>
  reads (n := 6+6+6+4+2+2+2) rfl c st (0x3A#6 ++ d ++ a ++ 12#4 ++ ord ++ 2#2 ++ sc) w (Option.some.inj h).symm
    (decodeOp3A _) (by simp (disch := omega) only [field_high]; rfl)
    (by simp (disch := omega) only [-Nat.reduceAdd, decodeOp3A, field_low, field_high, field_nested, BitVec.extractLsb'_eq_self, Nat.reduceSub]; rfl) hw
theorem amoFmax32 (d a ord sc) : Statement (.amoFmax32 d a ord sc) := fun c st w hw h =>
  reads (n := 6+6+6+4+2+2+2) rfl c st (0x3A#6 ++ d ++ a ++ 13#4 ++ ord ++ 2#2 ++ sc) w (Option.some.inj h).symm
    (decodeOp3A _) (by simp (disch := omega) only [field_high]; rfl)
    (by simp (disch := omega) only [-Nat.reduceAdd, decodeOp3A, field_low, field_high, field_nested, BitVec.extractLsb'_eq_self, Nat.reduceSub]; rfl) hw
theorem vamoAdd (d a ord sz sc) : Statement (.vamoAdd d a ord sz sc) := fun c st w hw h =>
  reads (n := 6+6+6+4+2+2+2) rfl c st (0x3B#6 ++ d ++ a ++ 0#4 ++ ord ++ sz ++ sc) w (Option.some.inj h).symm
    (decodeOp3B _) (by simp (disch := omega) only [field_high]; rfl)
    (by simp (disch := omega) only [-Nat.reduceAdd, decodeOp3B, field_low, field_high, field_nested, BitVec.extractLsb'_eq_self, Nat.reduceSub]) hw
theorem vamoAnd (d a ord sz sc) : Statement (.vamoAnd d a ord sz sc) := fun c st w hw h =>
  reads (n := 6+6+6+4+2+2+2) rfl c st (0x3B#6 ++ d ++ a ++ 1#4 ++ ord ++ sz ++ sc) w (Option.some.inj h).symm
    (decodeOp3B _) (by simp (disch := omega) only [field_high]; rfl)
    (by simp (disch := omega) only [-Nat.reduceAdd, decodeOp3B, field_low, field_high, field_nested, BitVec.extractLsb'_eq_self, Nat.reduceSub]) hw
theorem vamoOr (d a ord sz sc) : Statement (.vamoOr d a ord sz sc) := fun c st w hw h =>
  reads (n := 6+6+6+4+2+2+2) rfl c st (0x3B#6 ++ d ++ a ++ 2#4 ++ ord ++ sz ++ sc) w (Option.some.inj h).symm
    (decodeOp3B _) (by simp (disch := omega) only [field_high]; rfl)
    (by simp (disch := omega) only [-Nat.reduceAdd, decodeOp3B, field_low, field_high, field_nested, BitVec.extractLsb'_eq_self, Nat.reduceSub]) hw
theorem vamoXor (d a ord sz sc) : Statement (.vamoXor d a ord sz sc) := fun c st w hw h =>
  reads (n := 6+6+6+4+2+2+2) rfl c st (0x3B#6 ++ d ++ a ++ 3#4 ++ ord ++ sz ++ sc) w (Option.some.inj h).symm
    (decodeOp3B _) (by simp (disch := omega) only [field_high]; rfl)
    (by simp (disch := omega) only [-Nat.reduceAdd, decodeOp3B, field_low, field_high, field_nested, BitVec.extractLsb'_eq_self, Nat.reduceSub]) hw
theorem vamoMin (d a ord sz sc) : Statement (.vamoMin d a ord sz sc) := fun c st w hw h =>
  reads (n := 6+6+6+4+2+2+2) rfl c st (0x3B#6 ++ d ++ a ++ 4#4 ++ ord ++ sz ++ sc) w (Option.some.inj h).symm
    (decodeOp3B _) (by simp (disch := omega) only [field_high]; rfl)
    (by simp (disch := omega) only [-Nat.reduceAdd, decodeOp3B, field_low, field_high, field_nested, BitVec.extractLsb'_eq_self, Nat.reduceSub]) hw
theorem vamoMax (d a ord sz sc) : Statement (.vamoMax d a ord sz sc) := fun c st w hw h =>
  reads (n := 6+6+6+4+2+2+2) rfl c st (0x3B#6 ++ d ++ a ++ 5#4 ++ ord ++ sz ++ sc) w (Option.some.inj h).symm
    (decodeOp3B _) (by simp (disch := omega) only [field_high]; rfl)
    (by simp (disch := omega) only [-Nat.reduceAdd, decodeOp3B, field_low, field_high, field_nested, BitVec.extractLsb'_eq_self, Nat.reduceSub]) hw
theorem vamoMinu (d a ord sz sc) : Statement (.vamoMinu d a ord sz sc) := fun c st w hw h =>
  reads (n := 6+6+6+4+2+2+2) rfl c st (0x3B#6 ++ d ++ a ++ 6#4 ++ ord ++ sz ++ sc) w (Option.some.inj h).symm
    (decodeOp3B _) (by simp (disch := omega) only [field_high]; rfl)
    (by simp (disch := omega) only [-Nat.reduceAdd, decodeOp3B, field_low, field_high, field_nested, BitVec.extractLsb'_eq_self, Nat.reduceSub]) hw
theorem vamoMaxu (d a ord sz sc) : Statement (.vamoMaxu d a ord sz sc) := fun c st w hw h =>
  reads (n := 6+6+6+4+2+2+2) rfl c st (0x3B#6 ++ d ++ a ++ 7#4 ++ ord ++ sz ++ sc) w (Option.some.inj h).symm
    (decodeOp3B _) (by simp (disch := omega) only [field_high]; rfl)
    (by simp (disch := omega) only [-Nat.reduceAdd, decodeOp3B, field_low, field_high, field_nested, BitVec.extractLsb'_eq_self, Nat.reduceSub]) hw
theorem vamoXchg (d a ord sz sc) : Statement (.vamoXchg d a ord sz sc) := fun c st w hw h =>
  reads (n := 6+6+6+4+2+2+2) rfl c st (0x3B#6 ++ d ++ a ++ 8#4 ++ ord ++ sz ++ sc) w (Option.some.inj h).symm
    (decodeOp3B _) (by simp (disch := omega) only [field_high]; rfl)
    (by simp (disch := omega) only [-Nat.reduceAdd, decodeOp3B, field_low, field_high, field_nested, BitVec.extractLsb'_eq_self, Nat.reduceSub]) hw
theorem vamoCas (d a ord sz sc) : Statement (.vamoCas d a ord sz sc) := fun c st w hw h =>
  reads (n := 6+6+6+4+2+2+2) rfl c st (0x3B#6 ++ d ++ a ++ 9#4 ++ ord ++ sz ++ sc) w (Option.some.inj h).symm
    (decodeOp3B _) (by simp (disch := omega) only [field_high]; rfl)
    (by simp (disch := omega) only [-Nat.reduceAdd, decodeOp3B, field_low, field_high, field_nested, BitVec.extractLsb'_eq_self, Nat.reduceSub]) hw
theorem vamoFadd32 (d a ord sc) : Statement (.vamoFadd32 d a ord sc) := fun c st w hw h =>
  reads (n := 6+6+6+4+2+2+2) rfl c st (0x3B#6 ++ d ++ a ++ 10#4 ++ ord ++ 2#2 ++ sc) w (Option.some.inj h).symm
    (decodeOp3B _) (by simp (disch := omega) only [field_high]; rfl)
    (by simp (disch := omega) only [-Nat.reduceAdd, decodeOp3B, field_low, field_high, field_nested, BitVec.extractLsb'_eq_self, Nat.reduceSub]; rfl) hw
theorem vamoFadd16x2 (d a ord sc) : Statement (.vamoFadd16x2 d a ord sc) := fun c st w hw h =>
  reads (n := 6+6+6+4+2+2+2) rfl c st (0x3B#6 ++ d ++ a ++ 11#4 ++ ord ++ 2#2 ++ sc) w (Option.some.inj h).symm
    (decodeOp3B _) (by simp (disch := omega) only [field_high]; rfl)
    (by simp (disch := omega) only [-Nat.reduceAdd, decodeOp3B, field_low, field_high, field_nested, BitVec.extractLsb'_eq_self, Nat.reduceSub]; rfl) hw
theorem vamoFmin32 (d a ord sc) : Statement (.vamoFmin32 d a ord sc) := fun c st w hw h =>
  reads (n := 6+6+6+4+2+2+2) rfl c st (0x3B#6 ++ d ++ a ++ 12#4 ++ ord ++ 2#2 ++ sc) w (Option.some.inj h).symm
    (decodeOp3B _) (by simp (disch := omega) only [field_high]; rfl)
    (by simp (disch := omega) only [-Nat.reduceAdd, decodeOp3B, field_low, field_high, field_nested, BitVec.extractLsb'_eq_self, Nat.reduceSub]; rfl) hw
theorem vamoFmax32 (d a ord sc) : Statement (.vamoFmax32 d a ord sc) := fun c st w hw h =>
  reads (n := 6+6+6+4+2+2+2) rfl c st (0x3B#6 ++ d ++ a ++ 13#4 ++ ord ++ 2#2 ++ sc) w (Option.some.inj h).symm
    (decodeOp3B _) (by simp (disch := omega) only [field_high]; rfl)
    (by simp (disch := omega) only [-Nat.reduceAdd, decodeOp3B, field_low, field_high, field_nested, BitVec.extractLsb'_eq_self, Nat.reduceSub]; rfl) hw
theorem fence (uo scope) : Statement (.fence uo scope) := fun c st w hw h =>
  reads (n := 6+3+1+2+16) rfl c st (0x3C#6 ++ 0#3 ++ uo ++ scope ++ 0#16) w (Option.some.inj h).symm
    (decodeOp3C _) (by simp (disch := omega) only [field_high]; rfl)
    (by simp (disch := omega) only [-Nat.reduceAdd, decodeOp3C, field_low, field_high, field_nested, BitVec.extractLsb'_eq_self, Nat.reduceSub]; rfl) hw
theorem bar : Statement .bar := fun c st w hw h =>
  reads (n := 6+22) rfl c st (0x3C#6 ++ 1#22) w (Option.some.inj h).symm (.ok .bar) rfl rfl hw
theorem tbar : Statement .tbar := fun c st w hw h =>
  reads (n := 6+22) rfl c st (0x3C#6 ++ 2#22) w (Option.some.inj h).symm (.ok .tbar) rfl rfl hw
theorem arrive (a b) : Statement (.arrive a b) := fun c st w hw h =>
  reads (n := 6+6+6+6+4) rfl c st (0x3C#6 ++ 0#6 ++ a ++ b ++ 3#4) w (Option.some.inj h).symm
    (decodeOp3C _) (by simp (disch := omega) only [field_high]; rfl)
    (by simp (disch := omega) only [-Nat.reduceAdd, decodeOp3C, field_low, field_high, field_nested, BitVec.extractLsb'_eq_self, Nat.reduceSub]; rfl) hw
theorem await (a b) : Statement (.await a b) := fun c st w hw h =>
  reads (n := 6+6+6+6+4) rfl c st (0x3C#6 ++ 0#6 ++ a ++ b ++ 4#4) w (Option.some.inj h).symm
    (decodeOp3C _) (by simp (disch := omega) only [field_high]; rfl)
    (by simp (disch := omega) only [-Nat.reduceAdd, decodeOp3C, field_low, field_high, field_nested, BitVec.extractLsb'_eq_self, Nat.reduceSub]; rfl) hw
theorem ainit (a b) : Statement (.ainit a b) := fun c st w hw h =>
  reads (n := 6+6+6+6+4) rfl c st (0x3C#6 ++ 0#6 ++ a ++ b ++ 5#4) w (Option.some.inj h).symm
    (decodeOp3C _) (by simp (disch := omega) only [field_high]; rfl)
    (by simp (disch := omega) only [-Nat.reduceAdd, decodeOp3C, field_low, field_high, field_nested, BitVec.extractLsb'_eq_self, Nat.reduceSub]; rfl) hw
theorem fenceCode (scope) : Statement (.fenceCode scope) := fun c st w hw h =>
  reads (n := 6+4+2+16) rfl c st (0x3C#6 ++ 0#4 ++ scope ++ 6#16) w (Option.some.inj h).symm
    (decodeOp3C _) (by simp (disch := omega) only [field_high]; rfl)
    (by simp (disch := omega) only [-Nat.reduceAdd, decodeOp3C, field_low, field_high, field_nested, BitVec.extractLsb'_eq_self, Nat.reduceSub]; rfl) hw
theorem iflush : Statement .iflush := fun c st w hw h =>
  reads (n := 6+22) rfl c st (0x3C#6 ++ 7#22) w (Option.some.inj h).symm (.ok .iflush) rfl rfl hw
theorem tsread (d) : Statement (.tsread d) := fun c st w hw h =>
  reads (n := 6+6+16) rfl c st (0x3C#6 ++ d ++ 8#16) w (Option.some.inj h).symm
    (decodeOp3C _) (by simp (disch := omega) only [field_high]; rfl)
    (by simp (disch := omega) only [-Nat.reduceAdd, decodeOp3C, field_low, field_high, field_nested, BitVec.extractLsb'_eq_self, Nat.reduceSub]; rfl) hw
theorem feset (val a b) : Statement (.feset val a b) := fun c st w hw h =>
  reads (n := 6+5+1+6+6+4) rfl c st (0x3C#6 ++ 0#5 ++ val ++ a ++ b ++ 9#4) w (Option.some.inj h).symm
    (decodeOp3C _) (by simp (disch := omega) only [field_high]; rfl)
    (by simp (disch := omega) only [-Nat.reduceAdd, decodeOp3C, field_low, field_high, field_nested, BitVec.extractLsb'_eq_self, Nat.reduceSub]; rfl) hw
theorem fetest (d a) : Statement (.fetest d a) := fun c st w hw h =>
  reads (n := 6+6+6+10) rfl c st (0x3C#6 ++ d ++ a ++ 10#10) w (Option.some.inj h).symm
    (decodeOp3C _) (by simp (disch := omega) only [field_high]; rfl)
    (by simp (disch := omega) only [-Nat.reduceAdd, decodeOp3C, field_low, field_high, field_nested, BitVec.extractLsb'_eq_self, Nat.reduceSub]; rfl) hw
theorem tcopy (sa sb acq rel scope hold) : Statement (.tcopy sa sb acq rel scope hold) := fun c st w hw h =>
  reads (n := 6+4+6+6+1+1+2+1+1) rfl c st (0x3D#6 ++ 0#4 ++ sa ++ sb ++ acq ++ rel ++ scope ++ hold ++ 0#1) w (Option.some.inj h).symm
    (decodeOp3D _) (by simp (disch := omega) only [field_high]; rfl)
    (by simp (disch := omega) only [-Nat.reduceAdd, decodeOp3D, field_low, field_high, field_nested, BitVec.extractLsb'_eq_self, Nat.reduceSub]; rfl) hw
theorem tcopym (sa sb acq rel scope hold) : Statement (.tcopym sa sb acq rel scope hold) := fun c st w hw h =>
  reads (n := 6+4+6+6+1+1+2+1+1) rfl c st (0x3D#6 ++ 1#4 ++ sa ++ sb ++ acq ++ rel ++ scope ++ hold ++ 0#1) w (Option.some.inj h).symm
    (decodeOp3D _) (by simp (disch := omega) only [field_high]; rfl)
    (by simp (disch := omega) only [-Nat.reduceAdd, decodeOp3D, field_low, field_high, field_nested, BitVec.extractLsb'_eq_self, Nat.reduceSub]; rfl) hw
theorem mxldb (sa sb acq scope hold) : Statement (.mxldb sa sb acq scope hold) := fun c st w hw h =>
  reads (n := 6+4+6+6+1+1+2+1+1) rfl c st (0x3D#6 ++ 2#4 ++ sa ++ sb ++ acq ++ 0#1 ++ scope ++ hold ++ 0#1) w (Option.some.inj h).symm
    (decodeOp3D _) (by simp (disch := omega) only [field_high]; rfl)
    (by simp (disch := omega) only [-Nat.reduceAdd, decodeOp3D, field_low, field_high, field_nested, BitVec.extractLsb'_eq_self, Nat.reduceSub]; rfl) hw
theorem mxop (sa sb acq scope hold) : Statement (.mxop sa sb acq scope hold) := fun c st w hw h =>
  reads (n := 6+4+6+6+1+1+2+1+1) rfl c st (0x3D#6 ++ 3#4 ++ sa ++ sb ++ acq ++ 0#1 ++ scope ++ hold ++ 0#1) w (Option.some.inj h).symm
    (decodeOp3D _) (by simp (disch := omega) only [field_high]; rfl)
    (by simp (disch := omega) only [-Nat.reduceAdd, decodeOp3D, field_low, field_high, field_nested, BitVec.extractLsb'_eq_self, Nat.reduceSub]; rfl) hw
theorem mxfence (sb) : Statement (.mxfence sb) := fun c st w hw h =>
  reads (n := 6+10+6+6) rfl c st (0x3D#6 ++ 256#10 ++ sb ++ 0#6) w (Option.some.inj h).symm
    (decodeOp3D _) (by simp (disch := omega) only [field_high]; rfl)
    (by simp (disch := omega) only [-Nat.reduceAdd, decodeOp3D, field_low, field_high, field_nested, BitVec.extractLsb'_eq_self, Nat.reduceSub]; rfl) hw
theorem mxwait (sa) : Statement (.mxwait sa) := fun c st w hw h =>
  reads (n := 6+4+6+12) rfl c st (0x3D#6 ++ 5#4 ++ sa ++ 0#12) w (Option.some.inj h).symm
    (decodeOp3D _) (by simp (disch := omega) only [field_high]; rfl)
    (by simp (disch := omega) only [-Nat.reduceAdd, decodeOp3D, field_low, field_high, field_nested, BitVec.extractLsb'_eq_self, Nat.reduceSub]; rfl) hw
theorem mxacq : Statement .mxacq := fun c st w hw h =>
  reads (n := 6+22) rfl c st (0x3D#6 ++ 1572864#22) w (Option.some.inj h).symm (.ok .mxacq) rfl rfl hw
theorem mxrel : Statement .mxrel := fun c st w hw h =>
  reads (n := 6+22) rfl c st (0x3D#6 ++ 1835008#22) w (Option.some.inj h).symm (.ok .mxrel) rfl rfl hw
theorem bform (sa) : Statement (.bform sa) := fun c st w hw h =>
  reads (n := 6+4+6+12) rfl c st (0x3D#6 ++ 8#4 ++ sa ++ 0#12) w (Option.some.inj h).symm
    (decodeOp3D _) (by simp (disch := omega) only [field_high]; rfl)
    (by simp (disch := omega) only [-Nat.reduceAdd, decodeOp3D, field_low, field_high, field_nested, BitVec.extractLsb'_eq_self, Nat.reduceSub]; rfl) hw
theorem bjoin (sa) : Statement (.bjoin sa) := fun c st w hw h =>
  reads (n := 6+4+6+12) rfl c st (0x3D#6 ++ 9#4 ++ sa ++ 0#12) w (Option.some.inj h).symm
    (decodeOp3D _) (by simp (disch := omega) only [field_high]; rfl)
    (by simp (disch := omega) only [-Nat.reduceAdd, decodeOp3D, field_low, field_high, field_nested, BitVec.extractLsb'_eq_self, Nat.reduceSub]; rfl) hw
theorem bbrk : Statement .bbrk := fun c st w hw h =>
  reads (n := 6+22) rfl c st (0x3D#6 ++ 2621440#22) w (Option.some.inj h).symm (.ok .bbrk) rfl rfl hw
theorem msma (sa) : Statement (.msma sa) := fun c st w hw h =>
  reads (n := 6+4+6+12) rfl c st (0x3D#6 ++ 11#4 ++ sa ++ 0#12) w (Option.some.inj h).symm
    (decodeOp3D _) (by simp (disch := omega) only [field_high]; rfl)
    (by simp (disch := omega) only [-Nat.reduceAdd, decodeOp3D, field_low, field_high, field_nested, BitVec.extractLsb'_eq_self, Nat.reduceSub]; rfl) hw
theorem msmf : Statement .msmf := fun c st w hw h =>
  reads (n := 6+22) rfl c st (0x3D#6 ++ 3145728#22) w (Option.some.inj h).symm (.ok .msmf) rfl rfl hw
theorem msmrd (sa sb rel scope hold) : Statement (.msmrd sa sb rel scope hold) := fun c st w hw h =>
  reads (n := 6+4+6+6+1+1+2+1+1) rfl c st (0x3D#6 ++ 13#4 ++ sa ++ sb ++ 0#1 ++ rel ++ scope ++ hold ++ 0#1) w (Option.some.inj h).symm
    (decodeOp3D _) (by simp (disch := omega) only [field_high]; rfl)
    (by simp (disch := omega) only [-Nat.reduceAdd, decodeOp3D, field_low, field_high, field_nested, BitVec.extractLsb'_eq_self, Nat.reduceSub]; rfl) hw
theorem plngo (sa sb) : Statement (.plngo sa sb) := fun c st w hw h =>
  reads (n := 6+4+6+6+6) rfl c st (0x3D#6 ++ 14#4 ++ sa ++ sb ++ 0#6) w (Option.some.inj h).symm
    (decodeOp3D _) (by simp (disch := omega) only [field_high]; rfl)
    (by simp (disch := omega) only [-Nat.reduceAdd, decodeOp3D, field_low, field_high, field_nested, BitVec.extractLsb'_eq_self, Nat.reduceSub]; rfl) hw
theorem plnstop : Statement .plnstop := fun c st w hw h =>
  reads (n := 6+22) rfl c st (0x3D#6 ++ 3932160#22) w (Option.some.inj h).symm (.ok .plnstop) rfl rfl hw
theorem trap (num) : Statement (.trap num) := fun c st w hw h =>
  reads (n := 6+18+4) rfl c st (0x3E#6 ++ num ++ 0#4) w (Option.some.inj h).symm
    (decodeOp3E _) (by simp (disch := omega) only [field_high]; rfl)
    (by simp (disch := omega) only [-Nat.reduceAdd, decodeOp3E, field_low, field_high, field_nested, BitVec.extractLsb'_eq_self, Nat.reduceSub]) hw
theorem tret : Statement .tret := fun c st w hw h =>
  reads (n := 6+22) rfl c st (0x3E#6 ++ 1#22) w (Option.some.inj h).symm (.ok .tret) rfl rfl hw
theorem launch (d a) : Statement (.launch d a) := fun c st w hw h =>
  reads (n := 6+6+6+10) rfl c st (0x3E#6 ++ d ++ a ++ 2#10) w (Option.some.inj h).symm
    (decodeOp3E _) (by simp (disch := omega) only [field_high]; rfl)
    (by simp (disch := omega) only [-Nat.reduceAdd, decodeOp3E, field_low, field_high, field_nested, BitVec.extractLsb'_eq_self, Nat.reduceSub]; rfl) hw
theorem lwait (a) : Statement (.lwait a) := fun c st w hw h =>
  reads (n := 6+6+6+10) rfl c st (0x3E#6 ++ 0#6 ++ a ++ 3#10) w (Option.some.inj h).symm
    (decodeOp3E _) (by simp (disch := omega) only [field_high]; rfl)
    (by simp (disch := omega) only [-Nat.reduceAdd, decodeOp3E, field_low, field_high, field_nested, BitVec.extractLsb'_eq_self, Nat.reduceSub]; rfl) hw
theorem exit : Statement .exit := fun c st w hw h =>
  reads (n := 6+22) rfl c st (0x3E#6 ++ 4#22) w (Option.some.inj h).symm (.ok .exit) rfl rfl hw
theorem jighint (mode a b) : Statement (.jighint mode a b) := fun c st w hw h =>
  reads (n := 6+4+2+6+6+4) rfl c st (0x3E#6 ++ 0#4 ++ mode ++ a ++ b ++ 5#4) w (Option.some.inj h).symm
    (decodeOp3E _) (by simp (disch := omega) only [field_high]; rfl)
    (by simp (disch := omega) only [-Nat.reduceAdd, decodeOp3E, field_low, field_high, field_nested, BitVec.extractLsb'_eq_self, Nat.reduceSub]; rfl) hw
theorem brkpt (num) : Statement (.brkpt num) := fun c st w hw h =>
  reads (n := 6+18+4) rfl c st (0x3E#6 ++ num ++ 6#4) w (Option.some.inj h).symm
    (decodeOp3E _) (by simp (disch := omega) only [field_high]; rfl)
    (by simp (disch := omega) only [-Nat.reduceAdd, decodeOp3E, field_low, field_high, field_nested, BitVec.extractLsb'_eq_self, Nat.reduceSub]) hw
theorem nop : Statement .nop := fun c st w hw h =>
  reads (n := 6+22) rfl c st (0x3F#6 ++ 0#22) w (Option.some.inj h).symm (.ok .nop) rfl rfl hw
theorem fetchFault (a) : Statement (.fetchFault a) := fun _ _ _ _ h => by cases h
theorem loadCompletion (a) : Statement (.loadCompletion a) := fun _ _ _ _ h => by cases h
theorem storeCompletion (a) : Statement (.storeCompletion a) := fun _ _ _ _ h => by cases h
theorem remoteResponse (a b) : Statement (.remoteResponse a b) := fun _ _ _ _ h => by cases h
theorem inboundDomainRequest (a) : Statement (.inboundDomainRequest a) := fun _ _ _ _ h => by cases h
theorem hostDeviceAccess (a) : Statement (.hostDeviceAccess a) := fun _ _ _ _ h => by cases h
theorem hostRequestFailure (a) : Statement (.hostRequestFailure a) := fun _ _ _ _ h => by cases h
theorem copyRowLanding (a) : Statement (.copyRowLanding a) := fun _ _ _ _ h => by cases h
theorem engineCommandCompletion (a) : Statement (.engineCommandCompletion a) := fun _ _ _ _ h => by cases h
theorem deferredFaultDelivery (a) : Statement (.deferredFaultDelivery a) := fun _ _ _ _ h => by cases h
theorem bondFormation (a) : Statement (.bondFormation a) := fun _ _ _ _ h => by cases h
theorem capsuleStepCommit (a) : Statement (.capsuleStepCommit a) := fun _ _ _ _ h => by cases h
theorem eventWindowStart (a) : Statement (.eventWindowStart a) := fun _ _ _ _ h => by cases h
theorem fragmentPromotion (a) : Statement (.fragmentPromotion a) := fun _ _ _ _ h => by cases h
theorem yieldExpiry (a) : Statement (.yieldExpiry a) := fun _ _ _ _ h => by cases h
theorem warpRetirement (a) : Statement (.warpRetirement a) := fun _ _ _ _ h => by cases h
theorem launchRecordAdmission : Statement (.launchRecordAdmission) := fun _ _ _ _ h => by cases h
theorem teamPlacement : Statement (.teamPlacement) := fun _ _ _ _ h => by cases h
theorem runSliceExpiry (a) : Statement (.runSliceExpiry a) := fun _ _ _ _ h => by cases h
theorem waitSliceExpiry (a) : Statement (.waitSliceExpiry a) := fun _ _ _ _ h => by cases h
theorem lwaitPreemption (a) : Statement (.lwaitPreemption a) := fun _ _ _ _ h => by cases h
theorem teamSave (a) : Statement (.teamSave a) := fun _ _ _ _ h => by cases h
theorem teamResume (a) : Statement (.teamResume a) := fun _ _ _ _ h => by cases h
theorem deadContextDrainComplete (a) : Statement (.deadContextDrainComplete a) := fun _ _ _ _ h => by cases h
theorem dieLossDeclaration (a) : Statement (.dieLossDeclaration a) := fun _ _ _ _ h => by cases h
theorem queueDescriptorWrite (a b c d) : Statement (.queueDescriptorWrite a b c d) := fun _ _ _ _ h => by cases h
theorem managementRegisterWrite (a b c) : Statement (.managementRegisterWrite a b c) := fun _ _ _ _ h => by cases h
theorem translationInvalidation : Statement (.translationInvalidation) := fun _ _ _ _ h => by cases h
theorem hostKill : Statement (.hostKill) := fun _ _ _ _ h => by cases h
theorem clearRateHint : Statement (.clearRateHint) := fun _ _ _ _ h => by cases h
theorem cmdNoEffect (a) : Statement (.cmdNoEffect a) := fun _ _ _ _ h => by cases h
theorem deviceReset (a) : Statement (.deviceReset a) := fun _ _ _ _ h => by cases h
theorem thermalShutdown : Statement (.thermalShutdown) := fun _ _ _ _ h => by cases h
theorem engineCommandStart (a) : Statement (.engineCommandStart a) := fun _ _ _ _ h => by cases h
theorem managementCommandCompletion : Statement (.managementCommandCompletion) := fun _ _ _ _ h => by cases h

end Sys2Proof.Laws.Encoding
end

