-- ==== Sys2Proof/Laws/Words.lean ====
section
/-! SUPPORT. Words and events: what exec answers for a word whose checks find no trap, for one that traps, and outside a group; the effect
of each word by name. -/

namespace Sys2Proof.Laws

open Sys2Proof.Machine Sys2Proof.Safety

set_option Elab.async false

/-- A word whose checks find no trap has its effect. -/
theorem word_runs {i : Instr} {s : State} {v : View} {eff : View → State → State} (h : Runs s v i) :
    word i s eff = .next (eff v s) := by
  simp only [word, h.1, h.2]

/-- A word whose checks find a trap takes it. -/
theorem word_traps {i : Instr} {s : State} {v : View} {x : Found} {eff : View → State → State} (hv : s.view? = some v)
    (ht : s.wordTrap v i = some x) : word i s eff = .next (s.raiseIssue v i x.trap) := by
  simp only [word, hv, ht]

/-- Nothing surrounds a word where no group is being issued. -/
theorem view_none {s : State} (h : s.issue = none) : s.view? = none := by
  simp only [State.view?, h]; rfl

/-- A word outside a group stops. -/
theorem word_outside {i : Instr} {s : State} {eff : View → State → State} (h : s.issue = none) :
    word i s eff = .fault .noIssuingGroup := by
  simp only [word, view_none h, h]; rfl

/-- An event happens. -/
theorem event_happens (s : State) : happens s = .next s := rfl

theorem exec_sadd (d a b : BitVec 6) (s : State) (v : View) (h : Runs s v (.sadd d a b)) :
    exec (.sadd d a b) s = .next (
      s.scalar2 v d a b (fun x y => x + y)) := by
  simp only [exec, execSadd]; exact word_runs h

theorem exec_ssub (d a b : BitVec 6) (s : State) (v : View) (h : Runs s v (.ssub d a b)) :
    exec (.ssub d a b) s = .next (
      s.scalar2 v d a b (fun x y => x - y)) := by
  simp only [exec, execSsub]; exact word_runs h

theorem exec_smul (d a b : BitVec 6) (s : State) (v : View) (h : Runs s v (.smul d a b)) :
    exec (.smul d a b) s = .next (
      s.scalar2 v d a b (fun x y => x * y)) := by
  simp only [exec, execSmul]; exact word_runs h

theorem exec_smulh (d a b : BitVec 6) (s : State) (v : View) (h : Runs s v (.smulh d a b)) :
    exec (.smulh d a b) s = .next (
      s.scalar2 v d a b mulHighS) := by
  simp only [exec, execSmulh]; exact word_runs h

theorem exec_smulhu (d a b : BitVec 6) (s : State) (v : View) (h : Runs s v (.smulhu d a b)) :
    exec (.smulhu d a b) s = .next (
      s.scalar2 v d a b mulHighU) := by
  simp only [exec, execSmulhu]; exact word_runs h

theorem exec_sand (d a b : BitVec 6) (s : State) (v : View) (h : Runs s v (.sand d a b)) :
    exec (.sand d a b) s = .next (
      s.scalar2 v d a b (fun x y => x &&& y)) := by
  simp only [exec, execSand]; exact word_runs h

theorem exec_sor (d a b : BitVec 6) (s : State) (v : View) (h : Runs s v (.sor d a b)) :
    exec (.sor d a b) s = .next (
      s.scalar2 v d a b (fun x y => x ||| y)) := by
  simp only [exec, execSor]; exact word_runs h

theorem exec_sxor (d a b : BitVec 6) (s : State) (v : View) (h : Runs s v (.sxor d a b)) :
    exec (.sxor d a b) s = .next (
      s.scalar2 v d a b (fun x y => x ^^^ y)) := by
  simp only [exec, execSxor]; exact word_runs h

theorem exec_sshl (d a b : BitVec 6) (s : State) (v : View) (h : Runs s v (.sshl d a b)) :
    exec (.sshl d a b) s = .next (
      s.scalar2 v d a b (fun x y => x <<< shAmount y)) := by
  simp only [exec, execSshl]; exact word_runs h

theorem exec_sshr (d a b : BitVec 6) (s : State) (v : View) (h : Runs s v (.sshr d a b)) :
    exec (.sshr d a b) s = .next (
      s.scalar2 v d a b (fun x y => x >>> shAmount y)) := by
  simp only [exec, execSshr]; exact word_runs h

theorem exec_ssra (d a b : BitVec 6) (s : State) (v : View) (h : Runs s v (.ssra d a b)) :
    exec (.ssra d a b) s = .next (
      s.scalar2 v d a b (fun x y => x.sshiftRight (shAmount y))) := by
  simp only [exec, execSsra]; exact word_runs h

theorem exec_smin (d a b : BitVec 6) (s : State) (v : View) (h : Runs s v (.smin d a b)) :
    exec (.smin d a b) s = .next (
      s.scalar2 v d a b minS) := by
  simp only [exec, execSmin]; exact word_runs h

theorem exec_smax (d a b : BitVec 6) (s : State) (v : View) (h : Runs s v (.smax d a b)) :
    exec (.smax d a b) s = .next (
      s.scalar2 v d a b maxS) := by
  simp only [exec, execSmax]; exact word_runs h

theorem exec_sminu (d a b : BitVec 6) (s : State) (v : View) (h : Runs s v (.sminu d a b)) :
    exec (.sminu d a b) s = .next (
      s.scalar2 v d a b minU) := by
  simp only [exec, execSminu]; exact word_runs h

theorem exec_smaxu (d a b : BitVec 6) (s : State) (v : View) (h : Runs s v (.smaxu d a b)) :
    exec (.smaxu d a b) s = .next (
      s.scalar2 v d a b maxU) := by
  simp only [exec, execSmaxu]; exact word_runs h

theorem exec_sslt (d a b : BitVec 6) (s : State) (v : View) (h : Runs s v (.sslt d a b)) :
    exec (.sslt d a b) s = .next (
      s.scalar2 v d a b (fun x y => flag64 (decide (x.toInt < y.toInt)))) := by
  simp only [exec, execSslt]; exact word_runs h

theorem exec_ssltu (d a b : BitVec 6) (s : State) (v : View) (h : Runs s v (.ssltu d a b)) :
    exec (.ssltu d a b) s = .next (
      s.scalar2 v d a b (fun x y => flag64 (decide (x.toNat < y.toNat)))) := by
  simp only [exec, execSsltu]; exact word_runs h

theorem exec_sdiv (d a b : BitVec 6) (s : State) (v : View) (h : Runs s v (.sdiv d a b)) :
    exec (.sdiv d a b) s = .next (
      s.scalarDiv v d a b quotS) := by
  simp only [exec, execSdiv]; exact word_runs h

theorem exec_sdivu (d a b : BitVec 6) (s : State) (v : View) (h : Runs s v (.sdivu d a b)) :
    exec (.sdivu d a b) s = .next (
      s.scalarDiv v d a b quotU) := by
  simp only [exec, execSdivu]; exact word_runs h

theorem exec_srem (d a b : BitVec 6) (s : State) (v : View) (h : Runs s v (.srem d a b)) :
    exec (.srem d a b) s = .next (
      s.scalarDiv v d a b remS) := by
  simp only [exec, execSrem]; exact word_runs h

theorem exec_sremu (d a b : BitVec 6) (s : State) (v : View) (h : Runs s v (.sremu d a b)) :
    exec (.sremu d a b) s = .next (
      s.scalarDiv v d a b remU) := by
  simp only [exec, execSremu]; exact word_runs h

theorem exec_sclz (d a : BitVec 6) (s : State) (v : View) (h : Runs s v (.sclz d a)) :
    exec (.sclz d a) s = .next (
      s.scalar1 v d a (fun x => BitVec.ofNat 64 (leadingZeros 64 x.toNat))) := by
  simp only [exec, execSclz]; exact word_runs h

theorem exec_spopc (d a : BitVec 6) (s : State) (v : View) (h : Runs s v (.spopc d a)) :
    exec (.spopc d a) s = .next (
      s.scalar1 v d a (fun x => BitVec.ofNat 64 (popCount 64 x.toNat))) := by
  simp only [exec, execSpopc]; exact word_runs h

theorem exec_sbrev (d a : BitVec 6) (s : State) (v : View) (h : Runs s v (.sbrev d a)) :
    exec (.sbrev d a) s = .next (
      s.scalar1 v d a (fun x => BitVec.ofNat 64 (bitReverse 64 x.toNat))) := by
  simp only [exec, execSbrev]; exact word_runs h

theorem exec_ssext (d a wc : BitVec 6) (s : State) (v : View) (h : Runs s v (.ssext d a wc)) :
    exec (.ssext d a wc) s = .next (
      s.scalar1 v d a (signLow (codeWidth wc))) := by
  simp only [exec, execSsext]; exact word_runs h

theorem exec_szext (d a wc : BitVec 6) (s : State) (v : View) (h : Runs s v (.szext d a wc)) :
    exec (.szext d a wc) s = .next (
      s.scalar1 v d a (zeroLow (codeWidth wc))) := by
  simp only [exec, execSzext]; exact word_runs h

theorem exec_saddi (d a : BitVec 6) (imm : BitVec 10) (s : State) (v : View) (h : Runs s v (.saddi d a imm)) :
    exec (.saddi d a imm) s = .next (
      s.scalar1 v d a (fun x => x + imm.signExtend 64)) := by
  simp only [exec, execSaddi]; exact word_runs h

theorem exec_sandi (d a : BitVec 6) (imm : BitVec 10) (s : State) (v : View) (h : Runs s v (.sandi d a imm)) :
    exec (.sandi d a imm) s = .next (
      s.scalar1 v d a (fun x => x &&& imm.signExtend 64)) := by
  simp only [exec, execSandi]; exact word_runs h

theorem exec_sori (d a : BitVec 6) (imm : BitVec 10) (s : State) (v : View) (h : Runs s v (.sori d a imm)) :
    exec (.sori d a imm) s = .next (
      s.scalar1 v d a (fun x => x ||| imm.signExtend 64)) := by
  simp only [exec, execSori]; exact word_runs h

theorem exec_sxori (d a : BitVec 6) (imm : BitVec 10) (s : State) (v : View) (h : Runs s v (.sxori d a imm)) :
    exec (.sxori d a imm) s = .next (
      s.scalar1 v d a (fun x => x ^^^ imm.signExtend 64)) := by
  simp only [exec, execSxori]; exact word_runs h

theorem exec_sshiShl (d a amt : BitVec 6) (s : State) (v : View) (h : Runs s v (.sshiShl d a amt)) :
    exec (.sshiShl d a amt) s = .next (
      s.scalar1 v d a (fun x => x <<< amt.toNat)) := by
  simp only [exec, execSshiShl]; exact word_runs h

theorem exec_sshiShr (d a amt : BitVec 6) (s : State) (v : View) (h : Runs s v (.sshiShr d a amt)) :
    exec (.sshiShr d a amt) s = .next (
      s.scalar1 v d a (fun x => x >>> amt.toNat)) := by
  simp only [exec, execSshiShr]; exact word_runs h

theorem exec_sshiSra (d a amt : BitVec 6) (s : State) (v : View) (h : Runs s v (.sshiSra d a amt)) :
    exec (.sshiSra d a amt) s = .next (
      s.scalar1 v d a (fun x => x.sshiftRight amt.toNat)) := by
  simp only [exec, execSshiSra]; exact word_runs h

theorem exec_sshiRor (d a amt : BitVec 6) (s : State) (v : View) (h : Runs s v (.sshiRor d a amt)) :
    exec (.sshiRor d a amt) s = .next (
      s.scalar1 v d a (fun x => x.rotateRight amt.toNat)) := by
  simp only [exec, execSshiRor]; exact word_runs h

theorem exec_smovk (d : BitVec 6) (imm : BitVec 16) (s : State) (v : View) (h : Runs s v (.smovk d imm)) :
    exec (.smovk d imm) s = .next (
      s.putScalar v 1 d (imm.signExtend 64)) := by
  simp only [exec, execSmovk]; exact word_runs h

theorem exec_smovks (d : BitVec 6) (imm : BitVec 16) (s : State) (v : View) (h : Runs s v (.smovks d imm)) :
    exec (.smovks d imm) s = .next (
      s.putScalar v 1 d ((v.s d.toNat <<< 16) ||| imm.zeroExtend 64)) := by
  simp only [exec, execSmovks]; exact word_runs h

theorem exec_brcEqz (a : BitVec 6) (off : BitVec 12) (s : State) (v : View) (h : Runs s v (.brcEqz a off)) :
    exec (.brcEqz a off) s = .next (
      s.branchIf v (v.s a.toNat == 0) off) := by
  simp only [exec, execBrcEqz]; exact word_runs h

theorem exec_brcNez (a : BitVec 6) (off : BitVec 12) (s : State) (v : View) (h : Runs s v (.brcNez a off)) :
    exec (.brcNez a off) s = .next (
      s.branchIf v (v.s a.toNat != 0) off) := by
  simp only [exec, execBrcNez]; exact word_runs h

theorem exec_brcLtz (a : BitVec 6) (off : BitVec 12) (s : State) (v : View) (h : Runs s v (.brcLtz a off)) :
    exec (.brcLtz a off) s = .next (
      s.branchIf v (decide ((v.s a.toNat).toInt < 0)) off) := by
  simp only [exec, execBrcLtz]; exact word_runs h

theorem exec_brcGez (a : BitVec 6) (off : BitVec 12) (s : State) (v : View) (h : Runs s v (.brcGez a off)) :
    exec (.brcGez a off) s = .next (
      s.branchIf v (decide (0 ≤ (v.s a.toNat).toInt)) off) := by
  simp only [exec, execBrcGez]; exact word_runs h

theorem exec_brcAny (m : BitVec 3) (off : BitVec 12) (s : State) (v : View) (h : Runs s v (.brcAny m off)) :
    exec (.brcAny m off) s = .next (
      s.branchIf v ((v.active &&& v.m m.toNat) != 0) off) := by
  simp only [exec, execBrcAny]; exact word_runs h

theorem exec_brcAll (m : BitVec 3) (off : BitVec 12) (s : State) (v : View) (h : Runs s v (.brcAll m off)) :
    exec (.brcAll m off) s = .next (
      s.branchIf v ((v.active &&& v.m m.toNat) == v.active) off) := by
  simp only [exec, execBrcAll]; exact word_runs h

theorem exec_brcNone (m : BitVec 3) (off : BitVec 12) (s : State) (v : View) (h : Runs s v (.brcNone m off)) :
    exec (.brcNone m off) s = .next (
      s.branchIf v ((v.active &&& v.m m.toNat) == 0) off) := by
  simp only [exec, execBrcNone]; exact word_runs h

theorem exec_brcSplit (m : BitVec 3) (off : BitVec 12) (s : State) (v : View) (h : Runs s v (.brcSplit m off)) :
    exec (.brcSplit m off) s = .next (
      let t := v.active &&& v.m m.toNat
      if t = 0 then s
      else if t = v.active then s.jumpTo (v.target off)
      else s.modIssue (fun i => { i with
        ctl := if i.ctl = .fall then .split t (v.target off) else i.ctl
        visible := true })) := by
  simp only [exec, execBrcSplit]; exact word_runs h

theorem exec_jmp (off : BitVec 22) (s : State) (v : View) (h : Runs s v (.jmp off)) :
    exec (.jmp off) s = .next (
      s.jumpTo (v.target off)) := by
  simp only [exec, execJmp]; exact word_runs h

theorem exec_call (off : BitVec 22) (s : State) (v : View) (h : Runs s v (.call off)) :
    exec (.call off) s = .next (
      (s.putLink v).jumpTo (v.target off)) := by
  simp only [exec, execCall]; exact word_runs h

theorem exec_jmpr (a : BitVec 6) (s : State) (v : View) (h : Runs s v (.jmpr a)) :
    exec (.jmpr a) s = .next (
      s.jumpTo (v.s a.toNat)) := by
  simp only [exec, execJmpr]; exact word_runs h

theorem exec_callr (a : BitVec 6) (s : State) (v : View) (h : Runs s v (.callr a)) :
    exec (.callr a) s = .next (
      (s.putLink v).jumpTo (v.s a.toNat)) := by
  simp only [exec, execCallr]; exact word_runs h

theorem exec_ret (a : BitVec 6) (s : State) (v : View) (h : Runs s v (.ret a)) :
    exec (.ret a) s = .next (
      s.jumpTo (v.s a.toNat)) := by
  simp only [exec, execRet]; exact word_runs h

theorem exec_mand (d a b : BitVec 3) (s : State) (v : View) (h : Runs s v (.mand d a b)) :
    exec (.mand d a b) s = .next (
      s.putWholeMask v d (v.m a.toNat &&& v.m b.toNat)) := by
  simp only [exec, execMand]; exact word_runs h

theorem exec_mor (d a b : BitVec 3) (s : State) (v : View) (h : Runs s v (.mor d a b)) :
    exec (.mor d a b) s = .next (
      s.putWholeMask v d (v.m a.toNat ||| v.m b.toNat)) := by
  simp only [exec, execMor]; exact word_runs h

theorem exec_mxor (d a b : BitVec 3) (s : State) (v : View) (h : Runs s v (.mxor d a b)) :
    exec (.mxor d a b) s = .next (
      s.putWholeMask v d (v.m a.toNat ^^^ v.m b.toNat)) := by
  simp only [exec, execMxor]; exact word_runs h

theorem exec_mandn (d a b : BitVec 3) (s : State) (v : View) (h : Runs s v (.mandn d a b)) :
    exec (.mandn d a b) s = .next (
      s.putWholeMask v d (v.m a.toNat &&& ~~~(v.m b.toNat))) := by
  simp only [exec, execMandn]; exact word_runs h

theorem exec_mnot (d a : BitVec 3) (s : State) (v : View) (h : Runs s v (.mnot d a)) :
    exec (.mnot d a) s = .next (
      s.putWholeMask v d (~~~(v.m a.toNat))) := by
  simp only [exec, execMnot]; exact word_runs h

theorem exec_mpopc (d : BitVec 6) (a : BitVec 3) (s : State) (v : View) (h : Runs s v (.mpopc d a)) :
    exec (.mpopc d a) s = .next (
      s.putScalar v 1 d (BitVec.ofNat 64 (v.active &&& v.m a.toNat).count)) := by
  simp only [exec, execMpopc]; exact word_runs h

theorem exec_mffs (d : BitVec 6) (a : BitVec 3) (s : State) (v : View) (h : Runs s v (.mffs d a)) :
    exec (.mffs d a) s = .next (
      let x := v.active &&& v.m a.toNat
      s.putScalar v 1 d (if x = 0 then BitVec.allOnes 64 else BitVec.ofNat 64 x.low)) := by
  simp only [exec, execMffs]; exact word_runs h

theorem exec_mtos (d : BitVec 6) (a : BitVec 3) (s : State) (v : View) (h : Runs s v (.mtos d a)) :
    exec (.mtos d a) s = .next (
      s.putScalar v 1 d (v.m a.toNat)) := by
  simp only [exec, execMtos]; exact word_runs h

theorem exec_stom (d : BitVec 3) (a : BitVec 6) (s : State) (v : View) (h : Runs s v (.stom d a)) :
    exec (.stom d a) s = .next (
      s.putWholeMask v d (v.s a.toNat)) := by
  simp only [exec, execStom]; exact word_runs h

theorem exec_mact (d : BitVec 3) (s : State) (v : View) (h : Runs s v (.mact d)) :
    exec (.mact d) s = .next (
      s.putWholeMask v d v.active) := by
  simp only [exec, execMact]; exact word_runs h

theorem exec_regang (s : State) (v : View) (h : Runs s v .regang) :
    exec .regang s = .next (
      if v.f.records.isEmpty then s
      else s.modIssue (fun i => { i with ctl := if i.ctl = .fall then .regang else i.ctl })) := by
  simp only [exec, execRegang]; exact word_runs h

theorem exec_setfmt (a : BitVec 6) (s : State) (v : View) (h : Runs s v (.setfmt a)) :
    exec (.setfmt a) s = .next (
      s.putPend v 1 (.fmt ((v.s a.toNat).setWidth 32))) := by
  simp only [exec, execSetfmt]; exact word_runs h

theorem exec_getfmt (d : BitVec 6) (s : State) (v : View) (h : Runs s v (.getfmt d)) :
    exec (.getfmt d) s = .next (
      s.putScalar v 1 d (v.fmt.zeroExtend 64)) := by
  simp only [exec, execGetfmt]; exact word_runs h

theorem exec_setrm (mode : BitVec 3) (s : State) (v : View) (h : Runs s v (.setrm mode)) :
    exec (.setrm mode) s = .next (
      s.putPend v 1 (.fmt ((v.fmt &&& 0xFFFFFFF8#32) ||| mode.zeroExtend 32))) := by
  simp only [exec, execSetrm]; exact word_runs h

theorem exec_yield (s : State) (v : View) (h : Runs s v .yield) :
    exec .yield s = .next (
      s.modIssue (fun i => { i with yield := true })) := by
  simp only [exec, execYield]; exact word_runs h

theorem exec_getcr (d : BitVec 6) (num : BitVec 12) (s : State) (v : View) (h : Runs s v (.getcr d num)) :
    exec (.getcr d num) s = .next (
      s.putScalar v 1 d ((s.readCr v num.toNat).getD 0)) := by
  simp only [exec, execGetcr]; exact word_runs h

theorem exec_setcr (d : BitVec 6) (num : BitVec 12) (s : State) (v : View) (h : Runs s v (.setcr d num)) :
    exec (.setcr d num) s = .next (
      s.putCr v num.toNat (v.s d.toNat)) := by
  simp only [exec, execSetcr]; exact word_runs h

theorem exec_sqmap (a : BitVec 6) (s : State) (v : View) (h : Runs s v (.sqmap a)) :
    exec (.sqmap a) s = .next (
      s.putPend v 1 (.qmap ((v.s a.toNat).setWidth 8))) := by
  simp only [exec, execSqmap]; exact word_runs h

theorem exec_fragid (d : BitVec 6) (s : State) (v : View) (h : Runs s v (.fragid d)) :
    exec (.fragid d) s = .next (
      s.putScalar v 1 d v.fragId) := by
  simp only [exec, execFragid]; exact word_runs h

theorem exec_waitc (lc sc ec : BitVec 6) (s : State) (v : View) (h : Runs s v (.waitc lc sc ec)) :
    exec (.waitc lc sc ec) s = .next (
      s.modIssue (fun i => { i with waitc := some (lc.toNat, sc.toNat, ec.toNat), visible := true })) := by
  simp only [exec, execWaitc]; exact word_runs h

theorem exec_nop (s : State) (v : View) (h : Runs s v .nop) :
    exec .nop s = .next (
      s) := by
  simp only [exec, execNop]; exact word_runs h

theorem exec_vadd (d a b : BitVec 6) (ha hb : BitVec 1) (s : State) (v : View) (h : Runs s v (.vadd d a b ha hb)) :
    exec (.vadd d a b ha hb) s = .next (
      s.vector2 v 2 d a b (fun x y => x + y)) := by
  simp only [exec, execVadd]; exact word_runs h

theorem exec_vsub (d a b : BitVec 6) (ha hb : BitVec 1) (s : State) (v : View) (h : Runs s v (.vsub d a b ha hb)) :
    exec (.vsub d a b ha hb) s = .next (
      s.vector2 v 2 d a b (fun x y => x - y)) := by
  simp only [exec, execVsub]; exact word_runs h

theorem exec_vadds (d a b : BitVec 6) (ha hb : BitVec 1) (s : State) (v : View) (h : Runs s v (.vadds d a b ha hb)) :
    exec (.vadds d a b ha hb) s = .next (
      s.vectorSat v d a b (fun x y => x + y)) := by
  simp only [exec, execVadds]; exact word_runs h

theorem exec_vsubs (d a b : BitVec 6) (ha hb : BitVec 1) (s : State) (v : View) (h : Runs s v (.vsubs d a b ha hb)) :
    exec (.vsubs d a b ha hb) s = .next (
      s.vectorSat v d a b (fun x y => x - y)) := by
  simp only [exec, execVsubs]; exact word_runs h

theorem exec_vmul (d a b : BitVec 6) (ha hb : BitVec 1) (s : State) (v : View) (h : Runs s v (.vmul d a b ha hb)) :
    exec (.vmul d a b ha hb) s = .next (
      s.vector2 v 4 d a b (fun x y => x * y)) := by
  simp only [exec, execVmul]; exact word_runs h

theorem exec_vmulh (d a b : BitVec 6) (ha hb : BitVec 1) (s : State) (v : View) (h : Runs s v (.vmulh d a b ha hb)) :
    exec (.vmulh d a b ha hb) s = .next (
      s.vector2 v 4 d a b (fun x y => BitVec.ofInt 32 (x.toInt * y.toInt / 2 ^ 32))) := by
  simp only [exec, execVmulh]; exact word_runs h

theorem exec_vmulhu (d a b : BitVec 6) (ha hb : BitVec 1) (s : State) (v : View) (h : Runs s v (.vmulhu d a b ha hb)) :
    exec (.vmulhu d a b ha hb) s = .next (
      s.vector2 v 4 d a b (fun x y => BitVec.ofNat 32 (x.toNat * y.toNat / 2 ^ 32))) := by
  simp only [exec, execVmulhu]; exact word_runs h

theorem exec_vmad (d a b : BitVec 6) (ha hb : BitVec 1) (s : State) (v : View) (h : Runs s v (.vmad d a b ha hb)) :
    exec (.vmad d a b ha hb) s = .next (
      s.putVec v 4 d (fun i => v.v a.toNat i * v.v b.toNat i + v.v d.toNat i)) := by
  simp only [exec, execVmad]; exact word_runs h

theorem exec_vand (d a b : BitVec 6) (ha hb : BitVec 1) (s : State) (v : View) (h : Runs s v (.vand d a b ha hb)) :
    exec (.vand d a b ha hb) s = .next (
      s.vector2 v 2 d a b (fun x y => x &&& y)) := by
  simp only [exec, execVand]; exact word_runs h

theorem exec_vor (d a b : BitVec 6) (ha hb : BitVec 1) (s : State) (v : View) (h : Runs s v (.vor d a b ha hb)) :
    exec (.vor d a b ha hb) s = .next (
      s.vector2 v 2 d a b (fun x y => x ||| y)) := by
  simp only [exec, execVor]; exact word_runs h

theorem exec_vxor (d a b : BitVec 6) (ha hb : BitVec 1) (s : State) (v : View) (h : Runs s v (.vxor d a b ha hb)) :
    exec (.vxor d a b ha hb) s = .next (
      s.vector2 v 2 d a b (fun x y => x ^^^ y)) := by
  simp only [exec, execVxor]; exact word_runs h

theorem exec_vandn (d a b : BitVec 6) (ha hb : BitVec 1) (s : State) (v : View) (h : Runs s v (.vandn d a b ha hb)) :
    exec (.vandn d a b ha hb) s = .next (
      s.vector2 v 2 d a b (fun x y => x &&& ~~~y)) := by
  simp only [exec, execVandn]; exact word_runs h

theorem exec_vshl (d a b : BitVec 6) (ha hb : BitVec 1) (s : State) (v : View) (h : Runs s v (.vshl d a b ha hb)) :
    exec (.vshl d a b ha hb) s = .next (
      s.vector2 v 2 d a b (fun x y => x <<< lane5 y)) := by
  simp only [exec, execVshl]; exact word_runs h

theorem exec_vshr (d a b : BitVec 6) (ha hb : BitVec 1) (s : State) (v : View) (h : Runs s v (.vshr d a b ha hb)) :
    exec (.vshr d a b ha hb) s = .next (
      s.vector2 v 2 d a b (fun x y => x >>> lane5 y)) := by
  simp only [exec, execVshr]; exact word_runs h

theorem exec_vsra (d a b : BitVec 6) (ha hb : BitVec 1) (s : State) (v : View) (h : Runs s v (.vsra d a b ha hb)) :
    exec (.vsra d a b ha hb) s = .next (
      s.vector2 v 2 d a b (fun x y => x.sshiftRight (lane5 y))) := by
  simp only [exec, execVsra]; exact word_runs h

theorem exec_vrot (d a b : BitVec 6) (ha hb : BitVec 1) (s : State) (v : View) (h : Runs s v (.vrot d a b ha hb)) :
    exec (.vrot d a b ha hb) s = .next (
      s.vector2 v 2 d a b (fun x y => x.rotateRight (lane5 y))) := by
  simp only [exec, execVrot]; exact word_runs h

theorem exec_vmin (d a b : BitVec 6) (ha hb : BitVec 1) (s : State) (v : View) (h : Runs s v (.vmin d a b ha hb)) :
    exec (.vmin d a b ha hb) s = .next (
      s.vector2 v 2 d a b vminS) := by
  simp only [exec, execVmin]; exact word_runs h

theorem exec_vmax (d a b : BitVec 6) (ha hb : BitVec 1) (s : State) (v : View) (h : Runs s v (.vmax d a b ha hb)) :
    exec (.vmax d a b ha hb) s = .next (
      s.vector2 v 2 d a b vmaxS) := by
  simp only [exec, execVmax]; exact word_runs h

theorem exec_vminu (d a b : BitVec 6) (ha hb : BitVec 1) (s : State) (v : View) (h : Runs s v (.vminu d a b ha hb)) :
    exec (.vminu d a b ha hb) s = .next (
      s.vector2 v 2 d a b vminU) := by
  simp only [exec, execVminu]; exact word_runs h

theorem exec_vmaxu (d a b : BitVec 6) (ha hb : BitVec 1) (s : State) (v : View) (h : Runs s v (.vmaxu d a b ha hb)) :
    exec (.vmaxu d a b ha hb) s = .next (
      s.vector2 v 2 d a b vmaxU) := by
  simp only [exec, execVmaxu]; exact word_runs h

theorem exec_vaddi (d a : BitVec 6) (imm : BitVec 10) (s : State) (v : View) (h : Runs s v (.vaddi d a imm)) :
    exec (.vaddi d a imm) s = .next (
      s.vector1 v 2 d a (fun x => x + imm.signExtend 32)) := by
  simp only [exec, execVaddi]; exact word_runs h

theorem exec_vclz (d a : BitVec 6) (ha : BitVec 1) (s : State) (v : View) (h : Runs s v (.vclz d a ha)) :
    exec (.vclz d a ha) s = .next (
      s.vector1 v 2 d a (fun x => BitVec.ofNat 32 (leadingZeros 32 x.toNat))) := by
  simp only [exec, execVclz]; exact word_runs h

theorem exec_vpopc (d a : BitVec 6) (ha : BitVec 1) (s : State) (v : View) (h : Runs s v (.vpopc d a ha)) :
    exec (.vpopc d a ha) s = .next (
      s.vector1 v 2 d a (fun x => BitVec.ofNat 32 (popCount 32 x.toNat))) := by
  simp only [exec, execVpopc]; exact word_runs h

theorem exec_vbrev (d a : BitVec 6) (ha : BitVec 1) (s : State) (v : View) (h : Runs s v (.vbrev d a ha)) :
    exec (.vbrev d a ha) s = .next (
      s.vector1 v 2 d a (fun x => BitVec.ofNat 32 (bitReverse 32 x.toNat))) := by
  simp only [exec, execVbrev]; exact word_runs h

theorem exec_vsext (d a wc : BitVec 6) (ha : BitVec 1) (s : State) (v : View) (h : Runs s v (.vsext d a wc ha)) :
    exec (.vsext d a wc ha) s = .next (
      s.vector1 v 2 d a (fun x => (x.setWidth (codeWidth wc)).signExtend 32)) := by
  simp only [exec, execVsext]; exact word_runs h

theorem exec_vpk16 (d a b : BitVec 6) (ha hb : BitVec 1) (s : State) (v : View) (h : Runs s v (.vpk16 d a b ha hb)) :
    exec (.vpk16 d a b ha hb) s = .next (
      (s.vector2 v 2 d a b (fun x y => y.extractLsb' 0 16 ++ x.extractLsb' 0 16)).carry v 2 d [a, b] 0) := by
  simp only [exec, execVpk16]; exact word_runs h

theorem exec_vupkl16 (d a : BitVec 6) (ha : BitVec 1) (s : State) (v : View) (h : Runs s v (.vupkl16 d a ha)) :
    exec (.vupkl16 d a ha) s = .next (
      (s.vector1 v 2 d a (fun x => x <<< 16)).carry v 2 d [a] 0) := by
  simp only [exec, execVupkl16]; exact word_runs h

theorem exec_vupkh16 (d a : BitVec 6) (ha : BitVec 1) (s : State) (v : View) (h : Runs s v (.vupkh16 d a ha)) :
    exec (.vupkh16 d a ha) s = .next (
      (s.vector1 v 2 d a (fun x => x &&& 0xFFFF0000#32)).carry v 2 d [a] 0) := by
  simp only [exec, execVupkh16]; exact word_runs h

theorem exec_vbyte (d a b : BitVec 6) (ha hb : BitVec 1) (s : State) (v : View) (h : Runs s v (.vbyte d a b ha hb)) :
    exec (.vbyte d a b ha hb) s = .next (
      (s.vector2 v 2 d a b byteSelect).carry v 2 d [a, b] 0) := by
  simp only [exec, execVbyte]; exact word_runs h

theorem exec_vceq (m : BitVec 3) (a b : BitVec 6) (ha hb : BitVec 1) (s : State) (v : View) (h : Runs s v (.vceq m a b ha hb)) :
    exec (.vceq m a b ha hb) s = .next (
      s.intCompare v m a b (fun x y => x == y)) := by
  simp only [exec, execVceq]; exact word_runs h

theorem exec_vclt (m : BitVec 3) (a b : BitVec 6) (ha hb : BitVec 1) (s : State) (v : View) (h : Runs s v (.vclt m a b ha hb)) :
    exec (.vclt m a b ha hb) s = .next (
      s.intCompare v m a b (fun x y => decide (x.toInt < y.toInt))) := by
  simp only [exec, execVclt]; exact word_runs h

theorem exec_vcltu (m : BitVec 3) (a b : BitVec 6) (ha hb : BitVec 1) (s : State) (v : View) (h : Runs s v (.vcltu m a b ha hb)) :
    exec (.vcltu m a b ha hb) s = .next (
      s.intCompare v m a b (fun x y => decide (x.toNat < y.toNat))) := by
  simp only [exec, execVcltu]; exact word_runs h

theorem exec_vcle (m : BitVec 3) (a b : BitVec 6) (ha hb : BitVec 1) (s : State) (v : View) (h : Runs s v (.vcle m a b ha hb)) :
    exec (.vcle m a b ha hb) s = .next (
      s.intCompare v m a b (fun x y => decide (x.toInt ≤ y.toInt))) := by
  simp only [exec, execVcle]; exact word_runs h

theorem exec_vbcs (d a : BitVec 6) (ha : BitVec 1) (s : State) (v : View) (h : Runs s v (.vbcs d a ha)) :
    exec (.vbcs d a ha) s = .next (
      s.putVec v 2 d (fun _ => (v.s a.toNat).setWidth 32)) := by
  simp only [exec, execVbcs]; exact word_runs h

theorem exec_vmovm (d a : BitVec 6) (b : BitVec 3) (ha hb : BitVec 1) (s : State) (v : View) (h : Runs s v (.vmovm d a b ha hb)) :
    exec (.vmovm d a b ha hb) s = .next (
      s.putVec v 2 d (fun i => if (v.m b.toNat).has i then v.v a.toNat i else v.v d.toNat i)) := by
  simp only [exec, execVmovm]; exact word_runs h

theorem exec_vlane (d a : BitVec 6) (ha : BitVec 1) (s : State) (v : View) (h : Runs s v (.vlane d a ha)) :
    exec (.vlane d a ha) s = .next (
      s.putVec v 2 d (fun i => (v.s a.toNat).setWidth 32 + BitVec.ofNat 32 i)) := by
  simp only [exec, execVlane]; exact word_runs h

theorem exec_vtos (d a b : BitVec 6) (ha hb : BitVec 1) (s : State) (v : View) (h : Runs s v (.vtos d a b ha hb)) :
    exec (.vtos d a b ha hb) s = .next (
      let l := (v.s b.toNat).toNat % v.w.width
      s.putScalar v 4 d (if v.active.has l then (v.v a.toNat l).zeroExtend 64 else 0)) := by
  simp only [exec, execVtos]; exact word_runs h

theorem exec_vshfl (d a b : BitVec 6) (ha hb : BitVec 1) (s : State) (v : View) (h : Runs s v (.vshfl d a b ha hb)) :
    exec (.vshfl d a b ha hb) s = .next (
      s.crossLane v d a (fun i => xorLane i ((v.s b.toNat).toNat % v.w.width))) := by
  simp only [exec, execVshfl]; exact word_runs h

theorem exec_vbcl (d a b : BitVec 6) (ha hb : BitVec 1) (s : State) (v : View) (h : Runs s v (.vbcl d a b ha hb)) :
    exec (.vbcl d a b ha hb) s = .next (
      s.crossLane v d a (fun _ => (v.s b.toNat).toNat % v.w.width)) := by
  simp only [exec, execVbcl]; exact word_runs h

theorem exec_vrotl (d a b : BitVec 6) (ha hb : BitVec 1) (s : State) (v : View) (h : Runs s v (.vrotl d a b ha hb)) :
    exec (.vrotl d a b ha hb) s = .next (
      s.crossLane v d a (fun i => (i + (v.s b.toNat).toNat) % v.w.width)) := by
  simp only [exec, execVrotl]; exact word_runs h

theorem exec_vperm (d a b : BitVec 6) (ha hb : BitVec 1) (s : State) (v : View) (h : Runs s v (.vperm d a b ha hb)) :
    exec (.vperm d a b ha hb) s = .next (
      s.crossLane v d a (fun i => (v.v b.toNat i).toNat % v.w.width)) := by
  simp only [exec, execVperm]; exact word_runs h

theorem exec_vredadd (d a : BitVec 6) (ha : BitVec 1) (s : State) (v : View) (h : Runs s v (.vredadd d a ha)) :
    exec (.vredadd d a ha) s = .next (
      s.intReduce v d a (fun x y => x + y)) := by
  simp only [exec, execVredadd]; exact word_runs h

theorem exec_vredmin (d a : BitVec 6) (ha : BitVec 1) (s : State) (v : View) (h : Runs s v (.vredmin d a ha)) :
    exec (.vredmin d a ha) s = .next (
      s.intReduce v d a vminS) := by
  simp only [exec, execVredmin]; exact word_runs h

theorem exec_vredmax (d a : BitVec 6) (ha : BitVec 1) (s : State) (v : View) (h : Runs s v (.vredmax d a ha)) :
    exec (.vredmax d a ha) s = .next (
      s.intReduce v d a vmaxS) := by
  simp only [exec, execVredmax]; exact word_runs h

theorem exec_vredor (d a : BitVec 6) (ha : BitVec 1) (s : State) (v : View) (h : Runs s v (.vredor d a ha)) :
    exec (.vredor d a ha) s = .next (
      s.intReduce v d a (fun x y => x ||| y)) := by
  simp only [exec, execVredor]; exact word_runs h

theorem exec_vscanadd (d a : BitVec 6) (ha : BitVec 1) (s : State) (v : View) (h : Runs s v (.vscanadd d a ha)) :
    exec (.vscanadd d a ha) s = .next (
      s.intScan v d a false (fun x y => x + y)) := by
  simp only [exec, execVscanadd]; exact word_runs h

theorem exec_vscanmax (d a : BitVec 6) (ha : BitVec 1) (s : State) (v : View) (h : Runs s v (.vscanmax d a ha)) :
    exec (.vscanmax d a ha) s = .next (
      s.intScan v d a false vmaxS) := by
  simp only [exec, execVscanmax]; exact word_runs h

theorem exec_vscanmin (d a : BitVec 6) (ha : BitVec 1) (s : State) (v : View) (h : Runs s v (.vscanmin d a ha)) :
    exec (.vscanmin d a ha) s = .next (
      s.intScan v d a false vminS) := by
  simp only [exec, execVscanmin]; exact word_runs h

theorem exec_vscanaddx (d a : BitVec 6) (ha : BitVec 1) (s : State) (v : View) (h : Runs s v (.vscanaddx d a ha)) :
    exec (.vscanaddx d a ha) s = .next (
      s.intScan v d a true (fun x y => x + y)) := by
  simp only [exec, execVscanaddx]; exact word_runs h

theorem exec_vfadd (d a b : BitVec 6) (rm : BitVec 3) (s : State) (v : View) (h : Runs s v (.vfadd d a b rm)) :
    exec (.vfadd d a b rm) s = .next (
      s.float2 v 4 d a b (fun f x y => fAdd f (v.rm rm) x y)) := by
  simp only [exec, execVfadd]; exact word_runs h

theorem exec_vfsub (d a b : BitVec 6) (rm : BitVec 3) (s : State) (v : View) (h : Runs s v (.vfsub d a b rm)) :
    exec (.vfsub d a b rm) s = .next (
      s.float2 v 4 d a b (fun f x y => fSub f (v.rm rm) x y)) := by
  simp only [exec, execVfsub]; exact word_runs h

theorem exec_vfmul (d a b : BitVec 6) (rm : BitVec 3) (s : State) (v : View) (h : Runs s v (.vfmul d a b rm)) :
    exec (.vfmul d a b rm) s = .next (
      s.float2 v 4 d a b (fun f x y => fMul f (v.rm rm) x y)) := by
  simp only [exec, execVfmul]; exact word_runs h

theorem exec_vfdiv (d a b : BitVec 6) (rm : BitVec 3) (s : State) (v : View) (h : Runs s v (.vfdiv d a b rm)) :
    exec (.vfdiv d a b rm) s = .next (
      s.float2 v 8 d a b (fun f x y => fDiv f (v.rm rm) x y)) := by
  simp only [exec, execVfdiv]; exact word_runs h

theorem exec_vfma (d a b : BitVec 6) (rm : BitVec 3) (s : State) (v : View) (h : Runs s v (.vfma d a b rm)) :
    exec (.vfma d a b rm) s = .next (
      s.float3 v 4 d a b (fun f x y z => fMa f (v.rm rm) x y z)) := by
  simp only [exec, execVfma]; exact word_runs h

theorem exec_vfms (d a b : BitVec 6) (rm : BitVec 3) (s : State) (v : View) (h : Runs s v (.vfms d a b rm)) :
    exec (.vfms d a b rm) s = .next (
      s.float3 v 4 d a b (fun f x y z => fMs f (v.rm rm) x y z)) := by
  simp only [exec, execVfms]; exact word_runs h

theorem exec_vfmin (d a b : BitVec 6) (s : State) (v : View) (h : Runs s v (.vfmin d a b)) :
    exec (.vfmin d a b) s = .next (
      s.float2 v 4 d a b (fun f x y => minMax f false x y)) := by
  simp only [exec, execVfmin]; exact word_runs h

theorem exec_vfmax (d a b : BitVec 6) (s : State) (v : View) (h : Runs s v (.vfmax d a b)) :
    exec (.vfmax d a b) s = .next (
      s.float2 v 4 d a b (fun f x y => minMax f true x y)) := by
  simp only [exec, execVfmax]; exact word_runs h

theorem exec_vfcmpEq (m : BitVec 3) (a b : BitVec 6) (s : State) (v : View) (h : Runs s v (.vfcmpEq m a b)) :
    exec (.vfcmpEq m a b) s = .next (
      s.floatCompare v m a b floatEq) := by
  simp only [exec, execVfcmpEq]; exact word_runs h

theorem exec_vfcmpLt (m : BitVec 3) (a b : BitVec 6) (s : State) (v : View) (h : Runs s v (.vfcmpLt m a b)) :
    exec (.vfcmpLt m a b) s = .next (
      s.floatCompare v m a b floatLt) := by
  simp only [exec, execVfcmpLt]; exact word_runs h

theorem exec_vfcmpLe (m : BitVec 3) (a b : BitVec 6) (s : State) (v : View) (h : Runs s v (.vfcmpLe m a b)) :
    exec (.vfcmpLe m a b) s = .next (
      s.floatCompare v m a b floatLe) := by
  simp only [exec, execVfcmpLe]; exact word_runs h

theorem exec_vfcmpUn (m : BitVec 3) (a b : BitVec 6) (s : State) (v : View) (h : Runs s v (.vfcmpUn m a b)) :
    exec (.vfcmpUn m a b) s = .next (
      s.floatCompare v m a b (fun x y => !ordered x y)) := by
  simp only [exec, execVfcmpUn]; exact word_runs h

theorem exec_vfcmpNe (m : BitVec 3) (a b : BitVec 6) (s : State) (v : View) (h : Runs s v (.vfcmpNe m a b)) :
    exec (.vfcmpNe m a b) s = .next (
      s.floatCompare v m a b (fun x y => !floatEq x y)) := by
  simp only [exec, execVfcmpNe]; exact word_runs h

theorem exec_vfredadd (d a : BitVec 6) (rm : BitVec 3) (s : State) (v : View) (h : Runs s v (.vfredadd d a rm)) :
    exec (.vfredadd d a rm) s = .next (
      s.floatReduce v d a (fun f x y => fAdd f (v.rm rm) x y)) := by
  simp only [exec, execVfredadd]; exact word_runs h

theorem exec_vfredmax (d a : BitVec 6) (s : State) (v : View) (h : Runs s v (.vfredmax d a)) :
    exec (.vfredmax d a) s = .next (
      s.floatReduce v d a (fun f x y => minMax f true x y)) := by
  simp only [exec, execVfredmax]; exact word_runs h

theorem exec_vfscanadd (d a : BitVec 6) (rm : BitVec 3) (s : State) (v : View) (h : Runs s v (.vfscanadd d a rm)) :
    exec (.vfscanadd d a rm) s = .next (
      s.floatScan v d a (fun f x y => fAdd f (v.rm rm) x y)) := by
  simp only [exec, execVfscanadd]; exact word_runs h

theorem exec_vfscanmax (d a : BitVec 6) (s : State) (v : View) (h : Runs s v (.vfscanmax d a)) :
    exec (.vfscanmax d a) s = .next (
      s.floatScan v d a (fun f x y => minMax f true x y)) := by
  simp only [exec, execVfscanmax]; exact word_runs h

theorem exec_vfabs (d a : BitVec 6) (s : State) (v : View) (h : Runs s v (.vfabs d a)) :
    exec (.vfabs d a) s = .next (
      s.float1 v 4 d a absElem) := by
  simp only [exec, execVfabs]; exact word_runs h

theorem exec_vfcls (d a : BitVec 6) (s : State) (v : View) (h : Runs s v (.vfcls d a)) :
    exec (.vfcls d a) s = .next (
      s.putVec v 4 d (fun i =>
      (elementwise (vfFmt v.fmt) (fun e => ⟨classWord (vfFmt v.fmt) (elem (v.v a.toNat i) (vfFmt v.fmt).width e), 0⟩)).1)) := by
  simp only [exec, execVfcls]; exact word_runs h

theorem exec_vsfuRcp (d a : BitVec 6) (rm : BitVec 3) (s : State) (v : View) (h : Runs s v (.vsfuRcp d a rm)) :
    exec (.vsfuRcp d a rm) s = .next (
      s.special v d a rm .rcp) := by
  simp only [exec, execVsfuRcp]; exact word_runs h

theorem exec_vsfuRsq (d a : BitVec 6) (rm : BitVec 3) (s : State) (v : View) (h : Runs s v (.vsfuRsq d a rm)) :
    exec (.vsfuRsq d a rm) s = .next (
      s.special v d a rm .rsq) := by
  simp only [exec, execVsfuRsq]; exact word_runs h

theorem exec_vsfuSqrt (d a : BitVec 6) (rm : BitVec 3) (s : State) (v : View) (h : Runs s v (.vsfuSqrt d a rm)) :
    exec (.vsfuSqrt d a rm) s = .next (
      s.special v d a rm .sqrt) := by
  simp only [exec, execVsfuSqrt]; exact word_runs h

theorem exec_vsfuEx2 (d a : BitVec 6) (rm : BitVec 3) (s : State) (v : View) (h : Runs s v (.vsfuEx2 d a rm)) :
    exec (.vsfuEx2 d a rm) s = .next (
      s.special v d a rm .ex2) := by
  simp only [exec, execVsfuEx2]; exact word_runs h

theorem exec_vsfuLg2 (d a : BitVec 6) (rm : BitVec 3) (s : State) (v : View) (h : Runs s v (.vsfuLg2 d a rm)) :
    exec (.vsfuLg2 d a rm) s = .next (
      s.special v d a rm .lg2) := by
  simp only [exec, execVsfuLg2]; exact word_runs h

theorem exec_vsfuSin (d a : BitVec 6) (rm : BitVec 3) (s : State) (v : View) (h : Runs s v (.vsfuSin d a rm)) :
    exec (.vsfuSin d a rm) s = .next (
      s.special v d a rm .sin) := by
  simp only [exec, execVsfuSin]; exact word_runs h

theorem exec_vsfuCos (d a : BitVec 6) (rm : BitVec 3) (s : State) (v : View) (h : Runs s v (.vsfuCos d a rm)) :
    exec (.vsfuCos d a rm) s = .next (
      s.special v d a rm .cos) := by
  simp only [exec, execVsfuCos]; exact word_runs h

theorem exec_vsfuTanh (d a : BitVec 6) (rm : BitVec 3) (s : State) (v : View) (h : Runs s v (.vsfuTanh d a rm)) :
    exec (.vsfuTanh d a rm) s = .next (
      s.special v d a rm .tanh) := by
  simp only [exec, execVsfuTanh]; exact word_runs h

theorem exec_vsfuSigm (d a : BitVec 6) (rm : BitVec 3) (s : State) (v : View) (h : Runs s v (.vsfuSigm d a rm)) :
    exec (.vsfuSigm d a rm) s = .next (
      s.special v d a rm .sigm) := by
  simp only [exec, execVsfuSigm]; exact word_runs h

theorem exec_vcvt (d a : BitVec 6) (src dst rm : BitVec 3) (s : State) (v : View) (h : Runs s v (.vcvt d a src dst rm)) :
    exec (.vcvt d a src dst rm) s = .next (
      s.putConverted v 8 d [a] (fun i => convertLane src.toNat dst.toNat (v.rm rm) (v.v a.toNat i))) := by
  simp only [exec, execVcvt]; exact word_runs h

theorem exec_vqnt (d a b : BitVec 6) (rm : BitVec 3) (s : State) (v : View) (h : Runs s v (.vqnt d a b rm)) :
    exec (.vqnt d a b rm) s = .next (
      s.putConverted v 8 d [a, b] (fun i =>
      oneResult (quantElem (fmtQF v.fmt) (v.rm rm) (v.v a.toNat i).toNat (v.v b.toNat i).toNat))) := by
  simp only [exec, execVqnt]; exact word_runs h

theorem exec_vdqnt (d a b : BitVec 6) (rm : BitVec 3) (s : State) (v : View) (h : Runs s v (.vdqnt d a b rm)) :
    exec (.vdqnt d a b rm) s = .next (
      s.putVecFlags v 8 d (fun i =>
      oneResult (dequantElem (fmtQF v.fmt) (v.rm rm)
        (elem (v.v a.toNat i) (quantFmt (fmtQF v.fmt)).width 0) (v.v b.toNat i).toNat))) := by
  simp only [exec, execVdqnt]; exact word_runs h

theorem exec_vlqenc (d a b : BitVec 6) (ha hb : BitVec 1) (s : State) (v : View) (h : Runs s v (.vlqenc d a b ha hb)) :
    exec (.vlqenc d a b ha hb) s = .next (
      s.putVecFlags v 8 d (fun i => oneResult (v.octetEncode a b i))) := by
  simp only [exec, execVlqenc]; exact word_runs h

theorem exec_vlqdec (d a b : BitVec 6) (ha hb : BitVec 1) (s : State) (v : View) (h : Runs s v (.vlqdec d a b ha hb)) :
    exec (.vlqdec d a b ha hb) s = .next (
      s.putConverted v 8 d [a, b] (fun i =>
      oneResult (lqDecodeElem (v.rm 0) ((v.v a.toNat i).toNat % 2 ^ 16) (i % 8) (v.v b.toNat i).toNat))) := by
  simp only [exec, execVlqdec]; exact word_runs h

theorem exec_vlqins (d a b : BitVec 6) (ha hb : BitVec 1) (s : State) (v : View) (h : Runs s v (.vlqins d a b ha hb)) :
    exec (.vlqins d a b ha hb) s = .next (
      s.putVecFlags v 8 d (fun i => oneResult (v.octetInsert d a b i))) := by
  simp only [exec, execVlqins]; exact word_runs h

theorem exec_vlqerr (d a b : BitVec 6) (ha hb : BitVec 1) (s : State) (v : View) (h : Runs s v (.vlqerr d a b ha hb)) :
    exec (.vlqerr d a b ha hb) s = .next (
      s.putVecFlags v 8 d (fun i =>
      oneResult (lqErrElem (v.rm 0) ((v.v d.toNat i).toNat % 2 ^ 16) (i % 8) (v.v a.toNat i).toNat (v.v b.toNat i).toNat))) := by
  simp only [exec, execVlqerr]; exact word_runs h

theorem exec_sld (t a off : BitVec 6) (sz ord : BitVec 2) (s : State) (v : View) (h : Runs s v (.sld t a off sz ord)) :
    exec (.sld t a off sz ord) s = .next (
      s.issueMem v (v.scalarReq t a off sz ord false)) := by
  simp only [exec, execSld]; exact word_runs h

theorem exec_sst (t a off : BitVec 6) (sz ord : BitVec 2) (s : State) (v : View) (h : Runs s v (.sst t a off sz ord)) :
    exec (.sst t a off sz ord) s = .next (
      s.issueMem v (v.scalarReq t a off sz ord true)) := by
  simp only [exec, execSst]; exact word_runs h

theorem exec_vld (t a off : BitVec 6) (sz ord : BitVec 2) (s : State) (v : View) (h : Runs s v (.vld t a off sz ord)) :
    exec (.vld t a off sz ord) s = .next (
      s.issueMem v (v.globalReq t sz ord (v.rowAddr a off sz) false)) := by
  simp only [exec, execVld]; exact word_runs h

theorem exec_vst (t a off : BitVec 6) (sz ord : BitVec 2) (s : State) (v : View) (h : Runs s v (.vst t a off sz ord)) :
    exec (.vst t a off sz ord) s = .next (
      s.issueMem v (v.globalReq t sz ord (v.rowAddr a off sz) true)) := by
  simp only [exec, execVst]; exact word_runs h

theorem exec_vldg (t a off : BitVec 6) (sz ord : BitVec 2) (s : State) (v : View) (h : Runs s v (.vldg t a off sz ord)) :
    exec (.vldg t a off sz ord) s = .next (
      s.issueMem v (v.globalReq t sz ord (v.indexAddr a off sz) false)) := by
  simp only [exec, execVldg]; exact word_runs h

theorem exec_vsts (t a off : BitVec 6) (sz ord : BitVec 2) (s : State) (v : View) (h : Runs s v (.vsts t a off sz ord)) :
    exec (.vsts t a off sz ord) s = .next (
      s.issueMem v (v.globalReq t sz ord (v.indexAddr a off sz) true)) := by
  simp only [exec, execVsts]; exact word_runs h

theorem exec_bld (t a off : BitVec 6) (sz ord : BitVec 2) (s : State) (v : View) (h : Runs s v (.bld t a off sz ord)) :
    exec (.bld t a off sz ord) s = .next (
      s.issueMem v (v.benchReq t sz ord (v.rowAddr a off sz) false)) := by
  simp only [exec, execBld]; exact word_runs h

theorem exec_bst (t a off : BitVec 6) (sz ord : BitVec 2) (s : State) (v : View) (h : Runs s v (.bst t a off sz ord)) :
    exec (.bst t a off sz ord) s = .next (
      s.issueMem v (v.benchReq t sz ord (v.rowAddr a off sz) true)) := by
  simp only [exec, execBst]; exact word_runs h

theorem exec_bldg (t a off : BitVec 6) (sz ord : BitVec 2) (s : State) (v : View) (h : Runs s v (.bldg t a off sz ord)) :
    exec (.bldg t a off sz ord) s = .next (
      s.issueMem v (v.benchReq t sz ord (v.indexAddr a off sz) false)) := by
  simp only [exec, execBldg]; exact word_runs h

theorem exec_bsts (t a off : BitVec 6) (sz ord : BitVec 2) (s : State) (v : View) (h : Runs s v (.bsts t a off sz ord)) :
    exec (.bsts t a off sz ord) s = .next (
      s.issueMem v (v.benchReq t sz ord (v.indexAddr a off sz) true)) := by
  simp only [exec, execBsts]; exact word_runs h

theorem exec_amoAdd (d a : BitVec 6) (ord sz sc : BitVec 2) (s : State) (v : View) (h : Runs s v (.amoAdd d a ord sz sc)) :
    exec (.amoAdd d a ord sz sc) s = .next (
      s.issueMem v (v.amoReq 0 d a ord sz sc)) := by
  simp only [exec, execAmoAdd]; exact word_runs h

theorem exec_amoAnd (d a : BitVec 6) (ord sz sc : BitVec 2) (s : State) (v : View) (h : Runs s v (.amoAnd d a ord sz sc)) :
    exec (.amoAnd d a ord sz sc) s = .next (
      s.issueMem v (v.amoReq 1 d a ord sz sc)) := by
  simp only [exec, execAmoAnd]; exact word_runs h

theorem exec_amoOr (d a : BitVec 6) (ord sz sc : BitVec 2) (s : State) (v : View) (h : Runs s v (.amoOr d a ord sz sc)) :
    exec (.amoOr d a ord sz sc) s = .next (
      s.issueMem v (v.amoReq 2 d a ord sz sc)) := by
  simp only [exec, execAmoOr]; exact word_runs h

theorem exec_amoXor (d a : BitVec 6) (ord sz sc : BitVec 2) (s : State) (v : View) (h : Runs s v (.amoXor d a ord sz sc)) :
    exec (.amoXor d a ord sz sc) s = .next (
      s.issueMem v (v.amoReq 3 d a ord sz sc)) := by
  simp only [exec, execAmoXor]; exact word_runs h

theorem exec_amoMin (d a : BitVec 6) (ord sz sc : BitVec 2) (s : State) (v : View) (h : Runs s v (.amoMin d a ord sz sc)) :
    exec (.amoMin d a ord sz sc) s = .next (
      s.issueMem v (v.amoReq 4 d a ord sz sc)) := by
  simp only [exec, execAmoMin]; exact word_runs h

theorem exec_amoMax (d a : BitVec 6) (ord sz sc : BitVec 2) (s : State) (v : View) (h : Runs s v (.amoMax d a ord sz sc)) :
    exec (.amoMax d a ord sz sc) s = .next (
      s.issueMem v (v.amoReq 5 d a ord sz sc)) := by
  simp only [exec, execAmoMax]; exact word_runs h

theorem exec_amoMinu (d a : BitVec 6) (ord sz sc : BitVec 2) (s : State) (v : View) (h : Runs s v (.amoMinu d a ord sz sc)) :
    exec (.amoMinu d a ord sz sc) s = .next (
      s.issueMem v (v.amoReq 6 d a ord sz sc)) := by
  simp only [exec, execAmoMinu]; exact word_runs h

theorem exec_amoMaxu (d a : BitVec 6) (ord sz sc : BitVec 2) (s : State) (v : View) (h : Runs s v (.amoMaxu d a ord sz sc)) :
    exec (.amoMaxu d a ord sz sc) s = .next (
      s.issueMem v (v.amoReq 7 d a ord sz sc)) := by
  simp only [exec, execAmoMaxu]; exact word_runs h

theorem exec_amoXchg (d a : BitVec 6) (ord sz sc : BitVec 2) (s : State) (v : View) (h : Runs s v (.amoXchg d a ord sz sc)) :
    exec (.amoXchg d a ord sz sc) s = .next (
      s.issueMem v (v.amoReq 8 d a ord sz sc)) := by
  simp only [exec, execAmoXchg]; exact word_runs h

theorem exec_amoCas (d a : BitVec 6) (ord sz sc : BitVec 2) (s : State) (v : View) (h : Runs s v (.amoCas d a ord sz sc)) :
    exec (.amoCas d a ord sz sc) s = .next (
      s.issueMem v (v.amoReq 9 d a ord sz sc)) := by
  simp only [exec, execAmoCas]; exact word_runs h

theorem exec_amoFadd32 (d a : BitVec 6) (ord sc : BitVec 2) (s : State) (v : View) (h : Runs s v (.amoFadd32 d a ord sc)) :
    exec (.amoFadd32 d a ord sc) s = .next (
      s.issueMem v (v.amoReq 10 d a ord 2 sc)) := by
  simp only [exec, execAmoFadd32]; exact word_runs h

theorem exec_amoFadd16x2 (d a : BitVec 6) (ord sc : BitVec 2) (s : State) (v : View) (h : Runs s v (.amoFadd16x2 d a ord sc)) :
    exec (.amoFadd16x2 d a ord sc) s = .next (
      s.issueMem v (v.amoReq 11 d a ord 2 sc)) := by
  simp only [exec, execAmoFadd16x2]; exact word_runs h

theorem exec_amoFmin32 (d a : BitVec 6) (ord sc : BitVec 2) (s : State) (v : View) (h : Runs s v (.amoFmin32 d a ord sc)) :
    exec (.amoFmin32 d a ord sc) s = .next (
      s.issueMem v (v.amoReq 12 d a ord 2 sc)) := by
  simp only [exec, execAmoFmin32]; exact word_runs h

theorem exec_amoFmax32 (d a : BitVec 6) (ord sc : BitVec 2) (s : State) (v : View) (h : Runs s v (.amoFmax32 d a ord sc)) :
    exec (.amoFmax32 d a ord sc) s = .next (
      s.issueMem v (v.amoReq 13 d a ord 2 sc)) := by
  simp only [exec, execAmoFmax32]; exact word_runs h

theorem exec_vamoAdd (d a : BitVec 6) (ord sz sc : BitVec 2) (s : State) (v : View) (h : Runs s v (.vamoAdd d a ord sz sc)) :
    exec (.vamoAdd d a ord sz sc) s = .next (
      s.issueMem v (v.vamoReq 0 d a ord sz sc)) := by
  simp only [exec, execVamoAdd]; exact word_runs h

theorem exec_vamoAnd (d a : BitVec 6) (ord sz sc : BitVec 2) (s : State) (v : View) (h : Runs s v (.vamoAnd d a ord sz sc)) :
    exec (.vamoAnd d a ord sz sc) s = .next (
      s.issueMem v (v.vamoReq 1 d a ord sz sc)) := by
  simp only [exec, execVamoAnd]; exact word_runs h

theorem exec_vamoOr (d a : BitVec 6) (ord sz sc : BitVec 2) (s : State) (v : View) (h : Runs s v (.vamoOr d a ord sz sc)) :
    exec (.vamoOr d a ord sz sc) s = .next (
      s.issueMem v (v.vamoReq 2 d a ord sz sc)) := by
  simp only [exec, execVamoOr]; exact word_runs h

theorem exec_vamoXor (d a : BitVec 6) (ord sz sc : BitVec 2) (s : State) (v : View) (h : Runs s v (.vamoXor d a ord sz sc)) :
    exec (.vamoXor d a ord sz sc) s = .next (
      s.issueMem v (v.vamoReq 3 d a ord sz sc)) := by
  simp only [exec, execVamoXor]; exact word_runs h

theorem exec_vamoMin (d a : BitVec 6) (ord sz sc : BitVec 2) (s : State) (v : View) (h : Runs s v (.vamoMin d a ord sz sc)) :
    exec (.vamoMin d a ord sz sc) s = .next (
      s.issueMem v (v.vamoReq 4 d a ord sz sc)) := by
  simp only [exec, execVamoMin]; exact word_runs h

theorem exec_vamoMax (d a : BitVec 6) (ord sz sc : BitVec 2) (s : State) (v : View) (h : Runs s v (.vamoMax d a ord sz sc)) :
    exec (.vamoMax d a ord sz sc) s = .next (
      s.issueMem v (v.vamoReq 5 d a ord sz sc)) := by
  simp only [exec, execVamoMax]; exact word_runs h

theorem exec_vamoMinu (d a : BitVec 6) (ord sz sc : BitVec 2) (s : State) (v : View) (h : Runs s v (.vamoMinu d a ord sz sc)) :
    exec (.vamoMinu d a ord sz sc) s = .next (
      s.issueMem v (v.vamoReq 6 d a ord sz sc)) := by
  simp only [exec, execVamoMinu]; exact word_runs h

theorem exec_vamoMaxu (d a : BitVec 6) (ord sz sc : BitVec 2) (s : State) (v : View) (h : Runs s v (.vamoMaxu d a ord sz sc)) :
    exec (.vamoMaxu d a ord sz sc) s = .next (
      s.issueMem v (v.vamoReq 7 d a ord sz sc)) := by
  simp only [exec, execVamoMaxu]; exact word_runs h

theorem exec_vamoXchg (d a : BitVec 6) (ord sz sc : BitVec 2) (s : State) (v : View) (h : Runs s v (.vamoXchg d a ord sz sc)) :
    exec (.vamoXchg d a ord sz sc) s = .next (
      s.issueMem v (v.vamoReq 8 d a ord sz sc)) := by
  simp only [exec, execVamoXchg]; exact word_runs h

theorem exec_vamoCas (d a : BitVec 6) (ord sz sc : BitVec 2) (s : State) (v : View) (h : Runs s v (.vamoCas d a ord sz sc)) :
    exec (.vamoCas d a ord sz sc) s = .next (
      s.issueMem v (v.vamoReq 9 d a ord sz sc)) := by
  simp only [exec, execVamoCas]; exact word_runs h

theorem exec_vamoFadd32 (d a : BitVec 6) (ord sc : BitVec 2) (s : State) (v : View) (h : Runs s v (.vamoFadd32 d a ord sc)) :
    exec (.vamoFadd32 d a ord sc) s = .next (
      s.issueMem v (v.vamoReq 10 d a ord 2 sc)) := by
  simp only [exec, execVamoFadd32]; exact word_runs h

theorem exec_vamoFadd16x2 (d a : BitVec 6) (ord sc : BitVec 2) (s : State) (v : View) (h : Runs s v (.vamoFadd16x2 d a ord sc)) :
    exec (.vamoFadd16x2 d a ord sc) s = .next (
      s.issueMem v (v.vamoReq 11 d a ord 2 sc)) := by
  simp only [exec, execVamoFadd16x2]; exact word_runs h

theorem exec_vamoFmin32 (d a : BitVec 6) (ord sc : BitVec 2) (s : State) (v : View) (h : Runs s v (.vamoFmin32 d a ord sc)) :
    exec (.vamoFmin32 d a ord sc) s = .next (
      s.issueMem v (v.vamoReq 12 d a ord 2 sc)) := by
  simp only [exec, execVamoFmin32]; exact word_runs h

theorem exec_vamoFmax32 (d a : BitVec 6) (ord sc : BitVec 2) (s : State) (v : View) (h : Runs s v (.vamoFmax32 d a ord sc)) :
    exec (.vamoFmax32 d a ord sc) s = .next (
      s.issueMem v (v.vamoReq 13 d a ord 2 sc)) := by
  simp only [exec, execVamoFmax32]; exact word_runs h

theorem exec_fence (uo : BitVec 1) (scope : BitVec 2) (s : State) (v : View) (h : Runs s v (.fence uo scope)) :
    exec (.fence uo scope) s = .next (
      s.putFence v (uo == 1#1) false scope) := by
  simp only [exec, execFence]; exact word_runs h

theorem exec_bar (s : State) (v : View) (h : Runs s v .bar) :
    exec .bar s = .next (
      s.block (.bar v.g.barrier)) := by
  simp only [exec, execBar]; exact word_runs h

theorem exec_tbar (s : State) (v : View) (h : Runs s v .tbar) :
    exec .tbar s = .next (
      s.block (.tbar (((s.team? v.g.team).map Team.barrier).getD 0))) := by
  simp only [exec, execTbar]; exact word_runs h

theorem exec_arrive (a b : BitVec 6) (s : State) (v : View) (h : Runs s v (.arrive a b)) :
    exec (.arrive a b) s = .next (
      s.issueMem v (v.wordReq a (.arrive (v.low32 b)) 16 .none true)) := by
  simp only [exec, execArrive]; exact word_runs h

theorem exec_await (a b : BitVec 6) (s : State) (v : View) (h : Runs s v (.await a b)) :
    exec (.await a b) s = .next (
      match s.benchPlace v.gid v.g (BitVec.ofNat 64 (v.low32 a)) with
      | some p => s.block (.await (.bench p.1 p.2.2) (BitVec.ofNat 32 (v.low32 b)))
      | none => s) := by
  simp only [exec, execAwait]; exact word_runs h

theorem exec_ainit (a b : BitVec 6) (s : State) (v : View) (h : Runs s v (.ainit a b)) :
    exec (.ainit a b) s = .next (
      s.issueMem v (v.wordReq a (.ainit (v.low32 b)) 16 .none false)) := by
  simp only [exec, execAinit]; exact word_runs h

theorem exec_fenceCode (scope : BitVec 2) (s : State) (v : View) (h : Runs s v (.fenceCode scope)) :
    exec (.fenceCode scope) s = .next (
      s.putFence v true true scope) := by
  simp only [exec, execFenceCode]; exact word_runs h

theorem exec_iflush (s : State) (v : View) (h : Runs s v .iflush) :
    exec .iflush s = .next (
      ((s.jigFlush v.g.core (s.ctxOfWg v.g)).dropFetched v.fid v.g.core (s.ctxOfWg v.g)).flushOld v.wid (s.ctxOfWg v.g) v.active) := by
  simp only [exec, execIflush]; exact word_runs h

theorem exec_tsread (d : BitVec 6) (s : State) (v : View) (h : Runs s v (.tsread d)) :
    exec (.tsread d) s = .next (
      (s.addOp v.fid v.g.core
        { warp := v.wid, wg := v.gid, ctx := s.ctxOfWg v.g, active := v.active, op := .tsread, size := 8, dest := .scal d.toNat,
          acq := false, rel := false, scope := .wg, lanes := [⟨v.active.low, [], .rc, 0, 0, v.active, 0⟩] } [.s d.toNat]).2) := by
  simp only [exec, execTsread]; exact word_runs h

theorem exec_feset (val : BitVec 1) (a b : BitVec 6) (s : State) (v : View) (h : Runs s v (.feset val a b)) :
    exec (.feset val a b) s = .next (
      s.issueMem v (v.wordReq a (.feset (val == 1#1) (v.low32 b)) 4 .none false)) := by
  simp only [exec, execFeset]; exact word_runs h

theorem exec_fetest (d a : BitVec 6) (s : State) (v : View) (h : Runs s v (.fetest d a)) :
    exec (.fetest d a) s = .next (
      s.issueMem v (v.wordReq a .fetest 4 (.scal d.toNat) false)) := by
  simp only [exec, execFetest]; exact word_runs h

theorem exec_capent (a : BitVec 6) (s : State) (v : View) (h : Runs s v (.capent a)) :
    exec (.capent a) s = .next (
      match s.capentCheck v a with
      | .ok f => s.capEnter v f
      | .error _ => s) := by
  simp only [exec, execCapent]; exact word_runs h

theorem exec_capexit (s : State) (v : View) (h : Runs s v .capexit) :
    exec .capexit s = .next (
      s.modIssue (fun i => { i with ctl := .capexit, visible := true })) := by
  simp only [exec, execCapexit]; exact word_runs h

theorem exec_kld (d a : BitVec 3) (sz : BitVec 2) (s : State) (v : View) (h : Runs s v (.kld d a sz)) :
    exec (.kld d a sz) s = .next (
      s.issueStep v (v.stepReq .load d a (szBytes sz))) := by
  simp only [exec, execKld]; exact word_runs h

theorem exec_kst (d a : BitVec 3) (sz : BitVec 2) (s : State) (v : View) (h : Runs s v (.kst d a sz)) :
    exec (.kst d a sz) s = .next (
      s.issueStep v (v.stepReq .store d a (szBytes sz))) := by
  simp only [exec, execKst]; exact word_runs h

theorem exec_kamo (d a : BitVec 3) (sz : BitVec 1) (fn : BitVec 4) (s : State) (v : View) (h : Runs s v (.kamo d a sz fn)) :
    exec (.kamo d a sz fn) s = .next (
      s.issueStep v (v.stepReq (.amo fn) d a (if sz = 1#1 then 8 else 4))) := by
  simp only [exec, execKamo]; exact word_runs h

theorem exec_kmovs (d : BitVec 6) (a : BitVec 3) (s : State) (v : View) (h : Runs s v (.kmovs d a)) :
    exec (.kmovs d a) s = .next (
      s.putScalar v 1 d (v.k a.toNat)) := by
  simp only [exec, execKmovs]; exact word_runs h

theorem exec_kmovk (d : BitVec 3) (a : BitVec 6) (s : State) (v : View) (h : Runs s v (.kmovk d a)) :
    exec (.kmovk d a) s = .next (
      (s.putPend v 1 (.kreg d.toNat (v.s a.toNat))).modCapsule v.wid (fun c => { c with moved := Table.set c.moved d.toNat (v.s a.toNat) })) := by
  simp only [exec, execKmovk]; exact word_runs h

theorem exec_capstat (d : BitVec 6) (s : State) (v : View) (h : Runs s v (.capstat d)) :
    exec (.capstat d) s = .next (
      s.putScalar v 1 d (v.w.capstat.zeroExtend 64)) := by
  simp only [exec, execCapstat]; exact word_runs h

theorem exec_tcopy (sa sb : BitVec 6) (acq rel : BitVec 1) (scope : BitVec 2) (hold : BitVec 1) (s : State) (v : View) (h : Runs s v (.tcopy sa sb acq rel scope hold)) :
    exec (.tcopy sa sb acq rel scope hold) s = .next (
      (s.issueLinked v sb acq rel scope hold ((v.copyDesc sa).kind v.g false)).2) := by
  simp only [exec, execTcopy]; exact word_runs h

theorem exec_tcopym (sa sb : BitVec 6) (acq rel : BitVec 1) (scope : BitVec 2) (hold : BitVec 1) (s : State) (v : View) (h : Runs s v (.tcopym sa sb acq rel scope hold)) :
    exec (.tcopym sa sb acq rel scope hold) s = .next (
      (s.issueLinked v sb acq rel scope hold ((v.copyDesc sa).kind v.g true)).2) := by
  simp only [exec, execTcopym]; exact word_runs h

theorem exec_mxldb (sa sb : BitVec 6) (acq : BitVec 1) (scope : BitVec 2) (hold : BitVec 1) (s : State) (v : View) (h : Runs s v (.mxldb sa sb acq scope hold)) :
    exec (.mxldb sa sb acq scope hold) s = .next (
      let w0 := v.desc sa 0
      let p := s.issueLinked v sb acq 0 scope hold
        (.mxldb (bitsAt w0 0 19) (bitsAt w0 32 19) (bitsAt (v.desc sa 1) 0 19) (fmtMB v.fmt) (fmtSB v.fmt))
      (p.2.intoBatch v p.1).modCore v.g.core (fun c => { c with width8 := some (!wide16 (fmtMB v.fmt)) })) := by
  simp only [exec, execMxldb]; exact word_runs h

theorem exec_mxop (sa sb : BitVec 6) (acq : BitVec 1) (scope : BitVec 2) (hold : BitVec 1) (s : State) (v : View) (h : Runs s v (.mxop sa sb acq scope hold)) :
    exec (.mxop sa sb acq scope hold) s = .next (
      let w0 := v.desc sa 0
      let rc := s.bondSize v.g.core
      let holders := (bottomEdge v.g.core rc.1 rc.2).filterMap (fun c => (s.core c).owner)
      let p := s.issueLinked v sb acq 0 scope hold
        (.mxop (bitsAt w0 0 19) (bitsAt w0 32 16) (bitsAt w0 48 16) (bitsAt (v.desc sa 1) 0 19) (fmtMA v.fmt) (fmtSA v.fmt))
      (p.2.modCmd p.1 (fun c => { c with holders := holders })).intoBatch v p.1) := by
  simp only [exec, execMxop]; exact word_runs h

theorem exec_mxfence (sb : BitVec 6) (s : State) (v : View) (h : Runs s v (.mxfence sb)) :
    exec (.mxfence sb) s = .next (
      let s := s.modWarp v.wid (fun w => { w with
        batches := w.batches.filter (fun b => !s.cmdsEnded b.cmds) ++ [⟨w.batchNext, w.batchOpen⟩]
        batchOpen := []
        batchNext := nextBatch w.batchNext
        batchesClosed := w.batchesClosed + 1 })
      s.issueValue v sb (BitVec.ofNat 64 v.w.batchNext)) := by
  simp only [exec, execMxfence]; exact word_runs h

theorem exec_mxwait (sa : BitVec 6) (s : State) (v : View) (h : Runs s v (.mxwait sa)) :
    exec (.mxwait sa) s = .next (
      let n := bitsAt (v.s sa.toNat) 0 32
      (s.issueCmd v (s.newCmd v (.mxwait n))).2.block (.mxwait n)) := by
  simp only [exec, execMxwait]; exact word_runs h

theorem exec_mxacq (s : State) (v : View) (h : Runs s v .mxacq) :
    exec .mxacq s = .next (
      s.acquireLease v) := by
  simp only [exec, execMxacq]; exact word_runs h

theorem exec_mxrel (s : State) (v : View) (h : Runs s v .mxrel) :
    exec .mxrel s = .next (
      (s.passLease v.g.core).actAtOnce v .mxrel) := by
  simp only [exec, execMxrel]; exact word_runs h

theorem exec_bform (sa : BitVec 6) (s : State) (v : View) (h : Runs s v (.bform sa)) :
    exec (.bform sa) s = .next (
      s.formBond v (bitsAt (v.s sa.toNat) 0 3)) := by
  simp only [exec, execBform]; exact word_runs h

theorem exec_bjoin (sa : BitVec 6) (s : State) (v : View) (h : Runs s v (.bjoin sa)) :
    exec (.bjoin sa) s = .next (
      s.joinBond v (bitsAt (v.s sa.toNat) 0 3)) := by
  simp only [exec, execBjoin]; exact word_runs h

theorem exec_bbrk (s : State) (v : View) (h : Runs s v .bbrk) :
    exec .bbrk s = .next (
      if s.leadsBond v.g.core then (s.issueCmd v (s.newCmd v .bbrk)).2 else s.actAtOnce v .bbrk) := by
  simp only [exec, execBbrk]; exact word_runs h

theorem exec_msma (sa : BitVec 6) (s : State) (v : View) (h : Runs s v (.msma sa)) :
    exec (.msma sa) s = .next (
      let n := (v.s sa.toNat).toNat
      let p := s.issueCmd v (s.newCmd v (.msma n))
      ((p.2.modCore v.g.core (fun c => { c with msmFifo := c.msmFifo ++ [(v.wid, p.1, n)] })).grantMsm v.g.core).block (.grant p.1)) := by
  simp only [exec, execMsma]; exact word_runs h

theorem exec_msmf (s : State) (v : View) (h : Runs s v .msmf) :
    exec .msmf s = .next (
      s.freeMsm v) := by
  simp only [exec, execMsmf]; exact word_runs h

theorem exec_msmrd (sa sb : BitVec 6) (rel : BitVec 1) (scope : BitVec 2) (hold : BitVec 1) (s : State) (v : View) (h : Runs s v (.msmrd sa sb rel scope hold)) :
    exec (.msmrd sa sb rel scope hold) s = .next (
      let w0 := v.desc sa 0
      let w1 := v.desc sa 1
      (s.issueLinked v sb 0 rel scope hold (.msmrd (bitsAt w0 0 19) (bitsAt w0 32 16) (bitsAt w0 48 16) (bitsAt w1 0 19)
        (w1.extractLsb' 32 3) (v.rmCode (bitsAt w1 35 3)) (w1.getLsbD 38))).2) := by
  simp only [exec, execMsmrd]; exact word_runs h

theorem exec_plngo (sa sb : BitVec 6) (s : State) (v : View) (h : Runs s v (.plngo sa sb)) :
    exec (.plngo sa sb) s = .next (
      match s.plngoCheck v (.plngo sa sb) sa with
      | .ok ws => s.readPlaner v sa sb ws
      | .error _ => s) := by
  simp only [exec, execPlngo]; exact word_runs h

theorem exec_plnstop (s : State) (v : View) (h : Runs s v .plnstop) :
    exec .plnstop s = .next (
      s.stopPlaner v) := by
  simp only [exec, execPlnstop]; exact word_runs h

theorem exec_coll (sa sb : BitVec 6) (acq rel : BitVec 1) (scope : BitVec 2) (hold : BitVec 1) (s : State) (v : View) (h : Runs s v (.coll sa sb acq rel scope hold)) :
    exec (.coll sa sb acq rel scope hold) s = .next (
      let d := v.collDesc sa
      (s.issueLinked v sb acq rel scope hold
        (.coll d.src d.dst d.count d.group d.kind d.ef (v.rmCode d.rm.toNat) d.root (s.group d.group))).2) := by
  simp only [exec, execColl]; exact word_runs h

theorem exec_cbulk (sa sb : BitVec 6) (acq rel : BitVec 1) (scope : BitVec 2) (hold : BitVec 1) (s : State) (v : View) (h : Runs s v (.cbulk sa sb acq rel scope hold)) :
    exec (.cbulk sa sb acq rel scope hold) s = .next (
      let d := v.bulkDesc sa
      (s.issueLinked v sb acq rel scope hold
        (.cbulk d.dst d.src d.count d.opn d.ef (v.rmCode d.rm.toNat) d.imm d.operand)).2) := by
  simp only [exec, execCbulk]; exact word_runs h

theorem exec_compact (sa sb : BitVec 6) (acq rel : BitVec 1) (scope : BitVec 2) (hold : BitVec 1) (s : State) (v : View) (h : Runs s v (.compact sa sb acq rel scope hold)) :
    exec (.compact sa sb acq rel scope hold) s = .next (
      (s.issueLinked v sb acq rel scope hold (.compact (v.desc sa 0) (v.desc sa 1))).2) := by
  simp only [exec, execCompact]; exact word_runs h

theorem exec_qpush (sa sb : BitVec 6) (s : State) (v : View) (h : Runs s v (.qpush sa sb)) :
    exec (.qpush sa sb) s = .next (
      let s := s.modCore v.g.core (fun c =>
        { c with queues := Table.put [] c.queues sb.toNat (Table.getD c.queues sb.toNat [] ++ [v.entry sa.toNat]) })
      (s.modWg v.gid (orEngstat engPL (v.carriedBy [sa]))).actAtOnce v (.value 0)) := by
  simp only [exec, execQpush]; exact word_runs h

theorem exec_qstat (sb : BitVec 6) (s : State) (v : View) (h : Runs s v (.qstat sb)) :
    exec (.qstat sb) s = .next (
      s.issueValue v sb (s.queueStatus v)) := by
  simp only [exec, execQstat]; exact word_runs h

theorem exec_epoll (sa sb : BitVec 6) (s : State) (v : View) (h : Runs s v (.epoll sa sb)) :
    exec (.epoll sa sb) s = .next (
      (s.issueValue v sb (s.pollValue v.g (bitsAt (v.s sa.toNat) 0 8))).learnEnds (fun id => s.polled v.g (bitsAt (v.s sa.toNat) 0 8) == some id)
        v.wid v.gid v.active) := by
  simp only [exec, execEpoll]; exact word_runs h

theorem exec_ecancel (sa sb : BitVec 6) (s : State) (v : View) (h : Runs s v (.ecancel sa sb)) :
    exec (.ecancel sa sb) s = .next (
      let ids := s.cancellable v.gid (bitsAt (v.s sa.toNat) 0 8)
      (ids.foldl (fun s id => s.leaveEC id .cancelled) s).issueValue v sb (BitVec.ofNat 64 ids.length)) := by
  simp only [exec, execEcancel]; exact word_runs h

theorem exec_trap (num : BitVec 18) (s : State) (v : View) (h : Runs s v (.trap num)) :
    exec (.trap num) s = .next (
      s.modIssue (fun i => { i with after := some { code := Code.trap, detail := num, word := v.i.word } })) := by
  simp only [exec, execTrap]; exact word_runs h

theorem exec_tret (s : State) (v : View) (h : Runs s v .tret) :
    exec .tret s = .next (
      s.returnFrom v) := by
  simp only [exec, execTret]; exact word_runs h

theorem exec_launch (d a : BitVec 6) (s : State) (v : View) (h : Runs s v (.launch d a)) :
    exec (.launch d a) s = .next (
      match s.launchRecord v (v.s a.toNat) with
      | .ok r => s.launch v d r.1 r.2
      | .error _ => s) := by
  simp only [exec, execLaunch]; exact word_runs h

theorem exec_lwait (a : BitVec 6) (s : State) (v : View) (h : Runs s v (.lwait a)) :
    exec (.lwait a) s = .next (
      s.block (.lwait (v.s a.toNat).toNat)) := by
  simp only [exec, execLwait]; exact word_runs h

theorem exec_exit (s : State) (v : View) (h : Runs s v .exit) :
    exec .exit s = .next (
      s.modIssue (fun i => { i with ctl := .exit })) := by
  simp only [exec, execExit]; exact word_runs h

theorem exec_jighint (mode : BitVec 2) (a b : BitVec 6) (s : State) (v : View) (h : Runs s v (.jighint mode a b)) :
    exec (.jighint mode a b) s = .next (
      s.jigHint v mode (v.s a.toNat) (v.s b.toNat)) := by
  simp only [exec, execJighint]; exact word_runs h

theorem exec_brkpt (num : BitVec 18) (s : State) (v : View) (h : Runs s v (.brkpt num)) :
    exec (.brkpt num) s = .next (
      s) := by
  simp only [exec, execBrkpt]; exact word_runs h

end Sys2Proof.Laws
end

