-- ==== Sys2Proof/Tests/Slice0.lean ====
section
/-! SUPPORT. Tests: terms that are no encodings, words written out from the layouts, worked values of the spec on single steps, and for every
statement with hypotheses a state that meets them. -/

set_option maxRecDepth 100000
set_option Elab.async false

namespace Sys2Proof.Tests

open Sys2Proof.Machine Sys2Proof.Safety

/-! ### Ill-formed terms, one for each check -/

theorem test_wf_rounding : (Instr.vfadd 0 0 0 6).wf = false := by decide
theorem test_wf_pair_of_scalars : (Instr.mxldb 1 0 0 0 0).wf = false := by decide
theorem test_wf_four_scalars : (Instr.tcopy 2 0 0 0 0 0).wf = false := by decide
theorem test_wf_vector_pair : (Instr.vld 1 0 0 3 0).wf = false := by decide
theorem test_wf_load_order : (Instr.sld 0 0 0 2 2).wf = false := by decide
theorem test_wf_store_order : (Instr.sst 0 0 0 2 1).wf = false := by decide
theorem test_wf_tag_mode : (Instr.bld 0 0 0 2 3).wf = false := by decide
theorem test_wf_tag_size : (Instr.bst 0 0 0 1 1).wf = false := by decide
theorem test_wf_atomic_size : (Instr.amoAdd 0 0 0 1 0).wf = false := by decide
theorem test_wf_atomic_scope : (Instr.amoAdd 0 0 0 2 1).wf = false := by decide
theorem test_wf_atomic_address : (Instr.vamoAdd 0 1 0 2 0).wf = false := by decide
theorem test_wf_scalar_cas : (Instr.amoCas 1 0 0 2 0).wf = false := by decide
theorem test_wf_vector_cas : (Instr.vamoCas 2 0 0 3 0).wf = false := by decide
theorem test_wf_command_scope : (Instr.tcopy 0 0 0 0 1 0).wf = false := by decide
theorem test_wf_capsule_function : (Instr.kamo 0 0 0 14).wf = false := by decide
theorem test_wf_capsule_size : (Instr.kamo 0 0 1 10).wf = false := by decide
theorem test_wf_capsule_cas : (Instr.kamo 1 0 0 9).wf = false := by decide
theorem test_wf_scalar_width : (Instr.ssext 0 0 3).wf = false ∧ (Instr.szext 0 0 63).wf = false := by decide
theorem test_wf_vector_width : (Instr.vsext 0 0 2 0).wf = false := by decide
theorem test_wf_conversion_to_itself : (Instr.vcvt 0 0 4 4 0).wf = false := by decide
theorem test_wf_queue_fields : (Instr.qpush 8 0).wf = false ∧ (Instr.qpush 0 8).wf = false := by decide
theorem test_wf_hint_mode : (Instr.jighint 3 0 0).wf = false := by decide

/-! ### Words written out from the layouts of R105 to R109 and of each instruction's rule -/

/-- S, RS (R118, R119): OP 0x02, D 7, A 8, width code 2, FN 8. -/
theorem test_decode_ssext : decode (0#1 ++ 3#3 ++ 0x02#6 ++ 7#6 ++ 8#6 ++ 2#6 ++ 8#4) = .ok ⟨false, 3, .ssext 7 8 2⟩ := by rfl
/-- S, I with a kind (R121): OP 0x07, D 1, A 2, KIND 11, 00, AMT 63. -/
theorem test_decode_sshi : decode (0#1 ++ 0#3 ++ 0x07#6 ++ 1#6 ++ 2#6 ++ 3#2 ++ 0#2 ++ 63#6) = .ok ⟨false, 0, .sshiRor 1 2 63⟩ := by rfl
/-- Branch on a mask (R123): COND 7, 000, m5, OFF12 3. -/
theorem test_decode_split : decode (0#1 ++ 0#3 ++ 0x0A#6 ++ 7#4 ++ 0#3 ++ 5#3 ++ 3#12) = .ok ⟨false, 0, .brcSplit 5 3⟩ := by rfl
/-- Branch on a mask with a reserved bit (R106). -/
theorem test_decode_split_reserved : decode (0#1 ++ 0#3 ++ 0x0A#6 ++ 7#4 ++ 1#3 ++ 5#3 ++ 3#12) = .error .field := by rfl
/-- MASK (R129): s9 from m3. -/
theorem test_decode_mtos : decode (0#1 ++ 0#3 ++ 0x0E#6 ++ 9#6 ++ 0#3 ++ 3#3 ++ 0#6 ++ 7#4) = .ok ⟨false, 0, .mtos 9 3⟩ := by rfl
/-- CTRL (R135): the number stands in bits 15:4. -/
theorem test_decode_setcr : decode (0#1 ++ 0#3 ++ 0x0F#6 ++ 4#6 ++ 0x02A#12 ++ 6#4) = .ok ⟨false, 0, .setcr 4 0x02A⟩ := by rfl
/-- WAITC (R101): LC 0, SC 63, EC 62. -/
theorem test_decode_waitc : decode (1#1 ++ 0#3 ++ 0x10#6 ++ 0#6 ++ 63#6 ++ 0#4 ++ 62#6) = .ok ⟨true, 0, .waitc 0 63 62⟩ := by rfl
/-- VI, a compare (R154): D names m6. -/
theorem test_decode_vcltu : decode (0#1 ++ 0#3 ++ 0x16#6 ++ 0#3 ++ 6#3 ++ 1#6 ++ 2#6 ++ 0#1 ++ 1#1 ++ 2#2) = .ok ⟨false, 0, .vcltu 6 1 2 0 1⟩ := by rfl
/-- VI, cross-lane (R156) and a reduction (R159). -/
theorem test_decode_vperm : decode (0#1 ++ 0#3 ++ 0x19#6 ++ 1#6 ++ 2#6 ++ 3#6 ++ 1#1 ++ 1#1 ++ 3#2) = .ok ⟨false, 0, .vperm 1 2 3 1 1⟩ ∧
    decode (0#1 ++ 0#3 ++ 0x1A#6 ++ 1#6 ++ 2#6 ++ 0#6 ++ 1#1 ++ 0#1 ++ 3#2) = .ok ⟨false, 0, .vredor 1 2 1⟩ := by exact ⟨rfl, rfl⟩
/-- VF: FMA and a compare (R160, R163). -/
theorem test_decode_vfcmp : decode (0#1 ++ 0#3 ++ 0x24#6 ++ 0#3 ++ 2#3 ++ 1#6 ++ 2#6 ++ 1#3 ++ 0#1) = .ok ⟨false, 0, .vfcmpLt 2 1 2⟩ := by rfl
/-- X: VSFU SIN in RU (R165) and VCVT (R170): SRC 4, DST 0. -/
theorem test_decode_vsfu : decode (0#1 ++ 0#3 ++ 0x27#6 ++ 1#6 ++ 2#6 ++ 5#6 ++ 3#3 ++ 0#1) = .ok ⟨false, 0, .vsfuSin 1 2 3⟩ := by rfl
theorem test_decode_vcvt : decode (0#1 ++ 0#3 ++ 0x29#6 ++ 1#6 ++ 2#6 ++ 4#3 ++ 0#3 ++ 5#3 ++ 0#1) = .ok ⟨false, 0, .vcvt 1 2 4 0 5⟩ := by rfl
/-- Lattice (R176). -/
theorem test_decode_vlqenc : decode (0#1 ++ 0#3 ++ 0x2C#6 ++ 1#6 ++ 2#6 ++ 3#6 ++ 0#4) = .ok ⟨false, 0, .vlqenc 1 2 3 0 0⟩ := by rfl
/-- ENG2 (R251, R286): SUB 1, SA 4, SB 20, ACQ 0, REL 1, SCOPE 11, HOLD 0. -/
theorem test_decode_cbulk : decode (0#1 ++ 0#3 ++ 0x2D#6 ++ 1#4 ++ 4#6 ++ 20#6 ++ 0#1 ++ 1#1 ++ 3#2 ++ 0#1 ++ 0#1) =
    .ok ⟨false, 0, .cbulk 4 20 0 1 3 0⟩ := by rfl
/-- CAP (R312): KAMO with D 2, A 3, a 64-bit CAS. -/
theorem test_decode_kamo : decode (0#1 ++ 0#3 ++ 0x2E#6 ++ 0#3 ++ 2#3 ++ 0#3 ++ 3#3 ++ 0#1 ++ 1#1 ++ 9#4 ++ 4#4) =
    .ok ⟨false, 0, .kamo 2 3 1 9⟩ := by rfl
/-- M (R215, R185): BLD in the mode that empties. -/
theorem test_decode_bld : decode (0#1 ++ 0#3 ++ 0x36#6 ++ 4#6 ++ 1#6 ++ 2#6 ++ 3#2 ++ 2#2) = .ok ⟨false, 0, .bld 4 1 2 3 2⟩ := by rfl
/-- AM (R219): VAMO CAS of 32 bits. -/
theorem test_decode_vamo_cas : decode (0#1 ++ 0#3 ++ 0x3B#6 ++ 2#6 ++ 4#6 ++ 9#4 ++ 3#2 ++ 2#2 ++ 3#2) = .ok ⟨false, 0, .vamoCas 2 4 3 2 3⟩ := by rfl
/-- SYNC (R222): FENCE.UO at SYS, and FESET to full. -/
theorem test_decode_fence : decode (0#1 ++ 0#3 ++ 0x3C#6 ++ 0#3 ++ 1#1 ++ 3#2 ++ 0#12 ++ 0#4) = .ok ⟨false, 0, .fence 1 3⟩ ∧
    decode (0#1 ++ 0#3 ++ 0x3C#6 ++ 0#5 ++ 1#1 ++ 3#6 ++ 4#6 ++ 9#4) = .ok ⟨false, 0, .feset 1 3 4⟩ := by exact ⟨rfl, rfl⟩
/-- ENG (R251): MSMRD, SUB 13, and MXOP, SUB 3. -/
theorem test_decode_mxop : decode (0#1 ++ 0#3 ++ 0x3D#6 ++ 3#4 ++ 6#6 ++ 8#6 ++ 1#1 ++ 0#1 ++ 1#2 ++ 1#1 ++ 0#1) = .ok ⟨false, 0, .mxop 6 8 1 1 1⟩ ∧
    decode (0#1 ++ 0#3 ++ 0x3D#6 ++ 13#4 ++ 6#6 ++ 8#6 ++ 0#1 ++ 1#1 ++ 2#2 ++ 0#1 ++ 0#1) = .ok ⟨false, 0, .msmrd 6 8 1 2 0⟩ := by exact ⟨rfl, rfl⟩
/-- SYS (R321, R323, R326): a trap number of 18 bits, LAUNCH, and a hint. -/
theorem test_decode_trap : decode (0#1 ++ 0#3 ++ 0x3E#6 ++ 0x2ABCD#18 ++ 0#4) = .ok ⟨false, 0, .trap 0x2ABCD⟩ := by rfl
theorem test_decode_launch : decode (0#1 ++ 0#3 ++ 0x3E#6 ++ 5#6 ++ 6#6 ++ 0#6 ++ 2#4) = .ok ⟨false, 0, .launch 5 6⟩ ∧
    decode (0#1 ++ 0#3 ++ 0x3E#6 ++ 0#4 ++ 2#2 ++ 1#6 ++ 2#6 ++ 5#4) = .ok ⟨false, 0, .jighint 2 1 2⟩ := by exact ⟨rfl, rfl⟩
/-- The idle group `nop !7` is 0x7FC0_0000 (R110). -/
theorem test_decode_idle : decode 0x7FC00000#32 = .ok ⟨false, 7, .nop⟩ := by rfl

/-! ### A small machine: one warp of 16 lanes, one of them live, on core 0, whose group of one NOP has begun to issue. Its context is 1,
grid 2, team 3, workgroup 4, warp 5 and fragment 6. -/

def idle : Word := 0x0FC00000

/-- A program of one word, placed but not issued. -/
def placed (w : Nat) : State := { State.reset.withFetchWord 32 w with agenda := [] }

/-- The next group of fragment 6 has begun to issue, as a group of one NOP. -/
def begun (s : State) : State :=
  match s.nextView 6 with
  | some v => s.beginGroup v [idle]
  | none => s

def here : State := begun (placed 0x0FC00000)

/-- Scalar registers below 48 set. -/
def scalars (s : State) (l : List (Nat × Dword)) : State :=
  s.modWarp 5 (fun w => { w with s := l.foldl (fun t p => Table.put 0 t p.1 p.2) w.s })

/-- A word may run: what surrounds it is there, and no check finds a trap. -/
def runsIn (s : State) (i : Instr) : Bool :=
  match s.view? with
  | some v => (s.wordTrap v i).isNone
  | none => false

def allRun (s : State) (is : List Instr) : Bool := is.all (runsIn s)

theorem runsIn_runs {s : State} {i : Instr} (h : runsIn s i = true) : ∃ v, Runs s v i := by
  unfold runsIn at h
  split at h
  · exact ⟨_, by assumption, by simpa using h⟩
  · cases h

/-- The code of the trap that a word's checks find. -/
def trapOf (s : State) (i : Instr) : Option (BitVec 8 × BitVec 18) :=
  (s.view?.bind (fun v => s.wordTrap v i)).map (fun x => (x.trap.code, x.trap.detail))

/-- The state that an answer goes on with. -/
def nextOf (o : Host.Outcome State Fault Refusal) : State :=
  match o with
  | .next t => t
  | _ => State.reset

def goesOn (o : Host.Outcome State Fault Refusal) : Bool :=
  match o with
  | .next _ => true
  | _ => false

/-- The warp is split: a second fragment holds lane 1. -/
def splitHere : State := here.setFrag 60 { warp := 5, pc := 0x12000, lm := 2, fmt := 1 }

/-- The fragment is inside a capsule body. -/
def heldCapsule : Capsule :=
  { record := 0x10000000, gen := 1, adopting := false, body := [], entry := 0x12004, exitAt := 0x12030, exitNext := 0x12034, first := 0, frag := 6 }
def capHere : State := here.modWarp 5 (fun w => { w with capsule := some heldCapsule })

/-- The fragment is in its handler. -/
def handlerHere (status : Dword) : State := here.modFrag 6 (fun f => { f with hnd := true, tsave0 := 0x12000, tsave1 := status })

/-- The warp owns the engine of core 0 and a reservation of 1,024 accumulators. -/
def ownerHere : State :=
  (here.modCore 0 (fun c => { c with owner := some 5, width8 := some false })).modWarp 5 (fun w => { w with msmHeld := true, msmSize := 1024 })

/-- The warp is the planer of core 0. -/
def planerHere : State :=
  (here.modWarp 5 (fun w => { w with planer := some 0 })).modCore 0 (fun c => { c with planer := .running, planerWarp := some 5, planerWg := some 4 })

/-! ### Words that run: a state that meets the hypotheses of each statement about words -/

theorem witness_SaluResults : allRun here [.sadd 1 2 3, .ssub 1 1 1, .smul 47 2 3, .smulh 48 2 3, .smulhu 63 2 3, .sand 0 0 0, .sor 1 2 3,
    .sxor 1 2 3, .sshl 1 2 3, .sshr 1 2 3, .ssra 1 2 3, .smin 1 2 3, .smax 1 2 3, .sminu 1 2 3, .smaxu 1 2 3, .sslt 1 2 3] = true := by
  decide
theorem witness_Salu2Results : allRun here [.ssltu 1 2 3, .sdiv 1 2 3, .sdivu 1 2 3, .srem 1 2 3, .sremu 1 2 3, .sclz 1 2, .spopc 1 2,
    .sbrev 1 2, .ssext 1 2 0, .ssext 1 2 1, .ssext 1 2 2, .szext 1 2 0, .szext 1 2 1, .szext 1 2 2] = true := by decide
theorem witness_ScalarConstantResults : allRun here [.saddi 1 2 0x3FF, .sandi 1 2 3, .sori 1 2 3, .sxori 1 2 3, .sshiShl 1 2 63,
    .sshiShr 1 2 0, .sshiSra 1 2 3, .sshiRor 1 2 3, .smovk 1 0xFFFF, .smovks 1 2] = true := by decide
/-- Outside a body a split warp traps on s47 and not on s48; in a body k7 may be named, and k8 may not (R45, R106, R117, R309). -/
theorem witness_ScalarWordTraps : trapOf splitHere (.sadd 47 0 0) = some (0x04, 47) ∧ trapOf splitHere (.sadd 48 0 0) = none ∧
    trapOf here (.sadd 47 0 0) = none ∧ trapOf capHere (.sadd 7 7 7) = none ∧ trapOf capHere (.sadd 7 7 8) = some (0x01, 0x01) ∧
    breaksGroup 0x12000 [0x00411820] [some (.sadd 1 6 2)] 0 = false := by decide
/-- CHECK is set, s2 becomes visible at tick 8, and s3 is outstanding. -/
def checkHere : State := (here.modWg 4 (fun g => { g with ctl := 1 })).modFrag 6 (fun f => { f with pend := [⟨8, .scal 2 0⟩], uncovered := [(9, .s 3)] })
theorem witness_ScalarWordTraps_check : checkHere.view?.map (fun v => [Instr.sadd 1 2 4, .sadd 1 4 3, .sadd 2 4 5, .sdiv 2 4 5, .sadd 1 4 5].map (fun i =>
    (v.scoreboard i).map (fun x => x.trap.detail))) = some [some 0x42, some 0x43, some 0x42, none, none] := by decide
/-- Lane 0 is active: m1 holds it, m0 does not, and s1 is negative. -/
def branchHere : State :=
  (scalars here [(1, 0x8000000000000000), (2, 0x12000)]).modFrag 6 (fun f => { f with m := Table.put 0 f.m 1 1 })
theorem witness_BranchResults : allRun branchHere [.brcEqz 0 1, .brcEqz 1 1, .brcNez 1 0xFFF, .brcLtz 1 0x800, .brcGez 1 0x7FF, .brcAny 1 1,
    .brcAny 0 1, .brcAll 1 1, .brcAll 0 1, .brcNone 0 1, .brcNone 1 1, .brcSplit 0 1, .brcSplit 1 1, .jmp 0x200000, .call 1, .jmpr 2, .callr 2,
    .ret 63] = true ∧ (branchHere.view?.any (fun v => v.active.getLsbD 0 && (v.m 1).getLsbD 0 && !(v.m 0).getLsbD 0)) = true := by decide
theorem witness_IndirectJumpsAreAligned : ([0x12001, 0x12002, 0x12003] : List Dword).all (fun x =>
    [Instr.jmpr 2, .callr 2, .ret 2].all (fun i => trapOf (scalars here [(2, x)]) i == some (0x06, 0)) &&
    (scalars here [(2, x)]).view?.any (fun v => !v.inBody && (v.sReg 2).toNat % 4 != 0)) = true := by decide
theorem witness_MaskResults : allRun here [.mand 1 2 3, .mor 1 2 3, .mxor 1 2 3, .mandn 7 2 3, .mnot 1 2, .mpopc 4 1, .mffs 4 1, .mtos 63 7,
    .stom 0 4, .mact 7] = true := by decide
/-- FMT 1 is RNE with every other field 0. -/
theorem witness_ControlResults : allRun (scalars here [(1, 1)]) [.regang, .setfmt 1, .getfmt 2, .setrm 1, .setrm 5, .yield, .getcr 2 0, .setcr 1 0,
    .setcr 1 1, .setcr 1 0x009, .setcr 1 0x00E, .setcr 1 0x011, .setcr 1 0x008, .setcr 1 0x031, .sqmap 1, .fragid 2, .waitc 0 63 63, .nop] = true ∧
    wgWritable 0x008 = true ∧ wgWritable 0x031 = true ∧ wgWritable 0 = false ∧ wgWritable 0x011 = false ∧
    (here.view?.bind (fun v => here.readCr v 0x04B)) = some 5 ∧
    here.view?.any (fun v => (here.team? v.g.team).any (fun t => (here.grid? t.grid).isSome)) = true ∧
    ((here.wg? 4).map (fun g => ({ g with crPend := [⟨9, 0, 0, 8, 1⟩, ⟨9, 3, 0, 8, 2⟩] } : Wg).atTick true 9)).map Wg.tvec = some 2 := by decide
/-- 0x04B is read only, 0x04C and 0xFFF are unassigned. -/
theorem witness_ControlNumbersAreChecked : trapOf here (.setcr 1 0x04B) = some (0x01, 0x0F) ∧ trapOf here (.getcr 1 0x04C) = some (0x01, 0x0F) ∧
    trapOf here (.getcr 1 0x04B) = none ∧ trapOf here (.setcr 1 0xFFF) = some (0x01, 0x0F) ∧ here.view?.any (fun v => !v.inBody) = true := by decide
theorem witness_RegisterWordsFrame : allRun here [.sadd 1 2 3, .vadds 1 2 3 0 0, .vfma 1 2 3 0, .vsfuTanh 1 2 0, .setcr 1 0x011] = true ∧
    ([.sadd 1 2 3, .vadds 1 2 3 0 0, .vfma 1 2 3 0, .vsfuTanh 1 2 0, .setcr 1 0x011] : List Instr).all (fun i => [Pipe.s, .vi, .vf, .x].contains (uses i).pipe) =
      true ∧ wgWritable 0x011 = false ∧ (here.frag? 6).isSome = true ∧ here.view?.any (fun v => v.fid == 6) = true := by decide
theorem witness_VectorIntegerResults : allRun here [.vadd 1 2 3 0 0, .vsub 1 2 3 0 0, .vmul 1 2 3 0 0, .vmulh 1 2 3 0 0, .vmulhu 1 2 3 0 0,
    .vmad 1 2 3 0 0, .vand 1 2 3 0 0, .vor 1 2 3 0 0, .vxor 1 2 3 0 0, .vandn 1 2 3 0 0, .vshl 1 2 3 0 0, .vshr 1 2 3 0 0, .vsra 1 2 3 0 0,
    .vmin 1 2 3 0 0, .vmax 1 2 3 0 0, .vminu 1 2 3 0 0, .vmaxu 1 2 3 0 0, .vrot 1 1 1 1 1, .vaddi 63 0 0x200] = true := by decide
theorem witness_BitCountAndPackResults : allRun here [.vclz 1 2 0, .vpopc 1 2 0, .vbrev 1 2 0, .vsext 1 2 0 0, .vsext 1 2 1 0, .vpk16 1 2 3 0 0,
    .vupkl16 1 2 0, .vupkh16 1 2 0, .vbyte 1 2 3 0 0] = true := by decide
theorem witness_CompareAndMoveResults : allRun here [.vadds 1 2 3 0 0, .vsubs 1 2 3 0 0, .vceq 1 2 3 0 0, .vclt 1 2 3 0 0, .vcltu 1 2 3 0 0,
    .vcle 1 2 3 0 0, .vbcs 1 2 0, .vmovm 1 2 3 0 0, .vlane 1 2 0, .vtos 1 2 3 0 0, .vshfl 1 2 3 0 0, .vbcl 1 2 3 0 0, .vrotl 1 2 3 0 0,
    .vperm 1 2 3 0 0] = true := by decide
theorem witness_VectorFloatResults : allRun here [.vfadd 1 2 3 0, .vfsub 1 2 3 1, .vfmul 1 2 3 2, .vfdiv 1 2 3 3, .vfma 1 2 3 4, .vfms 1 2 3 5,
    .vfmin 1 2 3, .vfmax 1 2 3, .vfabs 1 2, .vfcls 1 2, .vfcmpEq 1 2 3, .vfcmpLt 1 2 3, .vfcmpLe 1 2 3, .vfcmpUn 1 2 3, .vfcmpNe 1 2 3] = true ∧
    here.view?.any (fun v => decide (vfFmt v.fmt = .fp32)) = true := by decide
theorem witness_IntegerReductionResults : allRun here [.vredadd 1 2 0, .vredor 1 2 0, .vredmin 1 2 0, .vredmax 1 2 0, .vscanadd 1 2 0,
    .vscanaddx 1 2 0, .vscanmin 1 2 0, .vscanmax 1 2 0] = true ∧ here.view?.any (fun v => v.active.getLsbD 0 && decide (0 < v.w.width)) = true := by
  decide
theorem witness_FloatReductionResults : allRun here [.vfredadd 1 2 0, .vfredmax 1 2, .vfscanadd 1 2 0, .vfscanmax 1 2] = true := by decide
theorem witness_SpecialFunctionResults : allRun here [.vsfuRcp 1 2 0, .vsfuRsq 1 2 0, .vsfuSqrt 1 2 0, .vsfuEx2 1 2 0, .vsfuLg2 1 2 0,
    .vsfuSin 1 2 0, .vsfuCos 1 2 0, .vsfuTanh 1 2 0, .vsfuSigm 1 2 0] = true := by decide
theorem witness_ConversionResults : allRun here [.vcvt 1 2 0 5 0, .vqnt 1 2 3 0, .vdqnt 1 2 3 0, .vlqenc 1 2 3 0 0, .vlqdec 1 2 3 0 0,
    .vlqins 1 2 3 0 0, .vlqerr 1 2 3 0 0] = true ∧ allRun planerHere [.vcvt 1 2 0 5 0, .vqnt 1 2 3 0, .vlqdec 1 2 3 0 0] = true ∧
    planerHere.view?.any View.inPlaner = true ∧ here.view?.any (fun v => !v.inPlaner && v.active.toList.head? == some 0) = true := by decide
/-- Codes that the clauses on single elements speak of: the last format index and code of a byte, a scale, and an octet of one element. -/
theorem witness_ConversionResults_elements : 255 < 2 ^ (CvtFmt.ofIndex 7).width ∧ (7, 6) ∈ [(7, 1), (7, 2), (7, 6)] ∧ (5, 7) ∉ [(7, 1), (7, 2), (7, 6)] ∧
    goodScale (decodeF .fp32 0x3F800000) ∧ ¬goodScale (decodeF .fp32 0x80000000) ∧ (2 ^ 16 - 1 < 2 ^ 16 ∧ 7 < 8) ∧
    (([(7, decodeF .fp32 0x3F800000)] : List (Nat × FVal)).map Prod.fst).Pairwise (· < ·) := by
  have h : decodeF .fp32 0x80000000 = .num true 0 (-149) := by decide
  refine ⟨by decide, by decide, by decide, ⟨false, 0x800000, -23, by decide, by decide⟩, ?_, by decide, by decide⟩
  rintro ⟨n, m, e, he, hm⟩
  rw [h] at he
  cases he
  exact hm rfl

/-! ### Memory words -/

theorem witness_LoadsAndStoresIssue : allRun here [.sld 1 0 0 3 0, .sld 1 0 0 0 1, .sst 1 0 0 3 2, .vld 2 0 0 3 1, .vst 2 0 0 3 0, .vldg 1 2 0 2 0,
    .vsts 1 2 0 2 2, .bld 2 0 0 3 0, .bld 2 0 0 2 2, .bst 1 0 0 2 1, .bldg 1 2 0 2 1, .bsts 1 2 0 2 2] = true := by decide
theorem witness_AtomicsIssue : allRun here [.amoAdd 1 0 0 2 0, .amoAnd 1 0 0 2 0, .amoOr 1 0 0 2 0, .amoXor 1 0 0 2 0, .amoMin 1 0 0 2 0,
    .amoMax 1 0 0 2 0, .amoMinu 1 0 0 2 0, .amoMaxu 1 0 0 2 0, .amoXchg 1 0 3 3 3, .amoCas 2 0 0 3 0, .amoFadd32 1 0 0 0, .amoFadd16x2 1 0 0 0,
    .amoFmin32 1 0 0 0, .amoFmax32 1 0 0 0] = true ∧
    allRun here [.vamoAdd 1 2 0 2 0, .vamoAnd 1 2 0 2 0, .vamoOr 1 2 0 2 0, .vamoXor 1 2 0 2 0, .vamoMin 1 2 0 2 0, .vamoMax 1 2 0 2 0,
    .vamoMinu 1 2 0 2 0, .vamoMaxu 1 2 0 2 0, .vamoXchg 4 2 1 3 2, .vamoCas 4 2 0 3 0, .vamoFadd32 1 2 0 0, .vamoFadd16x2 1 2 0 0,
    .vamoFmin32 1 2 0 0, .vamoFmax32 1 2 0 0] = true := by decide

/-- The arrival word at bench address 0 is initialised with 64 bytes a generation. -/
def arrivalHere : State := here.ainit (.bench 4 0) 64
theorem witness_SyncResults : allRun arrivalHere [.fence 1 3, .fence 0 0, .fenceCode 2, .bar, .tbar, .await 0 1, .arrive 0 1, .ainit 0 1, .feset 1 0 1, .fetest 1 0,
    .tsread 1, .iflush] = true ∧ (arrivalHere.team? 3).isSome = true ∧
    arrivalHere.view?.any (fun v => (arrivalHere.benchPlace v.gid v.g 0).isSome && v.g.team == 3) = true := by decide

/-- The one fragment of the workgroup and team waits at a barrier. -/
def barHere (w : Wait) : State := here.modFrag 6 (fun f => { f with wait := some w })
theorem witness_SyncResults_barriers : here.wgResident 4 = true ∧ (here.wg? 4).isSome = true ∧ (here.team? 3).any (fun t => t.state == .resident) = true ∧
    ((barHere (.bar 0)).wgFrags 4).map (fun p => (p.1, p.2.wait)) = [(6, some (.bar 0))] ∧ (barHere (.bar 0)).ops = [] ∧
    ((here.wgFrags 4).map (fun p => p.2.wait)) = [none] ∧ (barHere (.tbar 0)).wgResident 4 = true ∧
    (((barHere (.tbar 0)).wgsOf 3).flatMap (fun p => (barHere (.tbar 0)).wgFrags p.1)).map (fun p => p.2.wait) = [some (.tbar 0)] := by decide

/-! ### Encoding, fetch, steps and ticks -/

theorem witness_EncodeThenDecode : (Instr.vcvt 63 1 4 0 5).wf = true ∧ (encodeWord true 7 (.vcvt 63 1 4 0 5)).isSome = true := by decide
theorem witness_DecodeThenEncode : decode 0x7FC00000#32 = .ok ⟨false, 7, .nop⟩ ∧ opcodeOf 0x0BFFFFFF#32 = 0x2F ∧ opcodeOf 0x07800000#32 = 0x1E := by
  exact ⟨rfl, rfl, rfl⟩

def runsGroup (a : Attempt) : Bool :=
  match a with
  | .run _ => true
  | _ => false

theorem witness_IssuedGroupIsAtThePc : runsGroup ((placed 0x0FC00000).attempt 6) = true := by decide

def locIs (r : Except FetchFail Loc) (l : Loc) : Bool :=
  match r with
  | .ok m => m == l
  | .error _ => false

theorem witness_WordsAreFetchedLittleEndian : ([0, 1, 2, 3] : List Nat).all (fun j =>
    locIs ((placed 0x0FC00000).fetchByte 1 (0x12000 + BitVec.ofNat 64 j)) (.phys (0x10012000 + j))) = true := by decide

/-- The same program with its issue on the agenda. -/
def onAgenda : State := State.reset.withFetchWord 32 0x0FC00000
theorem witness_StepRunsTheGroup : onAgenda.agenda.head? = some (.issue 6) ∧ onAgenda.unusable = false ∧
    (State.openWindow { onAgenda with agenda := [] } 6).nextView 6 ≠ none ∧
    runsGroup ((State.openWindow { onAgenda with agenda := [] } 6).attempt 6) = true := by decide
theorem witness_GroupRunsItsWord : decode 0x00411820#32 = .ok ⟨false, 0, .sadd 1 6 2⟩ ∧
    (match (placed 0x00411820).nextView 6 with
      | some v => (((placed 0x00411820).beginGroup v [0x00411820]).frag? v.fid).isSome &&
          goesOn (exec (.sadd 1 6 2) (((placed 0x00411820).beginGroup v [0x00411820]).modIssue (fun x => { x with word := 0 })))
      | none => false) = true := by exact ⟨rfl, by decide⟩
theorem witness_StepKeepsMemoryCanonical : Memory.wf onAgenda.mem = true ∧ goesOn (step onAgenda) = true := by decide
theorem witness_ValuesReadBackLittleEndian : ([.phys 0, .bench 4 0, .bench 4 4095] : List Loc).Nodup ∧ (here.wg? 4).isSome = true := by decide
theorem witness_TicksAfterAGroup : (here.frag? 6).isSome = true := by decide
/-- One write that is visible at tick 3 and another at tick 8, on a fragment and warp that are there, with nothing pending. -/
theorem witness_VisibleWriteAtATick : (here.frag? 6).any (fun f => f.pend.isEmpty && (here.warp? f.warp).any (fun w => w.planer.isNone)) = true ∧
    (([(0, 7), (63, 9)] : List (Nat × Word)).map Prod.fst).Nodup := by decide
theorem witness_FlagsBecomeVisible : (here.frag? 6).any (fun f => f.pend.isEmpty && (here.warp? f.warp).any (fun w => w.planer.isNone)) = true := by decide
theorem test_older_write_is_read : (here.frag? 6).map (fun f => scalarOf ((here.setFrag 6 ((f.addPend ⟨8, .scal 1 5⟩).addPend ⟨3, .scal 1 6⟩)).setTick 6 3) 6 1) =
    some 6 := by decide
theorem witness_TrapEntersTheHandler : (here.frag? 6).any (fun f => !f.hnd && (here.warp? f.warp).any (fun w => w.planer.isNone &&
    (here.wg? w.wg).any (fun g => g.handler != 0))) = true := by decide
/-- In a handler, and with a TVEC of 3, whose low bits are ignored. -/
theorem witness_TrapInHandlerKillsTheContext : ((handlerHere 0).frag? 6).any Frag.hnd = true ∧ ((handlerHere 0).ctx 1).dead = none ∧
    ((here.modWg 4 (fun g => { g with tvec := 3 })).wg? 4).any (fun g => g.handler == 0) = true := by decide
theorem witness_WordTrapIsTaken : Instr.isWord .tret = true ∧ trapOf here .tret = some (0x01, 0x3E) := by decide
def tretView (rpl : Bool) : Option View :=
  (handlerHere (if rpl then 4 else 0)).view?.map (fun v => { v with f := { v.f with tnext := 0x12010 } })
theorem witness_TretLeavesTheHandler : (tretView true).any (fun v => chosenPc v { v.i with ctl := .tret true } == 0x12010) = true ∧
    (tretView false).any (fun v => chosenPc v { v.i with ctl := .tret false } == 0x12000) = true := by decide
theorem witness_NextGroupIsChosen : (here.view?.map (fun v => (chosenPc v { v.i with ctl := .goto 0x12030 }, chosenPc v { v.i with ctl := .fall },
    chosenPc v { v.i with ctl := .regang }, chosenPc v { v.i with ctl := .capexit }))) = some (0x12030, 0x12004, 0x12004, 0x12004) := by decide
/-- Two fragments with lanes 0 and 1 of record 9 stand at the REGANG at 0x12000; the other one stands at 0x12030 in `apart`. -/
def regangHere (at_ : Dword) : State :=
  ((here.modFrag 6 (fun f => { f with records := [9], wait := some (.regang 0x12000 0x12004) })).setFrag 60 { warp := 5, pc := 0x12034, lm := 2, fmt := 1, records := [9], wait := some (.regang at_ (at_ + 4)) }).modWarp 5 (fun w => { w with splits := [(9, ⟨none, 1, 0⟩)] })
theorem witness_SplitMakesTwoFragments : (here.frag? 6).any (fun f => (here.warp? f.warp).isSome) = true ∧
    (let s := regangHere 0x12000
     let ds := (s.fragsOf 5).filter (fun p => p.2.records.contains 9)
     decide (s.frags.map Prod.fst).Nodup && ds.map Prod.fst == [6, 60] && ds.all (fun p => p.2.records.head? == some 9 && p.2.wait.isSome && !p.2.hnd &&
       p.2.lc.members.isEmpty && p.2.waitOps.isEmpty && p.2.pend.isEmpty) && ds.all (fun p => ds.all (fun q => p.1 == q.1 || p.2.lm &&& q.2.lm == 0))) = true ∧
    (let s := (regangHere 0x12030).modFrag 60 (fun f => { f with stoodAt := some 3 })
     let t : State := { s with tick := 4 }
     t.frags.all (fun p => p.1 == 6 || (p.2.stands.map Prod.fst == some 0x12030 && p.2.stoodAt != some t.tick))) = true := by decide

/-! ### Numbers -/

/-- Of finite inputs: 256, -256 and 2. -/
theorem witness_SpecialFunctionInputs_finite : decodeF .fp32 0x43800000 = .num false 0x800000 (-15) ∧ valueOf (.num false 0x800000 (-15)) = 256 ∧
    decodeF .fp32 0xC3800000 = .num true 0x800000 (-15) ∧ valueOf (.num true 0x800000 (-15)) = -256 ∧
    decodeF .fp32 0x40000000 = .num false 0x800000 (-22) ∧ valueOf (.num false 0x800000 (-22)) = 2 ^ (1 : Int) := by
  refine ⟨by decide, ?_, by decide, ?_, by decide, ?_⟩ <;> norm_num [valueOf]
theorem witness_SpecialFunctionInputs : (0x80000000 < 0x80000001 ∧ 0xFF800000 ≤ 0xFF800000) ∧ (0x7F800000 < 0x7F800001 ∧ 0x7FFFFFFF < 0x80000000) := by
  decide
theorem witness_NanAndInfinityRules : (decodeF .fp32 0x7FC00000).isNan = true ∧ decodeF .fp32 0xFF800000 = .inf true ∧
    decodeF .fp32 0x80000000 = .num true 0 (-149) ∧ decodeF .fp32 0x3F800000 = .num false 0x800000 (-23) ∧ 0x3F800000 < 2 ^ Fmt.width .fp32 := by decide
/-- 3 is half way between 2 and 4 in units of 2, and 4 is a whole number of them. -/
theorem witness_RoundingToUnits : 2 * (3 % 2 ^ 1) = 2 ^ 1 ∧ 3 % 2 ^ 1 ≠ 0 ∧ 4 % 2 ^ 1 = 0 := by decide
theorem witness_HeldValuesRoundToThemselves : decodeF .e4m3 0x7E = .num false 14 5 ∧ decodeF .mf8 0x01 ≠ .nan false ∧
    decodeF .fp16 0x0001 = .num false 1 (-24) ∧ 0x7B ≤ Fmt.maxCode .e5m2 ∧ (0 < 3 ∧ 3 < 2 ^ Fmt.frac .e5m2) ∧
    bitsAt 0x7F80000000#40 31 8 = 255 ∧ bitsAt 0x3F80000000#40 31 8 = 127 ∧ bitsAt 0x8000000001#40 31 8 = 0 := by decide

/-! ### Memory operations -/

/-- What the word leaves behind, and the operation it has issued. -/
def after (s : State) (i : Instr) : State := nextOf (exec i s)
def opOf (s : State) : Option Op := Table.get? s.ops here.serial

/-- The operation just issued may complete. -/
def readyToComplete (s : State) (p : Op → Bool) : Bool :=
  (opOf s).any (fun o => p o && (s.warp? o.warp).isSome && s.wgPresent o.wg && s.opReady here.serial o &&
    decide (o.lanes.map LaneAcc.lane).Nodup && o.lanes.all (fun l => decide (l.lane < 64)))

theorem witness_MemoryWordIssues : here.view?.any (fun v => let r := v.globalReq 2 3 0 (fun n => BitVec.ofNat 64 (8 * n)) false
    !(here.checkWord v r).pass.isEmpty && !here.namesLost ((here.checkWord v r).pass.flatMap LaneAcc.locs)) = true ∧ here.issue.isSome = true ∧
    here.view?.any (fun v => let r := v.globalReq 2 3 0 (fun n => BitVec.ofNat 64 (2 ^ 40 * n + 8)) false
      (here.checkWord v r).trap.isNone && ((here.checkWord v { r with lanes := r.lanes ++ [{ lane := 5, addr := 2 ^ 40 }] }).trap).isSome) = true := by decide
theorem witness_LoadsComplete : readyToComplete (after here (.vld 2 0 0 3 0)) (fun o => o.op == .load && o.dest == .vec 2 && o.size == 8) = true ∧
    readyToComplete (after here (.sld 47 0 0 3 0)) (fun o => o.op == .load && o.dest == .scal 47 && o.lanes.length == 1) = true ∧
    readyToComplete (after here (.sld 48 0 0 3 0)) (fun o => o.op == .load && o.dest == .scal 48 && o.lanes.length == 1) = true := by decide
/-- An address 4 bytes past a multiple of 8: the access has two parts, of one lane. -/
theorem witness_LoadsComplete_parts : (opOf (after here (.sld 47 0 0 3 0))).any (fun o => o.lanes.length == 1) = true ∧
    (opOf (after (scalars here [(0, 0x3004)]) (.sld 47 0 0 3 0))).any (fun o => (after (scalars here [(0, 0x3004)]) (.sld 47 0 0 3 0)).opReady here.serial o &&
      o.lanes.map (fun l => (l.lane, l.off, l.locs.length)) == [(0, 0, 4), (0, 4, 4)]) = true := by decide
theorem witness_StoresComplete : readyToComplete (after here (.vst 2 0 0 3 0)) (fun o => o.op == .store && o.dest == .none && o.lanes.all (fun l =>
    decide l.locs.Nodup)) = true ∧ (here.wg? 4).isSome = true := by decide
theorem witness_AtomicsComplete : readyToComplete (after here (.amoAdd 47 0 3 3 0)) (fun o => o.op == .amo 0 && o.dest == .scal 47 && o.lanes.all (fun l =>
    decide l.locs.Nodup && l.locs.length == o.size)) = true ∧
    amoNew 0 64 1 2 0 = some 3 ∧ amoNew 9 64 1 2 0 = none := by decide
/-- Lanes 0 and 1 name the same bytes; a TSREAD. -/
def twoLanes : State := here.modFrag 6 (fun f => { f with lm := 3 })
theorem witness_AtomicsComplete_lanes : readyToComplete (after twoLanes (.vamoAdd 1 2 0 2 0)) (fun o => o.op == .amo 0 && o.dest == .vec 1 && o.got.isEmpty &&
      (match o.lanes with
        | [l, m] => l.locs == m.locs && decide l.locs.Nodup && l.locs.length == o.size && (after twoLanes (.vamoAdd 1 2 0 2 0)).mayPerform here.serial o l && !(after twoLanes (.vamoAdd 1 2 0 2 0)).barred here.serial o l &&
          (after twoLanes (.vamoAdd 1 2 0 2 0)).openPart here.serial 0 == some (o, l) && (after twoLanes (.vamoAdd 1 2 0 2 0)).atomicOpen here.serial o l
        | _ => false)) = true ∧
    readyToComplete (after here (.tsread 47)) (fun o => o.op == .tsread && o.dest == .scal 47 && o.lanes.length == 1) = true ∧ here.timebase < 2 ^ 64 := by
  decide
/-- An atomic whose fragment has been told what it will read: what it reads now, or another value. -/
theorem witness_AtomicsComplete_told : [0, 1].all (fun x =>
    let s := (after here (.amoAdd 47 0 0 3 0)).modOp here.serial (fun o => { o with told := [(0, x)] })
    (opOf s).any (fun o => o.lanes.all (fun l => l.number == 0 && s.openPart here.serial 0 == some (o, l) && s.mayPerform here.serial o l && !s.barred here.serial o l && s.atomicOpen here.serial o l &&
      s.readLocs l.locs == 0))) = true := by decide
theorem witness_AtomicNewValues : 0 < 32 := by decide
def fullHere : State := here.setTag true (4, 0)
def wordOps (s : State) (p : Op → Bool) : Bool :=
  readyToComplete s (fun o => p o && o.lines.isEmpty && o.lanes.length == 1 && o.lanes.all (fun l => l.locs.head? == some (.bench 4 0)))
theorem witness_BenchWordsComplete :
    wordOps (after fullHere (.bld 2 0 0 2 2)) (fun o => o.op == .tagLoad true && o.dest == .vec 2 && o.size == 4) = true ∧
    wordOps (after fullHere (.bld 2 0 0 2 1)) (fun o => o.op == .tagLoad false) = true ∧
    ((opOf (after here (.bld 2 0 0 2 2))).map Op.op) = some (.tagLoad true) ∧ here.tag (4, 0) = false ∧
    ((opOf (after fullHere (.bst 2 0 0 2 1))).map Op.op) = some (.tagStore true) ∧ fullHere.tag (4, 0) = true ∧
    wordOps (after here (.bst 2 0 0 2 1)) (fun o => o.op == .tagStore true && o.dest == .none) = true ∧
    wordOps (after here (.bst 2 0 0 2 2)) (fun o => o.op == .tagStore false) = true ∧
    readyToComplete (after (scalars here [(1, 4)]) (.feset 1 0 1)) (fun o => o.op == .feset true 4 && o.dest == .none && o.lines.isEmpty &&
      o.lanes.any (fun l => (benchWords l.locs).contains (4, 3))) = true ∧
    readyToComplete (after fullHere (.fetest 47 0)) (fun o => o.op == .fetest && o.dest == .scal 47 && o.lines.isEmpty &&
      o.lanes.any (fun l => l.lane == 63 && l.locs == benchLocs 4 (4 * 63) 4)) = true ∧
    wordOps (after (scalars here [(1, 0xFFFFFFFF)]) (.ainit 0 1)) (fun o => o.op == .ainit 0xFFFFFFFF) = true ∧
    wordOps (after (scalars arrivalHere [(1, 64)]) (.arrive 0 1)) (fun o => o.op == .arrive 64) = true ∧
    arrivalHere.arrivalField (.bench 4 0) 3 % 2 = 1 ∧ arrivalHere.arrivalField (.bench 4 0) 0 ≠ 0 := by decide

/-! ### Capsules -/

/-- CAPENT at 0x12000 and CAPEXIT behind it. The record that s[4] points at lies at the first byte of the data region. -/
def capentHere : State :=
  let e := fun i => ((encodeWord false 0 i).getD 0).toNat
  begun ((placed (e (.capent 4))).placeWord 0 0x12004 (e .capexit))
/-- A record in STATE 1. -/
def takenHere : State := capentHere.setCapCtl (2 ^ 28) ⟨9, 1, 2, 7⟩
def finds (s : State) (a : BitVec 6) (p : CapFound → Bool) : Bool :=
  match s.view? with
  | some v => (match s.capentCheck v a with
    | .ok f => p f && !s.namesLost (recLocs f.record 0 128)
    | .error _ => false)
  | none => false
def stepsHere (i : Instr) : Bool :=
  capHere.view?.any (fun v => [v.stepReq .load 1 2 4, v.stepReq .store 1 2 8, v.stepReq (.amo 0) 1 2 4].all (fun r =>
    match capHere.stepLocs v r with
    | .ok ls => !capHere.namesLost ls
    | .error _ => false)) && runsIn capHere i
theorem witness_CapsuleWordResults :
    runsIn capentHere (.capent 4) = true ∧ finds capentHere 4 (fun f => f.served && f.adopt.isNone) = true ∧
    runsIn takenHere (.capent 4) = true ∧ finds takenHere 4 (fun f => !f.served) = true ∧
    allRun capHere [.capexit] = true ∧ [Instr.kld 1 2 2, .kst 1 2 3, .kamo 1 2 0 0].all stepsHere = true ∧
    allRun here [.kmovs 3 7, .kmovk 7 3, .capstat 5] = true := by decide
/-- A displaced record whose body goes on at the CAPEXIT. -/
def displacedHere : State := ((capentHere.setCapCtl (2 ^ 28) ⟨9, 2, 0, 7⟩).setCapEntry (2 ^ 28) 0x12004)
theorem witness_CapsuleWordResults_adoption : runsIn displacedHere (.capent 4) = true ∧ finds displacedHere 4 (fun f => f.served && f.adopt.isSome) = true ∧
    displacedHere.issue.isSome = true := by decide
/-- The fragment has come to the end of its body, every step committed; as an adopter, it has another warp for its owner. -/
def endingHere (adopting : Bool) : State :=
  ((here.modFrag 6 (fun f => { f with wait := some .capexit })).modWarp 5 (fun w => { w with
    capsule := some { heldCapsule with record := 2 ^ 28, adopting := adopting } })).setWarp 50 { wg := 4, idx := 1, width := 16, capid := 77, capsule := some heldCapsule }
    |>.setCapCtl (2 ^ 28) ⟨if adopting then 77 else 5, if adopting then 3 else 1, 0, 1⟩
def returningHere : State := (endingHere false).modFrag 6 (fun f => { f with wait := some .returnSlot }) |>.modWarp 5 (fun w => { w with returnSlot := some [(1, 9)] })
theorem witness_CapsuleWordResults_end : [endingHere false, endingHere true].all (fun s => (s.frag? 6).any (fun x => x.wait == some .capexit && (s.warp? x.warp).any (fun w =>
      s.wgResident w.wg && w.capsule.any (fun c => c.steps.isEmpty && s.exitReleases x w c)))) = true ∧
    ((endingHere true).warps.all (fun p => p.2.capid != 77 || p.1 == 50) && ((endingHere true).warp? 50).any (fun z => z.planer.isNone && !z.retired) &&
      ((endingHere true).ctx 1).dead.isNone && ((endingHere true).capCtl (2 ^ 28)).owner == 77) = true ∧
    (returningHere.frag? 6).any (fun x => x.wait == some .returnSlot && (returningHere.warp? x.warp).any (fun w => w.returnSlot.isSome && w.capsule.any (fun c => c.frag == 6))) = true ∧
    ((endingHere false).fragsOf 5).all (fun p => !p.2.hnd) = true := by decide

/-! ### Engines -/

/-- A command's descriptor in s[4] to s[7], and its tag and next tag in s[8]. -/
def described (s : State) (w0 w1 w2 w3 : Dword) : State := scalars s [(4, w0), (5, w1), (6, w2), (7, w3), (8, 0x201)]
/-- CMEM mapped behind the data region, at VA 2^28. -/
def cmemHere : State := here.writeLocs (ownLocs 0x4008 8) (leafEntry cmemBase)
/-- Group 1 has two members, this device the first. -/
def groupHere : State := { here with groups := Table.put {} here.groups 1 { size := 2 } }
theorem witness_EngineCommandsIssue :
    runsIn (described here 0x1000 0x100 (16 + 2 ^ 16) 0) (.tcopy 4 8 0 0 0 0) = true ∧
    runsIn (described here 0x1000 0x100 (16 + 2 ^ 16) (2 ^ 54)) (.tcopym 4 8 0 0 0 0) = true ∧
    allRun (described ownerHere 0 16 0 0) [.mxldb 4 8 0 0 0, .mxldb 4 8 1 1 1] = true ∧
    allRun (described ownerHere (2 ^ 32) 0 0 0) [.mxop 4 8 0 0 0, .msmrd 4 8 0 0 0] = true ∧
    ownerHere.view?.any (fun v => ownerHere.warp? v.wid == some v.w) = true ∧
    runsIn (described groupHere 0 0x1000 (4 + 2 ^ 32) 0) (.coll 4 8 0 0 0 0) = true ∧
    runsIn (described cmemHere 0x10000000 0 (1 + 2 ^ 40) 0) (.cbulk 4 8 0 0 0 0) = true ∧
    runsIn (described here 0 4096 0 0) (.compact 4 8 0 0 0 0) = true := by decide

/-- A workgroup of the same team on core 2, beside the owner of core 0's engine. -/
def pairHere : State :=
  (ownerHere.setWg 20 { team := 3, member := 1, core := 2, benchSize := 4096 }).setTeam 3
    { grid := 2, number := 0, state := .resident, window := some 0, wgs := [4, 20], cores := [0, 2] }
def ownedBy (n : Nat) : State := here.modCore 0 (fun c => { c with owner := some n })
/-- Core 0 leads a formed bond of cores 0 and 2. -/
def bondHere : State := { pairHere with bonds := Table.set pairHere.bonds 0 { team := 3, shape := 1, formed := true, members := [0, 2] } }
def plngoOk (s : State) : Bool :=
  match s.view? with
  | some v => (match s.plngoCheck v (.plngo 1 3) 1 with
    | .ok _ => true
    | .error _ => false)
  | none => false
/-- The current warp and issue are those of the view, as the statement asks. -/
def whole (s : State) : Bool := s.view?.any (fun v => s.warp? v.wid == some v.w) && s.issue.isSome
/-- Another warp holds all but 65,535 of core 0's accumulators. -/
def narrowHere : State := (scalars here [(1, 65536)]).setWarp 50 { wg := 4, idx := 1, width := 16, msmHeld := true, msmSize := 1 }

theorem witness_EngineControlResults_leases :
    allRun pairHere [.mxfence 3, .mxwait 2, .mxacq, .mxrel, .bform 1, .bjoin 2, .bbrk] = true ∧ runsIn here .mxacq = true ∧
    runsIn (ownedBy 9) .mxacq = true ∧ ((ownedBy 9).core 0).owner = some 9 ∧ (here.core 0).owner = none ∧ (here.core 0).fifo = [] ∧
    (pairHere.core 0).owner = some 5 ∧ runsIn (scalars pairHere [(1, 1)]) (.bform 1) = true ∧
    (pairHere.member? 3 0).map Prod.fst = some 4 ∧ runsIn bondHere .bbrk = true ∧ bondHere.leadsBond 0 = true ∧ pairHere.leadsBond 0 = false ∧
    [here, pairHere, bondHere, narrowHere, planerHere, ownedBy 9].all whole = true := by decide
theorem witness_EngineControlResults_units :
    runsIn narrowHere (.msma 1) = true ∧ 65536 < narrowHere.msmUsed 0 + 65536 ∧ runsIn (scalars here [(1, 65536)]) (.msma 1) = true ∧
    here.msmUsed 0 + 65536 ≤ 65536 ∧ allRun pairHere [.msmf] = true ∧ allRun here [.msmf, .plnstop, .qstat 1] = true ∧
    runsIn (scalars here [(1, 0x12000), (2, 3)]) (.plngo 1 3) = true ∧ plngoOk (scalars here [(1, 0x12000), (2, 3)]) = true ∧
    allRun planerHere [.qpush 1 3, .plnstop] = true ∧ (planerHere.core 0).planerWg = some 4 ∧ (here.core 0).planerWg = none ∧
    allRun (scalars here [(1, 1)]) [.epoll 1 2, .ecancel 1 2] = true := by decide

def polledHere : State := scalars (after (described here 0x1000 0x100 (16 + 2 ^ 16) 0) (.tcopy 4 8 0 0 0 0)) [(1, 1)]
theorem witness_EngineControlResults_poll : runsIn polledHere (.epoll 1 2) = true ∧
    ((polledHere.wg? 4).bind (fun g => Table.get? g.tagLast 1)).any (fun j => (Table.get? polledHere.cmds j).isSome) = true ∧
    runsIn polledHere (.ecancel 1 2) = true ∧ polledHere.cmds.all (fun p => p.2.wg == 4 && p.2.tag == 1 && p.2.state == .queued) = true ∧
    polledHere.cmds.length = 1 := by decide

/-! ### The system words -/

/-- A launch record at VA 0x2000: VER 2, a bond footprint of one core, one warp of 16 lanes, entry 0x12000, one team, FMT 1 and 64 registers. -/
def launchHere : State :=
  let at_ (s : State) (off : Nat) (x : Nat) : State := s.writeLocs (ownLocs (2 ^ 28 + 0x2000 + off) 8) x
  scalars (at_ (at_ (at_ (at_ here 0 (2 + 8 * 2 ^ 14 + 2 ^ 32)) 8 0x12000) 32 1) 40 (1 + 2 ^ 49)) [(1, 0x2000)]
def launches (s : State) (a : Dword) : Bool :=
  match s.view? with
  | some v => (match s.launchRecord v a with
    | .ok p => !s.namesLost p.2
    | .error _ => false)
  | none => false
/-- BRKPT is enabled: CTL.BKEN is bit 1. -/
def brkptHere : State := here.modWg 4 (fun g => { g with ctl := 2 })
def storeReq : MemReq := { op := .store, bench := false, size := 8, dest := .none, lanes := [{ lane := 0, addr := 0x3000, data := 7 }] }
def replayHere : State := (handlerHere 4).modFrag 6 (fun f => { f with replay := some ⟨storeReq, 1, 0⟩, faultmask := 1 })
theorem witness_SystemWordResults : allRun here [.trap 5, .brkpt 1, .lwait 1, .exit, .jighint 1 2 3] = true ∧
    brkptHere.view?.any (fun v => !v.inBody && v.g.ctl.getLsbD 1) = true ∧ runsIn (handlerHere 0) .tret = true ∧
    runsIn replayHere .tret = true ∧ replayHere.view?.any (fun v => v.f.replay.isSome && v.f.tsave1.getLsbD 2 && v.active.has 0 &&
      v.f.faultmask.getLsbD 0) = true ∧ runsIn launchHere (.launch 2 1) = true ∧ launches launchHere 0x2000 = true := by decide

/-! ### Events -/

/-- An operation on an address behind the domain, which waits for the answer to one line. -/
def farOp : Op :=
  { warp := 5, wg := 4, ctx := 1, active := 1, op := .load, size := 1, dest := .scal 1, acq := false, rel := false, scope := .sys
    lanes := [⟨0, [.phys domainEnd], .uo, 0, 0, 1, 0⟩], lines := [⟨0, 0, true, false⟩] }
def farHere : State := { here with ops := Table.set here.ops 40 farOp }
def cmdHere (kind : CmdKind) (st : CmdState) (dest : Dest) : State :=
  { here with cmds := Table.set here.cmds 40 { wg := 4, warp := 5, ctx := 1, core := 0, active := 1, kind := kind, state := st, dest := dest } }
def rowCmd : CmdKind := .tcopy 0 0x100 16 1 16 16 0 false 2 0 false
/-- A bond whose BFORM and BJOIN have both issued. -/
def formingHere : State :=
  { pairHere with bonds := Table.set pairHere.bonds 0 { team := 3, shape := 1, formed := false, members := [0, 2], cmd := 41 } }.modCore 2
    (fun c => { c with joined := some ⟨3, 0, 42, 5, 1⟩ })
/-- A capsule with one step to commit, which writes k1. -/
def stepHere : State :=
  ((here.modWarp 5 (fun w => { w with capsule := some { heldCapsule with record := 2 ^ 28, steps := [⟨0, 0x12004, 0x12008, some (1, 9), none, 0, [], 6, []⟩] } }))
    ).setCapCtl (2 ^ 28) ⟨5, 1, 0, 1⟩
theorem witness_MemoryEventResults_requests :
    (Table.get? farHere.ops 40).any (fun o => o.lines[0]?.any (fun l => l.sent && !l.answered) && o.locs.contains (.phys domainEnd)) = true ∧
    farHere.ops.all (fun e => e.2.lines.all Line.sent) = true ∧ (farHere.ctx 1).dead = none ∧
    (here.ownBytes 0x3000 3).any (fun l => decide l.Nodup) = true ∧ (here.ownBytes 0x3000 8).isSome = true ∧ (here.ownBytes 0x3000 4).isSome = true ∧
    (here.hostBytes 0x3000 3).any (fun l => decide l.Nodup) = true ∧ ({ here with portMode := .pcie6 } : State).hostBytes interBase 3 = none ∧
    (farHere.requests 1).contains (.phys domainEnd) = true ∧ storeOf domainEnd = .host ∧ here.untrailed = true ∧
    [true, false].all (fun b => !here.outsideBarred b (ownLocs 0x3000 8)) = true := by decide
theorem witness_MemoryEventResults_commands :
    (let s := cmdHere rowCmd .running .none; s.wgPresent 4 && (s.wg? 4).any (fun g => (s.benchPlace 4 g 0x100).any (fun p => (s.wg? p.1).isSome))) = true ∧
    (let s := cmdHere rowCmd .queued .none; (Table.get? s.cmds 40).any (fun c => s.mayStart 40 c && !s.namesLost (s.cmdHomes c))) = true ∧
    (let s := cmdHere (.value 7) .queued (.scal 3); (Table.get? s.cmds 40).any (fun c => s.mayComplete 40 c)) = true ∧
    (let s := cmdHere (.launch 7 2) .queued (.scal 3); (s.grid? 2).isSome && (Table.get? s.cmds 40).any (fun c => s.mayComplete 40 c)) = true ∧
    (let s : State := { here with cmds := Table.set here.cmds 40 { wg := 4, warp := 5, ctx := 1, core := 0, active := 1, kind := rowCmd, state := .running, dest := .none, lines := [⟨0, 0, true, false⟩] } }
     (Table.get? s.ops 40).isNone && (Table.get? s.cmds 40).any (fun c => c.lines[0]?.any (fun l => l.sent && !l.answered))) = true ∧
    (Table.get? formingHere.bonds 0).any (fun b => formingHere.mayForm 0 b) = true := by decide

/-- A capsule whose oldest step stores to, or loads from, the data region. -/
def memStepHere (op : AccessOp) : State :=
  let req : MemReq := { op := op, bench := false, size := 8, dest := .kreg 1, lanes := [{ lane := 0, addr := 0x3000, data := 7 }] }
  stepHere.modWarp 5 (fun w => { w with capsule := w.capsule.map (fun p => { p with steps := [⟨0, 0x12004, 0x12008, none, some req, 30, ownLocs (2 ^ 28 + 0x3000) 8, 6, []⟩] }) })
def commits (s : State) (p : Capsule → CapStep → Bool) : Bool :=
  (s.warp? 5).any (fun w => s.wgPresent w.wg && w.capsule.any (fun c => c.steps.head?.any (fun st => s.mayCommit 5 w st && s.recordTakes w c st && p c st)))
theorem witness_MemoryEventResults_steps : commits stepHere (fun _ st => st.mem.isNone && st.write.isSome) = true ∧
    [AccessOp.load, .store, .amo 0].all (fun op => commits (memStepHere op) (fun c st => st.mem.any (fun r => r.op == op && r.lanes.length == 1) &&
      decide st.locs.Nodup && st.locs.all (fun m => !(recLocs c.record 0 80).contains m))) = true ∧
    (let s := stepHere.setCapCtl (2 ^ 28) ⟨6, 1, 0, 1⟩
     (s.warp? 5).any (fun w => w.capsule.any (fun c => c.steps.any (fun st => s.mayCommit 5 w st && !s.recordTakes w c st && (s.frag? c.frag).any (fun f =>
       f.warp == 5 && c.hnd == f.hnd && !f.hnd && w.planer.isNone))))) = true ∧ (stepHere.wg? 4).any (fun g => g.handler != 0) = true := by decide

/-- A KMOVK before the step that commits, and one after it. -/
theorem witness_MemoryEventResults_moved :
    (let s := stepHere.modWarp 5 (fun w => { w with capsule := w.capsule.map (fun p => { p with moved := [(3, 7)], steps := p.steps.map (fun st => { st with moved := [(2, 5)] }) }) })
     commits s (fun c st => c.moved == [(3, 7)] && st.moved == [(2, 5)])) = true := by decide

/-- A command that runs, its last row done. -/
def endsHere (s : State) (kind : CmdKind) (rel : Bool) : State := { s with cmds := Table.set s.cmds 40 { wg := 4, warp := 5, ctx := 1, core := 0, active := 1, kind := kind, state := .running, dest := .none, rel := rel, counts := if rel then [(0, 16)] else [], cursor := 1, holders := [5] } }
def ends (s : State) : Bool := (Table.get? s.cmds 40).any (fun c => s.mayComplete 40 c &&
  !s.namesLost (s.rangeHomes c (c.partRanges c.left))) && (s.wg? 4).isSome
/-- A place for every byte. -/
def allPlaced (ps : List (Option Loc)) : Bool := ps.all Option.isSome && decide ps.Nodup
theorem witness_MemoryEventResults_copies :
    (let s := cmdHere rowCmd .running .none; (Table.get? s.cmds 40).any (fun c => !c.waitsRemote && s.wgPresent c.wg && c.cursor == 0 &&
      !s.namesLost (s.rangeHomes c (c.nextRanges 0))) && (s.wg? 4).any (fun g =>
      allPlaced (s.rangePlaces 1 g true (some .read) 0x1000 16) && allPlaced (s.rangePlaces 1 g true (some .write) 0x1000 16) &&
      (s.receiverPlace 4 g 0 0x100).any (fun p => (s.wg? p.1).isSome && decide (p.2.2 + 16 ≤ 0x200)))) = true ∧
    (arrivalHere.arrivalField (.bench 4 0) 3 % 2 = 1 ∧ here.arrivalField (.bench 4 0) 3 % 2 = 0) ∧
    ends (endsHere arrivalHere rowCmd true) = true ∧ ((here.wg? 4).bind (fun g => here.memberPlace g.team 0 0)).map Prod.fst = some 4 ∧
    ends (endsHere here rowCmd false) = true ∧ ends (endsHere here (.compact 0 4096) false) = true := by decide
theorem witness_MemoryEventResults_matrix :
    ends (endsHere here (.mxldb 0 0 0 0 0) false) = true ∧ ends ((endsHere here (.mxldb 0 0 0 0 0) false).modTeam 3 (fun x => { x with state := .saving })) = true ∧ (here.memberOn 3 0).map Prod.fst = some 4 ∧ (topEdge 0 (shapeCores 0).2)[0]? = some 0 ∧
    isLq2 0 = false ∧ isLq2 6 = true ∧
    (let s := (endsHere ownerHere (.mxop 0 2 0 0 0 0) false).modCore 0 (fun c => { c with tileFmt := some 1 })
     s.wgResident 4 && tileHeld (s.core 0) 0 && (s.warp? 5).isSome && (Table.get? s.cmds 40).any (fun c => s.turnOf 40 c)) = true ∧
    ends (endsHere ownerHere (.msmrd 0 1 0 0 0 0 true) false) = true ∧ (ownerHere.warp? 5).any (fun w => w.msmFree.isNone) = true ∧
    ((List.range 8).flatMap (fun cl => benchLocs 4 (cl * 4) 4)).Nodup := by decide
/-- Parts done out of turn: what is left is one part. -/
theorem witness_MemoryEventResults_aside :
    [(CmdKind.coll 0x1000 0x2000 4 1 0 0 0 0 ⟨1, 0, 0⟩, [1, 2]), (.msmrd 0 1 0 0 0 0 true, [1, 2, 3, 4, 5, 6])].all (fun p =>
      let s := (endsHere ownerHere p.1 false).modCmd 40 (fun c => { c with aside := p.2 })
      ends s && (Table.get? s.cmds 40).any (fun c => c.left.length == 1 && c.cursor == 1)) = true := by decide
/-- A row of which a word has been read, and another written at a receiver, before the rest. -/
def wordsHere : State := (cmdHere rowCmd .running .none).modCmd 40 (fun c => { c with wordsRead := [(0, 4, [1, 2, 3, 4])], wordsDone := [(0, 8, 4)] })
theorem witness_MemoryEventResults_words : (Table.get? wordsHere.cmds 40).any (fun c => !c.waitsRemote && wordsHere.wgPresent c.wg && c.cursor == 0 &&
    !wordsHere.namesLost (wordsHere.rangeHomes c (c.nextRanges 0)) && (c.withWords 0 (List.replicate 16 9)).length == 16 && c.hadAt 0 11 && !c.hadAt 0 12) = true := by decide
/-- R261: byte 5 of row 0 lies in the four bytes from 4 on. -/
theorem test_copy_word_read : (Table.get? ((cmdHere rowCmd .running .none).readWordOf 40 0 5).cmds 40).map (fun c => c.wordsRead.map (fun w => (w.1, w.2.1, w.2.2.length))) =
    some [(0, 4, 4)] := by decide
/-- R271, R272: element 2 of A row 1 may be read before the rest; R270: of an LQ2 tile element the scale. -/
theorem test_matrix_element_read :
    let got (k : CmdKind) (r i : Nat) := (Table.get? ((endsHere ownerHere k false).readWordOf 40 r i).cmds 40).map (fun c => c.wordsRead.map (fun w => (w.1, w.2.1, w.2.2.length)))
    got (.mxop 0 2 0 0 0 0) 1 2 = some [(1, 2, 2)] ∧ got (.mxldb 0 0 0 6 0) 3 1 = some [(3, 1, 2)] := by decide
/-- A COLL of 4 FP32 elements about to end. -/
def collHere (k : BitVec 3) (gr : Group) (cursor : Nat) : State :=
  (endsHere here (.coll 0x1000 0x2000 4 1 k 0 0 0 gr) false).modCmd 40 (fun c => { c with cursor := cursor })
/-- Groups of this device alone, of four kinds of collective; and members that may not agree. -/
theorem witness_MemoryEventResults_collectives : (collHere 0 ⟨1, 0, 0⟩ 0).cmds.any (fun p => p.2.fault.isNone) = true ∧
    [0, 1, 2, 3].all (fun k => ends (collHere k ⟨1, 0, 0⟩ 0)) = true ∧
    (here.wg? 4).any (fun g =>
      allPlaced (here.rangePlaces 1 g false (some .read) 0x1000 16) && allPlaced (here.rangePlaces 1 g false (some .write) 0x2000 16)) = true ∧
    [0, 1, 2, 3].all (fun k => ends (collHere k ⟨2, 1, 0⟩ 1)) = true ∧ collRun 2 4 0 ⟨2, 1, 0⟩ 1 7 = ⟨0, 4, 1, 7⟩ ∧
    collRun 3 4 0 ⟨2, 1, 0⟩ 1 3 = ⟨1, 3, 0, 2⟩ := by decide
/-- The worked example of 32_host_notes.md, "An all-reduce and its port order": 2^24, 1 and 1 from A, B and C, cabled A B C and B C A. -/
theorem test_switch_order_abc : switchSum (fun _ => 0) (.num false 1 24) [.num false 1 0, .num false 1 0] = (decodeF .fp32 0x4B800000, 8) := by decide
theorem test_switch_order_bca : (switchSum (fun _ => 0) (.num false 1 0) [.num false 1 0, .num false 1 24]) = (decodeF .fp32 0x4B800001, 0) := by decide
/-- A translation is kept, so that the places of a CBULK's element do not hang on the bytes of memory. -/
def keptHere : State := endsHere { here with kept := [⟨1, 0x10000000, ⟨cmemBase, 28, .rc, false, true, true, false⟩⟩] } (.cbulk 0x10000000 0 1 0 0 0 true 5) false
theorem endsHere_wg (s : State) (k : CmdKind) (r : Bool) (i : Nat) : (endsHere s k r).wg? i = s.wg? i := rfl
theorem kept_wg (s : State) (k : List Kept) (i : Nat) : ({ s with kept := k } : State).wg? i = s.wg? i := rfl
theorem witness_MemoryEventResults_bulk : ends keptHere = true ∧ ∀ (g : Wg) (m : List Host.Cell), keptHere.wg? 4 = some g →
    ({ keptHere with mem := m } : State).rangePlaces 1 g false (some .both) 0x10000000 4 = (([0, 1, 2, 3] : List Nat).map (cmemBase + ·)).map (fun a => some (.phys a)) := by
  refine ⟨by decide, fun g m h => ?_⟩
  have e : keptHere.wg? 4 = here.wg? 4 := (endsHere_wg _ _ _ 4).trans (kept_wg _ _ 4)
  rw [e] at h
  cases h
  rfl

/-- Queue 0 holds one record, which is launchHere's, at VA 0x2000. -/
def queuedHere : State := launchHere.setQueue 0 { ({} : Queue) with en := true, base := 0x2000, log2n := 4, tail := 1, ctxid := 1 }
def admits (s : State) : Bool :=
  s.nextHead.any (fun h => match h.2 with
    | .accept _ => true
    | _ => false)
/-- A second team of the grid waits. -/
def waitingHere (st : TeamState) : State := here.setTeam 70 { grid := 2, number := 1, state := st, waitStart := some 0 }
def placeable (st : TeamState) : Bool :=
  (waitingHere st).firstPlaceable.any (fun p => p.1 == 70 && p.2.1.state == st && ((waitingHere st).recordOf p.2.1).isSome)
theorem witness_SchedulingEventResults_lift : here.nextHead.isNone = true ∧ admits queuedHere = true ∧ placeable .waiting = true ∧
    placeable .saved = true := by decide

/-- Slices of 4 ticks, the first of which are over. -/
def sliceHere : State := { waitingHere .waiting with slices := Table.put 0 here.slices 0 1, tick := 100000 }
def childGrid : Grid :=
  { ctx := 1, queue := 0, gridid := 2, depth := 2, cls := 0, parent := some 2, parentWg := 4, handle := 1, ready := true
    record := { placedRecord with team := 4, bond := 3, bench := Config.benchBytes } }
/-- The grid that team 3 waits for in LWAIT asks for the whole bench of a cluster; a core of each other cluster is held by
a third team, or lost. -/
def parentHere : State :=
  let s := ((here.setGrid 30 childGrid).modFrag 6 (fun f => { f with wait := some (.lwait 1) })).setTeam 71 { grid := 30, number := 0 }
  let others : Table Wg := (List.range 95).map (fun i => (1000 + i, { team := 72, member := i, core := 4 * i + 4, benchSize := Config.benchBytes }))
  { s.setTeam 72 { grid := 2, number := 2, state := .resident } with lostDies := 0x3E, wgs := s.wgs ++ others }
theorem witness_SchedulingEventResults_slices :
    (sliceHere.team? 3).any (fun t => t.state == .resident && sliceHere.sliceOver t t.runStart) = true ∧
    (let s : State := { sliceHere with lostDies := 0x3F }
     (s.waiting.find? s.sliceDue).any (fun p => p.1 == 70 && p.2.state == .waiting && (s.recordOf p.2).isSome && !s.targetHolds 70 p.2)) = true := by decide
/-- The footprint freed for team 71 will have room for it once team 3 has left. -/
theorem witness_SchedulingEventResults_target :
    (let s : State := { (parentHere.modTeam 3 (fun t => { t with state := .chosen })).modTeam 71 (fun t => { t with target := [0, 1, 2, 3], waitStart := some 0 }) with
        slices := Table.put 0 here.slices 0 1, tick := 100000 }
     (s.waiting.find? s.sliceDue).any (fun p => p.1 == 71 && s.targetHolds 71 p.2)) = true := by decide
/-- Team 71's wait slice expires, and team 3, which waits for its grid, can be chosen. -/
theorem witness_SchedulingEventResults_choice :
    (let s : State := { parentHere.modTeam 71 (fun t => { t with waitStart := some 0 }) with slices := Table.put 0 here.slices 0 1, tick := 100000 }
     (s.waiting.find? s.sliceDue).any (fun p => p.1 == 71 && !s.targetHolds 71 p.2 && (s.recordOf p.2).any (fun r =>
       ((s.modTeam 71 (fun t => { t with waitStart := some s.tick })).choices 71 p.2 r (fun y => (s.waitersFor 10 30).contains y.1)).any (fun c =>
         c.victims == [3])))) = true := by decide
theorem witness_SchedulingEventResults_preemption : (parentHere.team? 3).any (fun t => t.state == .resident) = true ∧
    (parentHere.lwaitChoice 3).any (fun p => p.1 == 71 && p.2.victims == [3]) = true := by decide

def savingHere : State := here.modTeam 3 (fun t => { t with state := .saving })
def drainedHere : State := { here with frags := [] }
def windowHere : State := here.modWg 4 (fun g => { g with evtctl := 1, window := 1030 })
def readyHere : State := { placed 0x0FC00000 with tick := 64 }
def fetchless : State := (placed 0x0FC00000).modFrag 6 (fun f => { f with pc := 0x7FFFFFFFFFF0 })
def holding : State := (placed 0x0FC00000).modFrag 6 (fun f => { f with heldTraps := [⟨{ code := 0x31 }, true⟩] })
theorem witness_SchedulingEventResults_fragments :
    (savingHere.team? 3).any (fun t => t.state == .saving) = true ∧ savingHere.quiesced 3 = true ∧
    (drainedHere.warp? 5).any (fun w => drainedHere.mayRetire 5 w) = true ∧ (windowHere.wg? 4).any Wg.windowOver = true ∧
    (readyHere.nextView 6).any (fun v => v.fid == 6 && readyHere.mayPromote v) = true ∧ (here.frag? 6).any (fun f => decide (f.yieldUntil ≤ here.tick)) = true ∧
    (match fetchless.attempt 6 with
      | .noFetch _ => true
      | _ => false) = true ∧
    (match holding.attempt 6 with
      | .held _ _ => true
      | _ => false) = true := by decide

def deadHere : State := here.setCtx 1 { (here.ctx 1) with dead := some 0x3F }
theorem witness_PartEventResults : (deadHere.ctx 1).dead = some 0x3F ∧ (deadHere.ctx 1).drained = false ∧ (State.reset.queue 0).en = false ∧
    State.reset.cmdBusy = false ∧ (State.reset.ctx 0).dead = none ∧ ({ State.reset with cmdBusy := true } : State).cmdBusy = true ∧
    (Table.get? here.ctxs 1).any (fun y => y.diemask.getLsbD 0 && !y.diemask.getLsbD 5) = true ∧ State.reset.boot.rate[7]? = some 0 ∧
    State.reset.boot.opch[15]? = some 15 ∧ State.reset.boot.steps[9]? = some (0, 0) := by decide

/-! ### Words that the spec's tables write out -/

/-- The words of the section on memory ordering. -/
theorem test_decode_memory_table : decode 0x0C810808#32 = .ok ⟨false, 0, .vld 1 2 0 2 0⟩ ∧ decode 0x0C05182D#32 = .ok ⟨false, 0, .sld 5 6 2 3 1⟩ ∧
    decode 0x0D041888#32 = .ok ⟨false, 0, .vldg 4 6 8 2 0⟩ ∧ decode 0x0D83281A#32 = .ok ⟨false, 0, .bld 3 10 1 2 2⟩ ∧
    decode 0x0DC32819#32 = .ok ⟨false, 0, .bst 3 10 1 2 1⟩ ∧ (decode 0x0D832812#32).toOption = none := by
  exact ⟨rfl, rfl, rfl, rfl, rfl, rfl⟩
theorem test_decode_atomic_table : decode 0x0E94101A#32 = .ok ⟨false, 0, .amoAdd 20 4 1 2 2⟩ ∧ decode 0x0EB00A7F#32 = .ok ⟨false, 0, .amoCas 48 2 3 3 3⟩ ∧
    decode 0x0ECA0A88#32 = .ok ⟨false, 0, .vamoFadd32 10 2 0 0⟩ ∧ decode 0x0E941E88#32 = .ok ⟨false, 0, .amoFadd32 20 7 0 0⟩ := by
  exact ⟨rfl, rfl, rfl, rfl⟩
theorem test_decode_sync_table : decode 0x0F070000#32 = .ok ⟨false, 0, .fence 1 3⟩ ∧ decode 0x0F000001#32 = .ok ⟨false, 0, .bar⟩ ∧
    decode 0x0F001053#32 = .ok ⟨false, 0, .arrive 4 5⟩ ∧ decode 0x0F001064#32 = .ok ⟨false, 0, .await 4 6⟩ ∧
    decode 0x0F320008#32 = .ok ⟨false, 0, .tsread 50⟩ := by exact ⟨rfl, rfl, rfl, rfl, rfl⟩
/-- The words of the section on capsules and the system. -/
theorem test_decode_capsule_table : decode 0x0B801800#32 = .ok ⟨false, 0, .capent 6⟩ ∧ decode 0x0B800001#32 = .ok ⟨false, 0, .capexit⟩ ∧
    decode 0x0B810032#32 = .ok ⟨false, 0, .kld 1 0 3⟩ ∧ decode 0x0B820504#32 = .ok ⟨false, 0, .kamo 2 1 1 0⟩ ∧
    decode 0x0B83C806#32 = .ok ⟨false, 0, .kmovk 3 50⟩ ∧ decode 0x0BB00C05#32 = .ok ⟨false, 0, .kmovs 48 3⟩ ∧
    decode 0x0BB10007#32 = .ok ⟨false, 0, .capstat 49⟩ := by exact ⟨rfl, rfl, rfl, rfl, rfl, rfl, rfl⟩
theorem test_decode_system_table : decode 0x0F800120#32 = .ok ⟨false, 0, .trap 18⟩ ∧ decode 0x0F800001#32 = .ok ⟨false, 0, .tret⟩ ∧
    decode 0x0F941002#32 = .ok ⟨false, 0, .launch 20 4⟩ ∧ decode 0x0F805003#32 = .ok ⟨false, 0, .lwait 20⟩ ∧
    decode 0x0F800004#32 = .ok ⟨false, 0, .exit⟩ ∧ decode 0x0F822095#32 = .ok ⟨false, 0, .jighint 2 8 9⟩ := by
  exact ⟨rfl, rfl, rfl, rfl, rfl, rfl⟩
/-- The words of the section on engines. -/
theorem test_decode_engine_table : decode 0x0F448324#32 = .ok ⟨false, 0, .tcopym 8 12 1 0 1 0⟩ ∧ decode 0x0F48C3A4#32 = .ok ⟨false, 0, .mxldb 12 14 1 1 0⟩ ∧
    decode 0x0F4D03A4#32 = .ok ⟨false, 0, .mxop 16 14 1 1 0⟩ ∧ decode 0x0F558000#32 = .ok ⟨false, 0, .mxwait 24⟩ ∧
    decode 0x0F680000#32 = .ok ⟨false, 0, .bbrk⟩ ∧ decode 0x0F654000#32 = .ok ⟨false, 0, .bjoin 20⟩ ∧
    decode 0x0F74C380#32 = .ok ⟨false, 0, .msmrd 12 14 0 0 0⟩ := by exact ⟨rfl, rfl, rfl, rfl, rfl, rfl, rfl⟩
/-- BRC of COND 8 is no encoding (R123). -/
theorem test_decode_brc_reserved : (decode 0x02A03000#32).toOption = none := by rfl

/-! ### Values that the spec works out -/

/-- The values a word leaves pending, without their ticks. -/
def pendOf (s : State) (i : Instr) : List PendVal := ((after s i).frag? 6).elim [] (fun f => f.pend.map Pend.val)

/-- A 64-bit constant in four groups (R122). -/
theorem test_smovks_shifts_in : pendOf here (.smovk 9 0x8000) = [.scal 9 0xFFFFFFFFFFFF8000] ∧
    pendOf (scalars here [(9, 0x1234567)]) (.smovks 9 0x89AB) = [.scal 9 0x123456789AB] := by decide
/-- Division by zero and the quotient that does not fit (R119). -/
theorem test_division_corners : pendOf (scalars here [(1, 7)]) (.sdiv 3 1 2) = [.scal 3 0xFFFFFFFFFFFFFFFF] ∧
    pendOf (scalars here [(1, 7)]) (.srem 3 1 2) = [.scal 3 7] ∧
    pendOf (scalars here [(1, 0x8000000000000000), (2, 0xFFFFFFFFFFFFFFFF)]) (.sdiv 3 1 2) = [.scal 3 0x8000000000000000] ∧
    pendOf (scalars here [(1, 0x8000000000000000), (2, 0xFFFFFFFFFFFFFFFF)]) (.srem 3 1 2) = [.scal 3 0] := by decide
/-- The remainder takes the sign of s[A] (R119): −7 = 2 × −3 − 1. -/
theorem test_srem_sign : pendOf (scalars here [(1, 0xFFFFFFFFFFFFFFF9), (2, 2)]) (.srem 3 1 2) = [.scal 3 0xFFFFFFFFFFFFFFFF] ∧
    pendOf (scalars here [(1, 0xFFFFFFFFFFFFFFF9), (2, 2)]) (.sdiv 3 1 2) = [.scal 3 0xFFFFFFFFFFFFFFFD] := by decide
/-- 0x3F is 0.9375 and 0x7F is 15.5 in MF8 (R68). -/
theorem test_mf8_values : (match decodeF .mf8 0x3F, decodeF .mf8 0x7F with
    | .num false m e, .num false n k => decide ((m : Int) * 2 ^ (e + 20).toNat = 983040) && decide ((n : Int) * 2 ^ (k + 20).toNat = 16252928)
    | _, _ => false) = true := by decide
/-- The interleaved address 0x80_007A_3010 is byte 0x54_000A_3010 of the linear window (R198). -/
theorem test_interleaved_address : here.canon 0x80007A3010 = some 0x54000A3010 := by decide
/-- A shared scalar of a split warp is not written (R45), and the group has no effect. -/
theorem test_split_scalar : trapOf splitHere (.saddi 1 1 1) = some (0x04, 1) := by decide

/-- Elements of vector registers of lane 0 set. -/
def vectors (s : State) (l : List (Nat × Word)) : State :=
  s.modWarp 5 (fun w => { w with v := l.foldl (fun t p => Table.put 0 t (64 * p.1) p.2) w.v })
/-- VADD wraps, and VADDS saturates and sets SATO and INX (R150): 0x7FFF_FFFF + 1. -/
theorem test_vadd_wraps_vadds_saturates : pendOf (vectors here [(1, 0x7FFFFFFF), (2, 1)]) (.vadd 3 1 2 0 0) = [.vec 3 [(0, 0x80000000)]] ∧
    pendOf (vectors here [(1, 0x7FFFFFFF), (2, 1)]) (.vadds 3 1 2 0 0) = [.vec 3 [(0, 0x7FFFFFFF)], .flags 0x0A] := by decide
/-- VADDI's immediate is signed (R151). -/
theorem test_vaddi_sign : pendOf here (.vaddi 3 0 0x200) = [.vec 3 [(0, 0xFFFFFE00)]] := by decide
/-- 1 + 2⁻²⁴ lies half way between 1 and its neighbour: RNE goes to the even one, RU up (R68). -/
theorem test_vfadd_rounds : (pendOf (vectors here [(1, 0x3F800000), (2, 0x33800000)]) (.vfadd 3 1 2 1)).contains (.vec 3 [(0, 0x3F800000)]) = true ∧
    (pendOf (vectors here [(1, 0x3F800000), (2, 0x33800000)]) (.vfadd 3 1 2 3)).contains (.vec 3 [(0, 0x3F800001)]) = true := by decide
/-- The next packet is 12 bytes on (R90, R123). -/
theorem test_branch_offset_in_packets : (after here (.brcEqz 0 1)).issue.map Issue.ctl = some (.goto 0x1200C) ∧
    (after here (.brcNez 0 1)).issue.map Issue.ctl = some .fall ∧
    (after (here.modIssue (fun i => { i with pc := 0x12004 })) (.jmp 0x3FFFFF)).issue.map Issue.ctl = some (.goto 0x11FF4) := by decide
/-- A word that is no encoding: the whole group has no effect, the saved PC is its address, and the handler runs (R92, R123, R319, R320). -/
theorem test_illegal_word_traps : ((nextOf (step (State.reset.withFetchWord 32 0x02A03000))).frag? 6).any (fun f => f.hnd && f.pc == 0x12060 &&
    f.tsave0 == 0x12000 && f.tsave2 &&& 0xFF == 1) = true := by decide
/-- TRAP 18: the saved PC is that of the next group, and DETAIL is the code (R321, R351). -/
theorem test_trap_word_traps : ((nextOf (step (State.reset.withFetchWord 32 0x0F800120))).frag? 6).any (fun f => f.hnd && f.pc == 0x12060 &&
    f.tsave2 == 0x1237) = true := by decide
/-- A store writes its bytes little-endian: the low byte of 0x0807… lies lowest. -/
theorem test_store_is_little_endian : (nextOf (exec (.storeCompletion here.serial) (after (scalars here [(1, 0x0807060504030201), (2, 0x3000)])
    (.sst 1 2 0 3 0)))).readByte (2 ^ 28 + 0x3000) = 1 := by decide
/-- LAUNCH_RECORD_ADMISSION of the queue's record takes it (R329). -/
theorem test_admission_takes_the_head : ((nextOf (exec .launchRecordAdmission queuedHere)).queue 0).head = 1 := by decide

/-! ### Orders that agents may see (R221, R232, R235 to R241, R243, R245, R262) -/

/-- Four bytes of memory, and an access of lane 0 to them. -/
def cell (a : Nat) : List Loc := ownLocs a 4
def access (warp wg : Nat) (op : AccessOp) (acq rel : Bool) (scope : Scope) (a x : Nat) : Op :=
  { warp := warp, wg := wg, ctx := 1, active := 1, op := op, size := 4, dest := if op.inLC then .scal 7 else .none, acq := acq, rel := rel, scope := scope,
    lanes := [⟨0, cell a, .rc, BitVec.ofNat 64 x, 0, 1, 0⟩] }
/-- A second member of the team: workgroup 14 with warp 15. -/
def twoMembers (ops : Table Op) : State :=
  let s := ((here.wg? 4).map (fun g => here.setWg 14 { g with core := 1, member := 1 })).getD here
  let s := ((s.warp? 5).map (fun w => s.setWarp 15 { w with wg := 14 })).getD s
  { s with issue := none, serial := 200, ops := ops }
def inputs (s : State) (is : List Input) : State := is.foldl (fun s i => match s.input i with
  | .next t => t
  | _ => s) s
/-- Section "A scope that is too narrow" of spec/19_consistency.md: x := 1 and f := 1 by one member, f and x read by the other. -/
def tooNarrow (scope : Scope) : State :=
  inputs (twoMembers [(100, access 5 4 .store false false .dev 0x8000 1), (101, access 5 4 (.amo 8) false true scope 0x9000 1),
      (102, access 15 14 .load true false .dev 0x9000 0), (103, { access 15 14 .load false false .dev 0x8000 0 with dest := .scal 8 })])
    [.leave 100 0, .happen (.loadCompletion 101), .happen (.loadCompletion 102), .happen (.loadCompletion 103)]
def readBy (s : State) (n : Nat) : Option Dword := (s.warp? 15).map (fun w => Table.getD w.s n 0)
theorem test_scope_too_narrow : readBy (tooNarrow .wg) 7 = some 1 ∧ readBy (tooNarrow .wg) 8 = some 0 ∧ (tooNarrow .wg).ops.keys = [100] := by decide
theorem test_scope_wide_enough : readBy (tooNarrow .team) 7 = some 1 ∧ (tooNarrow .team).ops.keys = [100, 103] := by decide
/-- R235, R238: a UO store before a BAR, without and with a FENCE.UO between. -/
def uoAtBar (fences : Table FenceRec) : State :=
  let o := access 5 4 .store false false .dev 0x8000 1
  ({ (twoMembers [(100, { o with lanes := o.lanes.map (fun l => { l with kind := .uo }) })]) with fences := fences } : State).modFrag 6 (fun f =>
    { f with wait := some (.bar 0) })
theorem test_bar_and_uo : (((uoAtBar []).settleBar 4).wg? 4).map Wg.barrier = some 1 ∧
    (((uoAtBar [(110, ⟨5, 1, true, .dev, false⟩)]).settleBar 4).wg? 4).map Wg.barrier = some 0 := by decide
/-- R232, R241: a BAR crossed before a store that it orders, once the store has been left behind: what is released comes after it. -/
theorem test_bar_crossed :
    let s := inputs ((twoMembers [(100, access 5 4 .store false false .dev 0x8000 1)]).modFrag 6 (fun f => { f with wait := some (.bar 0) })) [.leave 100 0]
    s.ops.keys = [100] ∧ (s.wg? 4).map Wg.barrier = some 1 ∧ s.debts.map (fun d => (d.op, d.left, d.trail.after.map (fun e => e.op.warp))) = [(100, true, [5, 5])] := by
  decide
/-- R235, R237: a load performed before its fragment comes to it, in a window of three inputs, where it comes true; of another address, where it does
not. -/
def loadHere : State := scalars (placed (((encodeWord false 0 (.sld 47 0 0 3 0)).getD 0).toNat)) [(0, 0x3000)]
def guessed (at_ : Nat) (is : List Input) : State :=
  let acc : Op := { ((Table.get? (inputs loadHere [.issue 6]).ops loadHere.serial).getD farOp) with lanes := [⟨0, ownLocs (2 ^ 28 + at_) 8, .rc, 0, 0, 1, 0⟩] }
  inputs { loadHere with agenda := .guess 6 acc :: is } [.span 3]
theorem test_early_load : (guessed 0x3000 [.issue 6, .happen (.loadCompletion (loadHere.serial + 1))]).span = 3 ∧
    (guessed 0x3008 [.issue 6, .happen (.loadCompletion (loadHere.serial + 1))]).span = 0 := by decide
/-- R235: a fragment has the value of a load before it is read, where that is what it reads. -/
def toldHere (x : Nat) : State :=
  inputs { twoMembers [(100, access 5 4 .load false false .dev 0x8000 0)] with agenda := [.foretell 100 [(0, x)], .happen (.loadCompletion 100)] } [.span 2]
theorem test_value_had_early : (toldHere 0).span = 2 ∧ (toldHere 9).span = 0 := by decide
/-- R262: of 16 bytes that a receiver has had 5 are counted, and then the rest. -/
theorem test_several_arrivals :
    let s := (endsHere arrivalHere (.tcopy 0 0x100 16 1 16 16 0 true 2 1 false) false).modCmd 40 (fun c => { c with counts := [(0, 16)], cursor := 0 })
    ((s.countAt 40 0 5).arrivalField (.bench 4 0) 1, ((s.countAt 40 0 5).countAt 40 0 11).arrivalField (.bench 4 0) 1) =
      ((s.arrivalField (.bench 4 0) 1 + 5) % s.arrivalField (.bench 4 0) 0, (s.arrivalField (.bench 4 0) 1 + 16) % s.arrivalField (.bench 4 0) 0) := by decide
/-- R223, R243: a command with ACQ starts once the store before it has been left behind, and comes after it; with a FENCE between it does not start. -/
def commandBehind (fences : Table FenceRec) : State :=
  let s : State := { cmdHere (.cbulk 0xA000 0xB000 1 0 2 0 false 0) .queued .none with ops := [(30, access 5 4 .store false false .dev 0x8000 1)], fences := fences }
  s.modCmd 40 (fun c => { c with acq := true })
def stateOf (s : State) : Option CmdState := (Table.get? s.cmds 40).map Cmd.state
theorem test_command_ahead : stateOf (inputs (commandBehind []) [.happen (.engineCommandStart 40)]) = some .queued ∧
    (let t := inputs (commandBehind []) [.leave 30 0, .happen (.engineCommandStart 40)]
     stateOf t = some .running ∧ t.debts.map (fun d => d.trail.held.any (Carrier.isCmd 40)) = [true]) ∧
    stateOf (inputs (commandBehind [(35, ⟨5, 1, false, .wg, false⟩)]) [.leave 30 0, .happen (.engineCommandStart 40)]) = some .queued := by decide
/-- R228, R245: a packet as it once stood is fetched again after an IFLUSH, but not after a FENCE.CODE and an acquire before it. -/
theorem test_old_packet :
    let s : State := { here with old := [⟨1, here.codeLocs 1 0x12000 3, [(0x12000, 7), (0x12004, 8), (0x12008, 9)], [⟨1, 5, 1, {}⟩], []⟩] }
    let s := s.modFrag 6 (fun f => { f with packet := [] })
    (((after s .iflush).refetch 6 0).frag? 6).map (fun f => f.packet.length) = some 3 ∧
    (after (after s (.fenceCode 3)) .iflush).old.map OldPacket.flushed = [[(5, 1)]] := by decide
/-- R233, R237: of the dependences that a load of lane 0 carries, VMOVM by a mask makes one of what the lanes issue. -/
theorem test_mask_is_control : decidesBy (.vmovm 1 2 3 0 0) = [.m 3] ∧ decidesBy (.callr 2) = [.s 2] ∧ decidesBy (.sadd 1 2 3) = [] := by decide
/-- R270: an element that an MXLDB has read ahead of its turn waits in the command, and leaves the tile as it is. -/
theorem test_tile_read_ahead :
    let t := (endsHere ownerHere (.mxldb 0 0 0 0 0) false).pieceOfCmd 40 3
    (t.core 0).tile = (ownerHere.core 0).tile ∧ (Table.get? t.cmds 40).map (fun c => c.aside) = some [3] := by decide
/-- R234: a load of eight bytes takes four from an own store that is still to be performed, and the others from memory. -/
theorem test_forward_over_memory :
    let load : Op := { access 5 4 .load false false .dev 0x8000 0 with size := 8, lanes := [⟨0, ownLocs 0x8000 8, .rc, 0, 0, 1, 0⟩] }
    let s := inputs ((twoMembers [(100, access 5 4 .store false false .dev 0x8000 7), (101, load)]).writeLocs (cell 0x8004) 9) [.forward 101 0]
    (Table.get? s.ops 101).map (fun o => (o.lanes.length, o.got)) = some (0, [(0, 7 + 2 ^ 32 * 9)]) ∧ s.ops.keys = [100, 101] ∧
      s.readLocs (cell 0x8000) = 0 := by decide

end Sys2Proof.Tests
end

/-! What a step does with the next group of a fragment. -/

namespace Sys2Proof.Proofs

open Sys2Proof.Machine Sys2Proof.Safety

/-- The view of a fragment's next group is of that fragment. -/
theorem fid_of_nextView {s : State} {fid : Nat} {v : View} (h : s.nextView fid = some v) : v.fid = fid := by
  simp only [State.nextView, State.viewOf] at h
  repeat' split at h
  all_goals cases h
  rfl

/-- A group whose code names no lost die runs, once that code has been requested for its context (R21, R372). -/
theorem issueGroup_runs {s : State} {fid : Nat} {v : View} {g : Fetched} (hv : (s.openWindow fid).nextView fid = some v)
    (ha : (s.openWindow fid).attempt fid = .run g)
    (hl : (s.openWindow fid).namesLost ((s.openWindow fid).fetchRequest v (.run g)) = false) :
    let u := s.openWindow fid
    s.issueGroup fid = (u.markDies (u.ctxOfWg v.g) (u.dieBitsOf (u.fetchRequest v (.run g)))).runGroup v g.words := by
  have hf : v.fid = fid := fid_of_nextView hv
  simp only [State.issueGroup, State.issueNext, State.issueFetched, hv, hf, ha, hl, Bool.false_eq_true, if_false]

/-- In a package in use, a fragment whose turn it is issues its next group, and the input is over (R341). -/
theorem perform_issue {s : State} {fid : Nat} (hu : s.unusable = false) (ht : s.issueTurn fid = true) :
    s.perform (.issue fid) = settled (Machine.spent (s.issueGroup fid)) := by
  simp only [State.perform, State.act, hu, ht, Bool.false_and, Bool.false_eq_true, if_false, if_true]

/-- A group that the agenda comes to is the input that the step performs. -/
theorem step_agenda_issue {s : State} {fid : Nat} (ha : s.agenda.head? = some (.issue fid)) :
    step s = State.perform { s with agenda := s.agenda.tail } (.issue fid) := by
  obtain ⟨r, hr⟩ : ∃ r, s.agenda = .issue fid :: r := List.head?_eq_some_iff.mp ha
  simp only [step, hr, State.input, List.tail_cons]

/-- Where nothing is said and the model's own order comes to a fragment, the step issues its next group. -/
theorem step_own_issue {s : State} {fid : Nat} (ha : s.agenda = []) (hn : s.nextOwn = .issue fid) :
    step s = settled (s.issueGroup fid) := by
  simp only [step, ha, hn, State.own]

/-- Settles O6: the step is the issue of the group, and the group runs. -/
theorem stepRunsTheGroup : Obligations.StepRunsTheGroup := by
  intro s fid v g hu r u how hv ha hl t
  have runs : r.issueGroup fid = t := issueGroup_runs hv ha hl
  rcases how with ⟨hagenda, hturn⟩ | ⟨hempty, hown⟩
  · have hne : s.agenda ≠ [] := fun h => by simp [h] at hagenda
    have issues : step s = settled (Machine.spent (r.issueGroup fid)) := (step_agenda_issue hagenda).trans (perform_issue (s := r) hu hturn)
    rw [issues, runs, if_neg hne]
  · have same : r = s := by
      show ({ s with agenda := s.agenda.tail } : State) = s
      rw [hempty, List.tail_nil, ← hempty]
    rw [step_own_issue hempty hown, if_pos hempty, ← runs, same]

end Sys2Proof.Proofs

/-! The loss of a die in a part whose context table holds one context twice. -/

namespace Sys2Proof.Proofs

open Sys2Proof.Machine

/-- A part after reset whose context table has two entries of context 1: the first, which is the one read, names no die, and the second names die 0. -/
def contextTwice : State := { State.reset with ctxs := [(1, {}), (1, { diemask := 1 })] }

/-- A die loss is declared once for the part, and each entry of the context table is then looked at. -/
theorem exec_dieLossDeclaration (s : State) (dies : BitVec 6) : exec (.dieLossDeclaration dies) s = .next (s.loseDies dies) := by
  rfl

/-- The second entry of the context kills the context, although the entry that is read names no lost die. -/
theorem contextTwice_dies : ((contextTwice.loseDies 1).ctx 1).dead = some 0x3E := by decide

/-- Refutes O60: its clause about die loss speaks of the entry of a context that reading the context table finds, and the model looks at every entry of
the table. In `contextTwice` the two differ: the entry of context 1 that is read names no lost die, and the context dies. The statement quantifies over
every state, and the table of this one repeats a key, which the model's own changes of a table never make it do; no other clause is refuted here. -/
theorem not_partEventResults : ¬ Obligations.PartEventResults := by
  unfold Obligations.PartEventResults
  intro holds
  obtain ⟨-, ⟨t, ran, -, -, contexts⟩, -⟩ := holds contextTwice 1 0 0 1 0 0 0 0 .cxl31 ⟨[], [], 0, 0, .cxl31⟩
  have lost : t = contextTwice.loseDies 1 := by
    rw [exec_dieLossDeclaration] at ran
    cases ran
    rfl
  have unharmed : t.ctx 1 = {} := (contexts {} rfl).2 (fun i _ _ => BitVec.getLsbD_zero)
  have dead : (t.ctx 1).dead = some 0x3E := lost ▸ contextTwice_dies
  rw [unharmed] at dead
  cases dead

end Sys2Proof.Proofs

/-! Capsule records (R307): what their fields read after each is written, and what the writes leave. -/

namespace Sys2Proof.Proofs

open Sys2Proof.Machine Sys2Proof.Safety Sys2Proof.Laws

/-! ### Bytes -/

theorem readLoc_writeLoc_same (s : State) (a : Nat) (x : Byte) : (s.writeLoc (.phys a) x).readLoc (.phys a) = x := by
  simp [State.writeLoc, State.readLoc, State.readByte]

/-- A write of one byte leaves the others. -/
theorem readLoc_writeLoc_other (s : State) {l m : Loc} (x : Byte) (h : m ≠ l) : (s.writeLoc l x).readLoc m = s.readLoc m := by
  cases l with
  | phys a =>
    cases m with
    | phys b =>
      have hb : b ≠ a := fun e => h (by rw [e])
      simp [State.writeLoc, State.readLoc, State.readByte, getD_put_other _ _ _ hb]
    | bench g o => rfl
  | bench g o =>
    cases m with
    | phys b => rfl
    | bench k p =>
      simp only [State.writeLoc, State.readLoc, wg_mod]
      by_cases hk : k = g
      · have hp : p ≠ o := fun e => h (by rw [hk, e])
        cases hw : s.wg? g <;> simp [hk, hw, getD_put_other _ _ _ hp]
      · simp [hk]

/-- A write of some bytes leaves the others. -/
theorem readLoc_writeLocs_other {m : Loc} (ls : List Loc) (h : m ∉ ls) (s : State) (x : Nat) :
    (s.writeLocs ls x).readLoc m = s.readLoc m := by
  induction ls generalizing s x with
  | nil => rfl
  | cons l r ih =>
    rw [List.mem_cons, not_or] at h
    rw [State.writeLocs, ih h.2, readLoc_writeLoc_other _ _ h.1]

/-- Values are read from the bytes that they name. -/
theorem readLocs_agree {s t : State} {ls : List Loc} (h : ∀ l ∈ ls, t.readLoc l = s.readLoc l) : t.readLocs ls = s.readLocs ls := by
  induction ls with
  | nil => rfl
  | cons l r ih =>
    rw [List.forall_mem_cons] at h
    rw [State.readLocs, State.readLocs, h.1, ih h.2]

/-- Distinct bytes of memory read as what was written to them last. -/
theorem readLocs_writeLocs (as : List Nat) (h : as.Nodup) (s : State) (x : Nat) :
    (s.writeLocs (as.map .phys) x).readLocs (as.map .phys) = x % 256 ^ as.length := by
  induction as generalizing s x with
  | nil => simp [State.readLocs, Nat.mod_one]
  | cons a r ih =>
    rw [List.nodup_cons] at h
    have first : ((s.writeLoc (.phys a) (BitVec.ofNat 8 x)).writeLocs (r.map .phys) (x / 256)).readLoc (.phys a) = BitVec.ofNat 8 x := by
      rw [readLoc_writeLocs_other _ (by simpa using h.1), readLoc_writeLoc_same]
    rw [List.map_cons, State.writeLocs, State.readLocs, first, ih h.2, BitVec.toNat_ofNat, List.length_cons, pow_succ' 256 r.length, Nat.mod_mul]

/-- Memory and benches that agree read the same at every location. -/
theorem readLoc_sameMemory {s t : State} (h : SameMemory s t) (l : Loc) : t.readLoc l = s.readLoc l := readLoc_congr h.1 h.2 l

theorem sameMemory_trans {s t u : State} (h : SameMemory s t) (k : SameMemory t u) : SameMemory s u :=
  ⟨k.1.trans h.1, fun g => (k.2 g).trans (h.2 g)⟩

/-! ### The bytes of a record -/

theorem mem_recLocs {r off n : Nat} {l : Loc} : l ∈ recLocs r off n ↔ ∃ j, j < n ∧ l = .phys (r + off + j) := by
  simp [recLocs, eq_comm]

theorem phys_mem_recLocs {r off n a : Nat} : Loc.phys a ∈ recLocs r off n ↔ r + off ≤ a ∧ a < r + off + n := by
  rw [mem_recLocs]
  constructor
  · rintro ⟨j, hj, h⟩
    cases h
    omega
  · rintro ⟨h, k⟩
    exact ⟨a - (r + off), by omega, by congr 1; omega⟩

/-- A field of a record lies within a part of it. -/
theorem recLocs_subset {r o n p m : Nat} (h : p ≤ o) (k : o + n ≤ p + m) {l : Loc} (hl : l ∈ recLocs r o n) : l ∈ recLocs r p m := by
  obtain ⟨j, hj, rfl⟩ := mem_recLocs.mp hl
  rw [phys_mem_recLocs]
  omega

/-- Fields of a record that stand one behind the other have no byte in common. -/
theorem recLocs_apart {r o n p m : Nat} (h : o + n ≤ p ∨ p + m ≤ o) {l : Loc} (hl : l ∈ recLocs r o n) : l ∉ recLocs r p m := by
  obtain ⟨j, hj, rfl⟩ := mem_recLocs.mp hl
  rw [phys_mem_recLocs]
  omega

/-- A field of n bytes reads as what was written to it. -/
theorem readLocs_writeLocs_rec (s : State) (r off n x : Nat) :
    (s.writeLocs (recLocs r off n) x).readLocs (recLocs r off n) = x % 256 ^ n := by
  have h := readLocs_writeLocs ((List.range n).map (fun j => r + off + j)) (List.Nodup.map (fun a b e => by simpa using e) List.nodup_range) s x
  simpa [recLocs, Function.comp_def] using h

/-- A field reads as before once another one has been written. -/
theorem readLocs_writeLocs_apart (s : State) {r o n p m : Nat} (x : Nat) (h : o + n ≤ p ∨ p + m ≤ o) :
    (s.writeLocs (recLocs r p m) x).readLocs (recLocs r o n) = s.readLocs (recLocs r o n) :=
  readLocs_agree (fun _ hl => readLoc_writeLocs_other _ (recLocs_apart h hl) s x)

/-- Nothing differs but memory. -/
def OnlyMemory (s t : State) : Prop := t = { s with mem := t.mem }

theorem OnlyMemory.trans {s t u : State} (h : OnlyMemory s t) (k : OnlyMemory t u) : OnlyMemory s u := by
  unfold OnlyMemory at *
  rw [k, h]

/-- Writing bytes of memory changes memory, and nothing else. -/
theorem writeLocs_onlyMemory (as : List Nat) (s : State) (x : Nat) : OnlyMemory s (s.writeLocs (as.map .phys) x) := by
  induction as generalizing s x with
  | nil => rfl
  | cons a r ih => exact OnlyMemory.trans (t := s.writeByte a (BitVec.ofNat 8 x)) rfl (ih _ _)

theorem writeLocs_rec_onlyMemory (s : State) (r off n x : Nat) : OnlyMemory s (s.writeLocs (recLocs r off n) x) := by
  have h := writeLocs_onlyMemory ((List.range n).map (fun j => r + off + j)) s x
  rwa [List.map_map] at h

/-! ### The control word -/

theorem capCtl_step_lt (s : State) (r : Nat) : (s.capCtl r).step < 256 := Nat.mod_lt _ (by omega)

/-- The control word is read from the record's first eight bytes. -/
theorem capCtl_agree {s t : State} {r : Nat} (h : ∀ l ∈ recLocs r 0 8, t.readLoc l = s.readLoc l) : t.capCtl r = s.capCtl r := by
  simp only [State.capCtl, State.capWord, readLocs_agree h]

/-- A control word whose fields fit reads as it was written. -/
theorem capCtl_setCapCtl (s : State) (r : Nat) {c : CapCtl} (hs : c.state < 256) (ht : c.step < 256) : (s.setCapCtl r c).capCtl r = c := by
  obtain ⟨owner, state, step, gen⟩ := c
  have ho := owner.isLt
  have hg := gen.isLt
  simp only [State.capCtl, State.capWord, State.setCapCtl, readLocs_writeLocs_rec, CapCtl.mk.injEq]
  refine ⟨BitVec.eq_of_toNat_eq ?_, ?_, ?_, BitVec.eq_of_toNat_eq ?_⟩
  all_goals simp only [BitVec.toNat_ofNat] at *; omega

theorem readLoc_setCapCtl_other (s : State) {r : Nat} (c : CapCtl) {l : Loc} (h : l ∉ recLocs r 0 8) : (s.setCapCtl r c).readLoc l = s.readLoc l :=
  readLoc_writeLocs_other _ h s _

theorem setCapCtl_onlyMemory (s : State) (r : Nat) (c : CapCtl) : OnlyMemory s (s.setCapCtl r c) := writeLocs_rec_onlyMemory s r 0 8 _

/-! ### KSNAP and ENTRY -/

theorem capEntry_setCapEntry (s : State) (r : Nat) (a : Dword) : (s.setCapEntry r a).capEntry r = a := by
  have ha : a.toNat % 256 ^ 8 = a.toNat := Nat.mod_eq_of_lt a.isLt
  rw [State.capEntry, State.setCapEntry, readLocs_writeLocs_rec, ha, BitVec.ofNat_toNat, BitVec.setWidth_eq]

theorem readLoc_setCapEntry_other (s : State) {r : Nat} (a : Dword) {l : Loc} (h : l ∉ recLocs r 72 8) : (s.setCapEntry r a).readLoc l = s.readLoc l :=
  readLoc_writeLocs_other _ h s _

theorem setCapEntry_onlyMemory (s : State) (r : Nat) (a : Dword) : OnlyMemory s (s.setCapEntry r a) := writeLocs_rec_onlyMemory s r 72 8 _

/-- A table into which entries have been put one after the other reads as the entry at each of their keys. -/
theorem getD_foldl_put (f : Nat → Dword) (ns : List Nat) (t : Table Dword) (n : Nat) :
    Table.getD (ns.foldl (fun t n => Table.put 0 t n (f n)) t) n 0 = if n ∈ ns then f n else Table.getD t n 0 := by
  induction ns generalizing t with
  | nil => simp
  | cons m r ih =>
    rw [List.foldl_cons, ih, getD_put]
    by_cases hr : n ∈ r
    · simp [hr]
    · by_cases hm : n = m <;> simp [hr, hm]

/-- k register n of a record is read from its eight bytes of KSNAP. -/
theorem getD_ksnap (s : State) (r : Nat) {n : Nat} (h : n < 8) :
    Table.getD (s.ksnap r) n 0 = BitVec.ofNat 64 (s.readLocs (recLocs r (8 + 8 * n) 8)) :=
  (getD_foldl_put (fun n => BitVec.ofNat 64 (s.readLocs (recLocs r (8 + 8 * n) 8))) _ _ n).trans (if_pos (List.mem_range.mpr h))

/-- KSNAP is read from bytes 71:8 of the record. -/
theorem ksnap_agree {s t : State} {r : Nat} (h : ∀ l ∈ recLocs r 8 64, t.readLoc l = s.readLoc l) : t.ksnap r = s.ksnap r := by
  refine List.foldl_ext _ _ _ (fun b n hn => ?_)
  have hn : n < 8 := List.mem_range.mp hn
  rw [readLocs_agree (fun l hl => h l (recLocs_subset (by omega) (by omega) hl))]

/-- k registers written to KSNAP one after the other: each reads as it was written. -/
theorem readLocs_foldl_setKsnapReg (r : Nat) (f : Nat → Dword) (ns : List Nat) (s : State) (m : Nat) :
    (ns.foldl (fun s n => s.setKsnapReg r n (f n)) s).readLocs (recLocs r (8 + 8 * m) 8) =
      if m ∈ ns then (f m).toNat else s.readLocs (recLocs r (8 + 8 * m) 8) := by
  induction ns generalizing s with
  | nil => simp
  | cons n ns ih =>
    rw [List.foldl_cons, ih, State.setKsnapReg]
    by_cases hr : m ∈ ns
    · simp [hr]
    · by_cases hm : m = n
      · rw [if_neg hr, if_pos (by simp [hm]), hm, readLocs_writeLocs_rec]
        exact Nat.mod_eq_of_lt (f n).isLt
      · rw [if_neg hr, if_neg (by simp [hm, hr]), readLocs_writeLocs_apart _ _ (by omega)]

/-- KSNAP reads as the registers written to it. -/
theorem getD_ksnap_setKsnap (s : State) (r : Nat) (k : Table Dword) {n : Nat} (h : n < 8) :
    Table.getD ((s.setKsnap r k).ksnap r) n 0 = Table.getD k n 0 := by
  have written := readLocs_foldl_setKsnapReg r (fun n => Table.getD k n 0) (List.range 8) s n
  rw [if_pos (List.mem_range.mpr h)] at written
  rw [getD_ksnap _ _ h, State.setKsnap, written, BitVec.ofNat_toNat, BitVec.setWidth_eq]

theorem readLoc_setKsnap_other (s : State) {r : Nat} (k : Table Dword) {l : Loc} (h : l ∉ recLocs r 8 64) : (s.setKsnap r k).readLoc l = s.readLoc l := by
  refine List.foldlRecOn (motive := fun t : State => t.readLoc l = s.readLoc l) _ _ rfl (fun t ht n hn => ?_)
  have hn : n < 8 := List.mem_range.mp hn
  exact (readLoc_writeLocs_other _ (fun hl => h (recLocs_subset (by omega) (by omega) hl)) t _).trans ht

theorem setKsnap_onlyMemory (s : State) (r : Nat) (k : Table Dword) : OnlyMemory s (s.setKsnap r k) :=
  List.foldlRecOn (motive := OnlyMemory s) _ _ rfl (fun t ht n _ => ht.trans (writeLocs_rec_onlyMemory t r (8 + 8 * n) 8 _))

end Sys2Proof.Proofs

/-! What the capsule words do (R309 to R312, R316), and how a body ends, is returned from and is displaced (R314, R315, R317). -/

namespace Sys2Proof.Proofs

open Sys2Proof.Machine Sys2Proof.Safety Sys2Proof.Laws

/-! ### What is noted beside the effect of a word -/

/-- Nothing differs but DIEMASK bits and what is noted of accesses left behind and performed early, and of packets. -/
def OnlyNotes (s t : State) : Prop := t = { s with ctxs := t.ctxs, early := t.early, debts := t.debts, old := t.old }

theorem OnlyNotes.trans {s t u : State} (h : OnlyNotes s t) (k : OnlyNotes t u) : OnlyNotes s u := by
  unfold OnlyNotes at *
  rw [k, h]

theorem OnlyNotes.sameMemory {s t : State} (h : OnlyNotes s t) : SameMemory s t := by
  rw [h]
  exact ⟨rfl, fun _ => rfl⟩

theorem onlyNotes_of_onlyTrails {s t : State} (h : OnlyTrails s t) : OnlyNotes s t := by
  unfold OnlyNotes
  rw [h]

theorem markDies_onlyNotes (s : State) (c : Nat) (b : BitVec 8) : OnlyNotes s (s.markDies c b) := by
  unfold OnlyNotes
  rw [markDies_only]

theorem acquireRecord_onlyTrails (s : State) (w g : Nat) (ls : Lanes) (r : Nat) : OnlyTrails s (s.acquireRecord w g ls r) :=
  (overwritten_onlyTrails s _).trans (handTo_onlyTrails _ _ _ _ _)

theorem joinRecord_onlyTrails (s : State) (w g j : Nat) (ls : Lanes) (r : Nat) : OnlyTrails s (s.joinRecord w g j ls r) :=
  (acquireRecord_onlyTrails s w g ls r).trans (releaseTo_onlyTrails _ _ _ _ _)

theorem grantOf_onlyNotes (s : State) (v : View) (r : Nat) : OnlyNotes s (s.grantOf v r) :=
  (onlyNotes_of_onlyTrails (acquireRecord_onlyTrails s v.wid v.gid v.active r)).trans rfl

/-- The warp that surrounds a word is in the table. -/
theorem warp_of_view {s : State} {v : View} (h : s.view? = some v) : s.warp? v.wid = some v.w := by
  cases hi : s.issue with
  | none => rw [view_none hi] at h; cases h
  | some i =>
    simp only [State.view?, hi, Option.bind_some, State.viewOf] at h
    repeat' split at h
    all_goals cases h
    assumption

/-! ### CAPENT -/

theorem capCtl_sameMemory {s t : State} (h : SameMemory s t) (r : Nat) : t.capCtl r = s.capCtl r := capCtl_agree (fun l _ => readLoc_sameMemory h l)

theorem ksnap_sameMemory {s t : State} (h : SameMemory s t) (r : Nat) : t.ksnap r = s.ksnap r := ksnap_agree (fun l _ => readLoc_sameMemory h l)

theorem capEntry_sameMemory {s t : State} (h : SameMemory s t) (r : Nat) : t.capEntry r = s.capEntry r := by
  rw [State.capEntry, State.capEntry, readLocs_congr (readLoc_sameMemory h)]

/-- The bytes of a record that a grant writes (R310): its control word, KSNAP and ENTRY. -/
def grantRecord (s : State) (r : Nat) (c : CapCtl) (k : Table Dword) (entry : Dword) : State := ((s.setCapCtl r c).setKsnap r k).setCapEntry r entry

theorem grantRecord_onlyMemory (s : State) (r : Nat) (c : CapCtl) (k : Table Dword) (entry : Dword) :
    OnlyMemory s (grantRecord s r c k entry) :=
  ((setCapCtl_onlyMemory s r c).trans (setKsnap_onlyMemory _ r k)).trans (setCapEntry_onlyMemory _ r entry)

theorem capCtl_grantRecord (s : State) (r : Nat) {c : CapCtl} (hs : c.state < 256) (ht : c.step < 256) (k : Table Dword) (entry : Dword) :
    (grantRecord s r c k entry).capCtl r = c := by
  have frame : (grantRecord s r c k entry).capCtl r = (s.setCapCtl r c).capCtl r := capCtl_agree (fun l hl =>
    (readLoc_setCapEntry_other _ _ (recLocs_apart (by omega) hl)).trans (readLoc_setKsnap_other _ _ (recLocs_apart (by omega) hl)))
  rw [frame, capCtl_setCapCtl s r hs ht]

theorem getD_ksnap_grantRecord (s : State) (r : Nat) (c : CapCtl) (k : Table Dword) (entry : Dword) {n : Nat} (h : n < 8) :
    Table.getD ((grantRecord s r c k entry).ksnap r) n 0 = Table.getD k n 0 := by
  have frame : (grantRecord s r c k entry).ksnap r = ((s.setCapCtl r c).setKsnap r k).ksnap r := ksnap_agree (fun l hl =>
    readLoc_setCapEntry_other _ _ (recLocs_apart (by omega) hl))
  rw [frame, getD_ksnap_setKsnap _ _ _ h]

theorem readLoc_grantRecord_other (s : State) {r : Nat} (c : CapCtl) (k : Table Dword) (entry : Dword) {l : Loc} (h : l ∉ recLocs r 0 80) :
    (grantRecord s r c k entry).readLoc l = s.readLoc l := by
  have apart (o n : Nat) (hn : o + n ≤ 80) : l ∉ recLocs r o n := fun hl => h (recLocs_subset (by omega) (by omega) hl)
  rw [grantRecord, readLoc_setCapEntry_other _ _ (apart 72 8 (by omega)), readLoc_setKsnap_other _ _ (apart 8 64 (by omega)),
    readLoc_setCapCtl_other _ _ (apart 0 8 (by omega))]

/-- Changing a warp, a fragment and the group being issued changes no byte. -/
theorem sameMemory_units (s : State) (i j : Nat) (f : Warp → Warp) (g : Frag → Frag) (h : Issue → Issue) :
    SameMemory s (((s.modWarp i f).modFrag j g).modIssue h) := ⟨rfl, fun _ => rfl⟩

theorem warp_units (s : State) (i j : Nat) (f : Warp → Warp) (g : Frag → Frag) (h : Issue → Issue) :
    (((s.modWarp i f).modFrag j g).modIssue h).warp? i = (s.warp? i).map f := by
  rw [warp_modIssue, warp_modFrag, warp_mod, if_pos rfl]

theorem issue_units (s : State) (i j : Nat) (f : Warp → Warp) (g : Frag → Frag) (h : Issue → Issue) :
    (((s.modWarp i f).modFrag j g).modIssue h).issue = s.issue.map h := rfl

/-- The capsule that a grant begins (R310). -/
def grantedCapsule (v : View) (f : CapFound) (gen : BitVec 16) : Capsule :=
  { record := f.record, va := f.va, gen := gen, adopting := false, body := f.own.body, entry := f.own.entry, exitAt := f.own.exitAt,
    exitNext := f.own.exitNext, first := 0, ks := v.w.k, frag := v.fid, hnd := v.f.hnd }

theorem capGrant_eq (s : State) (v : View) (f : CapFound) :
    s.capGrant v f = (((grantRecord (s.grantOf v f.record) f.record ⟨v.w.capid, 1, 0, (s.capCtl f.record).gen + 1⟩ v.w.k f.own.entry).modWarp v.wid
      (fun w => { w with capsule := some (grantedCapsule v f ((s.capCtl f.record).gen + 1)) })).modFrag v.fid
      (fun x => { x with capPlace := none, capKept := false })).modIssue (fun i => { i with visible := true }) := rfl

/-- A CAPENT has been granted its record (R310): the warp owns it at step 0 of a new generation, and runs a capsule of its own body. -/
def Granted (s : State) (v : View) (f : CapFound) (t : State) : Prop :=
  ∃ u c, t.capCtl f.record = ⟨v.w.capid, 1, 0, (s.capCtl f.record).gen + 1⟩ ∧ t.capEntry f.record = f.own.entry ∧
    (∀ n, n < 8 → Table.getD (t.ksnap f.record) n 0 = Table.getD v.w.k n 0) ∧
    t.warp? v.wid = some u ∧ u.capsule = some c ∧ c.record = f.record ∧ c.adopting = false ∧ c.body = f.own.body ∧
    c.first = 0 ∧ c.frag = v.fid ∧ ∀ x, x ∉ recLocs f.record 0 80 → t.readLoc x = s.readLoc x

/-- A grant (R310), once what the word requests has been noted: the warp owns the record and begins a capsule of its own body. -/
theorem capGrant_effect {s m : State} {v : View} {f : CapFound} (hn : OnlyNotes s m) (hw : s.warp? v.wid = some v.w) :
    Granted s v f (m.capGrant v f) := by
  have noted : OnlyNotes s (m.grantOf v f.record) := hn.trans (grantOf_onlyNotes m v f.record)
  unfold Granted
  rw [capGrant_eq, capCtl_sameMemory hn.sameMemory, warp_units]
  generalize m.grantOf v f.record = g at noted ⊢
  have only := grantRecord_onlyMemory g f.record ⟨v.w.capid, 1, 0, (s.capCtl f.record).gen + 1⟩ v.w.k f.own.entry
  have warp : (grantRecord g f.record ⟨v.w.capid, 1, 0, (s.capCtl f.record).gen + 1⟩ v.w.k f.own.entry).warp? v.wid = some v.w := by
    rw [State.warp?, only, noted]
    exact hw
  refine ⟨_, _, ?ctl, ?entry, ?ks, congrArg (Option.map _) warp, rfl, rfl, rfl, rfl, rfl, rfl, ?other⟩
  case ctl => rw [capCtl_sameMemory (sameMemory_units _ _ _ _ _ _), capCtl_grantRecord _ _ (show 1 < 256 by decide) (show 0 < 256 by decide)]
  case entry => rw [capEntry_sameMemory (sameMemory_units _ _ _ _ _ _)]; exact capEntry_setCapEntry _ _ _
  case ks => intro n h; rw [ksnap_sameMemory (sameMemory_units _ _ _ _ _ _), getD_ksnap_grantRecord _ _ _ _ _ h]
  case other => intro x hx; rw [readLoc_sameMemory (sameMemory_units _ _ _ _ _ _), readLoc_grantRecord_other _ _ _ _ hx, readLoc_sameMemory noted.sameMemory]

/-- The capsule that an adoption begins (R316): it goes on from the record's step. -/
def adoptedCapsule (v : View) (f : CapFound) (b : CapBody) (ctl : CapCtl) (ks : Table Dword) : Capsule :=
  { record := f.record, va := f.va, gen := ctl.gen, adopting := true, body := b.body, entry := b.entry, exitAt := b.exitAt,
    exitNext := b.exitNext, first := ctl.step, ks := ks, frag := v.fid, hnd := v.f.hnd, ownPc := v.i.pc, savedK := v.w.k }

/-- What an adoption makes of the warp. -/
def adopterWarp (v : View) (f : CapFound) (b : CapBody) (ctl : CapCtl) (ks : Table Dword) (w : Warp) : Warp :=
  { w with k := ks, capsule := some (adoptedCapsule v f b ctl ks) }

/-- What an adoption makes of the group being issued: it goes on at ENTRY, at a visibility point. -/
def enteredIssue (b : CapBody) (i : Issue) : Issue := { i with ctl := .goto b.entry, visible := true }

/-- An adoption changes the record's STATE, and beside it the warp, the fragment and the group being issued. -/
theorem capAdopt_eq (s : State) (v : View) (f : CapFound) (b : CapBody) : ∃ place,
    s.capAdopt v f b = ((((s.grantOf v f.record).setCapCtl f.record { s.capCtl f.record with state := 3 }).modWarp v.wid
      (adopterWarp v f b (s.capCtl f.record) (s.ksnap f.record))).modFrag v.fid
      (fun x => { x with capPlace := some place, capKept := true })).modIssue (enteredIssue b) :=
  ⟨_, rfl⟩

/-- A CAPENT has adopted the capsule of a displaced record (R316): its body goes on from the record's step with the record's k registers. -/
def Adopted (s : State) (v : View) (f : CapFound) (b : CapBody) (t : State) : Prop :=
  ∃ u c, t.warp? v.wid = some u ∧ u.capsule = some c ∧ c.adopting = true ∧ c.body = b.body ∧ c.record = f.record ∧
    c.first = (s.capCtl f.record).step ∧ c.ownPc = v.i.pc ∧ c.savedK = v.w.k ∧ u.k = s.ksnap f.record ∧
    t.capCtl f.record = { s.capCtl f.record with state := 3 } ∧ (∀ x, x ∉ recLocs f.record 0 8 → t.readLoc x = s.readLoc x) ∧
    ∀ i, s.issue = some i → ∃ j, t.issue = some j ∧ j.ctl = .goto b.entry ∧ j.visible = true

/-- An adoption (R316), once what the word requests has been noted: the capsule goes on from the record's step, with its k registers. -/
theorem capAdopt_effect {s m : State} {v : View} {f : CapFound} (b : CapBody) (hn : OnlyNotes s m) (hw : s.warp? v.wid = some v.w) :
    Adopted s v f b (m.capAdopt v f b) := by
  have noted : OnlyNotes s (m.grantOf v f.record) := hn.trans (grantOf_onlyNotes m v f.record)
  have fits : (s.capCtl f.record).step < 256 := capCtl_step_lt s f.record
  obtain ⟨place, eq⟩ := capAdopt_eq m v f b
  unfold Adopted
  rw [eq, capCtl_sameMemory hn.sameMemory, ksnap_sameMemory hn.sameMemory, warp_units]
  generalize m.grantOf v f.record = g, s.capCtl f.record = ctl, s.ksnap f.record = ks at noted fits ⊢
  have only := setCapCtl_onlyMemory g f.record { ctl with state := 3 }
  have read : (g.setCapCtl f.record { ctl with state := 3 }).capCtl f.record = { ctl with state := 3 } :=
    capCtl_setCapCtl g f.record (c := { ctl with state := 3 }) (show 3 < 256 by decide) fits
  have other : ∀ x, x ∉ recLocs f.record 0 8 → (g.setCapCtl f.record { ctl with state := 3 }).readLoc x = s.readLoc x := fun x hx =>
    (readLoc_setCapCtl_other g _ hx).trans (readLoc_sameMemory noted.sameMemory x)
  generalize g.setCapCtl f.record { ctl with state := 3 } = u at only read other ⊢
  have warp : u.warp? v.wid = some v.w := by
    rw [State.warp?, only, noted]
    exact hw
  have issue : u.issue = s.issue := by rw [only, noted]
  refine ⟨adopterWarp v f b ctl ks v.w, adoptedCapsule v f b ctl ks, congrArg (Option.map _) warp, rfl, rfl, rfl, rfl, rfl, rfl, rfl, rfl, ?_, fun x hx => ?_,
    fun i hi => ⟨enteredIssue b i, ?_, rfl, rfl⟩⟩
  · rw [capCtl_sameMemory (sameMemory_units _ _ _ _ _ _), read]
  · rw [readLoc_sameMemory (sameMemory_units _ _ _ _ _ _), other x hx]
  · rw [issue_units, issue, hi]
    rfl

/-- A CAPENT waits at its record, and nothing that a unit or memory holds has changed (R310). -/
def Waiting (s : State) (f : CapFound) (t : State) : Prop :=
  SameMemory s t ∧ t.warps = s.warps ∧ ∀ i, s.issue = some i → ∃ j, t.issue = some j ∧ j.wait = some (.capent f.record (s.capWord f.record))

/-- A CAPENT that is not served, once what it requests has been noted. -/
theorem capWait_effect {s m : State} {f : CapFound} (hn : OnlyNotes s m) :
    Waiting s f (m.modIssue (fun i => { i with wait := some (.capent f.record (m.capWord f.record)) })) := by
  have word : m.capWord f.record = s.capWord f.record := readLocs_congr (readLoc_sameMemory hn.sameMemory) _
  have issue : m.issue = s.issue := by rw [hn]
  refine ⟨hn.sameMemory, by rw [hn]; rfl, fun i hi => ⟨_, congrArg (Option.map _) (issue.trans hi), ?_⟩⟩
  rw [word]

/-- A CAPENT whose requests name no lost die notes them, and then waits, adopts or is granted its record (R310, R316). -/
theorem capEnter_cases {s : State} {v : View} {f : CapFound}
    (h : s.namesLost (recLocs f.record 0 128 ++ f.own.locs ++ (f.adopt.map CapBody.locs).getD []) = false) : ∃ m, OnlyNotes s m ∧
      (f.served = false → s.capEnter v f = m.modIssue (fun i => { i with wait := some (.capent f.record (m.capWord f.record)) })) ∧
      (∀ b, f.served = true → f.adopt = some b → s.capEnter v f = m.capAdopt v f b) ∧
      (f.served = true → f.adopt = none → s.capEnter v f = m.capGrant v f) := by
  refine ⟨s.markDies (s.ctxOfWg v.g) (s.dieBitsOf (recLocs f.record 0 128 ++ f.own.locs ++ (f.adopt.map CapBody.locs).getD [])),
    markDies_onlyNotes s _ _, fun hs => ?_, fun b hs ha => ?_, fun hs ha => ?_⟩
  all_goals simp only [State.capEnter, h, hs, Bool.false_eq_true, if_false, Bool.not_false, Bool.not_true, if_true]
  all_goals simp only [ha]

end Sys2Proof.Proofs

/-! What the words of a capsule issue (R309 to R313, R316). -/

namespace Sys2Proof.Proofs

open Sys2Proof.Machine Sys2Proof.Safety Sys2Proof.Laws

/-- What CAPENT does once it is served or waits (R310, R316). -/
theorem capEnter_results {s : State} {v : View} {f : CapFound} (hw : s.warp? v.wid = some v.w)
    (h : s.namesLost (recLocs f.record 0 128 ++ f.own.locs ++ (f.adopt.map CapBody.locs).getD []) = false) :
    (f.served = true → f.adopt = none → Granted s v f (s.capEnter v f)) ∧
    (∀ b, f.served = true → f.adopt = some b → Adopted s v f b (s.capEnter v f)) ∧ (f.served = false → Waiting s f (s.capEnter v f)) := by
  obtain ⟨m, notes, waits, adopts, granted⟩ := capEnter_cases h
  refine ⟨fun hs ha => ?_, fun b hs ha => ?_, fun hs => ?_⟩
  · rw [granted hs ha]
    exact capGrant_effect notes hw
  · rw [adopts b hs ha]
    exact capAdopt_effect b notes hw
  · rw [waits hs]
    exact capWait_effect notes

/-- A served or waiting CAPENT is the issue of its word alone. -/
theorem exec_capent_ok {s : State} {v : View} {a : BitVec 6} {f : CapFound} (h : Runs s v (.capent a)) (hc : s.capentCheck v a = .ok f) :
    exec (.capent a) s = .next (s.capEnter v f) := by
  rw [exec_capent a s v h, hc]

/-- A memory step whose locations are in use is recorded with its access and enters LC or SC; memory and the warps are as before (R312, R313). -/
theorem issueStep_issued {s : State} {v : View} {r : MemReq} {ls : List Loc} (hls : s.stepLocs v r = .ok ls) (hl : s.namesLost ls = false) :
    StepIssued s v r ls (s.issueStep v r) := by
  have notes := markDies_onlyNotes s (s.ctxOfWg v.g) (s.dieBitsOf ls)
  simp only [State.issueStep, hls, hl, Bool.false_eq_true, if_false]
  generalize s.markDies (s.ctxOfWg v.g) (s.dieBitsOf ls) = m at notes ⊢
  have same := notes.sameMemory
  have issue : m.issue = s.issue := by rw [notes]
  have serial : m.serial = s.serial := by rw [notes]
  have frags : m.frags = s.frags := by rw [notes]
  have warps : m.warps = s.warps := by rw [notes]
  refine ⟨same, warps, fun x hx => ⟨{ x with kmem := some (r, ls, s.serial) }, ?_, rfl⟩, fun x hx => ?_⟩
  · simp only [State.modIssue, modFrag_issue, fresh_snd, fresh_fst, issue, serial, hx, Option.map_some]
  · have there : (m.fresh.2).frag? v.fid = some x := by
      rw [fresh_snd, State.frag?, frags]
      exact hx
    rw [frag_modIssue, frag_mod, if_pos rfl, there]
    refine ⟨_, rfl, ?_⟩
    cases r.op.inLC <;> simp only [OpSet.enter, fresh_fst, serial, Bool.false_eq_true, if_true, if_false]

end Sys2Proof.Proofs

/-! How a body ends and is returned from (R314, R316, R317). -/

namespace Sys2Proof.Proofs

open Sys2Proof.Machine Sys2Proof.Safety Sys2Proof.Laws

/-! ### Leaving a body -/

theorem onlyMemory_warp {s t : State} (h : OnlyMemory s t) (n : Nat) : t.warp? n = s.warp? n := by
  rw [h]
  rfl

theorem onlyMemory_frag {s t : State} (h : OnlyMemory s t) (n : Nat) : t.frag? n = s.frag? n := by
  rw [h]
  rfl

/-- Changing a warp, and a fragment twice, changes no byte. -/
theorem sameMemory_leave (s : State) (i j : Nat) (f : Warp → Warp) (g h : Frag → Frag) :
    SameMemory s (((s.modWarp i f).modFrag j g).modFrag j h) := ⟨rfl, fun _ => rfl⟩

/-- A fragment has left a body: its record reads ctl, its warp is changed by f, and it goes on at pc. -/
def leftBody (s : State) (r : Nat) (ctl : CapCtl) (wid fid : Nat) (f : Warp → Warp) (pc : Dword) (tick : Nat) : State :=
  (((s.setCapCtl r ctl).modWarp wid f).modFrag fid (fun x => { x with pc := pc })).modFrag fid (fun x => { x with wait := none }.readyFrom tick)

theorem leftBody_sameMemory (s : State) (r : Nat) (ctl : CapCtl) (wid fid : Nat) (f : Warp → Warp) (pc : Dword) (tick : Nat) :
    SameMemory (s.setCapCtl r ctl) (leftBody s r ctl wid fid f pc tick) := sameMemory_leave _ _ _ _ _ _

theorem capCtl_leftBody (s : State) (r : Nat) {ctl : CapCtl} (hs : ctl.state < 256) (ht : ctl.step < 256) (wid fid : Nat) (f : Warp → Warp)
    (pc : Dword) (tick : Nat) : (leftBody s r ctl wid fid f pc tick).capCtl r = ctl := by
  rw [capCtl_sameMemory (leftBody_sameMemory ..), capCtl_setCapCtl s r hs ht]

theorem readLoc_leftBody_other (s : State) {r : Nat} (ctl : CapCtl) (wid fid : Nat) (f : Warp → Warp) (pc : Dword) (tick : Nat) {l : Loc}
    (h : l ∉ recLocs r 0 8) : (leftBody s r ctl wid fid f pc tick).readLoc l = s.readLoc l := by
  rw [readLoc_sameMemory (leftBody_sameMemory ..), readLoc_setCapCtl_other s ctl h]

theorem warp_leftBody (s : State) (r : Nat) (ctl : CapCtl) (wid fid : Nat) (f : Warp → Warp) (pc : Dword) (tick n : Nat) :
    (leftBody s r ctl wid fid f pc tick).warp? n = if n = wid then (s.warp? n).map f else s.warp? n := by
  rw [leftBody, warp_modFrag, warp_modFrag, warp_mod, onlyMemory_warp (setCapCtl_onlyMemory s r ctl)]

theorem frag_leftBody (s : State) (r : Nat) (ctl : CapCtl) (wid fid : Nat) (f : Warp → Warp) (pc : Dword) (tick : Nat) {x : Frag}
    (h : s.frag? fid = some x) :
    (leftBody s r ctl wid fid f pc tick).frag? fid = some ({ { x with pc := pc } with wait := none }.readyFrom tick) := by
  rw [leftBody, frag_mod, if_pos rfl, frag_mod, if_pos rfl, frag_modWarp, onlyMemory_frag (setCapCtl_onlyMemory s r ctl), h]
  rfl

/-! ### An adopter's result -/

/-- The warp to which an owner's identity belongs (R316). -/
def ownerWarp (s : State) (owner : BitVec 32) : Option (Nat × Warp) :=
  s.warps.find? (fun p => p.2.capid == owner && p.2.planer.isNone && !p.2.retired)

/-- An adopter gives a result to the owner, where that lives (R316). -/
def handResult (s : State) (owner : BitVec 32) (k : Table Dword) : State :=
  match ownerWarp s owner with
  | some p => if (s.ctx (s.ctxOfWarp p.2)).dead.isSome then s else s.modWarp p.1 (fun x => { x with returnSlot := some k })
  | none => s

/-- The result is a change of warps alone. -/
theorem handResult_only (s : State) (owner : BitVec 32) (k : Table Dword) :
    handResult s owner k = { s with warps := (handResult s owner k).warps } := by
  simp only [handResult]
  repeat' split
  all_goals rfl

/-- No warp comes or goes. -/
theorem warp_handResult {s : State} {n : Nat} {w : Warp} (owner : BitVec 32) (k : Table Dword) (h : s.warp? n = some w) :
    ∃ u, (handResult s owner k).warp? n = some u := by
  simp only [handResult]
  repeat' split
  · exact ⟨w, h⟩
  · rw [warp_mod, h]
    split <;> exact ⟨_, rfl⟩
  · exact ⟨w, h⟩

/-- The only living warp of an identity is the one that the identity belongs to. -/
theorem ownerWarp_unique {s : State} {n : Nat} {z : Warp} (hz : (n, z) ∈ s.warps) (hp : z.planer = none) (hr : z.retired = false)
    (only : ∀ p ∈ s.warps, p.2.capid = z.capid → p = (n, z)) : ownerWarp s z.capid = some (n, z) := by
  cases found : ownerWarp s z.capid with
  | none =>
    have none_is := List.find?_eq_none.mp found (n, z) hz
    simp [hp, hr] at none_is
  | some p =>
    have fits := List.find?_some found
    simp only [Bool.and_eq_true, beq_iff_eq] at fits
    rw [only p (List.mem_of_find?_eq_some found) fits.1.1]

/-- An owner that lives gets the result. -/
theorem warp_handResult_owner {s : State} {n : Nat} {z : Warp} {owner : BitVec 32} (k : Table Dword)
    (ho : ownerWarp s owner = some (n, z)) (hd : (s.ctx (s.ctxOfWarp z)).dead = none) (hz : s.warp? n = some z) :
    (handResult s owner k).warp? n = some { z with returnSlot := some k } := by
  simp only [handResult, ho, hd, Option.isSome_none, Bool.false_eq_true, if_false, warp_mod, if_true, hz, Option.map_some]

/-! ### CAPEXIT -/

/-- What a holder's CAPEXIT makes of its warp (R314). -/
def freedWarp (w : Warp) : Warp := { w with capsule := none, capstat := w.capstat &&& 0xFFFE }

/-- What an adopter's CAPEXIT makes of its warp (R316): its own k registers are back, and its status counts one adoption more. -/
def restoredWarp (k : Table Dword) (stat : BitVec 16) (w : Warp) : Warp := { w with k := k, capsule := none, capstat := stat }

/-- CAPSTAT's count of adoptions goes up to 255 (R317). -/
def adoptedStat (stat : BitVec 16) : BitVec 16 := stat + (if bitsAt stat 8 8 < 255 then 256 else 0)

theorem bitsAt_adoptedStat (stat : BitVec 16) : bitsAt (adoptedStat stat) 8 8 = min (bitsAt stat 8 8 + 1) 255 := by
  have bound : stat.toNat < 2 ^ 16 := stat.isLt
  simp only [adoptedStat, bitsAt, Nat.shiftRight_eq_div_pow]
  split <;> simp only [BitVec.toNat_add, BitVec.ofNat_eq_ofNat, BitVec.toNat_ofNat] <;> omega

section
variable {s : State} {fid : Nat} {x : Frag} {w : Warp} {c : Capsule}

/-- A CAPEXIT whose steps have all committed ends the wait of its fragment (R314). -/
theorem settleWait_capexit (hf : s.frag? fid = some x) (hw : s.warp? x.warp = some w) (hc : w.capsule = some c)
    (hr : s.wgResident w.wg = true) (hx : x.wait = some .capexit) (hs : c.steps = []) (he : s.exitReleases x w c = true) :
    s.settleWait fid = (s.capExit x.warp fid c.exitNext).modFrag fid (fun f => { f with wait := none }.readyFrom s.tick) := by
  simp only [State.settleWait, hf, hw, hr, hx, hc, hs, he, List.isEmpty_nil, Bool.not_true, Bool.and_self, Bool.false_eq_true, if_false, if_true]

theorem capExit_holder (hw : s.warp? x.warp = some w) (hc : w.capsule = some c) (ha : c.adopting = false) (tick : Nat) :
    ∃ j, OnlyTrails s j ∧ (s.capExit x.warp fid c.exitNext).modFrag fid (fun f => { f with wait := none }.readyFrom tick) =
      leftBody j c.record { j.capCtl c.record with state := 0 } x.warp fid freedWarp c.exitNext tick := by
  refine ⟨_, joinRecord_onlyTrails s x.warp w.wg s.serial ((s.frag? fid).elim 0 Frag.lm) c.record, ?_⟩
  simp only [State.capExit, hw, hc, ha, Bool.false_eq_true, if_false]
  rfl

theorem capExit_adopter (hw : s.warp? x.warp = some w) (hc : w.capsule = some c) (ha : c.adopting = true) (tick : Nat) :
    ∃ j, OnlyTrails s j ∧ (s.capExit x.warp fid c.exitNext).modFrag fid (fun f => { f with wait := none }.readyFrom tick) =
      leftBody (handResult j (j.capCtl c.record).owner w.k) c.record { j.capCtl c.record with state := 0 } x.warp fid
        (restoredWarp c.savedK (adoptedStat w.capstat)) c.ownPc tick := by
  refine ⟨_, joinRecord_onlyTrails s x.warp w.wg s.serial ((s.frag? fid).elim 0 Frag.lm) c.record, ?_⟩
  simp only [State.capExit, hw, hc, ha, if_true]
  rfl

/-- What every CAPEXIT does, whatever it makes of its warp: the record is free, and the fragment goes on outside the body. -/
theorem leftBody_results {g : State} {w' : Warp} {r : Nat} (hm : SameMemory s g) (hf : g.frag? fid = some x) (hw : g.warp? x.warp = some w')
    (f : Warp → Warp) (pc : Dword) (tick : Nat) :
    let t := leftBody g r { s.capCtl r with state := 0 } x.warp fid f pc tick
    ∃ y, t.warp? x.warp = some (f w') ∧ t.frag? fid = some y ∧ y.wait = none ∧ y.pc = pc ∧ t.capCtl r = { s.capCtl r with state := 0 } ∧
      ∀ l, l ∉ recLocs r 0 8 → t.readLoc l = s.readLoc l := by
  have fits := capCtl_step_lt s r
  generalize s.capCtl r = ctl at fits ⊢
  refine ⟨_, ?_, frag_leftBody g r _ x.warp fid f pc tick hf, rfl, rfl,
    capCtl_leftBody g r (ctl := { ctl with state := 0 }) (show 0 < 256 by decide) fits x.warp fid f pc tick, fun l hl => ?_⟩
  · simp only [warp_leftBody, if_true, hw, Option.map_some]
  · rw [readLoc_leftBody_other g _ _ _ _ _ _ hl, readLoc_sameMemory hm]

/-- A holder's body ends with its own k registers, past its CAPEXIT (R314). -/
theorem settleWait_exit_holder (hf : s.frag? fid = some x) (hw : s.warp? x.warp = some w) (hc : w.capsule = some c)
    (hr : s.wgResident w.wg = true) (hx : x.wait = some .capexit) (hs : c.steps = []) (he : s.exitReleases x w c = true)
    (ha : c.adopting = false) : ∃ g, SameMemory s g ∧ g.frag? fid = some x ∧ g.warp? x.warp = some w ∧
      s.settleWait fid = leftBody g c.record { s.capCtl c.record with state := 0 } x.warp fid freedWarp c.exitNext s.tick := by
  obtain ⟨j, trails, eq⟩ := capExit_holder (s := s) (fid := fid) hw hc ha s.tick
  have notes := onlyNotes_of_onlyTrails trails
  refine ⟨j, notes.sameMemory, ?_, ?_, ?_⟩
  · rw [State.frag?, notes]
    exact hf
  · rw [State.warp?, notes]
    exact hw
  · rw [settleWait_capexit hf hw hc hr hx hs he, eq, capCtl_sameMemory notes.sameMemory]

/-- An adopter's body gives its k registers to the record's owner, where that lives, and goes back to its own CAPENT (R316). -/
theorem settleWait_exit_adopter (hf : s.frag? fid = some x) (hw : s.warp? x.warp = some w) (hc : w.capsule = some c)
    (hr : s.wgResident w.wg = true) (hx : x.wait = some .capexit) (hs : c.steps = []) (he : s.exitReleases x w c = true)
    (ha : c.adopting = true) : ∃ j, OnlyTrails s j ∧ s.settleWait fid =
      leftBody (handResult j (s.capCtl c.record).owner w.k) c.record { s.capCtl c.record with state := 0 } x.warp fid
        (restoredWarp c.savedK (adoptedStat w.capstat)) c.ownPc s.tick := by
  obtain ⟨j, trails, eq⟩ := capExit_adopter (s := s) (fid := fid) hw hc ha s.tick
  refine ⟨j, trails, ?_⟩
  rw [settleWait_capexit hf hw hc hr hx hs he, eq, capCtl_sameMemory (onlyNotes_of_onlyTrails trails).sameMemory]

theorem handResult_sameMemory (s : State) (owner : BitVec 32) (k : Table Dword) : SameMemory s (handResult s owner k) := by
  rw [handResult_only]
  exact ⟨rfl, fun _ => rfl⟩

/-- The result reaches the owner through all that an adopter's CAPEXIT does besides. -/
theorem warp_exit_owner {j : State} {n : Nat} {z : Warp} {owner : BitVec 32} {k : Table Dword} (trails : OnlyTrails s j) (hn : n ≠ x.warp)
    (hz : (n, z) ∈ s.warps) (found : s.warp? n = some z) (hcap : z.capid = owner) (hp : z.planer = none) (hl : z.retired = false)
    (hd : (s.ctx (s.ctxOfWarp z)).dead = none) (only : ∀ p ∈ s.warps, p.2.capid = z.capid → p = (n, z))
    (r : Nat) (ctl : CapCtl) (f : Warp → Warp) (pc : Dword) (tick : Nat) :
    (leftBody (handResult j owner k) r ctl x.warp fid f pc tick).warp? n = some { z with returnSlot := some k } := by
  rw [warp_leftBody, if_neg hn]
  refine warp_handResult_owner k ?_ ?_ ?_
  · rw [← hcap]
    rw [OnlyTrails] at trails
    rw [ownerWarp, trails]
    exact ownerWarp_unique hz hp hl only
  · rw [OnlyTrails] at trails
    rw [trails]
    exact hd
  · rw [State.warp?, trails]
    exact found

end

end Sys2Proof.Proofs

/-! How a displaced holder goes on past its body, and how a capsule is displaced (R315, R316). -/

namespace Sys2Proof.Proofs

open Sys2Proof.Machine Sys2Proof.Safety Sys2Proof.Laws

/-! ### A visibility point -/

/-- Warps and fragments have changed, none has gone, and each warp's CAPSTAT is as before. -/
def OnlyUnits (s t : State) : Prop :=
  t = { s with warps := t.warps, frags := t.frags } ∧
    (∀ n w, s.warp? n = some w → ∃ u, t.warp? n = some u ∧ u.capstat = w.capstat) ∧
    ∀ n f, s.frag? n = some f → ∃ y, t.frag? n = some y

theorem OnlyUnits.refl (s : State) : OnlyUnits s s := ⟨rfl, fun _ w h => ⟨w, h, rfl⟩, fun _ f h => ⟨f, h⟩⟩

theorem OnlyUnits.trans {s t u : State} (h : OnlyUnits s t) (k : OnlyUnits t u) : OnlyUnits s u := by
  obtain ⟨only, warps, frags⟩ := h
  obtain ⟨only', warps', frags'⟩ := k
  refine ⟨by rw [only', only], fun n w hw => ?_, fun n f hf => ?_⟩
  · obtain ⟨w', hw', stat⟩ := warps n w hw
    obtain ⟨u, hu, stat'⟩ := warps' n w' hw'
    exact ⟨u, hu, stat'.trans stat⟩
  · obtain ⟨f', hf'⟩ := frags n f hf
    exact frags' n f' hf'

theorem OnlyUnits.sameMemory {s t : State} (h : OnlyUnits s t) : SameMemory s t := by
  rw [h.1]
  exact ⟨rfl, fun _ => rfl⟩

theorem modWarp_onlyUnits (s : State) (i : Nat) (f : Warp → Warp) (hf : ∀ w, (f w).capstat = w.capstat) : OnlyUnits s (s.modWarp i f) := by
  refine ⟨rfl, fun n w hw => ?_, fun n x hx => ⟨x, hx⟩⟩
  rw [warp_mod, hw]
  split
  · exact ⟨f w, rfl, hf w⟩
  · exact ⟨w, rfl, rfl⟩

theorem modFrag_onlyUnits (s : State) (i : Nat) (f : Frag → Frag) : OnlyUnits s (s.modFrag i f) := by
  refine ⟨rfl, fun n w hw => ⟨w, hw, rfl⟩, fun n x hx => ?_⟩
  rw [frag_mod, hx]
  split <;> exact ⟨_, rfl⟩

theorem setFrag_onlyUnits (s : State) (i : Nat) (x : Frag) : OnlyUnits s (s.setFrag i x) := by
  refine ⟨rfl, fun n w hw => ⟨w, hw, rfl⟩, fun n y hy => ?_⟩
  rw [frag_set, hy]
  split <;> exact ⟨_, rfl⟩

/-- No result of a word is a change of CAPSTAT (R317). -/
theorem applyPend_onlyUnits (s : State) (fid wid : Nat) (p : PendVal) : OnlyUnits s (s.applyPend fid wid p) := by
  cases p <;> simp only [State.applyPend]
  case scal n x =>
    split
    · exact modWarp_onlyUnits s wid _ (fun _ => rfl)
    · exact modFrag_onlyUnits s fid _
  case ctl n x =>
    split
    · exact modWarp_onlyUnits s wid _ (fun _ => rfl)
    · exact modFrag_onlyUnits s fid _
  case vec | kreg | qmap | carried => exact modWarp_onlyUnits s wid _ (fun _ => rfl)
  case mask | fmt | fstat | flags => exact modFrag_onlyUnits s fid _

theorem applyPends_onlyUnits (fid wid : Nat) (ps : List Pend) (s : State) : OnlyUnits s (s.applyPends fid wid ps) := by
  induction ps generalizing s with
  | nil => exact .refl s
  | cons p ps ih => exact (applyPend_onlyUnits s fid wid p.val).trans (ih _)

theorem visiblePoint_onlyUnits (s : State) (fid : Nat) : OnlyUnits s (s.visiblePoint fid) := by
  cases h : s.frag? fid with
  | none =>
    simp only [State.visiblePoint, h]
    exact .refl s
  | some f =>
    simp only [State.visiblePoint, State.setTick, h]
    exact (setFrag_onlyUnits s fid _).trans (applyPends_onlyUnits ..)

/-! ### The return slot -/

/-- What its owner's result makes of a displaced holder (R316, R317). -/
def returnedWarp (ks : Table Dword) (w : Warp) : Warp := { w with k := ks, returnSlot := none, capsule := none, capstat := w.capstat ||| 1 }

/-- Where a displaced holder goes on (R316). -/
def returnedFrag (pc : Dword) (tick : Nat) (f : Frag) : Frag := { f with pc := pc, wait := none, waitOps := [] }.readyFrom tick

section
variable {s : State} {fid : Nat} {x : Frag} {w : Warp} {c : Capsule} {ks : Table Dword}

/-- A displaced holder whose result is there takes it, after a visibility point of its fragment (R95, R316). -/
theorem settleWait_returnSlot (hf : s.frag? fid = some x) (hw : s.warp? x.warp = some w) (hc : w.capsule = some c)
    (hr : s.wgResident w.wg = true) (hx : x.wait = some .returnSlot) (hs : w.returnSlot = some ks) (hi : c.frag = fid) :
    ∃ m, OnlyTrails (s.visiblePoint fid) m ∧
      s.settleWait fid = (m.modWarp x.warp (returnedWarp ks)).modFrag fid (returnedFrag c.exitNext m.tick) := by
  refine ⟨_, acquireRecord_onlyTrails (s.visiblePoint fid) x.warp w.wg ((s.frag? fid).elim 0 Frag.lm) c.record, ?_⟩
  simp only [State.settleWait, hf, hw, hr, hx, hs, State.capReturn, hc, hi, Option.isSome_some, Bool.not_true, Bool.false_eq_true, if_false, if_true]
  rfl

/-- The owner's result is in the k registers, and the fragment is past the body (R316). -/
theorem settleWait_return_results (hf : s.frag? fid = some x) (hw : s.warp? x.warp = some w) (hc : w.capsule = some c)
    (hr : s.wgResident w.wg = true) (hx : x.wait = some .returnSlot) (hs : w.returnSlot = some ks) (hi : c.frag = fid) :
    ∃ u y, (s.settleWait fid).warp? x.warp = some u ∧ (s.settleWait fid).frag? fid = some y ∧ u.k = ks ∧ u.capsule = none ∧
      u.returnSlot = none ∧ u.capstat = w.capstat ||| 1 ∧ y.pc = c.exitNext ∧ y.wait = none ∧ SameMemory s (s.settleWait fid) := by
  obtain ⟨m, trails, eq⟩ := settleWait_returnSlot hf hw hc hr hx hs hi
  have units := visiblePoint_onlyUnits s fid
  have same : SameMemory s m := sameMemory_trans units.sameMemory (onlyNotes_of_onlyTrails trails).sameMemory
  obtain ⟨-, warps, frags⟩ := units
  obtain ⟨u, hu, stat⟩ := warps x.warp w hw
  obtain ⟨y, hy⟩ := frags fid x hf
  have warp : m.warp? x.warp = some u := by
    rw [State.warp?, trails]
    exact hu
  have frag : m.frag? fid = some y := by
    rw [State.frag?, trails]
    exact hy
  rw [eq, warp_modFrag, warp_mod, if_pos rfl, warp, frag_mod, if_pos rfl, frag_modWarp, frag, ← stat]
  exact ⟨_, _, rfl, rfl, rfl, rfl, rfl, rfl, rfl, rfl, sameMemory_trans same ⟨rfl, fun _ => rfl⟩⟩

end

/-! ### Displacement -/

/-- A capsule without uncommitted steps has nothing to commit (R315). -/
theorem commitAll_empty {s : State} {wid : Nat} {w : Warp} {c : Capsule} (hw : s.warp? wid = some w) (hc : w.capsule = some c)
    (hs : c.steps = []) (n : Nat) : s.commitAll wid n = s := by
  cases n with
  | zero => rfl
  | succ n => simp only [State.commitAll, hw, hc, hs]

/-- The displacement of a holder outside its handlers, with nothing left to commit, is that of its record (R315). -/
theorem displace_holder {s : State} {wid : Nat} {w : Warp} {c : Capsule} (hw : s.warp? wid = some w) (hc : w.capsule = some c)
    (ha : c.adopting = false) (hs : c.steps = []) (hh : ∀ p ∈ s.fragsOf wid, p.2.hnd = false) :
    s.displace wid = if w.returnSlot = none ∧ (s.capCtl c.record).owner = w.capid ∧ (s.capCtl c.record).state = 1 then
      s.setCapCtl c.record { s.capCtl c.record with state := 2 } else s := by
  have outside : (s.fragsOf wid).any (fun p => p.2.hnd) = false := by
    rw [List.any_eq_false]
    intro p hp
    simp [hh p hp]
  simp only [State.displace, hw, Option.bind_some, hc, ha, outside, Bool.false_eq_true, if_false, commitAll_empty hw hc hs,
    State.displaceRecord, State.capShift, Option.isNone_iff_eq_none, Bool.and_eq_true, beq_iff_eq, ← ite_and, and_assoc]

/-- Only the record's STATE has changed (R315). -/
theorem displace_results {s : State} {wid : Nat} {w : Warp} {c : Capsule} (hw : s.warp? wid = some w) (hc : w.capsule = some c)
    (ha : c.adopting = false) (hs : c.steps = []) (hh : ∀ p ∈ s.fragsOf wid, p.2.hnd = false) :
    (s.displace wid).capCtl c.record = (if w.returnSlot = none ∧ (s.capCtl c.record).owner = w.capid ∧ (s.capCtl c.record).state = 1 then
        { s.capCtl c.record with state := 2 } else s.capCtl c.record) ∧
      (s.displace wid).warps = s.warps ∧ ∀ l, l ∉ recLocs c.record 0 8 → (s.displace wid).readLoc l = s.readLoc l := by
  have fits := capCtl_step_lt s c.record
  rw [displace_holder hw hc ha hs hh]
  split
  · generalize s.capCtl c.record = ctl at fits ⊢
    refine ⟨capCtl_setCapCtl s c.record (c := { ctl with state := 2 }) (show 2 < 256 by decide) fits, ?_, fun l hl => readLoc_setCapCtl_other s _ hl⟩
    rw [setCapCtl_onlyMemory]
  · exact ⟨rfl, rfl, fun _ _ => rfl⟩

end Sys2Proof.Proofs

/-! What the capsule words do, and how a body ends, is adopted or displaced (R307 to R317). -/

namespace Sys2Proof.Proofs

open Sys2Proof.Machine Sys2Proof.Safety Sys2Proof.Laws

/-- How a fragment that waits at its CAPEXIT leaves its body, as holder and as adopter (R314, R316). -/
theorem settleWait_exit_results {s : State} {fid : Nat} {x : Frag} {w : Warp} {c : Capsule} (hf : s.frag? fid = some x)
    (hw : s.warp? x.warp = some w) (hc : w.capsule = some c) (hr : s.wgResident w.wg = true) (hx : x.wait = some .capexit)
    (hs : c.steps = []) (he : s.exitReleases x w c = true) :
    ∃ u y, (s.settleWait fid).warp? x.warp = some u ∧ (s.settleWait fid).frag? fid = some y ∧ u.capsule = none ∧ y.wait = none ∧
      (s.settleWait fid).capCtl c.record = { s.capCtl c.record with state := 0 } ∧
      (∀ l, l ∉ recLocs c.record 0 8 → (s.settleWait fid).readLoc l = s.readLoc l) ∧
      (c.adopting = false → u.k = w.k ∧ u.capstat.getLsbD 0 = false ∧ y.pc = c.exitNext) ∧
      (c.adopting = true → u.k = c.savedK ∧ y.pc = c.ownPc ∧ bitsAt u.capstat 8 8 = min (bitsAt w.capstat 8 8 + 1) 255 ∧
        ∀ n z, n ≠ x.warp → (n, z) ∈ s.warps → s.warp? n = some z → z.capid = (s.capCtl c.record).owner → z.planer = none → z.retired = false →
          (s.ctx (s.ctxOfWarp z)).dead = none → (∀ p ∈ s.warps, p.2.capid = z.capid → p = (n, z)) →
          ∃ z', (s.settleWait fid).warp? n = some z' ∧ z'.returnSlot = some w.k) := by
  cases ha : c.adopting with
  | false =>
    obtain ⟨g, same, frag, warp, eq⟩ := settleWait_exit_holder hf hw hc hr hx hs he ha
    obtain ⟨y, warp', frag', wait, pc, ctl, other⟩ := leftBody_results same frag warp freedWarp c.exitNext s.tick
    rw [eq]
    refine ⟨_, y, warp', frag', rfl, wait, ctl, other, fun _ => ⟨rfl, ?_, pc⟩, fun h => absurd h (by decide)⟩
    simp [freedWarp]
  | true =>
    obtain ⟨j, trails, eq⟩ := settleWait_exit_adopter hf hw hc hr hx hs he ha
    have frag : (handResult j (s.capCtl c.record).owner w.k).frag? fid = some x := by
      rw [handResult_only, trails]
      exact hf
    have found : j.warp? x.warp = some w := by
      rw [trails]
      exact hw
    obtain ⟨w', warp⟩ := warp_handResult (s.capCtl c.record).owner w.k found
    have same := sameMemory_trans (onlyNotes_of_onlyTrails trails).sameMemory (handResult_sameMemory j (s.capCtl c.record).owner w.k)
    obtain ⟨y, warp', frag', wait, pc, ctl, other⟩ :=
      leftBody_results same frag warp (restoredWarp c.savedK (adoptedStat w.capstat)) c.ownPc s.tick
    rw [eq]
    refine ⟨_, y, warp', frag', rfl, wait, ctl, other, fun h => absurd h (by decide), fun _ =>
      ⟨rfl, pc, bitsAt_adoptedStat w.capstat, fun n z hn hz found hcap hp hl hd only =>
        ⟨_, warp_exit_owner trails hn hz found hcap hp hl hd only _ _ _ _ _, rfl⟩⟩⟩

/-- Settles O54: each word's clause is the lemma about what the word issues, and each ending's the lemma about the model's own action. -/
theorem capsuleWordResults : Obligations.CapsuleWordResults := by
  intro s v a r d k sz wide fn f ls fid wid x w c
  refine ⟨fun h hc hl => ⟨_, exec_capent_ok h hc, capEnter_results (warp_of_view h.1) hl⟩, exec_capexit s v, fun req hreq h hls hl => ?kld,
    fun req hreq h hls hl => ?kst, fun req hreq h hls hl => ?kamo, exec_kmovs r k s v, exec_kmovk d r s v, exec_capstat r s v,
    fun hf hw hc hr => ⟨fun hx hs he => settleWait_exit_results hf hw hc hr hx hs he,
      fun ks hx hs hi => settleWait_return_results hf hw hc hr hx hs hi⟩,
    fun hw hc ha hs hh => displace_results hw hc ha hs hh⟩
  case kld =>
    subst hreq
    exact ⟨_, exec_kld d k sz s v h, issueStep_issued hls hl⟩
  case kst =>
    subst hreq
    exact ⟨_, exec_kst d k sz s v h, issueStep_issued hls hl⟩
  case kamo =>
    subst hreq
    exact ⟨_, exec_kamo d k wide fn s v h, issueStep_issued hls hl⟩

end Sys2Proof.Proofs

/-! Where a group sends its fragment (R41, R91, R123 to R126). -/

namespace Sys2Proof.Proofs

open Sys2Proof.Machine Sys2Proof.Safety Sys2Proof.Laws

/-- Settles O26: each way in which a control transfer can end a group is one branch of the choice. -/
theorem nextGroupIsChosen : Obligations.NextGroupIsChosen := by
  intro v i t
  refine ⟨fun h => by simp only [chosenPc, h], ?_⟩
  rintro (h | h | h) <;> simp only [chosenPc, h, View.nextGroup]

/-- BRC goes to its target where its condition holds (R123). -/
theorem branchIf_eq_ite (s : State) (v : View) {c : Bool} (p : Prop) [Decidable p] (h : c = true ↔ p) (off : BitVec 12) :
    s.branchIf v c off = if p then s.jumpTo (packetAddr v.i.pc + 12 * off.signExtend 64) else s := by
  simp only [State.branchIf, View.target, h]

theorem branchIf_taken (s : State) (v : View) {c : Bool} (h : c = true) (off : BitVec 12) :
    s.branchIf v c off = s.jumpTo (packetAddr v.i.pc + 12 * off.signExtend 64) := by
  simp only [State.branchIf, View.target, h, if_true]

theorem branchIf_not_taken (s : State) (v : View) {c : Bool} (h : c = false) (off : BitVec 12) : s.branchIf v c off = s := by
  simp only [State.branchIf, h, Bool.false_eq_true, if_false]

/-- No lane is in both of two masks. -/
theorem lanes_and_eq_zero {x y : Lanes} : x &&& y = 0 ↔ ∀ i, x.getLsbD i = true → y.getLsbD i = false := by
  constructor
  · intro h i hx
    have bit : (x &&& y).getLsbD i = false := by rw [h]; exact BitVec.getLsbD_zero
    simpa [hx] using bit
  · intro h
    refine BitVec.eq_of_getLsbD_eq (fun i _ => ?_)
    have bit := h i
    cases hx : x.getLsbD i <;> simp_all

/-- Every lane of one mask is in another. -/
theorem lanes_and_eq_self {x y : Lanes} : x &&& y = x ↔ ∀ i, x.getLsbD i = true → y.getLsbD i = true := by
  constructor
  · intro h i hx
    have bit : (x &&& y).getLsbD i = true := by rw [h, hx]
    simpa [hx] using bit
  · intro h
    refine BitVec.eq_of_getLsbD_eq (fun i _ => ?_)
    have bit := h i
    cases hx : x.getLsbD i <;> simp_all

/-- Some lane is in both of two masks. -/
theorem lanes_and_ne_zero {x y : Lanes} : x &&& y ≠ 0 ↔ ∃ i, x.getLsbD i = true ∧ y.getLsbD i = true := by
  rw [Ne, lanes_and_eq_zero]
  push Not
  simp only [Bool.not_eq_false]

/-- Some lane of one mask is not in another. -/
theorem lanes_and_ne_self {x y : Lanes} : x &&& y ≠ x ↔ ∃ i, x.getLsbD i = true ∧ y.getLsbD i = false := by
  rw [Ne, lanes_and_eq_self]
  push Not
  simp only [Bool.not_eq_true]

/-- Settles O24: the word's effect is that of its dispatch lemma, with the condition on masks read lane by lane. -/
theorem branchResults : Obligations.BranchResults := by
  intro s v a m off far
  refine ⟨fun h => ?eqz, fun h => ?nez, fun h => ?ltz, fun h => ?gez, fun h => ⟨fun meets => ?any, fun apart => ?notAny⟩,
    fun h => ⟨fun within => ?all, fun leaves => ?notAll⟩, fun h => ⟨fun apart => ?none, fun meets => ?notNone⟩, exec_brcSplit m off s v, exec_jmp far s v,
    exec_call far s v, exec_jmpr a s v, exec_callr a s v, exec_ret a s v⟩
  case eqz => rw [exec_brcEqz a off s v h, branchIf_eq_ite s v _ beq_iff_eq]
  case nez => rw [exec_brcNez a off s v h, branchIf_eq_ite s v _ bne_iff_ne]
  case ltz => rw [exec_brcLtz a off s v h, branchIf_eq_ite s v ((v.s a.toNat).msb = true) (by rw [BitVec.msb_eq_toInt])]
  case gez =>
    rw [exec_brcGez a off s v h, branchIf_eq_ite s v (¬ (v.s a.toNat).msb = true) (by rw [BitVec.msb_eq_toInt]; simp), ite_not]
  case any => rw [exec_brcAny m off s v h, branchIf_taken s v (bne_iff_ne.mpr (lanes_and_ne_zero.mpr meets))]
  case notAny => rw [exec_brcAny m off s v h, branchIf_not_taken s v (bne_eq_false_iff_eq.mpr (lanes_and_eq_zero.mpr apart))]
  case all => rw [exec_brcAll m off s v h, branchIf_taken s v (beq_iff_eq.mpr (lanes_and_eq_self.mpr within))]
  case notAll => rw [exec_brcAll m off s v h, branchIf_not_taken s v (beq_eq_false_iff_ne.mpr (lanes_and_ne_self.mpr leaves))]
  case none => rw [exec_brcNone m off s v h, branchIf_taken s v (beq_iff_eq.mpr (lanes_and_eq_zero.mpr apart))]
  case notNone => rw [exec_brcNone m off s v h, branchIf_not_taken s v (beq_eq_false_iff_ne.mpr (lanes_and_ne_zero.mpr meets))]

end Sys2Proof.Proofs

/-! When the three-register scalar words trap (R45, R98, R106, R117, R309). -/

namespace Sys2Proof.Proofs

open Sys2Proof.Machine Sys2Proof.Safety Sys2Proof.Laws

/-! ### What the checks see of such a word -/

/-- A scalar word that computes register d from a and b, as the checks see it: the registers it names, its latency class, its opcode, and
that no check concerns it but those of its registers. -/
structure ScalarForm (i : Instr) (d a b : BitVec 6) (op : BitVec 18) (lat : Nat) : Prop where
  uses : uses i = ⟨.s, lat, [.s a.toNat, .s b.toNat], [.s d.toNat]⟩
  late : 0 < lat
  code : ∃ (o : BitVec 6) (fn : BitVec 4), encode i = some (o ++ d ++ a ++ b ++ fn) ∧ o.zeroExtend 18 = op
  legal : bodyLegal i = bodyFields i
  anywhere : bodyOnly i = false
  handler : handlerIllegal i = false
  illegal (s : State) (v : View) : s.illegalHere v i =
    ((v.inBody && !bodyLegal i) || (!v.inBody && bodyOnly i) || (v.f.hnd && handlerIllegal i) || writesQueue v.w i || false)
  own (s : State) (v : View) : s.ownFault v i = none
  split (v : View) : splitDetail v i = if v.inBody then none else if d.toNat < 48 then some (BitVec.ofNat 18 d.toNat) else none

/-- Every one of the words of R118 and R119 with two sources is such a word. -/
theorem scalarForm {i : Instr} {d a b : BitVec 6} {op : BitVec 18} {lat : Nat}
    (h : (i, op, lat) ∈ [(Instr.sadd d a b, 0x01#18, 1), (.ssub d a b, 0x01, 1), (.smul d a b, 0x01, 1), (.smulh d a b, 0x01, 1),
      (.smulhu d a b, 0x01, 1), (.sand d a b, 0x01, 1), (.sor d a b, 0x01, 1), (.sxor d a b, 0x01, 1), (.sshl d a b, 0x01, 1),
      (.sshr d a b, 0x01, 1), (.ssra d a b, 0x01, 1), (.smin d a b, 0x01, 1), (.smax d a b, 0x01, 1), (.sminu d a b, 0x01, 1),
      (.smaxu d a b, 0x01, 1), (.sslt d a b, 0x01, 1), (.ssltu d a b, 0x02, 1), (.sdiv d a b, 0x02, 8), (.sdivu d a b, 0x02, 8),
      (.srem d a b, 0x02, 8), (.sremu d a b, 0x02, 8)]) : ScalarForm i d a b op lat := by
  simp only [List.mem_cons, Prod.mk.injEq, List.not_mem_nil, or_false] at h
  rcases h with ⟨rfl, rfl, rfl⟩ | ⟨rfl, rfl, rfl⟩ | ⟨rfl, rfl, rfl⟩ | ⟨rfl, rfl, rfl⟩ | ⟨rfl, rfl, rfl⟩ | ⟨rfl, rfl, rfl⟩ | ⟨rfl, rfl, rfl⟩ |
    ⟨rfl, rfl, rfl⟩ | ⟨rfl, rfl, rfl⟩ | ⟨rfl, rfl, rfl⟩ | ⟨rfl, rfl, rfl⟩ | ⟨rfl, rfl, rfl⟩ | ⟨rfl, rfl, rfl⟩ | ⟨rfl, rfl, rfl⟩ |
    ⟨rfl, rfl, rfl⟩ | ⟨rfl, rfl, rfl⟩ | ⟨rfl, rfl, rfl⟩ | ⟨rfl, rfl, rfl⟩ | ⟨rfl, rfl, rfl⟩ | ⟨rfl, rfl, rfl⟩ | ⟨rfl, rfl, rfl⟩
  all_goals exact {
    uses := rfl
    late := by decide
    code := ⟨_, _, rfl, rfl⟩
    legal := rfl
    anywhere := rfl
    handler := rfl
    illegal := fun _ _ => rfl
    own := fun _ _ => rfl
    split := fun v => by
      simp only [splitDetail, uses, List.findSome?]
      by_cases h : d.toNat < 48 <;> simp only [h, if_true, if_false] }

namespace ScalarForm

variable {i : Instr} {d a b : BitVec 6} {op : BitVec 18} {lat : Nat}

/-- Its scalar fields name k0 to k7 (R106). -/
theorem bodyFields_iff (h : ScalarForm i d a b op lat) : bodyFields i = true ↔ d.toNat < 8 ∧ a.toNat < 8 ∧ b.toNat < 8 := by
  simp only [bodyFields, h.uses, List.cons_append, List.nil_append, List.all_cons, List.all_nil, Bool.and_true, Bool.and_eq_true,
    decide_eq_true_eq]
  tauto

/-- It names no vector register, so that no queue concerns it (R282). -/
theorem writesQueue_eq_false (h : ScalarForm i d a b op lat) (w : Warp) : writesQueue w i = false := by
  simp only [writesQueue, h.uses, List.any_cons, List.any_nil, Bool.or_self]

theorem popsOf_eq_nil (h : ScalarForm i d a b op lat) (w : Warp) : popsOf w i = [] := by
  simp only [popsOf, h.uses, List.filterMap_cons, List.filterMap_nil, List.eraseDups_nil]

theorem queueFault_eq_none (h : ScalarForm i d a b op lat) (s : State) (v : View) : s.queueFault v i = none := by
  simp only [State.queueFault, h.popsOf_eq_nil, List.isEmpty_nil, Bool.not_true, Bool.false_and, faultIf, Bool.false_eq_true, if_false]

/-- ILLEGAL_OP reports its opcode (R352). -/
theorem illegalOp_eq (h : ScalarForm i d a b op lat) : illegalOp i = .issue { code := 0x01, detail := op } := by
  obtain ⟨o, fn, he, rfl⟩ := h.code
  have field : (o ++ d ++ a ++ b ++ fn).extractLsb' 22 6 = o := by
    simp (disch := omega) only [Encoding.field_high, BitVec.extractLsb'_eq_self, Nat.reduceSub]
  simp only [illegalOp, codeOf, he, Option.getD_some, Code.illegalOp]
  exact congrArg (fun x => Found.issue { code := 0x01, detail := x.zeroExtend 18 }) field

theorem illegalHere_eq (h : ScalarForm i d a b op lat) (s : State) (v : View) : s.illegalHere v i = (v.inBody && !bodyFields i) := by
  simp only [h.illegal, h.legal, h.anywhere, h.handler, h.writesQueue_eq_false, Bool.and_false, Bool.or_false]

/-- Outside a body it finds SPLIT_SCALAR alone, where it writes one of s0 to s47 while its warp is split (R45, R117). -/
theorem wordTrap_outside (h : ScalarForm i d a b op lat) (s : State) {v : View} (hb : v.inBody = false) : s.wordTrap v i =
    if decide (d.toNat < 48) && decide (1 < (s.fragsOf v.wid).length) then some (.issue { code := 0x04, detail := BitVec.ofNat 18 d.toNat }) else none := by
  have split : s.splitFault v i = if decide (d.toNat < 48) && decide (1 < (s.fragsOf v.wid).length) then
      some (.issue { code := 0x04, detail := BitVec.ofNat 18 d.toNat }) else none := by
    simp only [State.splitFault, h.split, hb, Bool.false_eq_true, if_false]
    by_cases hd : d.toNat < 48 <;> simp [hd, faultIf, Code.splitScalar]
  rw [State.wordTrap, h.illegalHere_eq, hb, split, h.queueFault_eq_none, h.own]
  split <;> rfl

/-- Inside a body it finds ILLEGAL_OP alone, where it names a register above k7 (R106, R309). -/
theorem wordTrap_inBody (h : ScalarForm i d a b op lat) (s : State) {v : View} (hb : v.inBody = true) : s.wordTrap v i =
    if d.toNat < 8 ∧ a.toNat < 8 ∧ b.toNat < 8 then none else some (.issue { code := 0x01, detail := op }) := by
  have split : s.splitFault v i = none := by simp only [State.splitFault, h.split, hb, if_true]
  rw [State.wordTrap, h.illegalHere_eq, hb, split, h.queueFault_eq_none, h.own, h.illegalOp_eq]
  by_cases fields : bodyFields i = true
  · rw [fields, if_pos (h.bodyFields_iff.mp fields)]; rfl
  · rw [if_neg (fun k => fields (h.bodyFields_iff.mpr k)), Bool.eq_false_of_not_eq_true fields]; rfl

end ScalarForm

/-! ### SCOREBOARD -/

/-- The register that a scalar field names: s outside a capsule body and k inside one (R106). -/
def scalarField (v : View) (n : BitVec 6) : Reg := if v.inBody then .k n.toNat else .s n.toNat

theorem reg_scalar (v : View) (n : BitVec 6) : v.reg (.s n.toNat) = scalarField v n := rfl

/-- SCOREBOARD's DETAIL for a scalar field (R352). -/
theorem scoreboardDetail_scalarField (v : View) (n : BitVec 6) :
    scoreboardDetail (scalarField v n) = some (BitVec.ofNat 18 ((if v.inBody then 0x100 else 0x40) + n.toNat)) := by
  unfold scalarField
  split <;> rfl

/-- CHECK looks at source A, then at B, then at the destination (R98, R102). -/
theorem ScalarForm.scoreboard_eq {i : Instr} {d a b : BitVec 6} {op : BitVec 18} {lat : Nat} (h : ScalarForm i d a b op lat) (v : View) :
    v.scoreboard i = if v.g.ctl.getLsbD 0 && !v.inPlaner then
      (if v.earlyRead (scalarField v a) then scoreboardDetail (scalarField v a)
        else if v.earlyRead (scalarField v b) then scoreboardDetail (scalarField v b)
        else if v.earlyWrite lat (scalarField v d) then scoreboardDetail (scalarField v d)
        else none).map (fun x => .issue { code := 0x03, detail := x })
      else none := by
  simp only [View.scoreboard, h.uses, List.filter_cons, List.filter_nil, if_true, List.map_cons, List.map_nil, List.find?_cons, List.find?_nil,
    reg_scalar, Code.scoreboard]
  cases v.earlyRead (scalarField v a) <;> cases v.earlyRead (scalarField v b) <;> cases v.earlyWrite lat (scalarField v d) <;> rfl

/-! ### A group of one word -/

theorem pickFault_singleton (x : Found) : pickFault [x] = some x := by
  cases h : x.access <;> simp [pickFault, h]

/-- Of an issue check and what comes after it in a word the first that finds a fault is reported (R353). -/
theorem pickFault_issue_first (t : Option Found) (ht : ∀ x ∈ t, x.access = false) (c : Option Found) : pickFault ([t, none, c, none].filterMap id) = t.or c := by
  cases t with
  | none => cases c with
    | none => rfl
    | some y => exact pickFault_singleton y
  | some x => simp [pickFault, ht x rfl]

section

variable {i : Instr} {d a b : BitVec 6} {op : BitVec 18} {lat : Nat} {s : State} {v : View} {w : Word}

/-- Outside a body a scalar word of a well-formed group finds what its own checks find, and else SCOREBOARD. -/
theorem ScalarForm.wordFault_single (h : ScalarForm i d a b op lat) (hb : v.inBody = false) (hg : breaksGroup v.f.pc [w] [some i] 0 = false) :
    s.wordFault v [w] [some i] 0 = (s.wordTrap v i).or (v.scoreboard i) := by
  have stays : v.strays 0 = false := by simp only [View.strays, hb, Bool.false_and]
  have outside : (v.atWord 1 0).inBody = false := hb
  have pops : s.popFault (v.atWord 1 0) (groupPops (v.atWord 1 0).w [some i]) 0 = none := by
    simp only [State.popFault, groupPops, List.zipIdx_singleton, List.flatMap_cons, List.flatMap_nil, h.popsOf_eq_nil, List.map_nil,
      List.append_nil, List.any_nil, Bool.and_false, faultIf, Bool.false_eq_true, if_false]
  have step : s.stepRefused (v.atWord 1 0) i = none := by
    simp only [State.stepRefused, outside, Bool.false_and, faultIf, Bool.false_eq_true, if_false]
    split <;> rfl
  have trap : s.wordTrap (v.atWord 1 0) i = s.wordTrap v i := by rw [h.wordTrap_outside s outside, h.wordTrap_outside s hb]; rfl
  have board : (v.atWord 1 0).scoreboard i = v.scoreboard i := rfl
  have issue : ∀ x ∈ s.wordTrap v i, x.access = false := by
    rw [h.wordTrap_outside s hb]
    split <;> simp [Found.issue]
  simp only [State.wordFault, hg, stays, Bool.or_false, List.getD_cons_zero, List.length_singleton]
  rw [pops, step, trap, board, pickFault_issue_first _ issue]

/-- Its group traps as it does (R353). -/
theorem ScalarForm.groupFault_single (h : ScalarForm i d a b op lat) (hb : v.inBody = false) (hg : breaksGroup v.f.pc [w] [some i] 0 = false)
    (hp : s.packetFault v 1 = none) : (s.groupFault v [w] [some i]).map (fun t => (t.code, t.detail)) =
      ((s.wordTrap v i).or (v.scoreboard i)).map (fun x => (x.trap.code, x.trap.detail)) := by
  simp only [State.groupFault, List.length_singleton, List.range_one, hp, Option.toList_none, List.append_nil, List.filterMap_cons,
    List.filterMap_nil, h.wordFault_single hb hg]
  cases (s.wordTrap v i).or (v.scoreboard i) with
  | none => rfl
  | some x => simp only [Option.map_some, pickFault_singleton]

end

/-- Settles O23: each clause is what the words' common form says of that check. -/
theorem scalarWordTraps : Obligations.ScalarWordTraps := by
  intro s v d a b i op lat mem found split reg detail outstanding later board
  have h : ScalarForm i d a b op lat := scalarForm mem
  have trap : v.inBody = false → (s.wordTrap v i).map found = if split then some (0x04#8, BitVec.ofNat 18 d.toNat) else none := by
    intro hb
    rw [h.wordTrap_outside s hb, apply_ite (Option.map found)]
    rfl
  have score : (v.scoreboard i).map found = board := by
    have writes : v.earlyWrite lat (scalarField v d) = (outstanding d || later d (v.t + lat)) := by
      simp only [View.earlyWrite, h.late, decide_true, Bool.true_and]
      rfl
    rw [h.scoreboard_eq, writes, apply_ite (Option.map found)]
    refine if_congr Iff.rfl ?_ rfl
    rw [Option.map_map, apply_ite (Option.map _), apply_ite (Option.map _), apply_ite (Option.map _)]
    simp only [scoreboardDetail_scalarField]
    rfl
  refine ⟨trap, fun hb => ?inBody, score, fun w hb hg hp => ?group⟩
  case inBody =>
    rw [h.wordTrap_inBody s hb, apply_ite (Option.map found)]
    rfl
  case group =>
    rw [h.groupFault_single hb hg hp, ← score, Option.map_or, trap hb]
    split <;> rfl

end Sys2Proof.Proofs

/-! What a table lists: entries as pairs, and what reading finds of them. -/

namespace Sys2Proof.Proofs

open Sys2Proof.Machine Sys2Proof.Laws

variable {α : Type}

/-- What reading finds is listed. -/
theorem mem_of_get {m : Table α} {k : Nat} {v : α} (h : Table.get? m k = some v) : (k, v) ∈ m := by
  induction m with
  | nil => cases h
  | cons e r ih =>
    rw [get_cons] at h
    split at h
    case isTrue hk =>
      cases h
      exact hk ▸ List.mem_cons_self
    case isFalse => exact List.mem_cons_of_mem _ (ih h)

/-- Where no key is listed twice, reading finds every entry. -/
theorem get_of_mem {m : Table α} (nodup : (m.map Prod.fst).Nodup) {p : Nat × α} (h : p ∈ m) : Table.get? m p.1 = some p.2 := by
  induction m with
  | nil => cases h
  | cons e r ih =>
    rw [List.map_cons, List.nodup_cons] at nodup
    rw [get_cons]
    rcases List.mem_cons.mp h with rfl | h
    · exact if_pos rfl
    · have other : p.1 ≠ e.1 := fun same => nodup.1 (same ▸ List.mem_map_of_mem h)
      rw [if_neg other, ih nodup.2 h]

/-- Entries of other keys are as before a change of one. -/
theorem mem_modify_other {m : Table α} {k : Nat} {f : α → α} {p : Nat × α} (h : p.1 ≠ k) : p ∈ Table.modify m k f ↔ p ∈ m := by
  simp only [Table.modify, List.mem_map]
  constructor
  · rintro ⟨q, hq, rfl⟩
    by_cases hk : q.1 = k
    · simp [hk] at h
    · rwa [if_neg hk]
  · exact fun hp => ⟨p, hp, if_neg h⟩

theorem modify_modify (m : Table α) (k : Nat) (f g : α → α) : Table.modify (Table.modify m k f) k g = Table.modify m k (g ∘ f) := by
  simp only [Table.modify, List.map_map]
  refine List.map_congr_left (fun p _ => ?_)
  by_cases h : p.1 = k <;> simp [h]

end Sys2Proof.Proofs

/-! Splits, and REGANGs that do not match (R40, R41, R44). -/

namespace Sys2Proof.Proofs

open Sys2Proof.Machine Sys2Proof.Safety Sys2Proof.Laws

theorem modFrag_modFrag (s : State) (fid : Nat) (f g : Frag → Frag) : (s.modFrag fid f).modFrag fid g = s.modFrag fid (g ∘ f) := by
  simp only [State.modFrag, modify_modify]

/-! ### Splits -/

/-- Parking changes who is parked, and nothing else (R46). -/
theorem settleParking_cases (s : State) (wid : Nat) (keep : List Nat) :
    s.settleParking wid keep = s ∨ ∃ i b, s.settleParking wid keep = s.modFrag i (fun f => { f with parked := b }) := by
  simp only [State.settleParking]
  split
  · split
    · exact .inr ⟨_, true, rfl⟩
    · exact .inl rfl
  · split
    · split
      · exact .inr ⟨_, false, rfl⟩
      · exact .inl rfl
    · exact .inl rfl

theorem warp_settleParking (s : State) (wid : Nat) (keep : List Nat) (n : Nat) : (s.settleParking wid keep).warp? n = s.warp? n := by
  rcases settleParking_cases s wid keep with h | ⟨i, b, h⟩ <;> rw [h]
  rfl

theorem frag_settleParking (s : State) (wid : Nat) (keep : List Nat) (j : Nat) :
    ∃ p : Frag → Bool, (s.settleParking wid keep).frag? j = (s.frag? j).map (fun f => { f with parked := p f }) := by
  rcases settleParking_cases s wid keep with h | ⟨i, b, h⟩ <;> rw [h]
  · exact ⟨Frag.parked, by simp⟩
  · rw [frag_mod]
    by_cases hj : j = i
    · exact ⟨fun _ => b, by rw [if_pos hj]⟩
    · exact ⟨Frag.parked, by simp [hj]⟩

/-- A state in which a split has put two fragments in place of one, its parking aside (R41). -/
def splitState (s : State) (fid : Nat) (f : Frag) (active taken : Lanes) (target next : Dword) : State :=
  let t : State := { s with
    serial := s.serial + 3
    warps := Table.modify s.warps f.warp (fun w => { w with splits := Table.set w.splits s.serial ⟨f.records.head?, f.fmt, 0⟩ })
    frags := Table.erase s.frags fid }
  (t.setFrag (s.serial + 1) (f.part s.serial taken target)).setFrag (s.serial + 2)
    { f.part s.serial (active &&& ~~~taken) next with packet := f.packet }

theorem splitFrag_eq (s : State) (fid : Nat) (f : Frag) (active taken : Lanes) (target next : Dword) :
    s.splitFrag fid f active taken target next =
      ((splitState s fid f active taken target next).settleParking f.warp [s.serial + 1, s.serial + 2], s.serial + 1, s.serial + 2) := by
  simp only [State.splitFrag, State.fresh, splitState, State.modWarp]

/-- The split leaves the old fragment's two parts in its place (R41). -/
theorem frag_splitState (s : State) (fid : Nat) (f : Frag) (active taken : Lanes) (target next : Dword) (j : Nat) :
    (splitState s fid f active taken target next).frag? j =
      if j = s.serial + 2 then some { f.part s.serial (active &&& ~~~taken) next with packet := f.packet }
      else if j = s.serial + 1 then some (f.part s.serial taken target)
      else if j = fid then none else s.frag? j := by
  simp only [splitState, frag_set]
  exact if_congr Iff.rfl rfl (if_congr Iff.rfl rfl (get_erase ..))

theorem warp_splitState {s : State} {f : Frag} {w : Warp} (hw : s.warp? f.warp = some w) (fid : Nat) (active taken : Lanes) (target next : Dword) :
    (splitState s fid f active taken target next).warp? f.warp =
      some { w with splits := Table.set w.splits s.serial ⟨f.records.head?, f.fmt, 0⟩ } := by
  have modified := warp_mod s f.warp f.warp (fun w => { w with splits := Table.set w.splits s.serial ⟨f.records.head?, f.fmt, 0⟩ })
  rw [if_pos rfl, hw] at modified
  exact modified

/-- A split puts two fragments in place of one, with a new record (R40, R41). -/
theorem splitFrag_results {s : State} {f : Frag} {w : Warp} (hw : s.warp? f.warp = some w) (fid : Nat) (active taken : Lanes)
    (target next : Dword) :
    let t := s.splitFrag fid f active taken target next
    t.2 = (s.serial + 1, s.serial + 2) ∧
    (∃ p, t.1.frag? (s.serial + 1) = some { f.part s.serial taken target with parked := p }) ∧
    (∃ p, t.1.frag? (s.serial + 2) = some { f.part s.serial (active &&& ~~~taken) next with packet := f.packet, parked := p }) ∧
    (∀ j z, j ≠ s.serial + 1 → j ≠ s.serial + 2 → t.1.frag? j = some z → j ≠ fid ∧ ∃ o, s.frag? j = some o ∧ z = { o with parked := z.parked }) ∧
    t.1.warp? f.warp = some { w with splits := Table.set w.splits s.serial ⟨f.records.head?, f.fmt, 0⟩ } := by
  intro t
  have eq : t.1 = (splitState s fid f active taken target next).settleParking f.warp [s.serial + 1, s.serial + 2] :=
    congrArg Prod.fst (splitFrag_eq ..)
  have parked := frag_settleParking (splitState s fid f active taken target next) f.warp [s.serial + 1, s.serial + 2]
  refine ⟨congrArg Prod.snd (splitFrag_eq ..), ?_, ?_, fun j z ha hb hz => ?_, ?_⟩
  · obtain ⟨p, hp⟩ := parked (s.serial + 1)
    rw [eq, hp, frag_splitState, if_neg (by omega), if_pos rfl]
    exact ⟨_, rfl⟩
  · obtain ⟨p, hp⟩ := parked (s.serial + 2)
    rw [eq, hp, frag_splitState, if_pos rfl]
    exact ⟨_, rfl⟩
  · obtain ⟨p, hp⟩ := parked j
    rw [eq, hp, frag_splitState, if_neg hb, if_neg ha] at hz
    split at hz
    · cases hz
    case isFalse hj =>
      obtain ⟨o, ho, rfl⟩ := Option.map_eq_some_iff.mp hz
      exact ⟨hj, o, ho, rfl⟩
  · rw [eq, warp_settleParking, warp_splitState hw]

/-! ### REGANG -/

/-- The fragment stands at a REGANG from now on, unless it stood there before (R42). -/
def arrived (tick : Nat) (wait : Option Wait) (f : Frag) : Frag :=
  { f with wait := wait, thenAt := none, stoodAt := some (f.stoodAt.getD tick) }

/-- A fragment that comes to a REGANG while members of its record have stood at another since an earlier tick raises REGANG_MISMATCH with that one's
address (R44). -/
theorem beginRegang_mismatch {s : State} {fid j : Nat} {f h : Frag} {a b m : Dword} (n : Dword) (hf : s.frag? fid = some f)
    (hh : s.frag? j = some h) (hj : j ≠ fid) (hw : h.warp = f.warp) (hr : h.records.head? = f.records.head?) (hb : h.wait = some (.regang b m))
    (hba : b ≠ a) (others : ∀ p ∈ s.frags, p.1 ≠ fid → p.2.warp = f.warp → p.2.records.head? = f.records.head? →
      ∀ x, p.2.stands = some x → x.1 ≠ a → x.1 = b ∧ p.2.stoodAt ≠ some s.tick) :
    s.beginRegang fid a n = (s.modFrag fid (arrived s.tick none)).takeTrap fid { code := 0x05, addr := b } n none false := by
  have elsewhere (p : Nat × Frag) (hp : p.1 ≠ fid) :
      p ∈ (s.modFrag fid (arrived s.tick (some (.regang a n)))).fragsOf f.warp ↔ p ∈ s.frags ∧ p.2.warp = f.warp := by
    simp only [State.fragsOf, List.mem_filter, beq_iff_eq]
    exact and_congr (mem_modify_other hp) Iff.rfl
  have stands : h.stands = some (b, m) := by simp only [Frag.stands, hb]
  have present : (j, h) ∈ (s.modFrag fid (arrived s.tick (some (.regang a n)))).fragsOf f.warp :=
    (elsewhere (j, h) hj).mpr ⟨mem_of_get hh, hw⟩
  simp only [State.beginRegang, hf]
  split
  case h_1 none =>
    have stays := List.find?_eq_none.mp none _ present
    simp [hj, hr, stands, hba] at stays
  case h_2 q found =>
    have listed := List.mem_of_find?_eq_some found
    have fits := List.find?_some found
    simp only [Bool.and_eq_true, bne_iff_ne, beq_iff_eq, Option.any_eq_true] at fits
    obtain ⟨⟨hq, records⟩, x, hx, away⟩ := fits
    obtain ⟨listed, warp⟩ := (elsewhere q hq).mp listed
    obtain ⟨at_, since⟩ := others q listed hq warp records x hx away
    have earlier : (q.2.stoodAt == some s.tick) = false := beq_eq_false_iff_ne.mpr since
    simp only [hx, modFrag_tick, earlier, Bool.false_and, Bool.false_eq_true, if_false, State.mismatch, at_, modFrag_modFrag, Code.regangMismatch]
    rfl

end Sys2Proof.Proofs

/-! Fusions (R42, R43). -/

namespace Sys2Proof.Proofs

open Sys2Proof.Machine Sys2Proof.Safety Sys2Proof.Laws

/-! ### The least of a list -/

theorem least_eq_none {α : Type} {key : α → Nat} {l : List α} (h : least key l = none) : l = [] := by
  cases l with
  | nil => rfl
  | cons x r =>
    simp only [least] at h
    split at h
    · cases h
    · split at h <;> cases h

theorem least_spec {α : Type} {key : α → Nat} {l : List α} {x : α} (h : least key l = some x) : x ∈ l ∧ ∀ y ∈ l, key x ≤ key y := by
  induction l generalizing x with
  | nil => cases h
  | cons z r ih =>
    simp only [least] at h
    split at h
    case h_1 none =>
      cases h
      simp [least_eq_none none]
    case h_2 y found =>
      obtain ⟨mem, low⟩ := ih found
      split at h
      case isTrue less =>
        cases h
        exact ⟨List.mem_cons_of_mem _ mem, List.forall_mem_cons.mpr ⟨Nat.le_of_lt less, low⟩⟩
      case isFalse less =>
        cases h
        exact ⟨List.mem_cons_self, List.forall_mem_cons.mpr ⟨Nat.le_refl _, fun u hu => (Nat.le_of_not_lt less).trans (low u hu)⟩⟩

/-! ### What the members' lanes come to -/

/-- A bit of what a list of fragments comes to by OR is set where it is set in one of them. -/
theorem getLsbD_foldl_or {n : Nat} (x : Frag → BitVec n) (ms : List Frag) (a : BitVec n) (i : Nat) :
    (ms.foldl (fun a f => a ||| x f) a).getLsbD i = (a.getLsbD i || ms.any (fun f => (x f).getLsbD i)) := by
  induction ms generalizing a with
  | nil => simp
  | cons f r ih => simp only [List.foldl_cons, ih, BitVec.getLsbD_or, List.any_cons, Bool.or_assoc]

theorem le_foldl_max (x : Frag → Nat) (ms : List Frag) (a : Nat) :
    a ≤ ms.foldl (fun a f => max a (x f)) a ∧ ∀ f ∈ ms, x f ≤ ms.foldl (fun a f => max a (x f)) a := by
  induction ms generalizing a with
  | nil => simp
  | cons f r ih =>
    obtain ⟨start, each⟩ := ih (max a (x f))
    exact ⟨(Nat.le_max_left _ _).trans start, List.forall_mem_cons.mpr ⟨(Nat.le_max_right _ _).trans start, each⟩⟩

/-- Whatever is outstanding in one of two sets is in their union (R43). -/
theorem mem_union {a b : OpSet} {x : Nat} : x ∈ (a.union b).members ↔ x ∈ a.members ∨ x ∈ b.members := by
  simp [OpSet.union, List.mem_eraseDups]

theorem mem_foldl_union (set : Frag → OpSet) (ms : List Frag) (o : OpSet) (x : Nat) :
    x ∈ (ms.foldl (fun a f => a.union (set f)) o).members ↔ x ∈ o.members ∨ ∃ f ∈ ms, x ∈ (set f).members := by
  induction ms generalizing o with
  | nil => simp
  | cons f r ih => simp only [List.foldl_cons, ih, mem_union, List.mem_cons, exists_eq_or_imp, or_assoc]

/-- Where every member that holds a lane gives it one bit, and one does, that is the lane's bit of the fused mask (R43). -/
theorem getLsbD_foldl_mask (x : Frag → Lanes) (ms : List Frag) (a : Lanes) {i : Nat} {v : Bool} (hi : i < 64)
    (same : ∀ f ∈ ms, f.lm.getLsbD i = true → (x f).getLsbD i = v) (held : a.getLsbD i = v ∨ ∃ f ∈ ms, f.lm.getLsbD i = true) :
    (ms.foldl (fun a f => (a &&& ~~~f.lm) ||| (x f &&& f.lm)) a).getLsbD i = v := by
  induction ms generalizing a with
  | nil => simpa using held
  | cons f r ih =>
    rw [List.forall_mem_cons] at same
    refine ih _ same.2 ?_
    have bit : ((a &&& ~~~f.lm) ||| (x f &&& f.lm)).getLsbD i = if f.lm.getLsbD i = true then (x f).getLsbD i else a.getLsbD i := by
      simp only [BitVec.getLsbD_or, BitVec.getLsbD_and, BitVec.getLsbD_not, hi, decide_true, Bool.true_and]
      cases f.lm.getLsbD i <;> simp
    by_cases hf : f.lm.getLsbD i = true
    · exact .inl (by rw [bit, if_pos hf, same.1 hf])
    · simp only [List.mem_cons, exists_eq_or_imp, hf, Bool.false_eq_true, false_or] at held
      exact held.imp_left (fun h => by rw [bit, if_neg hf, h])

/-- A lane that one member alone holds has that member's mask bits in the fused fragment (R43). -/
theorem getD_fuseMasks {lo f : Frag} {ms : List Frag} {k i : Nat} (hk : k < 8) (hf : f ∈ ms) (hi : f.lm.getLsbD i = true)
    (only : ∀ g ∈ ms, g.lm.getLsbD i = true → g = f) : (Table.getD (fuseMasks lo ms) k 0).getLsbD i = (Table.getD f.m k 0).getLsbD i := by
  have lane : i < 64 := by
    by_contra h
    rw [BitVec.getLsbD_of_ge _ _ (Nat.le_of_not_lt h)] at hi
    cases hi
  rw [fuseMasks, getD_foldl_put (fun n => ms.foldl (fun a f => (a &&& ~~~f.lm) ||| (Table.getD f.m n 0 &&& f.lm)) (Table.getD lo.m n 0)),
    if_pos (List.mem_range.mpr hk)]
  exact getLsbD_foldl_mask _ _ _ lane (fun g hg held => by rw [only g hg held]) (.inr ⟨f, hf, hi⟩)

/-! ### The state after a fusion -/

/-- A fragment whose results are all readable, at the tick from which they are (R95). -/
def readable (f : Frag) : Frag := { f with t := max f.t f.vmax }

/-- Where no result is still to become visible, a visibility point moves the fragment's tick, and nothing else (R96). -/
theorem visiblePoint_quiet {s : State} {i : Nat} {f : Frag} (hf : s.frag? i = some f) (hp : f.pend = []) :
    s.visiblePoint i = s.setFrag i (readable f) := by
  simp only [State.visiblePoint, State.setTick, hf, hp, List.filter_nil, State.applyPends, List.foldl_nil, readable]

/-- Visibility points of some fragments without results still to become visible move their ticks, and nothing else. -/
theorem visiblePoints_quiet (ps : List (Nat × Frag)) (nodup : (ps.map Prod.fst).Nodup) (s : State)
    (quiet : ∀ p ∈ ps, s.frag? p.1 = some p.2 ∧ p.2.pend = []) :
    ∃ fr, (ps.map Prod.fst).foldl (fun s i => s.visiblePoint i) s = { s with frags := fr } ∧
      ∀ j, Table.get? fr j = if j ∈ ps.map Prod.fst then (s.frag? j).map readable else s.frag? j := by
  induction ps generalizing s with
  | nil => exact ⟨s.frags, rfl, fun j => rfl⟩
  | cons p r ih =>
    rw [List.map_cons, List.nodup_cons] at nodup
    obtain ⟨⟨hp, pend⟩, others⟩ := List.forall_mem_cons.mp quiet
    have rest : ∀ q ∈ r, (s.setFrag p.1 (readable p.2)).frag? q.1 = some q.2 ∧ q.2.pend = [] := by
      intro q hq
      have other : q.1 ≠ p.1 := fun same => nodup.1 (same ▸ List.mem_map_of_mem hq)
      rw [frag_set, if_neg other]
      exact others q hq
    obtain ⟨fr, eq, get⟩ := ih nodup.2 _ rest
    refine ⟨fr, ?_, fun j => ?_⟩
    · rw [List.map_cons, List.foldl_cons, visiblePoint_quiet hp pend, eq]
      rfl
    · simp only [get, frag_set, List.map_cons, List.mem_cons]
      by_cases hj : j = p.1
      · rw [if_neg (hj ▸ nodup.1), if_pos hj, if_pos (.inl hj), hj, hp, Option.map_some]
      · simp only [hj, if_false, false_or]

/-- What is held of the members, by identity, once their results are readable. -/
theorem filterMap_readable {s : State} {ds : List (Nat × Frag)} (listed : ∀ p ∈ ds, s.frag? p.1 = some (readable p.2)) :
    (ds.map Prod.fst).filterMap (fun i => (s.frag? i).map (fun f => (i, f))) = ds.map (fun p => (p.1, readable p.2)) := by
  rw [List.filterMap_map, ← List.filterMap_eq_map]
  exact List.filterMap_congr (fun p hp => by simp [listed p hp])

/-- Members without results still to become visible fuse into one, which takes the identity of the one with the lowest lane; the record is closed
(R42, R43). -/
theorem fuse_quiet {s : State} {wid r : Nat} (sr : SplitRec) {ds : List (Nat × Frag)} (n : Dword) {w : Warp} (ne : ds ≠ [])
    (nodup : (ds.map Prod.fst).Nodup) (quiet : ∀ p ∈ ds, s.frag? p.1 = some p.2 ∧ p.2.pend = []) (hw : s.warp? wid = some w) :
    ∃ lo ∈ ds, (∀ p ∈ ds, lo.2.lm.low ≤ p.2.lm.low) ∧
      (∀ j, (s.fuse wid r sr (ds.map Prod.fst) n).frag? j =
        if j = lo.1 then some (fuseFrags (readable lo.2) (ds.map (fun p => readable p.2)) sr n s.tick)
        else if j ∈ ds.map Prod.fst then none else s.frag? j) ∧
      (s.fuse wid r sr (ds.map Prod.fst) n).warp? wid = some { w with splits := Table.erase w.splits r } := by
  obtain ⟨fr, eq, get⟩ := visiblePoints_quiet ds nodup s quiet
  simp only [State.fuse, eq]
  generalize hm : State.learnFusion _ _ _ _ = m
  have trails : OnlyTrails ({ s with frags := fr } |>.dropEarlyFused wid) m := by
    rw [← hm]
    exact mapTrails_onlyTrails _ _
  have frags : m.frags = fr := by rw [trails]; rfl
  have warps : m.warps = s.warps := by rw [trails]; rfl
  have tick : m.tick = s.tick := by rw [trails]; rfl
  have listed : ∀ p ∈ ds, m.frag? p.1 = some (readable p.2) := by
    intro p hp
    rw [State.frag?, frags, get, if_pos (List.mem_map_of_mem hp), (quiet p hp).1, Option.map_some]
  rw [filterMap_readable listed]
  split
  case h_1 none => exact absurd (List.map_eq_nil_iff.mp (least_eq_none none)) ne
  case h_2 lo found =>
    obtain ⟨mem, low⟩ := least_spec found
    obtain ⟨p, hp, rfl⟩ := List.mem_map.mp mem
    generalize hx : State.modWarp _ _ _ = x
    have frag : ∀ j, x.frag? j = if j = p.1 then some (fuseFrags (readable p.2) (ds.map (fun p => readable p.2)) sr n s.tick)
        else if j ∈ ds.map Prod.fst then none else s.frag? j := by
      intro j
      rw [← hx, frag_modWarp, frag_set, List.map_map, tick]
      refine if_congr Iff.rfl rfl ?_
      refine (get_filter_key m.frags (fun k => !(ds.map Prod.fst).contains k) j).trans ?_
      rw [frags, get]
      by_cases hj : j ∈ ds.map Prod.fst <;> simp [hj]
    have warp : x.warp? wid = some { w with splits := Table.erase w.splits r } := by
      rw [← hx, warp_mod, if_pos rfl]
      have same : m.warp? wid = some w := by rw [State.warp?, warps]; exact hw
      exact congrArg (Option.map _) same
    rw [warp]
    exact ⟨p, hp, fun q hq => low (q.1, readable q.2) (List.mem_map.mpr ⟨q, hq, rfl⟩), frag, warp⟩

/-! ### When a record's members fuse -/

/-- A fragment that holds nothing else waits at its REGANG (R42). -/
theorem atRegang_of_wait {f : Frag} {a n : Dword} (hw : f.wait = some (.regang a n)) (hh : f.hnd = false) (hl : f.lc.members = []) (ho : f.waitOps = []) :
    f.atRegang = some (a, n) := by
  simp [Frag.atRegang, hw, hh, hl, ho]

theorem atRegang_eq_none {f : Frag} (h : ∀ a n, f.wait ≠ some (.regang a n)) : f.atRegang = none := by
  unfold Frag.atRegang
  split
  case h_1 hw => exact absurd hw (h _ _)
  case h_2 => rfl

/-- Once every descendant of a record is a member and has arrived at one REGANG, they fuse (R42). -/
theorem settleRecord_fuses {s : State} {wid r : Nat} (sr : SplitRec) {a n : Dword}
    (ne : (s.fragsOf wid).filter (fun p => p.2.records.contains r) ≠ [])
    (arrived : ∀ p ∈ (s.fragsOf wid).filter (fun p => p.2.records.contains r), p.2.records.head? = some r ∧ p.2.atRegang = some (a, n)) :
    s.settleRecord wid r sr = s.fuse wid r sr (((s.fragsOf wid).filter (fun p => p.2.records.contains r)).map Prod.fst) n := by
  unfold State.settleRecord
  generalize (s.fragsOf wid).filter (fun p => p.2.records.contains r) = ds at ne arrived ⊢
  cases ds with
  | nil => exact absurd rfl ne
  | cons p ps =>
    have all : (p :: ps).all (fun q => q.2.records.head? == some r && q.2.atRegang.any (fun x => x.1 == a)) = true :=
      List.all_eq_true.mpr (fun q hq => by simp [arrived q hq])
    simp only [(arrived p List.mem_cons_self).2]
    rw [if_pos all]

/-- While a descendant of a record has not arrived at its REGANG, nothing fuses (R42). -/
theorem settleRecord_waits {s : State} {wid r j : Nat} (sr : SplitRec) {f : Frag} (hf : (j, f) ∈ s.fragsOf wid) (hr : f.records.contains r = true)
    (away : f.records.head? ≠ some r ∨ ∀ a n, f.wait ≠ some (.regang a n)) : s.settleRecord wid r sr = s := by
  have listed : (j, f) ∈ (s.fragsOf wid).filter (fun p => p.2.records.contains r) := List.mem_filter.mpr ⟨hf, hr⟩
  unfold State.settleRecord
  generalize (s.fragsOf wid).filter (fun p => p.2.records.contains r) = ds at listed ⊢
  cases ds with
  | nil => rfl
  | cons p ps =>
    cases hp : p.2.atRegang with
    | none => simp only [hp]
    | some x =>
      have apart : ¬ (p :: ps).all (fun q => q.2.records.head? == some r && q.2.atRegang.any (fun y => y.1 == x.1)) = true := by
        intro all
        have fits := List.all_eq_true.mp all _ listed
        rw [Bool.and_eq_true, beq_iff_eq] at fits
        rcases away with head | wait
        · exact head fits.1
        · simp [atRegang_eq_none wait] at fits
      simp only [hp]
      rw [if_neg apart]

/-- What the fused fragment holds, of its members with their results readable (R43). -/
theorem fuseFrags_results {ds : List (Nat × Frag)} {lo : Nat × Frag} (sr : SplitRec) (n : Dword) (tick : Nat) (nodup : (ds.map Prod.fst).Nodup)
    (apart : ∀ p ∈ ds, ∀ q ∈ ds, p.1 ≠ q.1 → p.2.lm &&& q.2.lm = 0) :
    let g := fuseFrags (readable lo.2) (ds.map (fun p => readable p.2)) sr n tick
    (∀ i, i < 64 → g.lm.getLsbD i = ds.any (fun p => p.2.lm.getLsbD i)) ∧
    (∀ i, i < 5 → g.fstat.getLsbD i = (sr.exitFlags.getLsbD i || ds.any (fun p => p.2.fstat.getLsbD i))) ∧
    (∀ k i p, k < 8 → p ∈ ds → p.2.lm.getLsbD i = true → (Table.getD g.m k 0).getLsbD i = (Table.getD p.2.m k 0).getLsbD i) ∧
    ∀ p ∈ ds, (∀ x ∈ p.2.sc.members, x ∈ g.sc.members) ∧ (∀ x ∈ p.2.ec.members, x ∈ g.ec.members) ∧ p.2.t ≤ g.t := by
  have member {p : Nat × Frag} (hp : p ∈ ds) : readable p.2 ∈ ds.map (fun p => readable p.2) := List.mem_map.mpr ⟨p, hp, rfl⟩
  refine ⟨fun i _ => ?_, fun i _ => ?_, fun k i p hk hp hi => ?_, fun p hp => ⟨fun x hx => ?_, fun x hx => ?_, ?_⟩⟩
  · exact (getLsbD_foldl_or Frag.lm _ 0 i).trans (by simp [List.any_map, Function.comp_def, readable])
  · exact (getLsbD_foldl_or Frag.fstat _ sr.exitFlags i).trans (by simp [List.any_map, Function.comp_def, readable])
  · refine getD_fuseMasks (f := readable p.2) hk (member hp) hi (fun g hg held => ?_)
    obtain ⟨q, hq, rfl⟩ := List.mem_map.mp hg
    by_cases same : p.1 = q.1
    · rw [List.inj_on_of_nodup_map nodup hp hq same]
    · have both : (p.2.lm &&& q.2.lm).getLsbD i = true := by
        rw [BitVec.getLsbD_and, hi]
        exact held
      rw [apart p hp q hq same] at both
      simp at both
  · exact (mem_foldl_union Frag.sc _ {} x).mpr (.inr ⟨_, member hp, hx⟩)
  · exact (mem_foldl_union Frag.ec _ {} x).mpr (.inr ⟨_, member hp, hx⟩)
  · calc p.2.t ≤ (readable p.2).t := Nat.le_max_left ..
      _ ≤ _ := (le_foldl_max Frag.t _ 0).2 _ (member hp)
      _ ≤ _ := Nat.le_max_left ..

/-- Settles O27: the fragments of a split are read off the state it leaves; members that all stand at one REGANG have nothing left to become
visible, so that only their ticks change before they fuse, and each lane's mask bits come from the one member that holds it. -/
theorem splitMakesTwoFragments : Obligations.SplitMakesTwoFragments := by
  unfold Obligations.SplitMakesTwoFragments
  refine ⟨fun s fid f w active taken target next _ hw => ?_, ?_, fun s wid r sr j f hf hr away => settleRecord_waits sr hf hr away,
    fun s fid j f h a n b m hf hh hj hw hr hb hba others => beginRegang_mismatch n hf hh hj hw hr hb hba others⟩
  · obtain ⟨ids, ⟨p, hx⟩, ⟨q, hy⟩, others, warp⟩ := splitFrag_results hw fid active taken target next
    exact ⟨_, _, s.serial, _, _, _, ids, hx, hy, others, warp, get_set_same .., by simp [Frag.part]⟩
  · intro s wid r w sr a n ds nodup hw ne members apart t
    have keys : (ds.map Prod.fst).Nodup := nodup.sublist ((List.filter_sublist.trans List.filter_sublist).map _)
    have listed : ∀ p ∈ ds, s.frag? p.1 = some p.2 ∧ p.2.pend = [] := by
      intro p hp
      obtain ⟨_, _, _, _, _, pend⟩ := members p hp
      exact ⟨get_of_mem nodup (List.mem_filter.mp (List.mem_filter.mp hp).1).1, pend⟩
    have fuses : t = s.fuse wid r sr (ds.map Prod.fst) n := by
      refine settleRecord_fuses sr (a := a) ne (fun p hp => ?_)
      obtain ⟨head, wait, hnd, lc, ops, _⟩ := members p hp
      exact ⟨head, atRegang_of_wait wait hnd lc ops⟩
    obtain ⟨lo, hlo, low, frag, warp⟩ := fuse_quiet sr n ne keys listed hw
    rw [← fuses] at frag warp
    have others : ∀ p ∈ ds, p.1 ≠ lo.1 → t.frag? p.1 = none := fun p hp other => by
      rw [frag, if_neg other, if_pos (List.mem_map_of_mem hp)]
    have rest : ∀ j, (∀ p ∈ ds, j ≠ p.1) → t.frag? j = s.frag? j := fun j hj => by
      have absent : j ∉ ds.map Prod.fst := fun h => by
        obtain ⟨p, hp, same⟩ := List.mem_map.mp h
        exact hj p hp same.symm
      rw [frag, if_neg (hj lo hlo), if_neg absent]
    obtain ⟨_, _, hnd, _⟩ := members lo hlo
    exact ⟨lo, hlo, _, low, (frag lo.1).trans (if_pos rfl), others, rest, ⟨_, warp, get_erase_same .., rfl, rfl⟩, rfl, rfl,
      List.drop_one, rfl, rfl, hnd, fuseFrags_results sr n s.tick keys apart⟩

end Sys2Proof.Proofs

/-! What leaves the teams as they are. -/

namespace Sys2Proof.Proofs

open Sys2Proof.Machine Sys2Proof.Safety Sys2Proof.Laws

/-- What each step of a run through a list leaves of the teams, the run leaves of them. -/
theorem foldl_teams {α : Type} (f : State → α → State) (h : ∀ s a, (f s a).teams = s.teams) (l : List α) (s : State) :
    (l.foldl f s).teams = s.teams :=
  List.foldlRecOn (motive := fun t : State => t.teams = s.teams) l f rfl (fun t ht a _ => (h t a).trans ht)

theorem teams_of_onlyTrails {s t : State} (h : OnlyTrails s t) : t.teams = s.teams := by rw [h]

theorem teams_of_onlyMemory {s t : State} (h : OnlyMemory s t) : t.teams = s.teams := by rw [h]

theorem teams_of_onlyUnits {s t : State} (h : OnlyUnits s t) : t.teams = s.teams := by rw [h.1]

@[simp] theorem writeLoc_teams (s : State) (l : Loc) (x : Byte) : (s.writeLoc l x).teams = s.teams := by rw [writeLoc_only]
@[simp] theorem writeLocs_teams (s : State) (ls : List Loc) (x : Nat) : (s.writeLocs ls x).teams = s.teams := by rw [writeLocs_only]
@[simp] theorem markDies_teams (s : State) (c : Nat) (b : BitVec 8) : (s.markDies c b).teams = s.teams := by rw [markDies_only]
@[simp] theorem mapTrails_teams (s : State) (f : Trail → Trail) : (s.mapTrails f).teams = s.teams := teams_of_onlyTrails (mapTrails_onlyTrails s f)

/-! ### Engines and their leases -/

@[simp] theorem leaveSets_teams (s : State) (id : Nat) : (s.leaveSets id).teams = s.teams := rfl

@[simp] theorem leaveEC_teams (s : State) (id : Nat) (c : CmdState) : (s.leaveEC id c).teams = s.teams := by
  simp only [State.leaveEC]
  split
  · rfl
  · split <;> rfl

@[simp] theorem giveLease_teams (s : State) (core w : Nat) : (s.giveLease core w).teams = s.teams := rfl

@[simp] theorem passLease_teams (s : State) (core : Nat) : (s.passLease core).teams = s.teams := by
  unfold State.passLease
  split <;> simp

@[simp] theorem passFrom_teams (s : State) (ws : List Nat) (core : Nat) : (s.passFrom ws core).teams = s.teams := by
  unfold State.passFrom
  split <;> simp

@[simp] theorem dropBond_teams (s : State) (k : Nat) : (s.dropBond k).teams = s.teams := by
  unfold State.dropBond
  split
  · rfl
  · exact foldl_teams _ (by intros; rfl) _ _

@[simp] theorem grantUpTo_teams (s : State) (core n : Nat) : (s.grantUpTo core n).teams = s.teams := by
  induction n generalizing s with
  | zero => rfl
  | succ n ih =>
    unfold State.grantUpTo
    split
    · rfl
    · split
      · simp [ih]
      · rfl

@[simp] theorem grantMsm_teams (s : State) (core : Nat) : (s.grantMsm core).teams = s.teams := grantUpTo_teams ..

@[simp] theorem jigLeave_teams (s : State) (core c : Nat) : (s.jigLeave core c).teams = s.teams := by
  unfold State.jigLeave
  split <;> rfl

/-! ### Capsules -/

@[simp] theorem note_teams (s : State) (i : Nat) (k : Option Nat) (o : Op) (l : LaneAcc) : (s.note i k o l).teams = s.teams :=
  teams_of_onlyTrails (note_onlyTrails s i k o l)

@[simp] theorem setTags_teams (s : State) (full : Bool) (ps : List (Nat × Nat)) : (s.setTags full ps).teams = s.teams :=
  foldl_teams _ (by intros; rfl) ps s

@[simp] theorem setArrivalField_teams (s : State) (l : Loc) (k x : Nat) : (s.setArrivalField l k x).teams = s.teams := by
  unfold State.setArrivalField
  split <;> simp

@[simp] theorem arrive_teams (s : State) (l : Loc) (n : Nat) : (s.arrive l n).teams = s.teams := by
  unfold State.arrive
  split
  · rfl
  · split <;> simp

@[simp] theorem advanceTime_teams (s : State) : s.advanceTime.teams = s.teams := by
  simp [State.advanceTime, State.nextFree]

@[simp] theorem performLane_teams (s : State) (op : AccessOp) (size : Nat) (l : LaneAcc) : (s.performLane op size l).1.teams = s.teams := by
  cases op with
  | load | store | fetest | tsread | tagStore | feset => simp [State.performLane]
  | tagLoad empty =>
    simp only [State.performLane]
    split <;> simp
  | amo fn =>
    simp only [State.performLane]
    split <;> simp
  | arrive n =>
    simp only [State.performLane]
    split <;> simp
  | ainit t =>
    simp only [State.performLane]
    split <;> simp [State.ainit]

@[simp] theorem noteStep_teams (s : State) (wid wg : Nat) (lanes : Lanes) (st : CapStep) : (s.noteStep wid wg lanes st).teams = s.teams := by
  unfold State.noteStep
  split <;> simp

@[simp] theorem stepAccess_teams (s : State) (st : CapStep) : (s.stepAccess st).1.teams = s.teams := by
  unfold State.stepAccess
  split <;> simp

@[simp] theorem acquireRecord_teams (s : State) (w g : Nat) (ls : Lanes) (r : Nat) : (s.acquireRecord w g ls r).teams = s.teams :=
  teams_of_onlyTrails (acquireRecord_onlyTrails s w g ls r)

@[simp] theorem joinRecord_teams (s : State) (w g j : Nat) (ls : Lanes) (r : Nat) : (s.joinRecord w g j ls r).teams = s.teams :=
  teams_of_onlyTrails (joinRecord_onlyTrails s w g j ls r)

@[simp] theorem setCapCtl_teams (s : State) (r : Nat) (c : CapCtl) : (s.setCapCtl r c).teams = s.teams := teams_of_onlyMemory (setCapCtl_onlyMemory s r c)
@[simp] theorem setCapEntry_teams (s : State) (r : Nat) (a : Dword) : (s.setCapEntry r a).teams = s.teams := teams_of_onlyMemory (setCapEntry_onlyMemory s r a)
@[simp] theorem setKsnap_teams (s : State) (r : Nat) (k : Table Dword) : (s.setKsnap r k).teams = s.teams := teams_of_onlyMemory (setKsnap_onlyMemory s r k)

@[simp] theorem capShift_teams (s : State) (r a b : Nat) : (s.capShift r a b).teams = s.teams := by
  simp only [State.capShift]
  split <;> simp

@[simp] theorem landK_teams (s : State) (wid : Nat) (c : Capsule) (n : Nat) (x : Dword) : (s.landK wid c n x).teams = s.teams := by
  unfold State.landK
  split <;> rfl

@[simp] theorem commitStep_teams (s : State) (wid : Nat) (c : Capsule) (st : CapStep) : (s.commitStep wid c st).teams = s.teams := by
  simp only [State.commitStep, State.dropEarlyBehind, State.dropEarlyAt, State.modCapsule, leaveSets_teams, modWarp_teams]
  split <;> simp

@[simp] theorem dropSteps_teams (s : State) (wid : Nat) (c : Capsule) : (s.dropSteps wid c).teams = s.teams :=
  foldl_teams _ (by intros; rfl) c.steps s

@[simp] theorem commitAll_teams (s : State) (wid n : Nat) : (s.commitAll wid n).teams = s.teams := by
  induction n generalizing s with
  | zero => rfl
  | succ n ih =>
    unfold State.commitAll
    split
    · rfl
    · split
      · rfl
      · split
        · rfl
        · split
          · simp [ih]
          · simp [State.holdRefusal]

@[simp] theorem displaceRecord_teams (s : State) (wid : Nat) (c : Capsule) : (s.displaceRecord wid c).teams = s.teams := by
  unfold State.displaceRecord
  split
  · rfl
  · split <;> simp

@[simp] theorem dropAdoption_teams (s : State) (wid : Nat) : (s.dropAdoption wid).teams = s.teams := by
  simp only [State.dropAdoption]
  split
  · simp
  · split
    · simp
    · split <;> simp

@[simp] theorem displace_teams (s : State) (wid : Nat) : (s.displace wid).teams = s.teams := by
  unfold State.displace
  split
  · rfl
  · split
    · simp
    · split <;> simp

@[simp] theorem capReturn_teams (s : State) (wid : Nat) : (s.capReturn wid).teams = s.teams := by
  unfold State.capReturn
  split
  · rfl
  · split
    · simp [teams_of_onlyUnits (visiblePoint_onlyUnits _ _)]
    · rfl

/-! ### Saves and resumes -/

@[simp] theorem leaveCore_teams (s : State) (tid gid core : Nat) : (s.leaveCore tid gid core).teams = s.teams := by
  simp only [State.leaveCore]
  split <;> rfl

@[simp] theorem seatMember_teams (s : State) (tid gid core : Nat) : (s.seatMember tid gid core).teams = s.teams := by
  simp only [State.seatMember]
  exact List.foldlRecOn (motive := fun q : State × List Seat => q.1.teams = s.teams) _ _ rfl (fun q hq p _ => hq)

@[simp] theorem moveCmds_teams (s : State) (tid : Nat) (old new_ : Team) : (s.moveCmds tid old new_).teams = s.teams := rfl

@[simp] theorem reformBond_teams (s : State) (tid : Nat) (t : Team) (b : SavedBond) : (s.reformBond tid t b).teams = s.teams := by
  simp only [State.reformBond]
  split <;> split <;> rfl

@[simp] theorem restorePlaner_teams (s : State) (tid : Nat) (t : Team) (p : SavedPlaner) : (s.restorePlaner tid t p).teams = s.teams := by
  simp only [State.restorePlaner]
  split <;> rfl

@[simp] theorem reissue_teams (s : State) (p : Nat × Frag) : (s.reissue p).teams = s.teams := by
  unfold State.reissue
  split
  · split
    · split
      · simp only
        split <;> simp
      · simp
      · rfl
    · rfl
  · rfl

@[simp] theorem settleHolder_teams (s : State) (p : Nat × Warp) : (s.settleHolder p).teams = s.teams := by
  unfold State.settleHolder
  split
  · rfl
  · split
    · rfl
    · simp only
      split
      · simp
      · split
        · simp
        · split <;> rfl

@[simp] theorem presentAgain_teams (s : State) (tid : Nat) : (s.presentAgain tid).teams = s.teams := by
  refine foldl_teams _ (fun s p => ?_) _ _
  split <;> rfl

@[simp] theorem readyAgain_teams (s : State) (tid : Nat) : (s.readyAgain tid).teams = s.teams := rfl

end Sys2Proof.Proofs

/-! What Lift does: admission, placement, slices and the choice of victims (R330, R336 to R349). -/

namespace Sys2Proof.Proofs

open Sys2Proof.Machine Sys2Proof.Safety Sys2Proof.Laws

/-! ### Admission -/

/-- The teams of a new grid are entries of the team table, and nothing else (R330). -/
theorem makeTeams_only (s : State) (grid n : Nat) :
    s.makeTeams grid n = { s with teams := (s.makeTeams grid n).teams, serial := (s.makeTeams grid n).serial } :=
  List.foldlRecOn (motive := fun t : State => t = { s with teams := t.teams, serial := t.serial }) _ _ rfl
    (fun t ht i _ => by rw [ht]; rfl)

/-- HEAD moves past the record of one queue, and memory stays (R329). -/
theorem takeRecord_results {s z : State} (q : Nat) (queues : z.queues = s.queues) (mem : z.mem = s.mem) (wgs : z.wgs = s.wgs) :
    ((z.takeRecord q).queue q).head = (s.queue q).head + 1 ∧ SameMemory s (z.takeRecord q) := by
  refine ⟨?_, mem, fun j => ?_⟩
  · rw [State.takeRecord, State.modQueue, queue_set, if_pos rfl, State.queue, queues]
    rfl
  · exact congrArg (fun t => (Table.get? t j).map Wg.bench) wgs

/-- A record that Lift takes becomes a grid of its own under the next identity, and its queue's HEAD moves on (R329, R330). -/
theorem admitRecord_results (s : State) (q : Nat) (r : RecordWords) :
    ∃ n, Table.get? (s.admitRecord q r).grids s.serial = some n ∧ n.record = recParse r ∧ n.ctx = (s.queue q).ctxid.toNat ∧ n.depth = 1 ∧
      n.parent = none ∧ ((s.admitRecord q r).queue q).head = (s.queue q).head + 1 ∧ SameMemory s (s.admitRecord q r) := by
  unfold State.admitRecord
  extract_lets d c s₁ p n g s₂ s₃ waits s₄
  have renewed : s₁.queues = s.queues ∧ s₁.mem = s.mem ∧ s₁.wgs = s.wgs ∧ s₁.grids = s.grids ∧ s₁.serial = s.serial := by
    simp only [s₁]
    split <;> exact ⟨rfl, rfl, rfl, rfl, rfl⟩
  clear_value s₁ waits
  have added : s₃.queues = s₁.queues ∧ s₃.mem = s₁.mem ∧ s₃.wgs = s₁.wgs ∧ s₃.grids = Table.set s₁.grids s₁.serial g := ⟨rfl, rfl, rfl, rfl⟩
  have trails : OnlyTrails s₃ s₄ := passOn_onlyTrails ..
  clear_value s₄ s₃ s₂
  obtain ⟨queues, mem, wgs, grids, serial⟩ := renewed
  obtain ⟨queues', mem', wgs', grids'⟩ := added
  have taken : Table.get? s₄.grids s.serial = some g := by rw [trails, grids', serial, get_set_same]
  obtain ⟨head, same⟩ := takeRecord_results (s := s) (z := s₄) q (by rw [trails, queues', queues]) (by rw [trails, mem', mem]) (by rw [trails, wgs', wgs])
  rw [makeTeams_only]
  exact ⟨g, taken, rfl, rfl, rfl, rfl, head, same⟩

/-! ### Placement -/

theorem mem_insertRank {s : State} {p x : Nat × Team} {l : List (Nat × Team)} : x ∈ s.insertRank p l ↔ x = p ∨ x ∈ l := by
  induction l with
  | nil => simp [State.insertRank]
  | cons q r ih =>
    unfold State.insertRank
    split
    · exact List.mem_cons
    · simp only [List.mem_cons, ih]
      exact or_left_comm

/-- Lift's order holds every team that waits or is saved (R340). -/
theorem mem_waiting {s : State} {p : Nat × Team} : p ∈ s.waiting ↔ p ∈ s.teams ∧ (p.2.state = .waiting ∨ p.2.state = .saved) := by
  have inserted (ps l : List (Nat × Team)) : p ∈ ps.foldl (fun l p => s.insertRank p l) l ↔ p ∈ ps ∨ p ∈ l := by
    induction ps generalizing l with
    | nil => simp
    | cons q r ih => simp only [List.foldl_cons, ih, mem_insertRank, List.mem_cons, or_assoc, or_left_comm]
  simp [State.waiting, inserted]

/-- A wait slice starts now, where none runs (R345). -/
theorem team_startWaitSlices (s : State) (failed : List Nat) (j : Nat) :
    (s.startWaitSlices failed).team? j =
      (s.team? j).map (fun t => if failed.contains j && t.waitStart.isNone then { t with waitStart := some s.tick } else t) := by
  have same : (s.startWaitSlices failed).teams = s.teams.map (fun p => (p.1,
      if failed.contains p.1 && p.2.waitStart.isNone then { p.2 with waitStart := some s.tick } else p.2)) :=
    List.map_congr_left (fun p _ => by split <;> rfl)
  rw [State.team?, same]
  exact get_map_val s.teams (fun i t => if failed.contains i && t.waitStart.isNone then { t with waitStart := some s.tick } else t) j

@[simp] theorem handTo_teams (s : State) (p : Carrier → Bool) (w g : Nat) (ls : Lanes) : (s.handTo p w g ls).teams = s.teams :=
  teams_of_onlyTrails (handTo_onlyTrails s p w g ls)

@[simp] theorem newWarp_teams (s : State) (gid : Nat) (t : Team) (r : Record) (member idx : Nat) (seat : Seat) :
    (s.newWarp gid t r member idx seat).teams = s.teams := by
  simp [State.newWarp]

/-- A member placed joins its team (R28). -/
theorem team_newWg (s : State) (tid : Nat) (t : Team) (r : Record) (member core j : Nat) :
    (s.newWg tid t r member core).team? j =
      if j = tid then (s.team? j).map (fun x => { x with wgs := x.wgs ++ [s.serial] }) else s.team? j := by
  have same : (s.newWg tid t r member core).teams = Table.modify s.teams tid (fun x => { x with wgs := x.wgs ++ [s.serial] }) :=
    List.foldlRecOn (motive := fun q : State × List Seat => q.1.teams = Table.modify s.teams tid (fun x => { x with wgs := x.wgs ++ [s.serial] }))
      _ _ rfl (fun q hq i _ => (newWarp_teams ..).trans hq)
  rw [State.team?, same]
  exact get_modify ..

/-- The members placed are as many as the footprint has cores (R28, R336). -/
theorem team_foldl_newWg (tid : Nat) (t : Team) (r : Record) (l : List (Nat × Nat)) {s : State} {x : Team} (hx : s.team? tid = some x) :
    ∃ ws, (l.foldl (fun s q => s.newWg tid t r q.2 q.1) s).team? tid = some { x with wgs := ws } ∧ ws.length = x.wgs.length + l.length := by
  induction l generalizing s x with
  | nil => exact ⟨x.wgs, hx, rfl⟩
  | cons q rest ih =>
    obtain ⟨ws, team, length⟩ := ih (s := s.newWg tid t r q.2 q.1) (x := { x with wgs := x.wgs ++ [s.serial] })
      (by rw [team_newWg, if_pos rfl, hx]; rfl)
    refine ⟨ws, team, length.trans ?_⟩
    simp only [List.length_append, List.length_cons, List.length_nil]
    omega

@[simp] theorem markCores_teams (s : State) (c : Nat) (cores : List Nat) : (s.markCores c cores).teams = s.teams := markDies_teams ..

/-- A team that is placed for the first time holds its footprint, with its channels earmarked and its run slice started (R336, R337, R345). -/
theorem placeTeam_results {s : State} {tid : Nat} {t : Team} (sp : Spot) {k : Record} (hk : s.recordOf t = some k) :
    ∃ n, (s.placeTeam tid t sp).team? tid = some n ∧ n.state = .resident ∧ n.cores = sp.cores ∧ (t.savedBonds = [] → n.earmark = sp.edges) ∧
      n.runStart = s.tick ∧ n.wgs.length = t.wgs.length + sp.cores.length := by
  simp only [State.placeTeam, hk]
  obtain ⟨ws, team, length⟩ := team_foldl_newWg tid _ k sp.cores.zipIdx ((team_set _ tid tid _).trans (if_pos rfl))
  refine ⟨_, team, rfl, rfl, fun none => ?_, rfl, ?_⟩
  · simp [Team.settleOn, Team.edgesOn, none]
  · simpa [Team.settleOn] using length

theorem mem_of_team {s : State} {id : Nat} {t : Team} (h : s.team? id = some t) : (id, t) ∈ s.teams := mem_of_get h

/-! ### Slices and victims -/

theorem firstChoice_eq_none {cs : List Choice} (h : firstChoice cs = none) : cs = [] := by
  cases cs with
  | nil => rfl
  | cons a r =>
    simp only [firstChoice] at h
    split at h
    · cases h
    · split at h <;> cases h

/-- The choice taken has the fewest victims (R346). -/
theorem firstChoice_spec {cs : List Choice} {c : Choice} (h : firstChoice cs = some c) :
    c ∈ cs ∧ ∀ d ∈ cs, c.victims.length ≤ d.victims.length := by
  induction cs generalizing c with
  | nil => cases h
  | cons a r ih =>
    simp only [firstChoice] at h
    split at h
    case h_1 none =>
      cases h
      simp [firstChoice_eq_none none]
    case h_2 d found =>
      obtain ⟨mem, low⟩ := ih found
      split at h
      case isTrue before =>
        cases h
        have few : c.victims.length ≤ a.victims.length := by
          simp only [Choice.before, Bool.or_eq_true, Bool.and_eq_true, decide_eq_true_eq, beq_iff_eq] at before
          omega
        exact ⟨List.mem_cons_of_mem _ mem, List.forall_mem_cons.mpr ⟨few, low⟩⟩
      case isFalse before =>
        cases h
        have few : a.victims.length ≤ d.victims.length := by
          simp only [Choice.before, Bool.or_eq_true, decide_eq_true_eq, not_or] at before
          omega
        exact ⟨List.mem_cons_self, List.forall_mem_cons.mpr ⟨Nat.le_refl _, fun e he => few.trans (low e he)⟩⟩

/-- A victim issues nothing from now on, and its wait slice starts (R345, R346). -/
def chosen (tick : Nat) (t : Team) : Team := { t with state := .chosen, waitStart := some tick }

theorem chosen_chosen (tick : Nat) : chosen tick ∘ chosen tick = chosen tick := rfl

theorem team_foldl_chosen (vs : List Nat) (s : State) (j : Nat) :
    (vs.foldl (fun s v => s.modTeam v (chosen s.tick)) s).team? j =
      if j ∈ vs then (s.team? j).map (chosen s.tick) else s.team? j := by
  induction vs generalizing s with
  | nil => rfl
  | cons v r ih =>
    simp only [List.foldl_cons, ih, team_mod, modTeam_tick, List.mem_cons]
    by_cases hv : j = v <;> by_cases hr : j ∈ r <;> simp [hv, hr, chosen_chosen]

/-- Victims are chosen, and the footprint is kept for the team that waits (R346, R347). -/
theorem team_preempt (s : State) (vs : List Nat) (i : Nat) (cores : List Nat) (j : Nat) :
    (s.preempt vs i cores).team? j =
      ((if j ∈ vs then (s.team? j).map (chosen s.tick) else s.team? j).map (fun t => if j = i then { t with target := cores } else t)) := by
  rw [← team_foldl_chosen, State.preempt, team_mod]
  by_cases hj : j = i
  · simp only [hj, if_true]
    rfl
  · simp only [hj, if_false, Option.map_id']
    rfl

/-- A victim that a choice names either waits in LWAIT for the grid or may be pre-empted for the team (R346, R347). -/
theorem victims_of_choices {s : State} {id : Nat} {t : Team} {k : Record} {vs : List Nat} {c : Choice} {j : Nat}
    (hc : c ∈ s.choices id t k (fun y => s.mayYield (s.clsOfTeam t) y.2 || vs.contains y.1)) (hj : j ∈ c.victims) :
    ∃ n, (j, n) ∈ s.teams ∧ (j ∈ vs ∨ (n.state = .resident ∧ (s.clsOfTeam t < s.clsOfTeam n ∨
      (s.clsOfTeam n = s.clsOfTeam t ∧ (n.runExpired = true ∨ s.sliceOver n n.runStart = true))))) := by
  unfold State.choices at hc
  split at hc
  · cases hc
  · obtain ⟨sp, _, hsp⟩ := List.mem_filterMap.mp hc
    dsimp only at hsp
    split at hsp
    case isFalse => cases hsp
    case isTrue fits =>
      cases hsp
      simp only [Bool.and_eq_true] at fits
      obtain ⟨⟨_, allowed⟩, _⟩ := fits
      obtain ⟨p, hp, rfl⟩ := List.mem_map.mp hj
      have may := List.all_eq_true.mp allowed p hp
      simp only [State.mayYield, Bool.or_eq_true, Bool.and_eq_true, beq_iff_eq, decide_eq_true_eq, List.contains_iff_mem] at may
      exact ⟨p.2, (List.mem_filter.mp hp).1, may.symm⟩

end Sys2Proof.Proofs

/-! What the events of Lift and of fragments leave, one by one (R34, R39, R86, R255, R342 to R348, R367, R390). -/

namespace Sys2Proof.Proofs

open Sys2Proof.Machine Sys2Proof.Safety Sys2Proof.Laws

/-! ### Slices -/

/-- A team that Lift fails to place begins a wait slice, where none runs (R345). -/
theorem placement_waits {s : State} {id : Nat} {t : Team} (none_ : s.firstPlaceable = none) (ht : s.team? id = some t)
    (waits : t.state = .waiting ∨ t.state = .saved) (idle : t.waitStart = none) :
    s.placement.team? id = some { t with waitStart := some s.tick } := by
  have listed : id ∈ s.waiting.map Prod.fst := List.mem_map.mpr ⟨(id, t), mem_waiting.mpr ⟨mem_of_team ht, waits⟩, rfl⟩
  simp [State.placement, none_, team_startWaitSlices, ht, listed, idle]

/-- The first team in Lift's order that can be placed is placed, where it has never been (R336, R340). -/
theorem placement_places {s : State} {id : Nat} {t : Team} {sp : Spot} {k : Record} (first : s.firstPlaceable = some (id, t, sp))
    (waits : t.state = .waiting) (hk : s.recordOf t = some k) :
    ∃ n, s.placement.team? id = some n ∧ n.state = .resident ∧ n.cores = sp.cores ∧ (t.savedBonds = [] → n.earmark = sp.edges) ∧
      n.runStart = s.tick ∧ n.wgs.length = t.wgs.length + sp.cores.length := by
  simp only [State.placement, first, waits, if_true]
  exact placeTeam_results (s := s.startWaitSlices (s.passedOver id)) sp hk

/-- What the expiry of a wait slice comes to for the team that waits (R345, R346). -/
theorem waitSlice_results {s : State} {id : Nat} {t : Team} {k : Record} (due : s.waiting.find? s.sliceDue = some (id, t))
    (ht : s.team? id = some t) (hk : s.recordOf t = some k) :
    let vs := s.waitersFor 10 t.grid
    let s' := s.modTeam id (fun t => { t with waitStart := some s.tick })
    let cs := s'.choices id t k (fun y => s'.mayYield (s'.clsOfTeam t) y.2 || vs.contains y.1)
    ∃ m, (s.waitSlice id).team? id = some m ∧ m.waitStart = some s.tick ∧
      (s'.targetHolds id t = true → s.waitSlice id = s') ∧
      (s'.targetHolds id t = false → cs = [] → ∃ q, s.waitSlice id = s'.modTeam id (fun t => { t with sought := some q })) ∧
      (s'.targetHolds id t = false → cs ≠ [] → ∃ c ∈ cs, m.target = c.spot.cores ∧ (∀ d ∈ cs, c.victims.length ≤ d.victims.length) ∧
        ∀ j n, j ∈ c.victims → j ≠ id → s.team? j = some n → (s.waitSlice id).team? j = some { n with state := .chosen, waitStart := some s.tick }) := by
  intro vs s' cs
  have own : s'.team? id = some { t with waitStart := some s.tick } := by rw [team_mod, if_pos rfl, ht]; rfl
  have other {j : Nat} (hj : j ≠ id) : s'.team? j = s.team? j := by rw [team_mod, if_neg hj]
  have eq : s.waitSlice id = if s'.targetHolds id t then s' else
      match firstChoice cs with
      | some c => s'.preempt c.victims id c.spot.cores
      | none => s'.seek id t k vs := by
    simp only [State.waitSlice, due, hk, if_true]
    rfl
  by_cases holds : s'.targetHolds id t = true
  · rw [eq, if_pos holds]
    exact ⟨_, own, rfl, fun _ => rfl, fun h => by simp [holds] at h, fun h => by simp [holds] at h⟩
  · rw [eq, if_neg holds]
    cases choice : firstChoice cs with
    | none =>
      have empty : cs = [] := firstChoice_eq_none choice
      have sought : ∃ q, s'.seek id t k vs = s'.modTeam id (fun t => { t with sought := some q }) := ⟨_, rfl⟩
      obtain ⟨q, hq⟩ := sought
      simp only [hq]
      exact ⟨_, by rw [team_mod, if_pos rfl, own]; rfl, rfl, fun h => absurd h holds, fun _ _ => ⟨q, rfl⟩, fun _ ne => absurd empty ne⟩
    | some c =>
      obtain ⟨mem, few⟩ := firstChoice_spec choice
      have victims : ∀ j n, j ∈ c.victims → j ≠ id → s.team? j = some n →
          (s'.preempt c.victims id c.spot.cores).team? j = some { n with state := .chosen, waitStart := some s.tick } := by
        intro j n hj hi hn
        rw [team_preempt, if_pos hj, other hi, hn]
        simp only [Option.map_some, hi, if_false]
        rfl
      have target : ∃ m, (s'.preempt c.victims id c.spot.cores).team? id = some m ∧ m.waitStart = some s.tick ∧ m.target = c.spot.cores := by
        rw [team_preempt, own]
        by_cases hid : id ∈ c.victims
        · rw [if_pos hid, Option.map_some, Option.map_some, if_pos rfl]
          exact ⟨_, rfl, rfl, rfl⟩
        · rw [if_neg hid, Option.map_some, if_pos rfl]
          exact ⟨_, rfl, rfl, rfl⟩
      obtain ⟨m, hm, wait, cores⟩ := target
      exact ⟨m, hm, wait, fun h => absurd h holds, fun _ h => absurd (h ▸ mem) List.not_mem_nil, fun _ _ => ⟨c, mem, cores, few, victims⟩⟩

/-- What is chosen for a team that waits in LWAIT names it as a victim (R347). -/
theorem mem_victims_of_lwaitChoice {s : State} {id n : Nat} {c : Choice} (h : s.lwaitChoice id = some (n, c)) : id ∈ c.victims := by
  obtain ⟨w, _, hw⟩ := List.exists_of_findSome?_eq_some h
  dsimp only at hw
  split at hw
  case isFalse => cases hw
  case isTrue =>
    split at hw
    case h_1 => cases hw
    case h_2 r _ =>
      obtain ⟨d, hd, eq⟩ := Option.map_eq_some_iff.mp hw
      obtain ⟨_, names⟩ := Option.filter_eq_some_iff.mp hd
      cases eq
      exact List.contains_iff_mem.mp names

/-- A team that waits in LWAIT for a grid is pre-empted for it (R39, R347). -/
theorem lwaitPreempt_results {s : State} {id n : Nat} {t : Team} {c : Choice} (ht : s.team? id = some t) (resident : t.state = .resident)
    (choice : s.lwaitChoice id = some (n, c)) (apart : n ∉ c.victims) :
    (∀ j m, j ∈ c.victims → s.team? j = some m → (s.lwaitPreempt id).team? j = some { m with state := .chosen, waitStart := some s.tick }) ∧
      ∀ m, s.team? n = some m → (s.lwaitPreempt id).team? n = some { m with target := c.spot.cores } := by
  have eq : s.lwaitPreempt id = s.preempt c.victims n c.spot.cores := by simp only [State.lwaitPreempt, ht, resident, choice, if_true]
  rw [eq]
  refine ⟨fun j m hj hm => ?_, fun m hm => ?_⟩
  · have other : j ≠ n := fun same => apart (same ▸ hj)
    rw [team_preempt, if_pos hj, hm]
    simp only [Option.map_some, other, if_false]
    rfl
  · rw [team_preempt, if_neg apart, hm]
    simp only [Option.map_some, if_true]

/-! ### Saves and resumes -/

theorem surrender_teams {s : State} {id : Nat} {t : Team} (ht : s.team? id = some t) :
    (s.surrender id).teams = Table.set s.teams id (s.imageEngines id t) := by
  simp only [State.surrender, ht]
  rw [foldl_teams _ (fun _ _ => passFrom_teams ..), foldl_teams _ (fun _ _ => by rfl), foldl_teams _ (fun _ _ => dropBond_teams ..)]
  rfl

/-- A quiesced team is saved, and holds no channel (R348). -/
theorem saveTeam_results {s : State} {id : Nat} {t : Team} (ht : s.team? id = some t) (saving : t.state = .saving) (quiet : s.quiesced id = true) :
    ∃ n, (s.saveTeam id).team? id = some n ∧ n.state = .saved ∧ n.earmark = 0 := by
  unfold State.saveTeam
  rw [ht]
  dsimp -zeta only
  rw [if_pos ⟨saving, quiet⟩]
  extract_lets c gs planers s₁ s₂ s₃ ws s₄
  have imaged : s₂.teams = Table.set s.teams id (s.imageEngines id t) :=
    calc s₂.teams = s₁.teams := foldl_teams _ (fun _ _ => leaveCore_teams ..) _ _
      _ = (s.surrender id).teams := foldl_teams _ (fun _ _ => displace_teams ..) _ _
      _ = _ := surrender_teams ht
  have there : s₂.team? id = some (s.imageEngines id t) := by rw [State.team?, imaged, get_set_same]
  have left : s₄.team? id = s₃.team? id := rfl
  have last : (gs.foldl (fun s g => (s.grantMsm g.2.core).jigLeave g.2.core c) s₄).teams = s₄.teams := foldl_teams _ (fun _ _ => by simp) _ _
  rw [State.team?, last, ← State.team?, left]
  simp only [s₃, team_mod, if_true, there, Option.map_some]
  exact ⟨_, rfl, rfl, rfl⟩

/-- A saved team that can be placed holds its new footprint (R367). -/
theorem resumeTeam_results {s : State} {id : Nat} {t : Team} {sp : Spot} (first : s.firstPlaceable = some (id, t, sp)) (saved : t.state = .saved) :
    ∃ n, (s.resumeTeam id).team? id = some n ∧ n.state = .resident ∧ n.cores = sp.cores ∧ n.runStart = s.tick := by
  unfold State.resumeTeam
  rw [first]
  dsimp -zeta only
  rw [if_pos ⟨rfl, saved⟩]
  extract_lets c settled new s₁ s₂ s₃ s₄ s₅ s₆ s₇ s₈ s₉
  have last : ((s₉.presentAgain id).readyAgain id).teams = s₁.teams :=
    calc ((s₉.presentAgain id).readyAgain id).teams = s₉.teams := by simp
      _ = s₈.teams := foldl_teams _ (fun _ _ => settleHolder_teams ..) _ _
      _ = s₇.teams := foldl_teams _ (fun _ _ => reissue_teams ..) _ _
      _ = s₆.teams := foldl_teams _ (fun _ _ => restorePlaner_teams ..) _ _
      _ = s₅.teams := foldl_teams _ (by intros; rfl) _ _
      _ = s₄.teams := foldl_teams _ (fun _ _ => reformBond_teams ..) _ _
      _ = s₃.teams := foldl_teams _ (by intros; rfl) _ _
      _ = s₂.teams := moveCmds_teams ..
      _ = s₁.teams := foldl_teams _ (fun _ _ => seatMember_teams ..) _ _
  have placed : s₁.team? id = some new := (team_set ..).trans (if_pos rfl)
  rw [State.team?, last]
  exact ⟨new, placed, rfl, rfl, rfl⟩

/-! ### Retirement -/

@[simp] theorem mapTrails_warps (s : State) (f : Trail → Trail) : (s.mapTrails f).warps = s.warps := by rw [mapTrails_onlyTrails s f]

@[simp] theorem passOn_warps (s : State) (p : Carrier → Bool) (c : Carrier) : (s.passOn p c).warps = s.warps := mapTrails_warps s _
@[simp] theorem overwritten_warps (s : State) (ls : List Loc) : (s.overwritten ls).warps = s.warps := mapTrails_warps s _

@[simp] theorem writeDone_warps (s : State) (q i : Nat) (user : Word) (pre status : Nat) : (s.writeDone q i user pre status).warps = s.warps := by
  unfold State.writeDone
  split
  · rfl
  · dsimp only
    split <;> simp

@[simp] theorem releaseGrid_warps (s : State) (gid : Nat) (g : Grid) (done : Option (List Loc)) : (s.releaseGrid gid g done).warps = s.warps := by
  simp only [State.releaseGrid]
  split <;> split <;> simp

@[simp] theorem retireGrid_warps (s : State) (n gid : Nat) : (s.retireGrid n gid).warps = s.warps := by
  induction n generalizing s gid with
  | zero => rfl
  | succ n ih =>
    unfold State.retireGrid
    split
    · rfl
    · split
      · dsimp only
        split <;> simp [ih]
      · rfl

theorem freePlaner_warps (s : State) (core : Nat) : (s.freePlaner core).warps ⊆ s.warps := by
  unfold State.freePlaner State.clearPlaner
  split
  · exact List.Subset.refl _
  · exact fun p hp => (List.mem_filter.mp hp).1

theorem retireTeam_warps (s : State) (tid : Nat) : (s.retireTeam tid).warps ⊆ s.warps := by
  unfold State.retireTeam
  split
  · exact List.Subset.refl _
  · dsimp only
    rw [retireGrid_warps]
    exact fun p hp => (List.mem_filter.mp hp).1

@[simp] theorem jigLeave_warps (s : State) (core c : Nat) : (s.jigLeave core c).warps = s.warps := by
  unfold State.jigLeave
  split <;> rfl

/-- A workgroup that retires takes warps away, and changes none (R34). -/
theorem retireWg_warps (s : State) (gid : Nat) : (s.retireWg gid).warps ⊆ s.warps := by
  unfold State.retireWg
  split
  case h_1 => exact List.Subset.refl _
  case h_2 g _ =>
    split
    case isFalse => exact List.Subset.refl _
    case isTrue =>
      extract_lets c s₁ s₂ s₃ s₄ s₅
      have planer : s₁.warps ⊆ s.warps := by
        simp only [s₁]
        split
        · exact freePlaner_warps ..
        · exact List.Subset.refl _
      have trails : s₃.warps = s₁.warps := by
        simp only [s₃]
        split
        · exact mapTrails_warps ..
        · rfl
      have left : s₅.warps ⊆ s.warps := by
        rw [jigLeave_warps, trails]
        exact planer
      split
      · exact List.Subset.trans (retireTeam_warps ..) left
      · exact left

theorem retireWarp_eq {s : State} {id : Nat} {w : Warp} (hw : s.warp? id = some w) (may : s.mayRetire id w = true) :
    ∃ y : State, s.retireWarp id = (y.modWarp id (fun x => { x with retired := true })).retireWg w.wg := by
  unfold State.retireWarp
  rw [hw]
  dsimp -zeta only
  rw [if_pos may]
  exact ⟨_, rfl⟩

/-- A drained warp has retired, or is gone with its workgroup (R34, R325). -/
theorem retireWarp_results {s : State} {id : Nat} {w n : Warp} (hw : s.warp? id = some w) (may : s.mayRetire id w = true)
    (hn : (s.retireWarp id).warp? id = some n) : n.retired = true := by
  obtain ⟨y, eq⟩ := retireWarp_eq hw may
  rw [eq] at hn
  obtain ⟨p, _, same⟩ := List.mem_map.mp (retireWg_warps _ _ (mem_of_get hn))
  split at same
  case isTrue => cases same; rfl
  case isFalse other => exact absurd (congrArg Prod.fst same) other

/-! ### Fragments -/

theorem jigUnload_frags (s : State) (core : Nat) (reset : Bool) : (s.jigUnload core reset).frags = s.frags ∧ (s.jigUnload core reset).tick = s.tick := by
  unfold State.jigUnload
  split <;> exact ⟨rfl, rfl⟩

/-- A configuration that yields leaves the fragments as they are (R296). -/
theorem jigYield_frags (s : State) (core : Nat) : (s.jigYield core).frags = s.frags ∧ (s.jigYield core).tick = s.tick := by
  unfold State.jigYield State.jigEnds
  split
  · exact ⟨rfl, rfl⟩
  · split
    · exact ⟨rfl, rfl⟩
    · exact jigUnload_frags ..

theorem promote_eq {s : State} {id : Nat} {v : View} (hv : s.nextView id = some v) (may : s.mayPromote v = true) :
    ∃ y : State, y.frags = s.frags ∧ y.tick = s.tick ∧ s.promote id = y.modFrag id (fun f => { f with promoted := some y.tick, yieldUntil := 0 }) := by
  simp only [State.promote, hv, may, if_true]
  split
  · split
    · exact ⟨_, rfl, rfl, rfl⟩
    · obtain ⟨frags, tick⟩ := jigYield_frags s v.g.core
      exact ⟨_, frags, tick, rfl⟩
  · exact ⟨_, rfl, rfl, rfl⟩

/-- A fragment that has been ready for long is promoted now (R342). -/
theorem promote_results {s : State} {id : Nat} {v : View} {f : Frag} (hv : s.nextView id = some v) (hf : s.frag? id = some f)
    (may : s.mayPromote v = true) : ∃ n, (s.promote id).frag? id = some n ∧ n.promoted = some s.tick ∧ n.yieldUntil = 0 := by
  obtain ⟨y, frags, tick, eq⟩ := promote_eq hv may
  have held : y.frag? id = some f := by rw [State.frag?, frags]; exact hf
  rw [eq, frag_mod, if_pos rfl, held]
  exact ⟨_, rfl, congrArg some tick, rfl⟩

/-- A window that is over gives way to a new one (R86). -/
theorem startWindow_results {g : Wg} (ended : g.windowOver = true) :
    g.startWindow.evtcnt = [] ∧ g.startWindow.evtstat = g.evtstat &&& 0xFFFFFFF0 ∧ g.startWindow.window = g.window % (1024 * bitsAt g.evtctl 0 16) := by
  rw [Wg.startWindow, if_pos ended]
  exact ⟨rfl, rfl, congrArg (g.window % ·) (Nat.mul_comm ..)⟩

/-- Settles O59: every clause is what the lemma about its event's function says. -/
theorem schedulingEventResults : Obligations.SchedulingEventResults := by
  unfold Obligations.SchedulingEventResults
  intro s id q r t k sp c w g v f e x h
  refine ⟨fun none => ?_, fun head => ?_, fun first ht waits hk => ?_, fun none ht waits idle => ?_, fun ht resident ended => ?_, ?_,
    fun n ht resident choice apart => ?_, fun ht saving quiet => ?_, fun first ht saved => ?_, fun hw may => ?_, fun hg ended => ?_,
    fun hv _ hf may => ?_, fun hf due => ?_, fun hf fails => ?_, fun hf held => ?_⟩
  case refine_1 =>
    have eq : s.admission = s := by simp only [State.admission, none]
    exact congrArg Host.Outcome.next eq
  case refine_2 =>
    have eq : s.admission = s.admitRecord q r := by simp only [State.admission, head]
    obtain ⟨n, results⟩ := admitRecord_results s q r
    exact ⟨_, n, congrArg Host.Outcome.next eq, results⟩
  case refine_3 =>
    obtain ⟨n, results⟩ := placement_places first waits hk
    exact ⟨_, n, rfl, results⟩
  case refine_4 => exact ⟨_, rfl, placement_waits none ht waits idle⟩
  case refine_5 =>
    have eq : s.runSlice id = s.setTeam id { t with runExpired := true } := by simp only [State.runSlice, ht, resident, ended, and_self, if_true]
    exact congrArg Host.Outcome.next eq
  case refine_6 =>
    intro vs s' cs due ht hk
    obtain ⟨m, hm, wait, holds, sought, chosen⟩ := waitSlice_results due ht hk
    exact ⟨_, m, rfl, hm, wait, holds, sought, chosen, fun c hc j hj => victims_of_choices hc hj⟩
  case refine_7 =>
    obtain ⟨victims, target⟩ := lwaitPreempt_results ht resident choice apart
    exact ⟨_, rfl, mem_victims_of_lwaitChoice choice, victims, target⟩
  case refine_8 =>
    obtain ⟨n, results⟩ := saveTeam_results ht saving quiet
    exact ⟨_, n, rfl, results⟩
  case refine_9 =>
    obtain ⟨n, results⟩ := resumeTeam_results first saved
    exact ⟨_, n, rfl, results⟩
  case refine_10 => exact ⟨_, rfl, fun n hn => retireWarp_results hw may hn⟩
  case refine_11 =>
    have started : (s.modWg id Wg.startWindow).wg? id = some g.startWindow := by rw [wg_mod, if_pos rfl, hg, Option.map_some]
    exact ⟨_, _, rfl, started, startWindow_results ended⟩
  case refine_12 =>
    obtain ⟨n, results⟩ := promote_results hv hf may
    exact ⟨_, n, rfl, results⟩
  case refine_13 =>
    have eq : (fun y : Frag => if y.yieldUntil ≤ s.tick then { y with yieldUntil := 0 } else y) =
        fun y => { y with yieldUntil := if y.yieldUntil ≤ s.tick then 0 else y.yieldUntil } := by
      funext y
      split <;> rfl
    exact congrArg (fun m => Host.Outcome.next (s.modFrag id m)) eq
  case refine_14 =>
    have eq : s.fetchFaultAt id = s.fetchFails id f e := by simp only [State.fetchFaultAt, hf, fails]
    exact congrArg Host.Outcome.next eq
  case refine_15 =>
    have eq : s.deliverHeld id = s.takeHeld id f h := by simp only [State.deliverHeld, hf, held]
    simp only [State.takeHeld, List.drop_one] at eq
    exact congrArg Host.Outcome.next eq

end Sys2Proof.Proofs

/-! When flags reach FSTAT (R81, R82, R98). -/

namespace Sys2Proof.Proofs

open Sys2Proof.Machine Sys2Proof.Safety Sys2Proof.Laws

/-- Raising events changes no more than the record of the group. -/
theorem raiseEvents_frag (s : State) (fs : List (BitVec 5)) (j : Nat) : (s.raiseEvents fs).frag? j = s.frag? j := by
  simp only [State.raiseEvents]
  split <;> rfl

/-- A fragment put in its place is found there. -/
theorem frag_set_same (s : State) (i : Nat) (f : Frag) : (s.setFrag i f).frag? i = some f := by rw [frag_set, if_pos rfl]

/-- A changed fragment is found changed. -/
theorem frag_mod_same {s : State} {i : Nat} {f : Frag} (hf : s.frag? i = some f) (g : Frag → Frag) : (s.modFrag i g).frag? i = some (g f) := by
  rw [frag_mod, if_pos rfl, hf, Option.map_some]

/-- A fragment's pending write stands in its list, and Vmax covers it. -/
theorem frag_putPend {s : State} {v : View} {f : Frag} (hf : s.frag? v.fid = some f) (lat : Nat) (x : PendVal) :
    (s.putPend v lat x).frag? v.fid = some (f.addPend ⟨v.t + lat, x⟩) :=
  frag_mod_same hf _

/-- What a tick leaves of a fragment's FSTAT: a contribution joins what stands there, a write replaces it. -/
def fstatAfter (x : BitVec 5) : PendVal → BitVec 5
  | .fstat y => y
  | .flags y => x ||| y
  | _ => x

/-- A result that becomes visible changes FSTAT where it is a contribution to it or a write of it. -/
theorem fstat_applyPend {s : State} {fid : Nat} {f : Frag} (hf : s.frag? fid = some f) (wid : Nat) (p : PendVal) :
    ∃ g, (s.applyPend fid wid p).frag? fid = some g ∧ g.fstat = fstatAfter f.fstat p := by
  cases p with
  | scal n x =>
    simp only [State.applyPend]
    split
    · exact ⟨f, hf, rfl⟩
    · exact ⟨_, frag_mod_same hf _, rfl⟩
  | ctl n x =>
    simp only [State.applyPend]
    split
    · exact ⟨f, hf, rfl⟩
    · refine ⟨_, frag_mod_same hf _, ?_⟩
      simp only [Frag.setTrapReg]
      split <;> rfl
  | vec | kreg | qmap | carried => exact ⟨f, hf, rfl⟩
  | mask | fmt | fstat | flags => exact ⟨_, frag_mod_same hf _, rfl⟩

/-- Results that become visible change FSTAT one after another, in their order. -/
theorem fstat_applyPends {fid : Nat} (wid : Nat) (ps : List Pend) {s : State} {f : Frag} (hf : s.frag? fid = some f) :
    ((s.applyPends fid wid ps).frag? fid).map Frag.fstat = some (ps.foldl (fun x p => fstatAfter x p.val) f.fstat) := by
  induction ps generalizing s f with
  | nil => rw [State.applyPends, List.foldl_nil, List.foldl_nil, hf, Option.map_some]
  | cons p r ih =>
    obtain ⟨g, hg, eq⟩ := fstat_applyPend hf wid p.val
    rw [List.foldl_cons, ← eq]
    exact ih hg

/-- FSTAT at a tick: the results due by then, in their order. -/
theorem fstat_setTick {s : State} {fid : Nat} {f : Frag} (hf : s.frag? fid = some f) (t : Nat) :
    ((s.setTick fid t).frag? fid).map Frag.fstat =
      some ((f.pend.filter (fun p => decide (p.vis ≤ t))).foldl (fun x p => fstatAfter x p.val) f.fstat) := by
  simp only [State.setTick, hf]
  have waits := frag_set_same s fid { f with t := t, pend := f.pend.filter (fun p => decide (t < p.vis)) }
  have shown := fstat_applyPends f.warp (f.pend.filter (fun p => decide (p.vis ≤ t))) waits
  exact shown

/-- Settles O15: a contribution waits in the list of pending writes for its tick, and of one tick it is applied after a write of FSTAT. -/
theorem flagsBecomeVisible : Obligations.FlagsBecomeVisible := by
  unfold Obligations.FlagsBecomeVisible
  refine ⟨fun s fid f w a t x y hf _ quiet => ?_, fun s v f lat fs hf => ?_⟩
  · have one : (f.addPend ⟨a, .flags x⟩).pend = [⟨a, .flags x⟩] := by rw [Frag.addPend, quiet]; rfl
    have two : ((f.addPend ⟨a, .flags x⟩).addPend ⟨a, .fstat y⟩).pend = [⟨a, .fstat y⟩, ⟨a, .flags x⟩] := by
      rw [Frag.addPend, one]
      simp [insertPend, Pend.key]
    rw [fstat_setTick (frag_set_same ..), fstat_setTick (frag_set_same ..), one, two]
    by_cases due : a ≤ t <;> simp [due, fstatAfter, Frag.addPend]
  · rw [State.raiseFlags, raiseEvents_frag, frag_putPend hf]
    rfl

end Sys2Proof.Proofs

/-! Rounding to one of two neighbours (R67, R68): what the comparison of a discarded part with half a unit says of the exact value. -/

namespace Sys2Proof.Proofs

open Sys2Proof.Machine Sys2Proof.Safety

/-- x lies rem of unit equal parts of the way from lo to hi; a sticky x lies further by less than one part, and the number of parts is even. -/
structure Between (lo hi x : ℝ) (rem unit : ℕ) (sticky : Bool) : Prop where
  parts : ∃ g : ℝ, 0 < g ∧ hi - lo = unit * g ∧ (sticky = false → x - lo = rem * g) ∧
    (sticky = true → rem * g < x - lo ∧ x - lo < (rem + 1) * g)
  short : rem < unit
  even : sticky = true → unit % 2 = 0

/-- Whether a mode takes the upper of the neighbours lo and hi of x, the lower one having an odd code or not (R67). -/
def UpRule (rm : Rm) (neg : Bool) (lo hi x : ℝ) (odd up : Bool) : Prop :=
  (x = lo → up = false) ∧ (x ≠ lo →
    (rm = .rz ∨ (rm = .ru ∧ neg = true) ∨ (rm = .rd ∧ neg = false) → up = false) ∧
    ((rm = .ru ∧ neg = false) ∨ (rm = .rd ∧ neg = true) → up = true) ∧
    (rm = .rne ∨ rm = .rna → (x - lo < hi - x → up = false) ∧ (hi - x < x - lo → up = true) ∧
      (x - lo = hi - x → (rm = .rne → up = odd) ∧ (rm = .rna → up = true))))

section

variable {lo hi x : ℝ} {rem unit : ℕ} {sticky : Bool}

theorem Between.low_le (h : Between lo hi x rem unit sticky) : lo ≤ x := by
  obtain ⟨g, hg, -, exact_, more⟩ := h.parts
  have start : 0 ≤ (rem : ℝ) * g := by positivity
  cases sticky with
  | false => linarith [exact_ rfl]
  | true => linarith [(more rfl).1]

theorem Between.lt_high (h : Between lo hi x rem unit sticky) : x < hi := by
  obtain ⟨g, hg, span, exact_, more⟩ := h.parts
  have last : (rem + 1 : ℝ) * g ≤ unit * g := mul_le_mul_of_nonneg_right (by exact_mod_cast h.short) hg.le
  cases sticky with
  | false => linarith [exact_ rfl]
  | true => linarith [(more rfl).2]

/-- x is its lower neighbour exactly where nothing is discarded. -/
theorem Between.eq_low_iff (h : Between lo hi x rem unit sticky) : x = lo ↔ rem = 0 ∧ sticky = false := by
  obtain ⟨g, hg, -, exact_, more⟩ := h.parts
  cases sticky with
  | false =>
    have offset : x - lo = rem * g := exact_ rfl
    rw [← sub_eq_zero, offset]
    simp [hg.ne']
  | true =>
    have start : 0 ≤ (rem : ℝ) * g := by positivity
    have further := (more rfl).1
    simp only [Bool.true_eq_false, and_false, iff_false]
    intro eq
    linarith

/-- x is nearer to its lower neighbour exactly where less than half is discarded. -/
theorem Between.nearer_low_iff (h : Between lo hi x rem unit sticky) : x - lo < hi - x ↔ 2 * rem < unit := by
  obtain ⟨g, hg, span, exact_, more⟩ := h.parts
  have halves : x - lo < hi - x ↔ 2 * (x - lo) < unit * g := by rw [← span]; constructor <;> intro <;> linarith
  rw [halves]
  cases sticky with
  | false =>
    rw [exact_ rfl, ← mul_assoc, mul_lt_mul_iff_left₀ hg]
    exact_mod_cast Iff.rfl
  | true =>
    obtain ⟨above, below⟩ := more rfl
    have even := h.even rfl
    constructor
    · intro less
      have : (2 * rem : ℝ) * g < unit * g := by linarith
      exact_mod_cast (mul_lt_mul_iff_left₀ hg).mp this
    · intro less
      have two : 2 * (rem + 1) ≤ unit := by omega
      have : (2 * (rem + 1) : ℝ) * g ≤ unit * g := mul_le_mul_of_nonneg_right (by exact_mod_cast two) hg.le
      linarith

/-- x is nearer to its upper neighbour exactly where more than half is discarded. -/
theorem Between.nearer_high_iff (h : Between lo hi x rem unit sticky) :
    hi - x < x - lo ↔ unit < 2 * rem ∨ (2 * rem = unit ∧ sticky = true) := by
  obtain ⟨g, hg, span, exact_, more⟩ := h.parts
  have halves : hi - x < x - lo ↔ unit * g < 2 * (x - lo) := by rw [← span]; constructor <;> intro <;> linarith
  rw [halves]
  cases sticky with
  | false =>
    rw [exact_ rfl, ← mul_assoc, mul_lt_mul_iff_left₀ hg]
    simp only [Bool.false_eq_true, and_false, or_false]
    exact_mod_cast Iff.rfl
  | true =>
    obtain ⟨above, below⟩ := more rfl
    have even := h.even rfl
    simp only [and_true]
    constructor
    · intro more_
      have : (unit : ℝ) * g < (2 * (rem + 1) : ℝ) * g := by linarith
      have : unit < 2 * (rem + 1) := by exact_mod_cast (mul_lt_mul_iff_left₀ hg).mp this
      omega
    · intro half
      have : (unit : ℝ) * g ≤ (2 * rem : ℝ) * g := mul_le_mul_of_nonneg_right (by exact_mod_cast (by omega : unit ≤ 2 * rem)) hg.le
      linarith

/-- The comparison of the discarded part decides as the mode says of the exact value. -/
theorem roundsUp_rule (h : Between lo hi x rem unit sticky) (rm : Rm) (neg odd : Bool) :
    UpRule rm neg lo hi x odd (roundsUp rm neg odd rem unit sticky) := by
  have near := h.nearer_low_iff
  have far := h.nearer_high_iff
  have tie : x - lo = hi - x ↔ ¬(2 * rem < unit) ∧ ¬(unit < 2 * rem ∨ (2 * rem = unit ∧ sticky = true)) := by
    rw [← near, ← far, not_lt, not_lt]
    exact ⟨fun eq => ⟨eq.ge, eq.le⟩, fun le => le_antisymm le.2 le.1⟩
  have short := h.short
  simp only [UpRule, Ne, h.eq_low_iff, near, far, tie]
  cases rm with
  | rz => simp [roundsUp]
  | ru => cases neg <;> cases sticky <;> simp [roundsUp]
  | rd => cases neg <;> cases sticky <;> simp [roundsUp]
  | rne => cases odd <;> cases sticky <;> simp [roundsUp] <;> omega
  | rna => cases sticky <;> simp [roundsUp] <;> omega

end

end Sys2Proof.Proofs

/-! Values in the unbounded layout of a format (R58, R68), and what rounding to a whole number of units takes (R67). -/

namespace Sys2Proof.Proofs

open Sys2Proof.Machine Sys2Proof.Safety

/-! ### Units -/

/-- x is m units of 2^e, and where sticky a part of one unit more. -/
def Reads (m : ℕ) (e : ℤ) (sticky : Bool) (x : ℝ) : Prop :=
  (sticky = false → x = m * 2 ^ e) ∧ (sticky = true → m * 2 ^ e < x ∧ x < (m + 1) * 2 ^ e)

theorem two_zpow_pos (e : ℤ) : (0 : ℝ) < 2 ^ e := by positivity

/-- Units of 2^e counted in smaller units. -/
theorem two_zpow_split {K : Type*} [Field K] [CharZero K] {e q : ℤ} (h : q ≤ e) : (2 : K) ^ e = 2 ^ (e - q).toNat * 2 ^ q := by
  rw [← zpow_natCast, ← zpow_add₀ two_ne_zero, Int.toNat_of_nonneg (by omega)]
  congr 1
  omega

theorem Reads.low_le {m : ℕ} {e : ℤ} {sticky : Bool} {x : ℝ} (h : Reads m e sticky x) : m * 2 ^ e ≤ x := by
  cases sticky with
  | false => exact (h.1 rfl).ge
  | true => exact (h.2 rfl).1.le

theorem Reads.lt_high {m : ℕ} {e : ℤ} {sticky : Bool} {x : ℝ} (h : Reads m e sticky x) : x < (m + 1) * 2 ^ e := by
  cases sticky with
  | false => rw [h.1 rfl]; linarith [two_zpow_pos e]
  | true => exact (h.2 rfl).2

theorem Reads.pos {m : ℕ} {e : ℤ} {sticky : Bool} {x : ℝ} (h : Reads m e sticky x) (hm : 0 < m) : 0 < x :=
  lt_of_lt_of_le (mul_pos (by exact_mod_cast hm) (two_zpow_pos e)) h.low_le

/-- A power of two more or less. -/
theorem Reads.shift {m : ℕ} {e : ℤ} {sticky : Bool} {x : ℝ} (h : Reads m e sticky x) (j : ℤ) : Reads m (e + j) sticky (x * 2 ^ j) := by
  have pos := two_zpow_pos j
  have scale (a : ℝ) : a * 2 ^ (e + j) = a * 2 ^ e * 2 ^ j := by rw [zpow_add₀ two_ne_zero, mul_assoc]
  refine ⟨fun eq => ?_, fun eq => ?_⟩
  · rw [scale, h.1 eq]
  · rw [scale, scale]
    exact ⟨mul_lt_mul_of_pos_right (h.2 eq).1 pos, mul_lt_mul_of_pos_right (h.2 eq).2 pos⟩

/-- The exponent of the leading bit is that of the value. -/
theorem Reads.lead {m : ℕ} {e : ℤ} {sticky : Bool} {x : ℝ} (h : Reads m e sticky x) (hm : 0 < m) :
    2 ^ leadExp m e ≤ x ∧ x < 2 ^ (leadExp m e + 1) := by
  have first : (2 ^ Nat.log2 m : ℝ) ≤ m := by exact_mod_cast Nat.log2_self_le hm.ne'
  have last : (m + 1 : ℝ) ≤ 2 ^ (Nat.log2 m + 1) := by exact_mod_cast Nat.lt_log2_self
  have pos := two_zpow_pos e
  constructor
  · rw [leadExp, zpow_add₀ two_ne_zero, zpow_natCast]
    exact (mul_le_mul_of_nonneg_right first pos.le).trans h.low_le
  · have eq : (2 : ℝ) ^ (leadExp m e + 1) = 2 ^ (Nat.log2 m + 1) * 2 ^ e := by
      rw [leadExp, ← zpow_natCast, ← zpow_add₀ two_ne_zero]
      push_cast
      congr 1
      omega
    rw [eq]
    exact h.lt_high.trans_le (mul_le_mul_of_nonneg_right last pos.le)

/-- The number r.1 of units of 2^q that x is rounded to is one of its neighbours n and n + 1, by the mode's rule, and r.2 says that x is not n units. -/
structure TakesUnits (rm : Rm) (neg : Bool) (x : ℝ) (q : ℤ) (r : ℕ × Bool) (n : ℕ) (up : Bool) : Prop where
  low : n * 2 ^ q ≤ x
  high : x < (n + 1) * 2 ^ q
  rule : UpRule rm neg (n * 2 ^ q) ((n + 1) * 2 ^ q) x (n % 2 == 1) up
  units : r.1 = n + up.toNat
  inexact : r.2 = true ↔ x ≠ n * 2 ^ q

theorem takesUnits_of_between {x : ℝ} {q : ℤ} {n rem unit : ℕ} {sticky : Bool} (h : Between (n * 2 ^ q) ((n + 1) * 2 ^ q) x rem unit sticky)
    (rm : Rm) (neg : Bool) : TakesUnits rm neg x q
      (n + (if roundsUp rm neg (n % 2 == 1) rem unit sticky then 1 else 0), decide (rem ≠ 0) || sticky) n
      (roundsUp rm neg (n % 2 == 1) rem unit sticky) where
  low := h.low_le
  high := h.lt_high
  rule := roundsUp_rule h rm neg _
  units := by cases roundsUp rm neg (n % 2 == 1) rem unit sticky <;> rfl
  inexact := by
    simp only [ne_eq, h.eq_low_iff]
    cases sticky <;> simp

/-- Rounding to whole units takes a neighbour by the mode's rule; what is sticky must be less than a unit. -/
theorem roundUnits_takes {m : ℕ} {e q : ℤ} {sticky : Bool} {x : ℝ} (h : Reads m e sticky x) (fine : sticky = true → e < q) (rm : Rm) (neg : Bool) :
    ∃ n up, TakesUnits rm neg x q (roundUnits rm neg m e q sticky) n up := by
  by_cases whole : q ≤ e
  · obtain rfl : sticky = false := by
      cases sticky with
      | false => rfl
      | true => exact absurd (fine rfl) (by omega)
    refine ⟨m * 2 ^ (e - q).toNat, false, ?_⟩
    have eq : ((m * 2 ^ (e - q).toNat : ℕ) : ℝ) * 2 ^ q = x := by
      rw [h.1 rfl, two_zpow_split whole]
      push_cast
      ring
    have none_ : roundsUp rm neg (m % 2 == 1) 0 1 false = false := by cases rm <;> rfl
    refine ⟨eq.le, ?_, ⟨fun _ => rfl, fun ne => absurd eq.symm ne⟩, ?_, ?_⟩
    · linarith [two_zpow_pos q]
    · simp [roundUnits, whole, none_]
    · simp only [roundUnits, if_pos whole, Bool.false_eq_true, false_iff, not_not]
      exact eq.symm
  · have less : e ≤ q := by omega
    have steps : (q - e).toNat ≠ 0 := by omega
    have eq : roundUnits rm neg m e q sticky = _ := if_neg whole
    rw [eq]
    refine ⟨_, _, takesUnits_of_between ?_ rm neg⟩
    have divided : (m : ℝ) = (m / 2 ^ (q - e).toNat : ℕ) * 2 ^ (q - e).toNat + (m % 2 ^ (q - e).toNat : ℕ) := by
      exact_mod_cast (Nat.div_add_mod' m _).symm
    refine ⟨⟨2 ^ e, two_zpow_pos e, ?_, fun hs => ?_, fun hs => ?_⟩, Nat.mod_lt _ (by positivity), fun _ => ?_⟩
    · rw [two_zpow_split less, Nat.cast_pow, Nat.cast_two]
      ring
    · rw [h.1 hs, two_zpow_split less, divided]
      ring
    · obtain ⟨above, below⟩ := h.2 hs
      rw [two_zpow_split less]
      rw [divided] at above below
      constructor <;> linarith
    · exact Nat.mod_eq_zero_of_dvd (dvd_pow_self 2 steps)

/-! ### Codes of formats with an exponent field -/

theorem frac_pos (f : Fmt) : 0 < f.frac := by cases f <;> decide

/-- The layout with an exponent field. -/
theorem unbounded_layout {f : Fmt} (hf : f ≠ .mf8) (c : ℕ) : unbounded f c = if c < 2 ^ f.frac then (c : ℚ) * 2 ^ (1 - f.bias - f.frac)
    else (1 + (c % 2 ^ f.frac : ℕ) / 2 ^ f.frac) * 2 ^ ((c / 2 ^ f.frac : ℕ) - f.bias) := by
  cases f with
  | mf8 => exact absurd rfl hf
  | _ => rfl

/-- A code of the lowest binade, or the first of the next. -/
theorem unbounded_low {f : Fmt} (hf : f ≠ .mf8) {c : ℕ} (h : c ≤ 2 ^ f.frac) : unbounded f c = c * 2 ^ (1 - f.bias - f.frac) := by
  rw [unbounded_layout hf]
  split
  · rfl
  · obtain rfl : c = 2 ^ f.frac := by omega
    rw [Nat.mod_self, Nat.div_self (by positivity)]
    push_cast
    rw [zpow_sub₀ two_ne_zero (1 - f.bias), zpow_natCast]
    field_simp
    ring

/-- A code of a binade with exponent field k, or the first of the next. -/
theorem unbounded_high {f : Fmt} (hf : f ≠ .mf8) {k t : ℕ} (hk : 0 < k) (h : t ≤ 2 ^ f.frac) :
    unbounded f (k * 2 ^ f.frac + t) = (2 ^ f.frac + t : ℕ) * 2 ^ ((k : ℤ) - f.bias - f.frac) := by
  have pos : 0 < 2 ^ f.frac := by positivity
  have large : 2 ^ f.frac ≤ k * 2 ^ f.frac := Nat.le_mul_of_pos_left _ hk
  rw [unbounded_layout hf, if_neg (by omega)]
  rcases h.lt_or_eq with less | rfl
  · have quot : (k * 2 ^ f.frac + t) / 2 ^ f.frac = k := by rw [Nat.add_comm, Nat.add_mul_div_right _ _ pos, Nat.div_eq_of_lt less, Nat.zero_add]
    have rest : (k * 2 ^ f.frac + t) % 2 ^ f.frac = t := by rw [Nat.add_comm, Nat.add_mul_mod_self_right, Nat.mod_eq_of_lt less]
    rw [quot, rest]
    push_cast
    rw [zpow_sub₀ two_ne_zero ((k : ℤ) - f.bias), zpow_natCast]
    field_simp
  · have eq : k * 2 ^ f.frac + 2 ^ f.frac = (k + 1) * 2 ^ f.frac := by ring
    rw [eq, Nat.mul_div_cancel _ pos, Nat.mul_mod_left]
    push_cast
    rw [zpow_sub₀ two_ne_zero ((k : ℤ) - f.bias), zpow_natCast, add_sub_right_comm, zpow_add₀ two_ne_zero]
    field_simp
    ring

/-- The number of units of a code, as of packUnits: either of the lowest unit, or a full significand. -/
def Packable (f : Fmt) (n : ℕ) (q : ℤ) : Prop :=
  n < 2 ^ (f.frac + 1) ∧ (q = 1 - f.bias - f.frac ∨ (1 - f.bias - f.frac ≤ q ∧ 2 ^ f.frac ≤ n))

/-- Units have the value of their code, and so has one unit more. -/
theorem unbounded_packUnits {f : Fmt} (hf : f ≠ .mf8) {n : ℕ} {q : ℤ} (h : Packable f n q) :
    unbounded f (packUnits f n q) = n * 2 ^ q ∧ packUnits f (n + 1) q = packUnits f n q + 1 ∧
      unbounded f (packUnits f n q + 1) = (n + 1) * 2 ^ q ∧ packUnits f n q % 2 = n % 2 := by
  obtain ⟨hn, hq⟩ := h
  have size : 2 ^ (f.frac + 1) = 2 * 2 ^ f.frac := by rw [pow_succ]; ring
  have even : 2 ^ f.frac % 2 = 0 := Nat.mod_eq_zero_of_dvd (dvd_pow_self 2 (frac_pos f).ne')
  by_cases low : n < 2 ^ f.frac
  · obtain rfl : q = 1 - f.bias - f.frac := by omega
    have one : (1 - f.bias - f.frac + f.frac + f.bias).toNat = 1 := by omega
    simp only [packUnits, if_pos low, one]
    refine ⟨unbounded_low hf low.le, ?_, ?_, trivial⟩
    · split <;> omega
    · rw [unbounded_low hf low]
      push_cast
      rfl
  · have full : 2 ^ f.frac ≤ n := by omega
    obtain ⟨k, hk⟩ : ∃ k : ℕ, q + f.frac + f.bias = k := ⟨(q + f.frac + f.bias).toNat, by omega⟩
    have exponent : q = (k : ℤ) - f.bias - f.frac := by omega
    have positive : 0 < k := by omega
    have more : ¬n + 1 < 2 ^ f.frac := by omega
    have here : k * 2 ^ f.frac + (n - 2 ^ f.frac) + 1 = k * 2 ^ f.frac + (n + 1 - 2 ^ f.frac) := by omega
    have parity : k * 2 ^ f.frac % 2 = 0 := by rw [Nat.mul_mod, even, Nat.mul_zero, Nat.zero_mod]
    simp only [packUnits, if_neg low, if_neg more, hk, Int.toNat_natCast]
    refine ⟨?_, here.symm, ?_, by omega⟩
    · rw [unbounded_high hf positive (by omega), ← exponent, show 2 ^ f.frac + (n - 2 ^ f.frac) = n by omega]
    · rw [here, unbounded_high hf positive (by omega), ← exponent, show 2 ^ f.frac + (n + 1 - 2 ^ f.frac) = n + 1 by omega]
      push_cast
      rfl

/-- Magnitudes of a format with an exponent field rise with their codes. -/
theorem unbounded_lt_succ_ieee {f : Fmt} (hf : f ≠ .mf8) (c : ℕ) : unbounded f c < unbounded f (c + 1) := by
  by_cases low : c < 2 ^ f.frac
  · rw [unbounded_low hf low.le, unbounded_low hf low]
    exact mul_lt_mul_of_pos_right (by exact_mod_cast Nat.lt_succ_self c) (by positivity)
  · have pos : 0 < 2 ^ f.frac := by positivity
    have positive : 0 < c / 2 ^ f.frac := Nat.div_pos (by omega) pos
    have rest := Nat.mod_lt c pos
    have parts : c / 2 ^ f.frac * 2 ^ f.frac + c % 2 ^ f.frac = c := Nat.div_add_mod' c _
    have here := unbounded_high hf positive rest.le
    have next := unbounded_high hf positive (t := c % 2 ^ f.frac + 1) rest
    rw [← Nat.add_assoc, parts] at next
    rw [parts] at here
    rw [here, next]
    exact mul_lt_mul_of_pos_right (by exact_mod_cast Nat.lt_succ_self _) (by positivity)

end Sys2Proof.Proofs

/-! The codes of MF8 (R62), and the code that a mode takes for a magnitude (R67, R68): there is one, and the rule of the neighbours finds it. -/

namespace Sys2Proof.Proofs

open Sys2Proof.Machine Sys2Proof.Safety

/-! ### MF8 -/

/-- Magnitudes over one exponent compare as their values do. -/
theorem magLt_iff {K : Type*} [Field K] [LinearOrder K] [IsStrictOrderedRing K] {m n : ℕ} {e d : ℤ} :
    magLt m e n d = true ↔ (m : K) * 2 ^ e < n * 2 ^ d := by
  rw [two_zpow_split (min_le_left e d), two_zpow_split (min_le_right e d), ← mul_assoc, ← mul_assoc,
    mul_lt_mul_iff_left₀ (zpow_pos two_pos _), magLt, decide_eq_true_iff]
  norm_cast

/-- An MF8 code has the value of its significand and exponent. -/
theorem unbounded_mf8 (c : ℕ) : unbounded .mf8 c = (mf8Mag c).1 * 2 ^ (mf8Mag c).2 := by
  simp only [unbounded, mf8Mag]
  split
  · simp
  · split
    · rw [zpow_sub₀ two_ne_zero, zpow_natCast]
      push_cast
      field_simp
    · push_cast
      rw [zpow_sub₀ two_ne_zero _ ((c.log2 - min 2 c.log2 : ℕ) : ℤ), zpow_natCast]
      field_simp

theorem mf8Mag_zero : mf8Mag 0 = (0, 0) := by decide

/-- The significand and the exponent of a code of the top band or above. -/
theorem mf8Mag_high {c : ℕ} (h : 64 ≤ c) : mf8Mag c = (16 + c % 16, (((c - 64) / 16 : ℕ) : ℤ) - 4) := by
  rw [mf8Mag, if_neg (by omega), if_pos h]

/-- MF8 magnitudes rise with their codes: below the top band code by code, and from there on in each band and from band to band. -/
theorem unbounded_lt_succ_mf8 (c : ℕ) : unbounded .mf8 c < unbounded .mf8 (c + 1) := by
  have small : ∀ c < 64, magLt (mf8Mag c).1 (mf8Mag c).2 (mf8Mag (c + 1)).1 (mf8Mag (c + 1)).2 = true := by decide
  by_cases low : c < 64
  · rw [unbounded_mf8, unbounded_mf8]
    exact magLt_iff.mp (small c low)
  · rw [unbounded_mf8, unbounded_mf8, mf8Mag_high (by omega), mf8Mag_high (by omega)]
    dsimp only
    by_cases last : c % 16 = 15
    · have band : (c + 1 - 64) / 16 = (c - 64) / 16 + 1 := by omega
      have first : (c + 1) % 16 = 0 := by omega
      have pos : (0 : ℚ) < 2 ^ ((((c - 64) / 16 : ℕ) : ℤ) - 4) := by positivity
      have double : (2 : ℚ) ^ ((((c - 64) / 16 + 1 : ℕ) : ℤ) - 4) = 2 * 2 ^ ((((c - 64) / 16 : ℕ) : ℤ) - 4) := by
        rw [← zpow_one_add₀ two_ne_zero]
        congr 1
        omega
      rw [band, first, last, double, ← mul_assoc]
      exact mul_lt_mul_of_pos_right (by norm_num) pos
    · have band : (c + 1 - 64) / 16 = (c - 64) / 16 := by omega
      have next : (c + 1) % 16 = c % 16 + 1 := by omega
      rw [band, next]
      exact mul_lt_mul_of_pos_right (by push_cast; linarith) (by positivity)

theorem unbounded_strictMono (f : Fmt) : StrictMono (unbounded f) := by
  refine strictMono_nat_of_lt_succ (fun c => ?_)
  by_cases hf : f = .mf8
  · rw [hf]
    exact unbounded_lt_succ_mf8 c
  · exact unbounded_lt_succ_ieee hf c

theorem unbounded_zero (f : Fmt) : unbounded f 0 = 0 := by
  by_cases hf : f = .mf8
  · simp [hf, unbounded_mf8, mf8Mag_zero]
  · rw [unbounded_low hf (Nat.zero_le _), Nat.cast_zero, zero_mul]

/-! ### The code that a mode takes -/

/-- The rule of the neighbours decides. -/
theorem upRule_unique {rm : Rm} {neg odd up down : Bool} {lo hi x : ℝ} (h : UpRule rm neg lo hi x odd up) (k : UpRule rm neg lo hi x odd down) :
    up = down := by
  by_cases same : x = lo
  · rw [h.1 same, k.1 same]
  · obtain ⟨hl, hu, hn⟩ := h.2 same
    obtain ⟨kl, ku, kn⟩ := k.2 same
    cases rm with
    | rz => rw [hl (.inl rfl), kl (.inl rfl)]
    | ru => cases neg <;> simp_all
    | rd => cases neg <;> simp_all
    | rne =>
      obtain ⟨near, far, tie⟩ := hn (.inl rfl)
      obtain ⟨near', far', tie'⟩ := kn (.inl rfl)
      rcases lt_trichotomy (x - lo) (hi - x) with less | eq | more
      · rw [near less, near' less]
      · rw [(tie eq).1 rfl, (tie' eq).1 rfl]
      · rw [far more, far' more]
    | rna =>
      obtain ⟨near, far, tie⟩ := hn (.inr rfl)
      obtain ⟨near', far', tie'⟩ := kn (.inr rfl)
      rcases lt_trichotomy (x - lo) (hi - x) with less | eq | more
      · rw [near less, near' less]
      · rw [(tie eq).2 rfl, (tie' eq).2 rfl]
      · rw [far more, far' more]

/-- For every value and mode the rule takes one of the neighbours. -/
theorem upRule_exists (rm : Rm) (neg odd : Bool) (lo hi x : ℝ) : ∃ up, UpRule rm neg lo hi x odd up := by
  by_cases same : x = lo
  · exact ⟨false, fun _ => rfl, fun ne => absurd same ne⟩
  · have upper (up : Bool) (h : x ≠ lo → _) : ∃ up, UpRule rm neg lo hi x odd up := ⟨up, fun eq => absurd eq same, h⟩
    cases rm with
    | rz => exact upper false (by simp)
    | ru => exact upper (!neg) (by cases neg <;> simp)
    | rd => exact upper neg (by cases neg <;> simp)
    | rne =>
      rcases lt_trichotomy (x - lo) (hi - x) with less | eq | more
      · exact upper false (by simp [less, less.le, less.ne])
      · exact upper odd (by simp [eq])
      · exact upper true (by simp [more, more.le, more.ne'])
    | rna =>
      rcases lt_trichotomy (x - lo) (hi - x) with less | eq | more
      · exact upper false (by simp [less, less.le, less.ne])
      · exact upper true (by simp [eq])
      · exact upper true (by simp [more, more.le, more.ne'])

/-- The code that a mode takes is that of the lower neighbour, or the next, by the rule. -/
theorem takes_iff (f : Fmt) (rm : Rm) (neg : Bool) (x : ℝ) (c : ℕ) : Takes f rm neg x c ↔ ∃ (l : ℕ) (up : Bool), (unbounded f l : ℝ) ≤ x ∧
    x < unbounded f (l + 1) ∧ c = l + up.toNat ∧ UpRule rm neg (unbounded f l) (unbounded f (l + 1)) x (l % 2 == 1) up := by
  constructor
  · rintro ⟨l, low, high, side, here, rule⟩
    have no : c = l → decide (c = l + 1) = false := by simp +contextual
    have yes : c = l + 1 → decide (c = l + 1) = true := by simp
    have even : c % 2 = 0 → decide (c = l + 1) = (l % 2 == 1) := by
      rcases side with rfl | rfl
      · simp +contextual
      · intro h
        have odd : l % 2 = 1 := by omega
        simp [odd]
    refine ⟨l, decide (c = l + 1), low, high, ?_, fun eq => no (here eq), fun ne => ?_⟩
    · rcases side with rfl | rfl <;> simp
    · obtain ⟨lower, upper, nearest⟩ := rule ne
      refine ⟨fun h => no (lower h), fun h => yes (upper h), fun h => ?_⟩
      obtain ⟨near, far, tie⟩ := nearest h
      exact ⟨fun h => no (near h), fun h => yes (far h), fun h => ⟨fun r => even ((tie h).1 r), fun r => yes ((tie h).2 r)⟩⟩
  · rintro ⟨l, up, low, high, rfl, here, rule⟩
    have no : up = false → l + up.toNat = l := by rintro rfl; rfl
    have yes : up = true → l + up.toNat = l + 1 := by rintro rfl; rfl
    have even : up = (l % 2 == 1) → (l + up.toNat) % 2 = 0 := by
      rintro rfl
      rcases Nat.mod_two_eq_zero_or_one l with h | h <;> simp [h, Nat.add_mod]
    refine ⟨l, low, high, ?_, fun eq => no (here eq), fun ne => ?_⟩
    · cases up <;> simp
    · obtain ⟨lower, upper, nearest⟩ := rule ne
      refine ⟨fun h => no (lower h), fun h => yes (upper h), fun h => ?_⟩
      obtain ⟨near, far, tie⟩ := nearest h
      exact ⟨fun h => no (near h), fun h => yes (far h), fun h => ⟨fun r => even ((tie h).1 r), fun r => yes ((tie h).2 r)⟩⟩

/-- A magnitude lies between two neighbouring codes only. -/
theorem floor_unique {f : Fmt} {x : ℝ} {l k : ℕ} (low : (unbounded f l : ℝ) ≤ x) (high : x < unbounded f (l + 1))
    (low' : (unbounded f k : ℝ) ≤ x) (high' : x < unbounded f (k + 1)) : l = k := by
  have less : l < k + 1 := (unbounded_strictMono f).lt_iff_lt.mp (by exact_mod_cast low.trans_lt high')
  have more : k < l + 1 := (unbounded_strictMono f).lt_iff_lt.mp (by exact_mod_cast low'.trans_lt high)
  omega

/-- A mode takes one code. -/
theorem takes_unique {f : Fmt} {rm : Rm} {neg : Bool} {x : ℝ} {c d : ℕ} (h : Takes f rm neg x c) (k : Takes f rm neg x d) : c = d := by
  obtain ⟨l, up, low, high, rfl, rule⟩ := (takes_iff ..).mp h
  obtain ⟨l', down, low', high', rfl, rule'⟩ := (takes_iff ..).mp k
  obtain rfl := floor_unique low high low' high'
  rw [upRule_unique rule rule']

/-- A magnitude that a code has is taken as that code. -/
theorem takes_held (f : Fmt) (rm : Rm) (neg : Bool) (c : ℕ) : Takes f rm neg (unbounded f c) c :=
  (takes_iff ..).mpr ⟨c, false, le_rfl, by exact_mod_cast unbounded_strictMono f c.lt_succ_self, rfl, fun _ => rfl, fun ne => absurd rfl ne⟩

/-- A value below its upper neighbour is its code's magnitude only as the lower neighbour. -/
theorem eq_unbounded_iff {f : Fmt} {rm : Rm} {neg odd up : Bool} {x : ℝ} {l : ℕ} (high : x < unbounded f (l + 1))
    (rule : UpRule rm neg (unbounded f l) (unbounded f (l + 1)) x odd up) : x = unbounded f (l + up.toNat) ↔ x = unbounded f l := by
  constructor
  · intro eq
    cases up with
    | false => exact eq
    | true => exact absurd (eq ▸ high) (lt_irrefl _)
  · intro eq
    rw [rule.1 eq]
    exact eq

end Sys2Proof.Proofs

/-! Rounding into a format (R68, R69, R73): the result of the model is that of the exact value. -/

namespace Sys2Proof.Proofs

open Sys2Proof.Machine Sys2Proof.Safety

/-- A significand that leaves a sticky part has at least two bits more than the format keeps. -/
def Fine (f : Fmt) (m : ℕ) (sticky : Bool) : Prop := sticky = true → 2 ^ (f.frac + 2) ≤ m

/-- An overflow's code is what the modes say of it. -/
theorem overflowCode_eq (f : Fmt) (o : Over) (rm : Rm) (neg : Bool) : overflowCode f o rm neg =
    f.signBit neg + (if o = .narrow ∨ rm = .rz ∨ (rm = .ru ∧ neg = true) ∨ (rm = .rd ∧ neg = false) then f.maxCode else f.infCode) := by
  cases o with
  | narrow => simp [overflowCode]
  | arith => cases rm <;> cases neg <;> simp [overflowCode]

/-! ### Formats with an exponent field -/

/-- Counting in other units at another scale comes to the same. -/
theorem roundUnits_shift (rm : Rm) (neg : Bool) (m : ℕ) (e q j : ℤ) (sticky : Bool) :
    roundUnits rm neg m (e + j) (q + j) sticky = roundUnits rm neg m e q sticky := by
  simp only [roundUnits, add_le_add_iff_right, add_sub_add_right_eq_sub]

theorem leadExp_shift (m : ℕ) (e j : ℤ) : leadExp m (e + j) = leadExp m e + j := by
  rw [leadExp, leadExp, add_assoc]

section

variable {f : Fmt} {m : ℕ} {e : ℤ} {sticky : Bool} {x : ℝ}

/-- What is sticky is less than the unit of the last place. -/
theorem Fine.unit_gt (fine : Fine f m sticky) (hs : sticky = true) : e < leadExp m e - f.frac := by
  have many := fine hs
  have some_ : m ≠ 0 := (lt_of_lt_of_le (by positivity) many).ne'
  have bits : f.frac + 2 ≤ Nat.log2 m := (Nat.le_log2 some_).mpr many
  rw [leadExp]
  omega

/-- The units of the last place of a value make a code. -/
theorem packable_of_reads (h : Reads m e sticky x) (hm : 0 < m) {n : ℕ} {q : ℤ} (hq : q = max (leadExp m e) (1 - f.bias) - f.frac)
    (low : n * 2 ^ q ≤ x) (high : x < (n + 1) * 2 ^ q) : Packable f n q := by
  obtain ⟨first, last⟩ := h.lead hm
  have pos := two_zpow_pos q
  have double : 2 ^ (f.frac + 1) = 2 * 2 ^ f.frac := by rw [pow_succ, mul_comm]
  have full (k : ℤ) (hk : k = q + f.frac) : (2 : ℝ) ^ k = (2 ^ f.frac : ℕ) * 2 ^ q := by
    rw [hk, add_comm, zpow_add₀ two_ne_zero]
    push_cast
    rw [zpow_natCast]
  by_cases normal : 1 - f.bias ≤ leadExp m e
  · have lead : leadExp m e = q + f.frac := by omega
    rw [zpow_add_one₀ two_ne_zero, full _ lead] at last
    rw [full _ lead] at first
    have below : (n : ℝ) < 2 * (2 ^ f.frac : ℕ) := lt_of_mul_lt_mul_right (by linarith) pos.le
    have above : ((2 ^ f.frac : ℕ) : ℝ) < n + 1 := lt_of_mul_lt_mul_right (by linarith) pos.le
    have below : n < 2 * 2 ^ f.frac := by exact_mod_cast below
    have above : 2 ^ f.frac < n + 1 := by exact_mod_cast above
    exact ⟨by omega, .inr ⟨by omega, by omega⟩⟩
  · have lowest : q = 1 - f.bias - f.frac := by omega
    have top : (2 : ℝ) ^ (leadExp m e + 1) ≤ (2 ^ f.frac : ℕ) * 2 ^ q := by
      rw [← full (1 - f.bias) (by omega)]
      exact zpow_le_zpow_right₀ one_le_two (by omega)
    have below : (n : ℝ) < (2 ^ f.frac : ℕ) := lt_of_mul_lt_mul_right (by linarith) pos.le
    have below : n < 2 ^ f.frac := by exact_mod_cast below
    exact ⟨by omega, .inl lowest⟩

/-- The units that the value is rounded to make the code that the mode takes. -/
theorem takes_packUnits (hf : f ≠ .mf8) (h : Reads m e sticky x) (hm : 0 < m) (fine : Fine f m sticky) (rm : Rm) (neg : Bool) {q : ℤ}
    (hq : q = max (leadExp m e) (1 - f.bias) - f.frac) :
    let r := roundUnits rm neg m e q sticky
    Takes f rm neg x (packUnits f r.1 q) ∧ (unbounded f (packUnits f r.1 q) : ℝ) = r.1 * 2 ^ q ∧
      (r.2 = true ↔ x ≠ unbounded f (packUnits f r.1 q)) := by
  obtain ⟨n, up, taken⟩ := roundUnits_takes h (fun hs => by have := fine.unit_gt (e := e) hs; omega) rm neg (q := q)
  obtain ⟨value, next, above, parity⟩ := unbounded_packUnits hf (packable_of_reads h hm hq taken.low taken.high)
  have valueR : (unbounded f (packUnits f n q) : ℝ) = n * 2 ^ q := by rw [value]; push_cast; rfl
  have aboveR : (unbounded f (packUnits f n q + 1) : ℝ) = (n + 1) * 2 ^ q := by rw [above]; push_cast; rfl
  have code : packUnits f (n + up.toNat) q = packUnits f n q + up.toNat := by
    cases up with
    | false => rfl
    | true => exact next
  have high : x < unbounded f (packUnits f n q + 1) := aboveR ▸ taken.high
  have rule : UpRule rm neg (unbounded f (packUnits f n q)) (unbounded f (packUnits f n q + 1)) x (packUnits f n q % 2 == 1) up := by
    rw [valueR, aboveR, parity]
    exact taken.rule
  dsimp only
  rw [taken.units, code]
  refine ⟨(takes_iff ..).mpr ⟨_, up, valueR ▸ taken.low, high, rfl, rule⟩, ?_, ?_⟩
  · cases up with
    | false => simpa using valueR
    | true => simpa using aboveR
  · rw [taken.inexact, ← valueR, Ne, Ne, eq_unbounded_iff high rule]

/-- A value is tiny where, rounded with an exponent that has no bound below, it lies below the smallest normal value (R73). -/
theorem tiny_iff (hf : f ≠ .mf8) (h : Reads m e sticky x) (hm : 0 < m) (fine : Fine f m sticky) (rm : Rm) (neg : Bool) (c : ℕ) :
    Tiny f rm neg x c ↔
      magLt (roundUnits rm neg m e (leadExp m e - f.frac) sticky).1 (leadExp m e - f.frac) 1 (1 - f.bias) = true := by
  have scaled (j : ℕ) (normal : 1 - f.bias ≤ leadExp m e + j) : ∃ d, Takes f rm neg (x * 2 ^ j) d ∧
      ((unbounded f d : ℝ) < 2 ^ (1 - f.bias) * 2 ^ j ↔
        magLt (roundUnits rm neg m e (leadExp m e - f.frac) sticky).1 (leadExp m e - f.frac) 1 (1 - f.bias) = true) := by
    have units : leadExp m e - f.frac + j = max (leadExp m (e + j)) (1 - f.bias) - f.frac := by
      rw [leadExp_shift, max_eq_left normal]
      ring
    obtain ⟨taken, value, -⟩ := takes_packUnits hf (h.shift j) hm fine rm neg units
    rw [roundUnits_shift] at taken value
    rw [zpow_natCast] at taken
    refine ⟨_, taken, ?_⟩
    rw [value, magLt_iff (K := ℝ), zpow_add₀ two_ne_zero, ← mul_assoc, zpow_natCast, mul_lt_mul_iff_left₀ (by positivity), Nat.cast_one, one_mul]
  rw [Tiny, if_neg hf]
  constructor
  · rintro ⟨j, d, normal, taken, less⟩
    have top : (2 : ℝ) ^ (1 - f.bias) < 2 ^ (leadExp m e + j + 1) := by
      refine normal.trans_lt ?_
      rw [add_right_comm, zpow_add₀ two_ne_zero (leadExp m e + 1), zpow_natCast]
      exact mul_lt_mul_of_pos_right (h.lead hm).2 (by positivity)
    have exponents := (zpow_lt_zpow_iff_right₀ one_lt_two).mp top
    obtain ⟨d', taken', iff⟩ := scaled j (by omega)
    rw [takes_unique taken taken'] at less
    exact iff.mp less
  · intro less
    obtain ⟨d, taken, iff⟩ := scaled (1 - f.bias - leadExp m e).toNat (by omega)
    refine ⟨_, d, ?_, taken, iff.mpr less⟩
    calc (2 : ℝ) ^ (1 - f.bias) ≤ 2 ^ (leadExp m e + (1 - f.bias - leadExp m e).toNat) := zpow_le_zpow_right₀ one_le_two (by omega)
      _ = 2 ^ leadExp m e * 2 ^ (1 - f.bias - leadExp m e).toNat := by rw [zpow_add₀ two_ne_zero, zpow_natCast]
      _ ≤ x * 2 ^ (1 - f.bias - leadExp m e).toNat := mul_le_mul_of_nonneg_right (h.lead hm).1 (by positivity)

theorem roundIeee_roundsTo (hf : f ≠ .mf8) (h : Reads m e sticky x) (hm : 0 < m) (fine : Fine f m sticky) (o : Over) (rm : Rm) (neg : Bool) :
    RoundsTo f o rm neg x (roundIeee f o rm neg m e sticky) := by
  obtain ⟨taken, -, inexact⟩ := takes_packUnits hf h hm fine rm neg rfl
  have tiny := tiny_iff hf h hm fine rm neg
  refine ⟨_, taken, fun beyond => ?_, fun within => ⟨?_, fun eq => ?_, fun ne => ⟨fun small => ?_, fun large => ?_⟩⟩⟩
  · simp only [roundIeee, if_pos beyond, overflowCode_eq]
    rfl
  all_goals simp only [roundIeee, if_neg within.not_gt]
  · rw [if_neg (fun both => hf both.1)]
  · rw [Bool.eq_false_iff.mpr (fun t => inexact.mp t eq), Bool.false_and]
    rfl
  · rw [inexact.mpr ne, (tiny _).mp small]
    rfl
  · rw [inexact.mpr ne, Bool.eq_false_iff.mpr (fun t => large ((tiny _).mpr t))]
    rfl

end

/-! ### MF8 -/

/-- The floor found from a code downward is the greatest code up to it whose magnitude is not above the value. -/
theorem mf8Floor_spec (m : ℕ) (e : ℤ) (l : ℕ) : mf8Floor m e l ≤ l ∧ (unbounded .mf8 (mf8Floor m e l) : ℝ) ≤ m * 2 ^ e ∧
    (mf8Floor m e l = l ∨ m * 2 ^ e < (unbounded .mf8 (mf8Floor m e l + 1) : ℝ)) := by
  have value (c : ℕ) : (unbounded .mf8 c : ℝ) = (mf8Mag c).1 * 2 ^ (mf8Mag c).2 := by rw [unbounded_mf8]; push_cast; rfl
  induction l with
  | zero =>
    rw [mf8Floor, unbounded_zero, Rat.cast_zero]
    exact ⟨le_rfl, by positivity, .inl rfl⟩
  | succ l ih =>
    rw [mf8Floor]
    split
    · rename_i less
      obtain ⟨le, low, high⟩ := ih
      refine ⟨by omega, low, .inr ?_⟩
      rcases high with eq | high
      · rw [eq, value]
        exact magLt_iff.mp less
      · exact high
    · rename_i more
      refine ⟨le_rfl, ?_, .inl rfl⟩
      rw [value]
      exact not_lt.mp (fun less => more (magLt_iff.mpr less))

/-- The units of neighbouring MF8 codes are not much smaller than their magnitudes. -/
theorem mf8Mag_coarse {l : ℕ} (h : l < 128) : magLt 64 (mf8Mag (l + 1)).2 (mf8Mag (l + 1)).1 (mf8Mag (l + 1)).2 = false ∧
    magLt 64 (mf8Mag l).2 (mf8Mag (l + 1)).1 (mf8Mag (l + 1)).2 = false := by
  have codes : ∀ l < 128, magLt 64 (mf8Mag (l + 1)).2 (mf8Mag (l + 1)).1 (mf8Mag (l + 1)).2 = false ∧
    magLt 64 (mf8Mag l).2 (mf8Mag (l + 1)).1 (mf8Mag (l + 1)).2 = false := by decide
  exact codes l h

/-- A value counted in the units of its neighbours; what is sticky is less than one of them, and the neighbours are even numbers of them. -/
theorem between_of_units {m A X B : ℕ} {e b : ℤ} {sticky : Bool} {lo hi x : ℝ} (h : Reads m e sticky x) (low : lo = A * 2 ^ b)
    (high : hi = B * 2 ^ b) (here : (m : ℝ) * 2 ^ e = X * 2 ^ b) (above : A ≤ X) (below : X < B)
    (fine : sticky = true → e = b ∧ A % 2 = 0 ∧ B % 2 = 0) : Between lo hi x (X - A) (B - A) sticky := by
  refine ⟨⟨2 ^ b, two_zpow_pos b, ?_, fun hs => ?_, fun hs => ?_⟩, by omega, fun hs => ?_⟩
  · rw [low, high, Nat.cast_sub (above.trans below.le)]
    ring
  · rw [h.1 hs, here, low, Nat.cast_sub above]
    ring
  · obtain ⟨rfl, -, -⟩ := fine hs
    obtain ⟨more, less⟩ := h.2 hs
    rw [low, Nat.cast_sub above]
    rw [here] at more
    rw [add_mul, here] at less
    constructor <;> linarith
  · obtain ⟨-, even, even'⟩ := fine hs
    omega

/-- A significand of 64 or more of value below a bound of at most 64 units has smaller units. -/
theorem exponent_lt {m n : ℕ} {e d k : ℤ} (many : 64 ≤ m) (less : (m : ℝ) * 2 ^ e < n * 2 ^ d) (coarse : magLt 64 k n d = false) : e < k := by
  have bound : (n : ℝ) * 2 ^ d ≤ 64 * 2 ^ k := by
    have := mt (magLt_iff (K := ℝ)).mpr (Bool.eq_false_iff.mp coarse)
    exact_mod_cast not_lt.mp this
  have most : (64 : ℝ) * 2 ^ e ≤ m * 2 ^ e := mul_le_mul_of_nonneg_right (by exact_mod_cast many) (two_zpow_pos e).le
  have less : (2 : ℝ) ^ e < 2 ^ k := by linarith
  exact (zpow_lt_zpow_iff_right₀ one_lt_two).mp less

/-- A value between two neighbouring MF8 codes, as the model counts it. -/
theorem between_mf8 {m l : ℕ} {e : ℤ} {sticky : Bool} {x : ℝ} (h : Reads m e sticky x) (fine : Fine .mf8 m sticky) (hl : l < 128)
    (low : (unbounded .mf8 l : ℝ) ≤ m * 2 ^ e) (high : m * 2 ^ e < (unbounded .mf8 (l + 1) : ℝ)) :
    let lo := mf8Mag l
    let hi := mf8Mag (l + 1)
    let b := min e (min lo.2 hi.2)
    Between (unbounded .mf8 l) (unbounded .mf8 (l + 1)) x (m * 2 ^ (e - b).toNat - lo.1 * 2 ^ (lo.2 - b).toNat)
      (hi.1 * 2 ^ (hi.2 - b).toNat - lo.1 * 2 ^ (lo.2 - b).toNat) sticky := by
  intro lo hi b
  have pos := two_zpow_pos b
  have count (n : ℕ) (d : ℤ) (hd : b ≤ d) : (n : ℝ) * 2 ^ d = (n * 2 ^ (d - b).toNat : ℕ) * 2 ^ b := by
    rw [two_zpow_split hd]
    push_cast
    ring
  have lowest : (unbounded .mf8 l : ℝ) = lo.1 * 2 ^ lo.2 := by rw [unbounded_mf8]; push_cast; rfl
  have highest : (unbounded .mf8 (l + 1) : ℝ) = hi.1 * 2 ^ hi.2 := by rw [unbounded_mf8]; push_cast; rfl
  have finer : sticky = true → e < hi.2 ∧ e < lo.2 := by
    intro hs
    obtain ⟨top, bottom⟩ := mf8Mag_coarse hl
    rw [highest] at high
    exact ⟨exponent_lt (fine hs) high top, exponent_lt (fine hs) high bottom⟩
  have lowUnits := count lo.1 lo.2 (by omega)
  have highUnits := count hi.1 hi.2 (by omega)
  have units := count m e (by omega)
  rw [lowest, lowUnits] at low ⊢
  rw [highest, highUnits] at high ⊢
  rw [units] at low high
  refine between_of_units h rfl rfl units (by exact_mod_cast le_of_mul_le_mul_right low pos)
    (by exact_mod_cast lt_of_mul_lt_mul_right high pos.le) (fun hs => ?_)
  obtain ⟨top, bottom⟩ := finer hs
  have even (n : ℕ) (d : ℤ) (hd : b < d) : n * 2 ^ (d - b).toNat % 2 = 0 :=
    Nat.mod_eq_zero_of_dvd ((dvd_pow_self 2 (by omega)).mul_left n)
  exact ⟨by omega, even _ _ (by omega), even _ _ (by omega)⟩

/-- A magnitude below that of some code lies between two neighbouring codes. -/
theorem exists_floor {f : Fmt} {x : ℝ} (nonneg : 0 ≤ x) (below : ∃ n, x < unbounded f n) :
    ∃ l, (unbounded f l : ℝ) ≤ x ∧ x < unbounded f (l + 1) := by
  classical
  have least : x < unbounded f (Nat.find below) := Nat.find_spec below
  obtain ⟨l, hl⟩ : ∃ l, Nat.find below = l + 1 := by
    refine Nat.exists_eq_succ_of_ne_zero (fun zero => ?_)
    rw [zero, unbounded_zero, Rat.cast_zero] at least
    exact absurd nonneg least.not_ge
  exact ⟨l, not_lt.mp (Nat.find_min below (hl ▸ l.lt_succ_self)), hl ▸ least⟩

/-- The code that starts band k from the top one on. -/
theorem unbounded_band (k : ℕ) : (unbounded .mf8 (64 + 16 * k) : ℝ) = 2 ^ k := by
  have whole : (64 + 16 * k) % 16 = 0 := by omega
  have band : (64 + 16 * k - 64) / 16 = k := by omega
  rw [unbounded_mf8, mf8Mag_high (by omega), whole, band]
  push_cast
  rw [zpow_sub₀ two_ne_zero, zpow_natCast]
  norm_num
  ring

/-- The result of MF8 for a code and whether the value is another than the code's. -/
def mf8Result (rm : Rm) (neg : Bool) (c : ℕ) (inexact : Bool) : FRes :=
  if 128 ≤ c then ⟨overflowCode .mf8 .narrow rm neg, fSATO ||| fINX⟩
  else if c = 0 then ⟨0, flagIf inexact (fUNF ||| fINX)⟩
  else ⟨Fmt.signBit .mf8 neg + c, flagIf inexact fINX⟩

theorem mf8Result_roundsTo {x : ℝ} {rm : Rm} {neg : Bool} {c : ℕ} {inexact : Bool} (taken : Takes .mf8 rm neg x c)
    (h : x = unbounded .mf8 c ↔ inexact = false) (o : Over) : RoundsTo .mf8 o rm neg x (mf8Result rm neg c inexact) := by
  have limit : Fmt.maxCode .mf8 = 127 := rfl
  refine ⟨c, taken, fun beyond => ?_, fun within => ⟨?_, fun eq => ?_, fun ne => ⟨fun zero => ?_, fun nonzero => ?_⟩⟩⟩
  · rw [mf8Result, if_pos (by omega)]
    refine congrArg (FRes.mk · _) ?_
    show Fmt.signBit .mf8 neg + Fmt.maxCode .mf8 = _
    split <;> rfl
  all_goals rw [mf8Result, if_neg (by omega)]
  · by_cases zero : c = 0 <;> simp [zero]
  · rw [h.mp eq]
    split <;> rfl
  · rw [if_pos (by simpa [Tiny] using zero), Bool.eq_true_of_not_eq_false (fun exact_ => ne (h.mpr exact_))]
    rfl
  · rw [if_neg (by simpa [Tiny] using nonzero), Bool.eq_true_of_not_eq_false (fun exact_ => ne (h.mpr exact_))]
    rfl

theorem ite_eq_toNat (b : Bool) : (if b = true then 1 else 0) = b.toNat := by cases b <;> rfl

theorem roundMf8_roundsTo {m : ℕ} {e : ℤ} {sticky : Bool} {x : ℝ} (h : Reads m e sticky x) (hm : 0 < m) (fine : Fine .mf8 m sticky)
    (o : Over) (rm : Rm) (neg : Bool) : RoundsTo .mf8 o rm neg x (roundMf8 rm neg m e sticky) := by
  have pos := h.pos hm
  obtain ⟨first, last⟩ := h.lead hm
  have power {j k : ℤ} (le : j ≤ k) : (2 : ℝ) ^ j ≤ 2 ^ k := zpow_le_zpow_right₀ one_le_two le
  have top : (unbounded .mf8 (64 + 16 * 4) : ℝ) = 2 ^ (4 : ℤ) := unbounded_band 4
  by_cases large : 4 ≤ leadExp m e
  · have lead : leadExp m e + 1 = ((leadExp m e + 1).toNat : ℤ) := by omega
    have below : x < unbounded .mf8 (64 + 16 * (leadExp m e + 1).toNat) := by
      rw [unbounded_band, ← zpow_natCast, ← lead]
      exact last
    obtain ⟨l, low, high⟩ := exists_floor pos.le ⟨_, below⟩
    obtain ⟨up, rule⟩ := upRule_exists rm neg (l % 2 == 1) (unbounded .mf8 l) (unbounded .mf8 (l + 1)) x
    have less : (unbounded .mf8 (64 + 16 * 4) : ℝ) < unbounded .mf8 (l + 1) := by
      rw [top]
      exact ((power large).trans first).trans_lt high
    have beyond : 64 + 16 * 4 < l + 1 := (unbounded_strictMono .mf8).lt_iff_lt.mp (by exact_mod_cast less)
    have taken : Takes .mf8 rm neg x (l + up.toNat) := (takes_iff ..).mpr ⟨l, up, low, high, rfl, rule⟩
    have same : roundMf8 rm neg m e sticky = mf8Result rm neg (l + up.toNat) (decide (x ≠ unbounded .mf8 (l + up.toNat))) := by
      rw [roundMf8, if_pos large, mf8Result, if_pos (by omega)]
    rw [same]
    exact mf8Result_roundsTo taken (by simp) o
  · obtain ⟨le, low, high⟩ := mf8Floor_spec m e 127
    have below : m * 2 ^ e < (unbounded .mf8 (mf8Floor m e 127 + 1) : ℝ) := by
      rcases high with eq | high
      · rw [eq]
        exact h.low_le.trans_lt (last.trans_le ((power (by omega)).trans_eq top.symm))
      · exact high
    have between := between_mf8 h fine (by omega) low below
    have rule := roundsUp_rule between rm neg (mf8Floor m e 127 % 2 == 1)
    have exact_ := (eq_unbounded_iff between.lt_high rule).trans between.eq_low_iff
    have taken := (takes_iff ..).mpr ⟨_, _, between.low_le, between.lt_high, rfl, rule⟩
    rw [roundMf8, if_neg large]
    simp only [ite_eq_toNat]
    exact mf8Result_roundsTo taken (exact_.trans (by simp)) o

/-- RoundTo of a finite value (R68), with or without a sticky part. -/
theorem roundFinite_roundsTo {f : Fmt} {m : ℕ} {e : ℤ} {sticky : Bool} {x : ℝ} (h : Reads m e sticky x) (hm : 0 < m) (fine : Fine f m sticky)
    (o : Over) (rm : Rm) (neg : Bool) : RoundsTo f o rm neg x (roundFinite f o rm neg m e sticky) := by
  rw [roundFinite, if_neg hm.ne']
  split
  · rename_i mf8
    subst mf8
    exact roundMf8_roundsTo h hm fine o rm neg
  · rename_i other
    exact roundIeee_roundsTo other h hm fine o rm neg

end Sys2Proof.Proofs

/-! What codes stand for (R58 to R60, R62), and values that a format holds (R68). -/

namespace Sys2Proof.Proofs

open Sys2Proof.Machine Sys2Proof.Safety

/-! ### Codes -/

/-- What a magnitude code stands for with a sign. -/
def decodeMag (f : Fmt) (neg : Bool) (mag : ℕ) : FVal :=
  match f with
  | .mf8 => if mag = 0 then (if neg then .nan false else .num false 0 0) else .num neg (mf8Mag mag).1 (mf8Mag mag).2
  | .e4m3 => if mag = 0x7F then .nan false else if mag < 8 then .num neg mag (-9) else .num neg (8 + mag % 8) ((mag / 8 : ℕ) - 7 - 3)
  | f =>
    if mag / 2 ^ f.frac = 2 ^ f.expBits - 1 then
      if mag % 2 ^ f.frac = 0 then .inf neg else .nan (decide (mag % 2 ^ f.frac < 2 ^ (f.frac - 1)))
    else if mag / 2 ^ f.frac = 0 then .num neg (mag % 2 ^ f.frac) (1 - f.bias - f.frac)
    else .num neg (2 ^ f.frac + mag % 2 ^ f.frac) ((mag / 2 ^ f.frac : ℕ) - f.bias - f.frac)

/-- A code is a sign bit and a magnitude code. -/
theorem decodeF_eq (f : Fmt) (c : ℕ) : decodeF f c = decodeMag f (decide (2 ^ (f.width - 1) ≤ c % 2 ^ f.width)) (c % 2 ^ f.width % 2 ^ (f.width - 1)) := by
  cases f <;> rfl

/-- The layout of R59, where an exponent of all ones is kept for infinities and NaNs. -/
theorem decodeMag_ieee {f : Fmt} (hf : f ≠ .mf8) (he : f ≠ .e4m3) (neg : Bool) (mag : ℕ) : decodeMag f neg mag =
    if mag / 2 ^ f.frac = 2 ^ f.expBits - 1 then
      if mag % 2 ^ f.frac = 0 then .inf neg else .nan (decide (mag % 2 ^ f.frac < 2 ^ (f.frac - 1)))
    else if mag / 2 ^ f.frac = 0 then .num neg (mag % 2 ^ f.frac) (1 - f.bias - f.frac)
    else .num neg (2 ^ f.frac + mag % 2 ^ f.frac) ((mag / 2 ^ f.frac : ℕ) - f.bias - f.frac) := by
  cases f with
  | mf8 => exact absurd rfl hf
  | e4m3 => exact absurd rfl he
  | _ => rfl

theorem width_split (f : Fmt) : 2 ^ f.width = 2 ^ (f.width - 1) + 2 ^ (f.width - 1) := by cases f <;> rfl

theorem maxCode_lt (f : Fmt) : f.maxCode < 2 ^ (f.width - 1) := by cases f <;> decide

theorem nanCode_lt (f : Fmt) : f.nanCode < 2 ^ f.width := by cases f <;> decide

theorem infCode_lt (f : Fmt) : f.infCode < 2 ^ (f.width - 1) := by cases f <;> decide

theorem signBit_eq (f : Fmt) (neg : Bool) : f.signBit neg = if neg then 2 ^ (f.width - 1) else 0 := rfl

/-- A sign bit joined to a magnitude code. -/
theorem decodeF_signed (f : Fmt) (neg : Bool) {mag : ℕ} (h : mag < 2 ^ (f.width - 1)) : decodeF f (f.signBit neg + mag) = decodeMag f neg mag := by
  have split := width_split f
  rw [decodeF_eq, signBit_eq]
  cases neg with
  | true =>
    have whole : (2 ^ (f.width - 1) + mag) % 2 ^ f.width = 2 ^ (f.width - 1) + mag := Nat.mod_eq_of_lt (by omega)
    simp only [if_true, whole, Nat.le_add_right, decide_true, Nat.add_mod_left, Nat.mod_eq_of_lt h]
  | false =>
    have whole : mag % 2 ^ f.width = mag := Nat.mod_eq_of_lt (by omega)
    simp only [Bool.false_eq_true, if_false, Nat.zero_add, whole, not_le.mpr h, decide_false, Nat.mod_eq_of_lt h]

/-- A code's bits are those of its sign and of its magnitude. -/
theorem code_split (f : Fmt) (c : ℕ) : ∃ neg mag, mag < 2 ^ (f.width - 1) ∧ c % 2 ^ f.width = f.signBit neg + mag ∧
    decodeF f c = decodeMag f neg mag := by
  have split := width_split f
  have small : c % 2 ^ f.width < 2 ^ f.width := Nat.mod_lt _ (by positivity)
  have half : 0 < 2 ^ (f.width - 1) := by positivity
  refine ⟨_, _, Nat.mod_lt _ half, ?_, decodeF_eq f c⟩
  rw [signBit_eq]
  generalize c % 2 ^ f.width = b at small ⊢
  by_cases high : 2 ^ (f.width - 1) ≤ b
  · rw [if_pos (decide_eq_true high), Nat.mod_eq_sub_mod high, Nat.mod_eq_of_lt (by omega)]
    omega
  · rw [if_neg (by simpa using high), Nat.zero_add]
    exact (Nat.mod_eq_of_lt (by omega)).symm

theorem decodeF_mod (f : Fmt) (c : ℕ) : decodeF f (c % 2 ^ f.width) = decodeF f c := by
  rw [decodeF_eq, decodeF_eq, Nat.mod_mod]

/-- A format with infinities keeps the top exponent for them, above its finite codes. -/
theorem topExponent {f : Fmt} (hf : f ≠ .mf8) (he : f ≠ .e4m3) :
    f.infCode = (2 ^ f.expBits - 1) * 2 ^ f.frac ∧ f.maxCode + 1 = f.infCode ∧ 2 ^ (f.width - 1) = f.infCode + 2 ^ f.frac := by
  cases f with
  | mf8 => exact absurd rfl hf
  | e4m3 => exact absurd rfl he
  | _ => decide

/-- A finite magnitude code stands for its magnitude, with the sign; MF8 has no negative zero. -/
theorem decodeMag_finite {f : Fmt} {neg : Bool} {mag : ℕ} (h : mag ≤ f.maxCode) (hz : f = .mf8 → mag = 0 → neg = false) :
    ∃ m e, decodeMag f neg mag = .num neg m e ∧ (m : ℚ) * 2 ^ e = unbounded f mag := by
  by_cases hf : f = .mf8
  · subst hf
    by_cases zero : mag = 0
    · rw [hz rfl zero, zero, unbounded_zero]
      exact ⟨0, 0, rfl, by simp⟩
    · rw [unbounded_mf8]
      exact ⟨_, _, if_neg zero, rfl⟩
  · have lowest {t : ℕ} (ht : t < 2 ^ f.frac) : (t : ℚ) * 2 ^ (1 - f.bias - f.frac) = unbounded f t := (unbounded_low hf ht.le).symm
    have normal (pos : 0 < mag / 2 ^ f.frac) : ((2 ^ f.frac + mag % 2 ^ f.frac : ℕ) : ℚ) * 2 ^ (((mag / 2 ^ f.frac : ℕ) : ℤ) - f.bias - f.frac) =
        unbounded f mag := by
      rw [← unbounded_high hf pos (Nat.mod_lt _ (by positivity)).le, Nat.div_add_mod']
    by_cases he : f = .e4m3
    · subst he
      have most : mag ≤ 0x7E := h
      by_cases low : mag < 8
      · refine ⟨mag, -9, by simp only [decodeMag, if_neg (by omega : ¬mag = 0x7F), if_pos low], ?_⟩
        exact_mod_cast lowest low
      · refine ⟨8 + mag % 8, (mag / 8 : ℕ) - 7 - 3, by simp only [decodeMag, if_neg (by omega : ¬mag = 0x7F), if_neg low], ?_⟩
        exact normal (Nat.div_pos (by rwa [not_lt] at low) (by positivity))
    · obtain ⟨inf, top, -⟩ := topExponent hf he
      have below : mag / 2 ^ f.frac ≠ 2 ^ f.expBits - 1 := by
        intro eq
        have := Nat.div_mul_le_self mag (2 ^ f.frac)
        rw [eq] at this
        omega
      rw [decodeMag_ieee hf he, if_neg below]
      by_cases low : mag / 2 ^ f.frac = 0
      · have less : mag < 2 ^ f.frac := (Nat.div_eq_zero_iff_lt (by positivity)).mp low
        rw [if_pos low, Nat.mod_eq_of_lt less]
        exact ⟨_, _, rfl, lowest less⟩
      · rw [if_neg low]
        exact ⟨_, _, rfl, normal (Nat.pos_of_ne_zero low)⟩

/-- The codes with an exponent of all ones, in the formats that keep it for infinities and NaNs (R59). -/
theorem decodeMag_top {f : Fmt} (hf : f ≠ .mf8) (he : f ≠ .e4m3) (neg : Bool) {fr : ℕ} (h : fr < 2 ^ f.frac) :
    decodeMag f neg (f.infCode + fr) = if fr = 0 then .inf neg else .nan (decide (fr < 2 ^ (f.frac - 1))) := by
  obtain ⟨inf, -, -⟩ := topExponent hf he
  have quot : (f.infCode + fr) / 2 ^ f.frac = 2 ^ f.expBits - 1 := by
    rw [inf, Nat.add_comm, Nat.add_mul_div_right _ _ (by positivity), Nat.div_eq_of_lt h, Nat.zero_add]
  have rest : (f.infCode + fr) % 2 ^ f.frac = fr := by
    rw [inf, Nat.add_comm, Nat.add_mul_mod_self_right, Nat.mod_eq_of_lt h]
  rw [decodeMag_ieee hf he, if_pos quot, rest]

/-- Above the finite codes stand an infinity and NaNs. -/
theorem decodeMag_special {f : Fmt} {neg : Bool} {mag : ℕ} (h : f.maxCode < mag) (hm : mag < 2 ^ (f.width - 1)) :
    decodeMag f neg mag = .inf neg ∨ ∃ s, decodeMag f neg mag = .nan s := by
  by_cases hf : f = .mf8
  · subst hf
    exact absurd hm (not_lt.mpr h)
  · by_cases he : f = .e4m3
    · subst he
      have top : mag = 0x7F := by
        have low : 0x7E < mag := h
        have high : mag < 0x80 := hm
        omega
      exact .inr ⟨false, by rw [top]; rfl⟩
    · obtain ⟨-, top, width⟩ := topExponent hf he
      obtain ⟨fr, rfl⟩ : ∃ fr, mag = f.infCode + fr := ⟨mag - f.infCode, by omega⟩
      rw [decodeMag_top hf he neg (by omega)]
      by_cases zero : fr = 0
      · exact .inl (if_pos zero)
      · exact .inr ⟨_, if_neg zero⟩

/-- A code that stands for a number is a sign and a finite magnitude code. -/
theorem decodeF_num {f : Fmt} {c m : ℕ} {neg : Bool} {e : ℤ} (h : decodeF f c = .num neg m e) :
    ∃ mag, mag ≤ f.maxCode ∧ c % 2 ^ f.width = f.signBit neg + mag ∧ (m : ℚ) * 2 ^ e = unbounded f mag ∧
      (f = .mf8 → mag = 0 → neg = false) := by
  obtain ⟨sign, mag, less, bits, eq⟩ := code_split f c
  rw [eq] at h
  have finite : mag ≤ f.maxCode := by
    by_contra more
    rcases decodeMag_special (neg := sign) (not_le.mp more) less with inf | ⟨s, nan⟩
    · rw [inf] at h; cases h
    · rw [nan] at h; cases h
  by_cases negative : f = .mf8 → mag = 0 → sign = false
  · obtain ⟨n, d, num, value⟩ := decodeMag_finite finite negative
    rw [num] at h
    cases h
    exact ⟨mag, finite, bits, value, negative⟩
  · push Not at negative
    obtain ⟨rfl, rfl, set⟩ := negative
    cases sign with
    | true => cases h
    | false => exact absurd rfl set

end Sys2Proof.Proofs

/-! Values that a format holds round to themselves (R68, R73), and the values of codes by number (R58 to R60, R62). -/

namespace Sys2Proof.Proofs

open Sys2Proof.Machine Sys2Proof.Safety

theorem reads_exact (m : ℕ) (e : ℤ) : Reads m e false ((m : ℝ) * 2 ^ e) := ⟨fun _ => rfl, fun h => nomatch h⟩

theorem fine_exact (f : Fmt) (m : ℕ) : Fine f m false := fun h => nomatch h

/-- A value that a format holds rounds to its code with no flag, in every mode. -/
theorem roundFinite_held {f : Fmt} {c m : ℕ} {neg : Bool} {e : ℤ} (finite : c ≤ f.maxCode) (value : (m : ℚ) * 2 ^ e = unbounded f c)
    (hz : f = .mf8 → c = 0 → neg = false) (o : Over) (rm : Rm) : roundFinite f o rm neg m e false = ⟨f.signBit neg + c, 0⟩ := by
  rcases Nat.eq_zero_or_pos m with rfl | hm
  · have zero : c = 0 := (unbounded_strictMono f).injective (by rw [unbounded_zero, ← value]; simp)
    subst zero
    by_cases hf : f = .mf8
    · simp [roundFinite, zeroCode, hf, hz hf rfl, Fmt.signBit]
    · simp [roundFinite, zeroCode, hf]
  · have real : (m : ℝ) * 2 ^ e = unbounded f c := by rw [← value]; push_cast; rfl
    obtain ⟨d, taken, -, within⟩ := roundFinite_roundsTo (reads_exact m e) hm (fine_exact f m) o rm neg
    rw [real] at taken within
    obtain rfl : d = c := takes_unique taken (takes_held f rm neg c)
    obtain ⟨bits, exact_, -⟩ := within finite
    have nonzero : ¬(f = .mf8 ∧ d = 0) := by
      rintro ⟨-, rfl⟩
      have pos := (reads_exact m e).pos hm
      rw [real, unbounded_zero, Rat.cast_zero] at pos
      exact lt_irrefl _ pos
    rw [if_neg nonzero] at bits
    rw [← bits, ← exact_ rfl]

/-- An infinity or a NaN of a format that keeps the top exponent for them. -/
theorem decodeF_special {f : Fmt} (hf : f ≠ .mf8) (he : f ≠ .e4m3) (neg : Bool) {fr : ℕ} (h : fr < 2 ^ f.frac) :
    decodeF f (f.signBit neg + f.infCode + fr) = if fr = 0 then .inf neg else .nan (decide (fr < 2 ^ (f.frac - 1))) := by
  obtain ⟨-, -, width⟩ := topExponent hf he
  rw [Nat.add_assoc, decodeF_signed f neg (by omega), decodeMag_top hf he neg h]

/-- The largest finite magnitudes (R58, R62). -/
theorem unbounded_maxCodes : unbounded .fp32 0x7F7FFFFF = (2 - 2 ^ (-23 : Int)) * 2 ^ 127 ∧ unbounded .fp16 0x7BFF = 65504 ∧
    unbounded .bf16 0x7F7F = (2 - 2 ^ (-7 : Int)) * 2 ^ 127 ∧ unbounded .e4m3 0x7E = 448 ∧ unbounded .e5m2 0x7B = 57344 ∧
    unbounded .mf8 0x7F = 31 / 2 := by
  refine ⟨?_, ?_, ?_, ?_, ?_, ?_⟩
  case refine_6 => rw [unbounded_mf8, mf8Mag_high (by norm_num)]; norm_num
  all_goals norm_num [unbounded, Fmt.frac, Fmt.bias]

/-- An AF40 pattern has the value of its fields (R60). -/
theorem decodeAF40_fields (x : BitVec 40) : (bitsAt x 31 8 = 0 → ∃ e, decodeAF40 x = .num (x.getLsbD 39) 0 e) ∧
    (0 < bitsAt x 31 8 → bitsAt x 31 8 < 255 → ∃ m e, decodeAF40 x = .num (x.getLsbD 39) m e ∧
      (m : ℚ) * 2 ^ e = (1 + (bitsAt x 0 31 : ℚ) / 2 ^ 31) * 2 ^ ((bitsAt x 31 8 : Int) - 127)) ∧
    (bitsAt x 31 8 = 255 → decodeAF40 x = if bitsAt x 0 31 = 0 then .inf (x.getLsbD 39) else .nan (!x.getLsbD 30)) := by
  refine ⟨fun low => ⟨0, ?_⟩, fun pos top => ⟨2 ^ 31 + bitsAt x 0 31, (bitsAt x 31 8 : ℤ) - 127 - 31, ?_, ?_⟩, fun high => ?_⟩
  · simp [decodeAF40, low]
  · simp only [decodeAF40, if_neg top.ne, if_neg pos.ne']
  · push_cast
    rw [zpow_sub₀ two_ne_zero _ 31]
    norm_num
    ring
  · have quiet : x.getLsbD 30 = !decide (bitsAt x 0 31 < 2 ^ 30) := by
      rw [← decide_not, BitVec.getLsbD, Nat.testBit_eq_decide_div_mod_eq, bitsAt, Nat.shiftRight_zero, decide_eq_decide]
      omega
    simp only [decodeAF40, high, if_true, quiet, Bool.not_not]

/-- Settles O44: a code stands for its magnitude with its sign, magnitudes rise with their codes, and so a held value is the one that rounding finds. -/
theorem heldValuesRoundToThemselves : Obligations.HeldValuesRoundToThemselves := by
  unfold Obligations.HeldValuesRoundToThemselves
  have special {f : Fmt} (h : f ∈ [Fmt.fp32, .fp16, .bf16, .e5m2]) : f ≠ .mf8 ∧ f ≠ .e4m3 := by revert f; decide
  refine ⟨fun f o rm c m neg e num => ?_, fun f c => ⟨decodeF_mod f c, unbounded_strictMono f c.lt_succ_self, fun finite => ?_, fun finite positive => ?_⟩,
    fun f neg ieee => ?_, rfl, rfl, rfl, ⟨rfl, rfl, unbounded_maxCodes⟩, decodeAF40_fields⟩
  · obtain ⟨mag, finite, bits, value, positive⟩ := decodeF_num num
    rw [bits]
    exact roundFinite_held finite value positive o rm
  · obtain ⟨m, e, num, value⟩ := decodeMag_finite (neg := false) finite (fun _ _ => rfl)
    refine ⟨m, e, ?_, by simpa [valueOf] using value⟩
    rw [← num, ← decodeF_signed f false (finite.trans_lt (maxCode_lt f))]
    simp [Fmt.signBit]
  · obtain ⟨m, e, num, value⟩ := decodeMag_finite (neg := true) finite (fun hf zero => absurd ⟨hf, zero⟩ positive)
    refine ⟨m, e, ?_, by simp [valueOf, value]⟩
    rw [← num, ← decodeF_signed f true (finite.trans_lt (maxCode_lt f))]
    rfl
  · obtain ⟨hf, he⟩ := special ieee
    exact ⟨decodeF_special hf he neg (by positivity), fun fr pos less => (decodeF_special hf he neg less).trans (if_neg pos.ne')⟩

end Sys2Proof.Proofs

/-! Exact sums, products and quotients of finite values, rounded once (R8, R68, R69, R160). -/

namespace Sys2Proof.Proofs

open Sys2Proof.Machine Sys2Proof.Safety

/-! ### Signed results -/

/-- A nonzero magnitude with a sign is rounded to what its magnitude rounds to. -/
theorem resultIs_of_reads {f : Fmt} {m : ℕ} {e : ℤ} {sticky : Bool} {y : ℝ} (h : Reads m e sticky y) (hm : 0 < m) (fine : Fine f m sticky)
    (o : Over) (rm : Rm) (neg zneg : Bool) : ResultIs f o rm zneg (if neg then -y else y) (roundFinite f o rm neg m e sticky) := by
  have pos := h.pos hm
  have rounded := roundFinite_roundsTo h hm fine o rm
  cases neg with
  | true =>
    simp only [if_true]
    exact ⟨fun zero => by linarith, fun more => by linarith, fun _ => by rw [neg_neg]; exact rounded true⟩
  | false => exact ⟨fun zero => absurd zero pos.ne', fun _ => rounded false, fun less => absurd pos less.not_gt⟩

theorem resultIs_zero (f : Fmt) (o : Over) (rm : Rm) (neg : Bool) (e : ℤ) : ResultIs f o rm neg 0 (roundFinite f o rm neg 0 e false) :=
  ⟨fun _ => rfl, fun h => absurd h (lt_irrefl _), fun h => absurd h (lt_irrefl _)⟩

theorem valueOf_num (neg : Bool) (m : ℕ) (e : ℤ) : valueOf (.num neg m e) = if neg then -((m : ℚ) * 2 ^ e) else (m : ℚ) * 2 ^ e := by
  cases neg <;> simp [valueOf]

/-- RoundTo of an exact value, a zero taking the sign that it carries. -/
theorem resultIs_num (f : Fmt) (o : Over) (rm : Rm) (neg : Bool) (m : ℕ) (e : ℤ) {zneg : Bool} (hz : m = 0 → neg = zneg) :
    ResultIs f o rm zneg ((valueOf (.num neg m e) : ℚ) : ℝ) (roundFinite f o rm neg m e false) := by
  rcases Nat.eq_zero_or_pos m with rfl | hm
  · rw [← hz rfl, valueOf_num]
    simpa using resultIs_zero f o rm neg e
  · have rounded := resultIs_of_reads (f := f) (reads_exact m e) hm (fine_exact f m) o rm neg zneg
    rw [valueOf_num]
    cases neg <;> simpa using rounded

/-- A value is an exact finite one, of the sign given where it is zero. -/
def IsExact (v : FVal) (x : ℚ) (zneg : Bool) : Prop := ∃ neg m e, v = .num neg m e ∧ valueOf v = x ∧ (m = 0 → neg = zneg)

theorem resultIs_roundVal {v : FVal} {x : ℚ} {zneg : Bool} (h : IsExact v x zneg) (f : Fmt) (rm : Rm) :
    ResultIs f .arith rm zneg (x : ℝ) (roundVal f rm (v, 0)) := by
  obtain ⟨neg, m, e, rfl, rfl, hz⟩ := h
  simpa [roundVal, roundArith] using resultIs_num f .arith rm neg m e hz

/-! ### Sums and products -/

theorem signed_mul (neg : Bool) (m : ℕ) (e : ℤ) : (signed neg m : ℚ) * 2 ^ e = valueOf (.num neg m e) := by
  cases neg <;> simp [signed, valueOf]

theorem isExact_ofScaled (x : ℤ) (e : ℤ) (zneg : Bool) : IsExact (FVal.ofScaled x e zneg) (x * 2 ^ e) zneg := by
  by_cases zero : x = 0
  · subst zero
    exact ⟨zneg, 0, 0, rfl, by simp [FVal.ofScaled, valueOf], fun _ => rfl⟩
  · refine ⟨decide (x < 0), x.natAbs, e, if_neg zero, ?_, fun h => absurd (Int.natAbs_eq_zero.mp h) zero⟩
    rw [FVal.ofScaled, if_neg zero, ← signed_mul]
    refine congrArg (fun y : ℤ => (y : ℚ) * 2 ^ e) ?_
    by_cases less : x < 0
    · simp [signed, less, abs_of_neg]
    · simp [signed, less, abs_of_nonneg (not_lt.mp less)]

theorem add_num (rm : Rm) (a : Bool) (m : ℕ) (d : ℤ) (b : Bool) (n : ℕ) (e : ℤ) : ∃ v, (FVal.num a m d).add rm (.num b n e) = (v, 0) ∧
    IsExact v (valueOf (.num a m d) + valueOf (.num b n e)) (zeroSign rm a b) := by
  refine ⟨_, rfl, ?_⟩
  have sum : valueOf (.num a m d) + valueOf (.num b n e) =
      ((signed a m * 2 ^ (d - min d e).toNat + signed b n * 2 ^ (e - min d e).toNat : ℤ) : ℚ) * 2 ^ min d e := by
    rw [← signed_mul, ← signed_mul, two_zpow_split (min_le_left d e), two_zpow_split (min_le_right d e)]
    push_cast
    ring
  rw [sum]
  exact isExact_ofScaled ..

theorem mul_num (a : Bool) (m : ℕ) (d : ℤ) (b : Bool) (n : ℕ) (e : ℤ) :
    valueOf (.num (a != b) (m * n) (d + e)) = valueOf (.num a m d) * valueOf (.num b n e) := by
  rw [valueOf_num, valueOf_num, valueOf_num, zpow_add₀ two_ne_zero]
  push_cast
  cases a <;> cases b <;> simp <;> ring

theorem isExact_mul (a : Bool) (m : ℕ) (d : ℤ) (b : Bool) (n : ℕ) (e : ℤ) :
    IsExact (.num (a != b) (m * n) (d + e)) (valueOf (.num a m d) * valueOf (.num b n e)) (a != b) :=
  ⟨_, _, _, rfl, mul_num .., fun _ => rfl⟩

theorem valueOf_neg (v : FVal) : valueOf v.neg = -valueOf v := by
  cases v with
  | num a m e => cases a <;> simp [FVal.neg, valueOf]
  | _ => simp [FVal.neg, valueOf]

/-! ### Quotients -/

/-- A quotient of nonzero significands has enough bits, and what is left over is sticky. -/
theorem quotient_reads {m n : ℕ} (hm : 0 < m) (hn : 0 < n) (d e : ℤ) :
    let q := quotient m n d e
    0 < q.1 ∧ 2 ^ 69 ≤ q.1 ∧ Reads q.1 q.2.1 q.2.2 ((m : ℝ) * 2 ^ d / (n * 2 ^ e)) := by
  intro q
  have bits : n < 2 ^ (Nat.log2 n + 1) := Nat.lt_log2_self
  have many : 2 ^ 69 ≤ m * 2 ^ (70 + Nat.log2 n) / n := by
    rw [Nat.le_div_iff_mul_le hn]
    calc 2 ^ 69 * n ≤ 2 ^ 69 * 2 ^ (Nat.log2 n + 1) := Nat.mul_le_mul_left _ bits.le
      _ = 2 ^ (70 + Nat.log2 n) := by rw [← pow_add]; congr 1; omega
      _ ≤ m * 2 ^ (70 + Nat.log2 n) := Nat.le_mul_of_pos_left _ hm
  have divided : (m : ℝ) * 2 ^ (70 + Nat.log2 n) = n * (m * 2 ^ (70 + Nat.log2 n) / n : ℕ) + (m * 2 ^ (70 + Nat.log2 n) % n : ℕ) := by
    exact_mod_cast (Nat.div_add_mod _ n).symm
  have whole : (m : ℝ) * 2 ^ d / (n * 2 ^ e) = (m * 2 ^ (70 + Nat.log2 n)) / n * 2 ^ (d - e - (70 + Nat.log2 n : ℕ)) := by
    rw [zpow_sub₀ two_ne_zero, zpow_sub₀ two_ne_zero, zpow_natCast]
    field_simp
  have posR : (0 : ℝ) < n := by exact_mod_cast hn
  have unit := two_zpow_pos (d - e - (70 + Nat.log2 n : ℕ))
  have less : ((m * 2 ^ (70 + Nat.log2 n) % n : ℕ) : ℝ) < n := by exact_mod_cast Nat.mod_lt _ hn
  refine ⟨lt_of_lt_of_le (by positivity) many, many, fun hs => ?_, fun hs => ?_⟩
  · have none_ : m * 2 ^ (70 + Nat.log2 n) % n = 0 := by simpa [q, quotient] using hs
    rw [whole, divided, none_, Nat.cast_zero, add_zero, mul_div_cancel_left₀ _ posR.ne']
    rfl
  · have some_ : m * 2 ^ (70 + Nat.log2 n) % n ≠ 0 := by simpa [q, quotient] using hs
    have pos : (0 : ℝ) < (m * 2 ^ (70 + Nat.log2 n) % n : ℕ) := by exact_mod_cast Nat.pos_of_ne_zero some_
    rw [whole, divided]
    constructor
    · refine mul_lt_mul_of_pos_right ?_ unit
      rw [lt_div_iff₀ posR]
      show ((m * 2 ^ (70 + Nat.log2 n) / n : ℕ) : ℝ) * n < _
      linarith
    · refine mul_lt_mul_of_pos_right ?_ unit
      rw [div_lt_iff₀ posR]
      show _ < (((m * 2 ^ (70 + Nat.log2 n) / n : ℕ) : ℝ) + 1) * n
      linarith

theorem fine_quotient (f : Fmt) {m : ℕ} (h : 2 ^ 69 ≤ m) (sticky : Bool) : Fine f m sticky := by
  intro _
  have : 2 ^ (f.frac + 2) ≤ 2 ^ 69 := Nat.pow_le_pow_right (by norm_num) (by cases f <;> decide)
  exact this.trans h

/-- The quotient of finite values is rounded once from its exact value. -/
theorem resultIs_quotient (f : Fmt) (o : Over) (rm : Rm) (a : Bool) (m : ℕ) (d : ℤ) (b : Bool) {n : ℕ} (hn : n ≠ 0) (e : ℤ) :
    let q := quotient m n d e
    ResultIs f o rm (a != b) ((valueOf (.num a m d) / valueOf (.num b n e) : ℚ) : ℝ) (roundFinite f o rm (a != b) q.1 q.2.1 q.2.2) := by
  intro q
  have value : ((valueOf (.num a m d) / valueOf (.num b n e) : ℚ) : ℝ) =
      if (a != b) then -((m : ℝ) * 2 ^ d / (n * 2 ^ e)) else (m : ℝ) * 2 ^ d / (n * 2 ^ e) := by
    rw [valueOf_num, valueOf_num]
    cases a <;> cases b <;> simp [neg_div, div_neg]
  rw [value]
  rcases Nat.eq_zero_or_pos m with rfl | hm
  · have zero : q.1 = 0 := by simp [q, quotient]
    have exact_ : q.2.2 = false := by simp [q, quotient]
    rw [zero, exact_]
    simpa using resultIs_zero f o rm (a != b) q.2.1
  · obtain ⟨pos, many, reads⟩ := quotient_reads hm (Nat.pos_of_ne_zero hn) d e
    exact resultIs_of_reads reads pos (fine_quotient f many _) o rm _ _

end Sys2Proof.Proofs

/-! The integer that a mode takes for a value (R67, R71), from the rule of its neighbours. -/

namespace Sys2Proof.Proofs

open Sys2Proof.Machine Sys2Proof.Safety

/-- An integer is taken as itself. -/
theorem takesInt_self (rm : Rm) (k : ℤ) : TakesInt rm k k := by
  simp [TakesInt]

section

variable {rm : Rm} {neg up : Bool} {y : ℝ} {n : ℕ}

/-- The neighbour that the rule takes in a mode to the nearest. -/
theorem upRule_nearest (low : n ≤ y) (high : y < n + 1) (h : UpRule rm neg n (n + 1) y (n % 2 == 1) up) (ne : y ≠ n)
    (nearest : rm = .rne ∨ rm = .rna) : |y - (n + up.toNat : ℕ)| < 1 / 2 ∨
      (|y - (n + up.toNat : ℕ)| = 1 / 2 ∧ (rm = .rne → (n + up.toNat) % 2 = 0) ∧ (rm = .rna → up = true)) := by
  obtain ⟨-, -, near⟩ := h.2 ne
  obtain ⟨below, above, tie⟩ := near nearest
  rcases lt_trichotomy (y - n) (n + 1 - y) with less | eq | more
  · left
    rw [below less, Bool.toNat_false, Nat.add_zero, abs_lt]
    constructor <;> linarith
  · right
    have half : y - n = 1 / 2 := by linarith
    refine ⟨?_, fun rne => ?_, (tie eq).2⟩
    · cases up with
      | false => rw [Bool.toNat_false, Nat.add_zero, half, abs_of_pos (by norm_num)]
      | true =>
        have other : y - (n + true.toNat : ℕ) = -(1 / 2) := by rw [Bool.toNat_true, Nat.cast_succ]; linarith
        rw [other, abs_neg, abs_of_pos (by norm_num)]
    · rw [(tie eq).1 rne]
      rcases Nat.mod_two_eq_zero_or_one n with h | h <;> simp [h, Nat.add_mod]
  · left
    rw [above more, Bool.toNat_true, Nat.cast_succ, abs_lt]
    constructor <;> linarith

/-- The neighbour of a magnitude by the mode's rule is, with its sign, the integer that the mode takes. -/
theorem takesInt_of_rule (low : n ≤ y) (high : y < n + 1) (h : UpRule rm neg n (n + 1) y (n % 2 == 1) up) :
    TakesInt rm (if neg then -y else y) (if neg then -((n + up.toNat : ℕ) : ℤ) else (n + up.toNat : ℕ)) := by
  by_cases exact_ : y = n
  · rw [h.1 exact_, exact_]
    have self := takesInt_self rm (if neg then -(n : ℤ) else n)
    cases neg <;> simpa using self
  · have above : (n : ℝ) < y := lt_of_le_of_ne low (Ne.symm exact_)
    have floor_ : ⌊y⌋ = n := Int.floor_eq_iff.mpr ⟨low, high⟩
    have ceil_ : ⌈y⌉ = n + 1 := Int.ceil_eq_iff.mpr (by push_cast; constructor <;> linarith)
    have pos : 0 < y := above.trans_le' (Nat.cast_nonneg n)
    have away : up = true → |y| < |((n + up.toNat : ℕ) : ℝ)| := by
      rintro rfl
      rw [abs_of_pos pos, Nat.abs_cast]
      exact_mod_cast high
    obtain ⟨down, upward, -⟩ := h.2 exact_
    have nearest := upRule_nearest low high h exact_
    cases neg with
    | false =>
      refine ⟨fun rz => ?_, fun ru => ?_, fun rd => ?_, fun rne => ?_, fun rna => ?_⟩
      · rw [down (.inl rz)]
        simp [pos.le, floor_]
      · rw [upward (.inl ⟨ru, rfl⟩)]
        simp [ceil_]
      · rw [down (.inr (.inr ⟨rd, rfl⟩))]
        simp [floor_]
      · simp only [Bool.false_eq_true, if_false, Int.cast_natCast]
        exact (nearest (.inl rne)).imp_right (fun tie => ⟨tie.1, by exact_mod_cast tie.2.1 rne⟩)
      · simp only [Bool.false_eq_true, if_false, Int.cast_natCast]
        exact (nearest (.inr rna)).imp_right (fun tie => ⟨tie.1, away (tie.2.2 rna)⟩)
    | true =>
      have mirrored (k : ℕ) : |-y - ((-(k : ℤ) : ℤ) : ℝ)| = |y - k| := by
        rw [Int.cast_neg, Int.cast_natCast, ← abs_neg]
        congr 1
        ring
      refine ⟨fun rz => ?_, fun ru => ?_, fun rd => ?_, fun rne => ?_, fun rna => ?_⟩
      · rw [down (.inl rz)]
        simp [pos, Int.ceil_neg, floor_]
      · rw [down (.inr (.inl ⟨ru, rfl⟩))]
        simp [Int.ceil_neg, floor_]
      · rw [upward (.inr ⟨rd, rfl⟩)]
        simp only [if_true, Int.floor_neg, ceil_]
        push_cast
        rfl
      · simp only [if_true, mirrored]
        exact (nearest (.inl rne)).imp_right (fun tie => ⟨tie.1, by have := tie.2.1 rne; omega⟩)
      · simp only [if_true, mirrored]
        simp only [abs_neg, Int.cast_neg, Int.cast_natCast]
        exact (nearest (.inr rna)).imp_right (fun tie => ⟨tie.1, away (tie.2.2 rna)⟩)

end

/-- A value counted in units: the rule of its neighbours does not depend on the unit. -/
theorem UpRule.scale {rm : Rm} {neg odd up : Bool} {lo hi x u : ℝ} (hu : 0 < u) (h : UpRule rm neg (lo * u) (hi * u) x odd up) :
    UpRule rm neg lo hi (x / u) odd up := by
  have same : x / u = lo ↔ x = lo * u := div_eq_iff hu.ne'
  have below : x / u - lo = (x - lo * u) / u := by field_simp
  have above : hi - x / u = (hi * u - x) / u := by field_simp
  simp only [UpRule, ne_eq, same, below, above, div_lt_div_iff_of_pos_right hu, div_left_inj' hu.ne']
  exact h

/-- The units that a value is rounded to are, with the sign, the integer that the mode takes for it in these units. -/
theorem TakesUnits.takesInt {rm : Rm} {neg : Bool} {x : ℝ} {q : ℤ} {r : ℕ × Bool} {n : ℕ} {up : Bool} (h : TakesUnits rm neg x q r n up) :
    TakesInt rm (if neg then -(x / 2 ^ q) else x / 2 ^ q) (if neg then -(r.1 : ℤ) else r.1) := by
  have unit := two_zpow_pos q
  rw [h.units]
  exact takesInt_of_rule ((le_div_iff₀ unit).mpr h.low) ((div_lt_iff₀ unit).mpr h.high) (h.rule.scale unit)

/-- What the second part says of the neighbour that is taken, it says of the value. -/
theorem TakesUnits.inexact_iff {rm : Rm} {neg : Bool} {x : ℝ} {q : ℤ} {r : ℕ × Bool} {n : ℕ} {up : Bool} (h : TakesUnits rm neg x q r n up) :
    r.2 = true ↔ x ≠ r.1 * 2 ^ q := by
  rw [h.inexact, h.units, not_iff_not]
  constructor
  · intro eq
    rw [h.rule.1 eq]
    exact eq
  · intro eq
    cases up with
    | false => exact eq
    | true =>
      have high := h.high
      rw [eq, Bool.toNat_true, Nat.cast_succ] at high
      exact absurd high (lt_irrefl _)

end Sys2Proof.Proofs

/-! Rounding to units, into formats and to AF40 (R67 to R69, R71, R73, R79, R160). -/

namespace Sys2Proof.Proofs

open Sys2Proof.Machine Sys2Proof.Safety

/-! ### Whole units -/

/-- m parts of 2^k to the unit: the whole units, and one more where the mode rounds the rest up. -/
theorem roundUnits_parts (rm : Rm) (neg : Bool) (m k : ℕ) (e : ℤ) : roundUnits rm neg m e (e + k) false =
    (m / 2 ^ k + (roundsUp rm neg (m / 2 ^ k % 2 == 1) (m % 2 ^ k) (2 ^ k) false).toNat, decide (m % 2 ^ k ≠ 0)) := by
  rcases Nat.eq_zero_or_pos k with rfl | hk
  · have none_ (odd : Bool) : roundsUp rm neg odd 0 1 false = false := by cases rm <;> rfl
    simp [roundUnits, Nat.mod_one, none_]
  · have steps : (e + k - e).toNat = k := by omega
    rw [roundUnits, if_neg (by omega)]
    simp only [steps, ite_eq_toNat, Bool.or_false]

/-- What the modes do with the discarded parts r of p. -/
theorem roundsUp_parts (rm : Rm) (neg odd : Bool) (r p : ℕ) : let up := roundsUp rm neg odd r p false
    (r = 0 → 0 < p → up = false) ∧ (rm = .rz ∨ (rm = .ru ∧ neg = true) ∨ (rm = .rd ∧ neg = false) → up = false) ∧
      ((rm = .ru ∧ neg = false) ∨ (rm = .rd ∧ neg = true) → r ≠ 0 → up = true) ∧
      (rm = .rne ∨ rm = .rna → (2 * r < p → up = false) ∧ (p < 2 * r → up = true)) ∧
      (rm = .rne → 2 * r = p → up = odd) ∧ (rm = .rna → 2 * r = p → up = true) := by
  cases rm with
  | rz => simp [roundsUp]
  | ru => cases neg <;> simp +contextual [roundsUp]
  | rd => cases neg <;> simp +contextual [roundsUp]
  | rne => cases odd <;> simp [roundsUp] <;> omega
  | rna => simp [roundsUp]; omega

theorem roundUnits_whole (rm : Rm) (neg : Bool) (m k : ℕ) (e : ℤ) : let r := roundUnits rm neg m e (e + k) false
    r.2 = decide (m % 2 ^ k ≠ 0) ∧ (m % 2 ^ k = 0 → r.1 * 2 ^ k = m) ∧ (r.1 = m / 2 ^ k ∨ r.1 = m / 2 ^ k + 1) ∧
      (rm = .rz ∨ (rm = .ru ∧ neg = true) ∨ (rm = .rd ∧ neg = false) → r.1 * 2 ^ k ≤ m) ∧
      ((rm = .ru ∧ neg = false) ∨ (rm = .rd ∧ neg = true) → m ≤ r.1 * 2 ^ k) ∧
      (rm = .rne ∨ rm = .rna → 2 * (r.1 * 2 ^ k) ≤ 2 * m + 2 ^ k ∧ 2 * m ≤ 2 * (r.1 * 2 ^ k) + 2 ^ k) ∧
      (rm = .rne → 2 * (m % 2 ^ k) = 2 ^ k → r.1 % 2 = 0) ∧ (rm = .rna → 2 * (m % 2 ^ k) = 2 ^ k → m ≤ r.1 * 2 ^ k) := by
  have pos : 0 < 2 ^ k := by positivity
  have parts : m / 2 ^ k * 2 ^ k + m % 2 ^ k = m := Nat.div_add_mod' m _
  have less : m % 2 ^ k < 2 ^ k := Nat.mod_lt _ pos
  obtain ⟨exact_, down, upward, nearest, even, away⟩ := roundsUp_parts rm neg (m / 2 ^ k % 2 == 1) (m % 2 ^ k) (2 ^ k)
  rw [roundUnits_parts]
  dsimp only
  generalize roundsUp rm neg (m / 2 ^ k % 2 == 1) (m % 2 ^ k) (2 ^ k) false = up at *
  have units : (m / 2 ^ k + up.toNat) * 2 ^ k = m / 2 ^ k * 2 ^ k + (if up then 2 ^ k else 0) := by
    cases up <;> simp [Nat.add_mul]
  rw [units]
  generalize m / 2 ^ k * 2 ^ k = whole at *
  generalize m / 2 ^ k = n at *
  generalize m % 2 ^ k = r at *
  generalize 2 ^ k = p at *
  refine ⟨rfl, fun zero => ?_, ?_, fun low => ?_, fun high => ?_, fun near => ?_, fun rne tie => ?_, fun rna tie => ?_⟩
  · rw [exact_ zero pos, if_neg Bool.false_ne_true]
    omega
  · cases up <;> simp
  · rw [down low, if_neg Bool.false_ne_true]
    omega
  · by_cases zero : r = 0
    · omega
    · rw [upward high zero, if_pos rfl]
      omega
  · obtain ⟨below, above⟩ := nearest near
    cases up with
    | true => rw [if_pos rfl]; have : ¬2 * r < p := fun h => nomatch below h; omega
    | false => rw [if_neg Bool.false_ne_true]; have : ¬p < 2 * r := fun h => nomatch above h; omega
  · rw [even rne tie]
    rcases Nat.mod_two_eq_zero_or_one n with h | h <;> simp [h, Nat.add_mod]
  · rw [away rna tie, if_pos rfl]
    omega

/-! ### The operations of R160 -/

section

variable {f : Fmt} {a b c : ℕ} {p q r : Bool} {m n l : ℕ} {i j k : ℤ}

theorem fAdd_result (ha : decodeF f a = .num p m i) (hb : decodeF f b = .num q n j) (rm : Rm) :
    ResultIs f .arith rm (zeroSign rm p q) ((valueOf (decodeF f a) + valueOf (decodeF f b) : ℚ) : ℝ) (fAdd f rm a b) := by
  obtain ⟨v, eq, exact_⟩ := add_num rm p m i q n j
  rw [fAdd, ha, hb, eq]
  exact resultIs_roundVal exact_ f rm

theorem fSub_result (ha : decodeF f a = .num p m i) (hb : decodeF f b = .num q n j) (rm : Rm) :
    ResultIs f .arith rm (zeroSign rm p !q) ((valueOf (decodeF f a) - valueOf (decodeF f b) : ℚ) : ℝ) (fSub f rm a b) := by
  obtain ⟨v, eq, exact_⟩ := add_num rm p m i (!q) n j
  rw [fSub, ha, hb, FVal.neg, eq, sub_eq_add_neg, ← valueOf_neg, FVal.neg]
  exact resultIs_roundVal exact_ f rm

theorem fMul_result (ha : decodeF f a = .num p m i) (hb : decodeF f b = .num q n j) (rm : Rm) :
    ResultIs f .arith rm (p != q) ((valueOf (decodeF f a) * valueOf (decodeF f b) : ℚ) : ℝ) (fMul f rm a b) := by
  rw [fMul, ha, hb]
  exact resultIs_roundVal (isExact_mul ..) f rm

theorem fDiv_result (ha : decodeF f a = .num p m i) (hb : decodeF f b = .num q n j) (hn : n ≠ 0) (rm : Rm) :
    ResultIs f .arith rm (p != q) ((valueOf (decodeF f a) / valueOf (decodeF f b) : ℚ) : ℝ) (fDiv f rm a b) := by
  rw [fDiv, ha, hb, FVal.div, if_neg hn]
  simpa [roundQuot] using resultIs_quotient f .arith rm p m i q hn j

/-- The exact fused sum: the product is not rounded. -/
theorem fma_num (rm : Rm) (p : Bool) (m : ℕ) (i : ℤ) (q : Bool) (n : ℕ) (j : ℤ) (r : Bool) (l : ℕ) (k : ℤ) :
    ∃ v, (FVal.num p m i).fma rm (.num q n j) (.num r l k) = (v, 0) ∧
      IsExact v (valueOf (.num p m i) * valueOf (.num q n j) + valueOf (.num r l k)) (zeroSign rm (p != q) r) := by
  obtain ⟨v, eq, exact_⟩ := add_num rm (p != q) (m * n) (i + j) r l k
  rw [mul_num] at exact_
  exact ⟨v, by simp [FVal.fma, FVal.mul, eq], exact_⟩

theorem fMa_result (ha : decodeF f a = .num p m i) (hb : decodeF f b = .num q n j) (hc : decodeF f c = .num r l k) (rm : Rm) :
    ResultIs f .arith rm (zeroSign rm (p != q) r)
      ((valueOf (decodeF f a) * valueOf (decodeF f b) + valueOf (decodeF f c) : ℚ) : ℝ) (fMa f rm a b c) := by
  obtain ⟨v, eq, exact_⟩ := fma_num rm p m i q n j r l k
  rw [fMa, ha, hb, hc, eq]
  exact resultIs_roundVal exact_ f rm

theorem fMs_result (ha : decodeF f a = .num p m i) (hb : decodeF f b = .num q n j) (hc : decodeF f c = .num r l k) (rm : Rm) :
    ResultIs f .arith rm (zeroSign rm (p != q) !r)
      ((valueOf (decodeF f a) * valueOf (decodeF f b) - valueOf (decodeF f c) : ℚ) : ℝ) (fMs f rm a b c) := by
  obtain ⟨v, eq, exact_⟩ := fma_num rm p m i q n j (!r) l k
  rw [fMs, ha, hb, hc, FVal.neg, eq, sub_eq_add_neg, ← valueOf_neg, FVal.neg]
  exact resultIs_roundVal exact_ f rm

end


/-! ### AF40 -/

/-- The pattern of a normal AF40 value. -/
theorem decodeAF40_normal (neg : Bool) {k t : ℕ} (hk : 0 < k) (hk' : k < 255) (ht : t < 2 ^ 31) :
    decodeAF40 (BitVec.ofNat 40 ((if neg then 2 ^ 39 else 0) + (k * 2 ^ 31 + t))) = .num neg (2 ^ 31 + t) ((k : ℤ) - 127 - 31) := by
  have sign : (BitVec.ofNat 40 ((if neg then 2 ^ 39 else 0) + (k * 2 ^ 31 + t))).getLsbD 39 = neg := by
    rw [BitVec.getLsbD, Nat.testBit_eq_decide_div_mod_eq, BitVec.toNat_ofNat]
    cases neg <;> simp <;> omega
  have exponent : bitsAt (BitVec.ofNat 40 ((if neg then 2 ^ 39 else 0) + (k * 2 ^ 31 + t))) 31 8 = k := by
    rw [bitsAt, Nat.shiftRight_eq_div_pow, BitVec.toNat_ofNat]
    cases neg <;> simp <;> omega
  have fraction : bitsAt (BitVec.ofNat 40 ((if neg then 2 ^ 39 else 0) + (k * 2 ^ 31 + t))) 0 31 = t := by
    rw [bitsAt, Nat.shiftRight_zero, BitVec.toNat_ofNat]
    cases neg <;> simp <;> omega
  simp only [decodeAF40, sign, exponent, fraction, if_neg hk'.ne, if_neg hk.ne']

/-- A significand of 32 bits, or the next power of two, in an exponent of the range. -/
theorem decodeAF40_units (neg : Bool) {n : ℕ} {q : ℤ} (low : 2 ^ 31 ≤ n) (high : n ≤ 2 ^ 32) (least : -126 ≤ leadExp n q)
    (most : leadExp n q < 128) : ∃ m e,
      decodeAF40 (BitVec.ofNat 40 ((if neg then 2 ^ 39 else 0) + ((q + 31 + 127).toNat * 2 ^ 31 + (n - 2 ^ 31)))) = .num neg m e ∧
        (m : ℝ) * 2 ^ e = n * 2 ^ q := by
  rcases high.lt_or_eq with less | rfl
  · have bits : Nat.log2 n = 31 := (Nat.log2_eq_iff (by omega)).mpr ⟨low, less⟩
    rw [leadExp, bits] at least most
    refine ⟨_, _, decodeAF40_normal neg (by omega) (by omega) (by omega), ?_⟩
    have exponent : (((q + 31 + 127).toNat : ℕ) : ℤ) - 127 - 31 = q := by omega
    rw [exponent, show 2 ^ 31 + (n - 2 ^ 31) = n by omega]
  · have bits : Nat.log2 (2 ^ 32) = 32 := Nat.log2_two_pow
    rw [leadExp, bits] at least most
    have carried : (q + 31 + 127).toNat * 2 ^ 31 + (2 ^ 32 - 2 ^ 31) = (q + 32 + 127).toNat * 2 ^ 31 + 0 := by omega
    rw [carried]
    refine ⟨_, _, decodeAF40_normal neg (by omega) (by omega) (by norm_num), ?_⟩
    have exponent : (((q + 32 + 127).toNat : ℕ) : ℤ) - 127 - 31 = q + 1 := by omega
    rw [exponent, zpow_add_one₀ two_ne_zero]
    push_cast
    ring

/-- RoundAF40 rounds a finite value to 32 significant bits (R79). -/
theorem roundAF40_roundsTo (neg : Bool) {m : ℕ} (hm : 0 < m) (e : ℤ) : RoundsToAF40 neg (m * 2 ^ e) (roundAF40 (.num neg m e)) := by
  have reads := reads_exact m e
  obtain ⟨first, last⟩ := reads.lead hm
  have sign : roundUnits .rne neg m e (leadExp m e - 31) false = roundUnits .rne false m e (leadExp m e - 31) false := rfl
  obtain ⟨n, up, taken⟩ := roundUnits_takes reads (q := leadExp m e - 31) (fun h => nomatch h) .rne false
  have unit := two_zpow_pos (leadExp m e - 31)
  have full (k : ℕ) (j : ℤ) (hj : j = k + (leadExp m e - 31)) : (2 : ℝ) ^ j = (2 ^ k : ℕ) * 2 ^ (leadExp m e - 31) := by
    rw [hj, zpow_add₀ two_ne_zero, zpow_natCast, Nat.cast_pow, Nat.cast_two]
  have low : 2 ^ 31 < n + 1 := by
    have bound := first.trans_lt taken.high
    rw [full 31 (leadExp m e) (by push_cast; ring)] at bound
    exact_mod_cast lt_of_mul_lt_mul_right bound unit.le
  have high : n < 2 ^ 32 := by
    have bound := taken.low.trans_lt last
    rw [full 32 (leadExp m e + 1) (by push_cast; ring)] at bound
    exact_mod_cast lt_of_mul_lt_mul_right bound unit.le
  have size : 2 ^ 31 ≤ (roundUnits .rne false m e (leadExp m e - 31) false).1 ∧
      (roundUnits .rne false m e (leadExp m e - 31) false).1 ≤ 2 ^ 32 := by
    rw [taken.units]
    cases up <;> simp <;> omega
  have inexact := taken.inexact_iff
  have integer := taken.takesInt
  simp only [roundAF40, if_neg hm.ne', sign]
  generalize roundUnits .rne false m e (leadExp m e - 31) false = r at *
  obtain ⟨above, below⟩ := (reads_exact r.1 (leadExp m e - 31)).lead (by omega)
  have power {j k : ℤ} (h : (2 : ℝ) ^ j < 2 ^ k) : j < k := (zpow_lt_zpow_iff_right₀ one_lt_two).mp h
  have start : 31 + (leadExp m e - 31) = leadExp m e := by ring
  have stop : 32 + (leadExp m e - 31) = leadExp m e + 1 := by ring
  refine ⟨leadExp m e - 31, r.1, by rwa [start], by rwa [stop], integer, fun top => ?_, fun bottom => ?_, fun bottom top => ?_⟩
  · have over_ : 128 < leadExp r.1 (leadExp m e - 31) + 1 := power (by exact_mod_cast top.trans_lt below)
    rw [if_pos (by omega)]
    cases neg <;> exact ⟨by decide, rfl⟩
  · have under : leadExp r.1 (leadExp m e - 31) < -126 := power (by exact_mod_cast above.trans_lt bottom)
    rw [if_neg (by omega), if_pos under]
    cases neg <;> exact ⟨by decide, rfl⟩
  · have least : -126 < leadExp r.1 (leadExp m e - 31) + 1 := power (by exact_mod_cast bottom.trans_lt below)
    have most : leadExp r.1 (leadExp m e - 31) < 128 := power (by exact_mod_cast above.trans_lt top)
    rw [if_neg (by omega), if_neg (by omega)]
    refine ⟨decodeAF40_units neg size.1 size.2 (by omega) most, ?_⟩
    by_cases exact_ : ((r.1 : ℤ) : ℝ) * 2 ^ (leadExp m e - 31) = m * 2 ^ e
    · rw [if_pos exact_, Bool.eq_false_iff.mpr (fun h => inexact.mp h (by exact_mod_cast exact_.symm))]
      rfl
    · rw [if_neg exact_, inexact.mpr (fun h => exact_ (by exact_mod_cast h.symm))]
      rfl

theorem roundAF40_special (neg : Bool) (e : ℤ) : roundAF40 (.num neg 0 e) = (if neg then 0x8000000000 else 0, 0) ∧
    roundAF40 (.inf neg) = (if neg then 0xFF80000000 else 0x7F80000000, 0) ∧ roundAF40 (.nan neg) = (0x7FC0000000, if neg then 1 else 0) := by
  cases neg <;> exact ⟨rfl, rfl, rfl⟩

/-- Settles O43: rounding takes a neighbour by what is discarded, at the unit of the last place of the format, and operations round their exact value. -/
theorem roundingToUnits : Obligations.RoundingToUnits := by
  unfold Obligations.RoundingToUnits
  refine ⟨roundUnits_whole, fun f o rm neg m e hm => roundFinite_roundsTo (reads_exact m e) hm (fine_exact f m) o rm neg,
    fun f rm a b c p q r m n l i j k _ ha hb hc => ?_, fun neg m e => ⟨fun hm => roundAF40_roundsTo neg hm e, roundAF40_special neg e⟩⟩
  exact ⟨fAdd_result ha hb rm, fSub_result ha hb rm, fMul_result ha hb rm, fun hn => fDiv_result ha hb hn rm, fMa_result ha hb hc rm,
    fMs_result ha hb hc rm⟩

end Sys2Proof.Proofs

/-! NaNs, infinities, minimum and maximum, and classes (R70, R160 to R162). -/

namespace Sys2Proof.Proofs

open Sys2Proof.Machine Sys2Proof.Safety

/-! ### NaNs, infinities and invalid operations -/

theorem roundVal_nan (f : Fmt) (rm : Rm) (fl : BitVec 5) : roundVal f rm (.nan false, fl) = ⟨f.nanCode, fl⟩ := by
  simp [roundVal, roundArith, flagIf]

theorem roundVal_inf (f : Fmt) (rm : Rm) (neg : Bool) (fl : BitVec 5) : roundVal f rm (.inf neg, fl) = ⟨f.signBit neg + f.infCode, fl⟩ := by
  simp [roundVal, roundArith]

theorem roundQuot_nan (f : Fmt) (rm : Rm) (sticky : Bool) (fl : BitVec 5) : roundQuot f .arith rm ⟨.nan false, sticky, fl⟩ = ⟨f.nanCode, fl⟩ := by
  simp [roundQuot, roundArith, flagIf]

theorem roundQuot_inf (f : Fmt) (rm : Rm) (neg sticky : Bool) : roundQuot f .arith rm ⟨.inf neg, sticky, 0⟩ = ⟨f.signBit neg + f.infCode, 0⟩ := by
  simp [roundQuot, roundArith]

theorem roundQuot_zero (f : Fmt) (rm : Rm) (neg : Bool) (e : ℤ) : roundQuot f .arith rm ⟨.num neg 0 e, false, 0⟩ = ⟨if f = .mf8 then 0 else f.signBit neg, 0⟩ := by
  simp [roundQuot, roundFinite, zeroCode]

theorem neg_isNan (v : FVal) : v.neg.isNan = v.isNan := by cases v <;> rfl

theorem neg_isSnan (v : FVal) : v.neg.isSnan = v.isSnan := by cases v <;> rfl

/-- A NaN among the addends gives a NaN, with INV where one signals. -/
theorem add_nan (rm : Rm) {x y : FVal} (h : x.isNan = true ∨ y.isNan = true) : x.add rm y = (.nan false, flagIf (x.isSnan || y.isSnan) fINV) := by
  cases x <;> cases y <;> simp_all [FVal.add, FVal.isNan, FVal.isSnan]

theorem mul_nan {x y : FVal} (h : x.isNan = true ∨ y.isNan = true) : x.mul y = (.nan false, flagIf (x.isSnan || y.isSnan) fINV) := by
  cases x <;> cases y <;> simp_all [FVal.mul, FVal.isNan, FVal.isSnan]

theorem div_nan {x y : FVal} (h : x.isNan = true ∨ y.isNan = true) : x.div y = ⟨.nan false, false, flagIf (x.isSnan || y.isSnan) fINV⟩ := by
  cases x <;> cases y <;> simp_all [FVal.div, FVal.isNan, FVal.isSnan]

/-- An infinity times zero. -/
def Invalid (x y : FVal) : Bool := (isInf x && isZero y) || (isZero x && isInf y)

theorem mul_invalid {x y : FVal} (h : Invalid x y = true) : x.mul y = (.nan false, fINV) := by
  cases x <;> cases y <;> simp_all [FVal.mul, Invalid, isInf, isZero]

theorem mul_inf {x y : FVal} (hx : x.isNan = false) (hy : y.isNan = false) (valid : Invalid x y = false) (h : (isInf x || isInf y) = true) :
    x.mul y = (.inf (negOf x != negOf y), 0) := by
  cases x <;> cases y <;> simp_all [FVal.mul, Invalid, isInf, isZero, FVal.isNan, negOf]

theorem mul_finite {x y : FVal} (hx : x.isNan = false) (hy : y.isNan = false) (h : isInf x = false) (k : isInf y = false) :
    ∃ m e, x.mul y = (.num (negOf x != negOf y) m e, 0) := by
  cases x <;> cases y <;> simp_all [FVal.mul, isInf, FVal.isNan, negOf]

theorem flagIf_or (b c : Bool) (fl : BitVec 5) : flagIf b fl ||| flagIf c fl = flagIf (b || c) fl := by
  cases b <;> cases c <;> simp [flagIf]

theorem snan_of_number {x : FVal} (h : x.isNan = false) : x.isSnan = false := by cases x <;> simp_all [FVal.isNan, FVal.isSnan]

/-- A valid product of numbers is an infinity or a number. -/
theorem mul_valid {x y : FVal} (hx : x.isNan = false) (hy : y.isNan = false) (valid : Invalid x y = false) :
    ∃ v, x.mul y = (v, 0) ∧ v.isSnan = false := by
  by_cases h : (isInf x || isInf y) = true
  · exact ⟨_, mul_inf hx hy valid h, rfl⟩
  · simp only [Bool.or_eq_true, not_or, Bool.not_eq_true] at h
    obtain ⟨m, e, eq⟩ := mul_finite hx hy h.1 h.2
    exact ⟨_, eq, rfl⟩

/-- A fused operation with a NaN: INV where one signals or the product is invalid. -/
theorem fma_nan (rm : Rm) {x y z : FVal} (h : (x.isNan || y.isNan || z.isNan) = true) :
    x.fma rm y z = (.nan false, flagIf (x.isSnan || y.isSnan || z.isSnan || Invalid x y) fINV) := by
  by_cases factor : x.isNan = true ∨ y.isNan = true
  · have valid : Invalid x y = false := by
      cases x <;> cases y <;> simp_all [Invalid, isInf, isZero, FVal.isNan]
    rw [FVal.fma, mul_nan factor, add_nan rm (.inl rfl), valid, flagIf_or]
    simp [FVal.isSnan, Bool.or_assoc]
  · simp only [not_or, Bool.not_eq_true] at factor
    obtain ⟨hx, hy⟩ := factor
    have hz : z.isNan = true := by simpa [hx, hy] using h
    cases valid : Invalid x y with
    | true =>
      rw [FVal.fma, mul_invalid valid, add_nan rm (.inl rfl), snan_of_number hx, snan_of_number hy]
      cases z.isSnan <;> simp [flagIf, FVal.isSnan]
    | false =>
      obtain ⟨v, product, number⟩ := mul_valid hx hy valid
      rw [FVal.fma, product, add_nan rm (.inr hz), number, snan_of_number hx, snan_of_number hy]
      simp

/-- An infinite product takes the sum with it, but for an infinity of the other sign. -/
theorem fma_inf (rm : Rm) {x y z : FVal} (hx : x.isNan = false) (hy : y.isNan = false) (hz : z.isNan = false) (valid : Invalid x y = false)
    (h : (isInf x || isInf y) = true) : x.fma rm y z =
      if isInf z && negOf z != (negOf x != negOf y) then (.nan false, fINV) else (.inf (negOf x != negOf y), 0) := by
  rw [FVal.fma, mul_inf hx hy valid h]
  generalize (negOf x != negOf y) = p
  cases z with
  | nan s => cases hz
  | inf r => cases p <;> cases r <;> simp [FVal.add, isInf, negOf]
  | num r l k => simp [FVal.add, isInf]

/-- An infinite addend of a finite product is the sum. -/
theorem fma_inf_addend (rm : Rm) {x y z : FVal} (hx : x.isNan = false) (hy : y.isNan = false) (h : isInf x = false) (k : isInf y = false)
    (hz : isInf z = true) : x.fma rm y z = (.inf (negOf z), 0) := by
  obtain ⟨m, e, product⟩ := mul_finite hx hy h k
  rw [FVal.fma, product]
  cases z <;> simp_all [FVal.add, isInf, negOf]

theorem isInf_neg (v : FVal) : isInf v.neg = isInf v := by cases v <;> rfl

theorem negOf_neg {v : FVal} (h : isInf v = true) : negOf v.neg = !negOf v := by cases v <;> simp_all [isInf, negOf, FVal.neg]

/-- The fused operations (R160), with an addend or its negation. -/
theorem fused_results (f : Fmt) (rm : Rm) (a b c : ℕ) :
    let A := decodeF f a
    let B := decodeF f b
    let C := decodeF f c
    let p := negOf A != negOf B
    let invalid := (isInf A && isZero B) || (isZero A && isInf B)
    (A.isNan || B.isNan || C.isNan → ∀ op ∈ [fMa f rm, fMs f rm],
      op a b c = ⟨f.nanCode, if A.isSnan || B.isSnan || C.isSnan || invalid then 1 else 0⟩) ∧
    (A.isNan = false → B.isNan = false → C.isNan = false → invalid = false →
      (isInf A || isInf B → fMa f rm a b c = (if isInf C && negOf C != p then ⟨f.nanCode, 1⟩ else ⟨f.signBit p + f.infCode, 0⟩) ∧
        fMs f rm a b c = (if isInf C && negOf C == p then ⟨f.nanCode, 1⟩ else ⟨f.signBit p + f.infCode, 0⟩)) ∧
      (isInf A = false → isInf B = false → isInf C = true → fMa f rm a b c = ⟨f.signBit (negOf C) + f.infCode, 0⟩ ∧
        fMs f rm a b c = ⟨f.signBit (!negOf C) + f.infCode, 0⟩)) := by
  intro A B C p invalid
  refine ⟨fun nan => ?_, fun hA hB hC valid => ⟨fun inf => ⟨?_, ?_⟩, fun hA' hB' hC' => ⟨?_, ?_⟩⟩⟩
  · simp only [List.forall_mem_cons, List.not_mem_nil, false_imp_iff, implies_true, and_true]
    constructor
    · exact (congrArg _ (fma_nan rm nan)).trans (roundVal_nan ..)
    · have nan' : (A.isNan || B.isNan || C.neg.isNan) = true := by rw [neg_isNan]; exact nan
      refine ((congrArg _ (fma_nan rm nan')).trans (roundVal_nan ..)).trans ?_
      rw [neg_isSnan]
      rfl
  · refine (congrArg _ (fma_inf rm hA hB hC valid inf)).trans ?_
    split
    · exact roundVal_nan ..
    · exact roundVal_inf ..
  · have hC' : C.neg.isNan = false := by rw [neg_isNan]; exact hC
    refine (congrArg _ (fma_inf rm hA hB hC' valid inf)).trans ?_
    have same : (isInf C.neg && negOf C.neg != (negOf A != negOf B)) = (isInf C && negOf C == p) := by
      rw [isInf_neg]
      cases infinite : isInf C with
      | false => rfl
      | true =>
        rw [negOf_neg infinite]
        show (true && (!negOf C) != p) = (true && negOf C == p)
        cases negOf C <;> cases p <;> rfl
    rw [same]
    split
    · exact roundVal_nan ..
    · exact roundVal_inf ..
  · exact (congrArg _ (fma_inf_addend rm hA hB hA' hB' hC')).trans (roundVal_inf ..)
  · have hC'' : isInf C.neg = true := by rw [isInf_neg]; exact hC'
    refine ((congrArg _ (fma_inf_addend rm hA hB hA' hB' hC'')).trans (roundVal_inf ..)).trans ?_
    rw [negOf_neg hC']

/-- What the four basic operations give of infinities, and of a zero as divisor (R70, R160). -/
theorem infinite_results (f : Fmt) (rm : Rm) (a b c : ℕ) :
    (∀ op ∈ [fAdd f rm, fSub f rm, fMul f rm, fDiv f rm], (decodeF f a).isNan = true ∨ (decodeF f b).isNan = true →
      op a b = ⟨f.nanCode, if (decodeF f a).isSnan || (decodeF f b).isSnan then 1 else 0⟩) ∧
    (∀ x y, decodeF f a = .inf x → decodeF f b = .inf y → fAdd f rm a b = (if x = y then ⟨f.signBit x + f.infCode, 0⟩ else ⟨f.nanCode, 1⟩) ∧
      fSub f rm a b = (if x = y then ⟨f.nanCode, 1⟩ else ⟨f.signBit x + f.infCode, 0⟩) ∧ fDiv f rm a b = ⟨f.nanCode, 1⟩ ∧
      fMul f rm a b = ⟨f.signBit (x != y) + f.infCode, 0⟩) ∧
    (∀ x y n e, decodeF f a = .inf x → decodeF f b = .num y n e → fAdd f rm a b = ⟨f.signBit x + f.infCode, 0⟩ ∧
      fAdd f rm b a = ⟨f.signBit x + f.infCode, 0⟩ ∧ fSub f rm a b = ⟨f.signBit x + f.infCode, 0⟩ ∧
      fSub f rm b a = ⟨f.signBit (!x) + f.infCode, 0⟩ ∧ fDiv f rm a b = ⟨f.signBit (x != y) + f.infCode, 0⟩ ∧
      fDiv f rm b a = ⟨if f = .mf8 then 0 else f.signBit (y != x), 0⟩ ∧
      fMul f rm a b = (if n = 0 then ⟨f.nanCode, 1⟩ else ⟨f.signBit (x != y) + f.infCode, 0⟩) ∧ fMul f rm b a = fMul f rm a b) ∧
    (∀ x y e, decodeF f a = .inf x → decodeF f b = .num y 0 e → fMul f rm a b = ⟨f.nanCode, 1⟩ ∧ fMul f rm b a = ⟨f.nanCode, 1⟩ ∧
      (fMa f rm a b c).bits = f.nanCode ∧ (fMa f rm a b c).flags = 1 ∧ (fMs f rm b a c).bits = f.nanCode ∧ (fMs f rm b a c).flags = 1) ∧
    (∀ x m e y d, decodeF f a = .num x m e → decodeF f b = .num y 0 d →
      fDiv f rm a b = if m = 0 then ⟨f.nanCode, 1⟩ else ⟨f.signBit (x != y) + f.infCode, 0⟩) := by
  refine ⟨?_, fun x y ha hb => ⟨?_, ?_, ?_, ?_⟩, fun x y n e ha hb => ⟨?_, ?_, ?_, ?_, ?_, ?_, ?_, ?_⟩, fun x y e ha hb => ?_,
    fun x m e y d ha hb => ?_⟩
  · simp only [List.forall_mem_cons, List.not_mem_nil, false_imp_iff, implies_true, and_true]
    refine ⟨fun nan => ?_, fun nan => ?_, fun nan => ?_, fun nan => ?_⟩
    · exact (congrArg _ (add_nan rm nan)).trans (roundVal_nan ..)
    · refine ((congrArg _ (add_nan rm (by rwa [neg_isNan]))).trans (roundVal_nan ..)).trans ?_
      rw [neg_isSnan]
      rfl
    · exact (congrArg _ (mul_nan nan)).trans (roundVal_nan ..)
    · exact (congrArg _ (div_nan nan)).trans (roundQuot_nan ..)
  case refine_14 =>
    have invalid : Invalid (decodeF f a) (decodeF f b) = true := by simp [ha, hb, Invalid, isInf, isZero]
    have invalid' : Invalid (decodeF f b) (decodeF f a) = true := by simp [ha, hb, Invalid, isInf, isZero]
    have flags (g : Bool) : fINV ||| flagIf g fINV = 1 := by cases g <;> rfl
    refine ⟨(congrArg _ (mul_invalid invalid)).trans (roundVal_nan ..), (congrArg _ (mul_invalid invalid')).trans (roundVal_nan ..), ?_⟩
    rw [fMa, fMs, FVal.fma, FVal.fma, mul_invalid invalid, mul_invalid invalid', add_nan rm (.inl rfl), add_nan rm (.inl rfl)]
    simp only [roundVal_nan, flags, and_self]
  all_goals simp only [fAdd, fSub, fMul, fDiv, ha, hb, FVal.add, FVal.neg, FVal.mul, FVal.div, roundVal_inf, roundQuot_nan, roundQuot_inf, roundQuot_zero]
  case refine_2 => cases x <;> cases y <;> simp [roundVal_nan, roundVal_inf, fINV]
  case refine_3 => cases x <;> cases y <;> simp [roundVal_nan, roundVal_inf, fINV]
  case refine_4 => rfl
  case refine_12 =>
    split
    · exact roundVal_nan ..
    · exact roundVal_inf ..
  case refine_13 => rw [show (y != x) = (x != y) by cases x <;> cases y <;> rfl]
  case refine_15 =>
    simp only [if_true]
    split
    · exact roundQuot_nan ..
    · exact roundQuot_inf ..

/-! ### Order and classes of codes -/

section

variable {f : Fmt} (hf : f ≠ .mf8) (he : f ≠ .e4m3)

include hf he

/-- Which magnitude codes are NaNs, and which of them signal. -/
theorem isNan_decodeMag (neg : Bool) {mag : ℕ} (h : mag < 2 ^ (f.width - 1)) :
    (decodeMag f neg mag).isNan = decide (f.infCode < mag) ∧
      (decodeMag f neg mag).isSnan = (decide (f.infCode < mag) && decide (mag < f.infCode + 2 ^ (f.frac - 1))) := by
  obtain ⟨-, top, width⟩ := topExponent hf he
  by_cases finite : mag ≤ f.maxCode
  · obtain ⟨m, e, eq, -⟩ := decodeMag_finite (neg := neg) finite (fun h => absurd h hf)
    have below : ¬f.infCode < mag := by omega
    simp [eq, FVal.isNan, FVal.isSnan, below]
  · obtain ⟨fr, rfl⟩ : ∃ fr, mag = f.infCode + fr := ⟨mag - f.infCode, by omega⟩
    rw [decodeMag_top hf he neg (by omega)]
    by_cases zero : fr = 0
    · simp [zero, FVal.isNan, FVal.isSnan]
    · simp [zero, FVal.isNan, FVal.isSnan, Nat.pos_of_ne_zero zero]

/-- The place of a code among the numbers of its format, -0 below +0. -/
def codeRank (neg : Bool) (mag : ℕ) : ℤ := if neg then -(mag : ℤ) - 1 else mag

/-- Numbers and infinities are ordered as the ranks of their codes. -/
theorem lt_decodeMag (a b : Bool) {m n : ℕ} (hm : m ≤ f.infCode) (hn : n ≤ f.infCode) :
    (decodeMag f a m).lt true (decodeMag f b n) = decide (codeRank a m < codeRank b n) := by
  obtain ⟨-, top, width⟩ := topExponent hf he
  have infinite (s : Bool) : decodeMag f s f.infCode = .inf s := by simpa using decodeMag_top hf he s (fr := 0) (by positivity)
  have finite (s : Bool) {k : ℕ} (hk : k ≠ f.infCode) (le : k ≤ f.infCode) : ∃ p e, decodeMag f s k = .num s p e ∧
      (p : ℚ) * 2 ^ e = unbounded f k ∧ (p = 0 ↔ k = 0) := by
    obtain ⟨p, e, eq, value⟩ := decodeMag_finite (neg := s) (by omega : k ≤ f.maxCode) (fun h => absurd h hf)
    refine ⟨p, e, eq, value, ?_⟩
    have units : (p : ℚ) * 2 ^ e = 0 ↔ p = 0 := by
      rw [mul_eq_zero_iff_right (zpow_ne_zero e two_ne_zero), Nat.cast_eq_zero]
    rw [← units, value, ← unbounded_zero f, (unbounded_strictMono f).injective.eq_iff]
  by_cases hm' : m = f.infCode <;> by_cases hn' : n = f.infCode
  · rw [hm', hn', infinite, infinite]
    cases a <;> cases b <;> simp [FVal.lt, codeRank]; omega
  · obtain ⟨q, d, eq, -, -⟩ := finite b hn' hn
    rw [hm', infinite, eq]
    cases a <;> cases b <;> simp [FVal.lt, codeRank] <;> omega
  · obtain ⟨q, d, eq, -, -⟩ := finite a hm' hm
    rw [hn', infinite, eq]
    cases a <;> cases b <;> simp [FVal.lt, codeRank] <;> omega
  · obtain ⟨p, d, eq, value, zero⟩ := finite a hm' hm
    obtain ⟨q, e, eq', value', zero'⟩ := finite b hn' hn
    have less : magLt p d q e = decide (m < n) := by
      rw [Bool.eq_iff_iff, magLt_iff (K := ℚ), value, value', (unbounded_strictMono f).lt_iff_lt, decide_eq_true_iff]
    have more : magLt q e p d = decide (n < m) := by
      rw [Bool.eq_iff_iff, magLt_iff (K := ℚ), value, value', (unbounded_strictMono f).lt_iff_lt, decide_eq_true_iff]
    rw [eq, eq']
    by_cases m0 : m = 0 <;> by_cases n0 : n = 0 <;> cases a <;> cases b <;>
      simp [FVal.lt, numLt, zero, zero', less, more, codeRank, m0, n0] <;> omega

end

/-- A code of a format is its sign bit and its magnitude. -/
theorem code_parts (f : Fmt) {c : ℕ} (h : c < 2 ^ f.width) : ∃ neg mag, mag < 2 ^ (f.width - 1) ∧ decodeF f c = decodeMag f neg mag ∧
    c % 2 ^ (f.width - 1) = mag ∧ c = f.signBit neg + mag ∧ decide (2 ^ (f.width - 1) ≤ c) = neg := by
  obtain ⟨neg, mag, less, bits, eq⟩ := code_split f c
  rw [Nat.mod_eq_of_lt h] at bits
  refine ⟨neg, mag, less, eq, ?_, bits, ?_⟩
  · cases neg <;> simp [bits, signBit_eq, Nat.mod_eq_of_lt less]
  · cases neg <;> simp [bits, signBit_eq, less]

/-- VFMIN and VFMAX by the magnitudes and the ranks of their codes (R161). -/
theorem minMax_ranks {f : Fmt} (hf : f ≠ .mf8) (he : f ≠ .e4m3) {a b : ℕ} (ha : a < 2 ^ f.width) (hb : b < 2 ^ f.width) (x : Bool) :
    let nan (c : ℕ) : Bool := decide (f.infCode < c % 2 ^ (f.width - 1))
    let snan (c : ℕ) : Bool := nan c && decide (c % 2 ^ (f.width - 1) < f.infCode + 2 ^ (f.frac - 1))
    let rank (c : ℕ) : ℤ := if 2 ^ (f.width - 1) ≤ c then -((c % 2 ^ (f.width - 1) : ℕ) : ℤ) - 1 else c
    minMax f x a b = ⟨if nan a then (if nan b then f.nanCode else b) else if nan b then a
      else if x then (if rank a < rank b then b else a) else (if rank b < rank a then b else a), if snan a || snan b then 1 else 0⟩ := by
  intro nan snan rank
  have parts {c : ℕ} (h : c < 2 ^ f.width) : ∃ neg mag, decodeF f c = decodeMag f neg mag ∧ (decodeF f c).isNan = nan c ∧
      (decodeF f c).isSnan = snan c ∧ rank c = codeRank neg mag ∧ (nan c = false → mag ≤ f.infCode) := by
    obtain ⟨neg, mag, less, eq, low, bits, sign⟩ := code_parts f h
    obtain ⟨isNan, isSnan⟩ := isNan_decodeMag hf he neg less
    refine ⟨neg, mag, eq, ?_, ?_, ?_, ?_⟩
    · rw [eq, isNan]
      simp only [nan, low]
    · rw [eq, isSnan]
      simp only [snan, nan, low]
    · simp only [rank, low, codeRank]
      cases neg with
      | true => simp [of_decide_eq_true sign]
      | false => rw [if_neg (of_decide_eq_false sign), bits]; simp [signBit_eq]
    · simp [nan, low]
  obtain ⟨p, m, eqa, nana, snana, ranka, lea⟩ := parts ha
  obtain ⟨q, n, eqb, nanb, snanb, rankb, leb⟩ := parts hb
  have flags : flagIf (snan a || snan b) fINV = if snan a || snan b then 1 else 0 := rfl
  simp only [minMax, nana, nanb, snana, snanb, flags]
  cases na : nan a with
  | true => cases nan b <;> rfl
  | false =>
    cases nb : nan b with
    | true => rfl
    | false =>
      rw [eqa, eqb, lt_decodeMag hf he p q (lea na) (leb nb), lt_decodeMag hf he q p (leb nb) (lea na), ranka, rankb]
      cases x <;> simp

/-- VFCLS by the fields of its operand (R162). -/
theorem classWord_fields {f : Fmt} (hf : f ≠ .mf8) (he : f ≠ .e4m3) {a : ℕ} (ha : a < 2 ^ f.width) :
    let neg := decide (2 ^ (f.width - 1) ≤ a)
    let ex := a % 2 ^ (f.width - 1) / 2 ^ f.frac
    let fr := a % 2 ^ f.frac
    classWord f a =
      if ex = 2 ^ f.expBits - 1 then (if fr = 0 then (if neg then 2 ^ 0 else 2 ^ 7) else if fr < 2 ^ (f.frac - 1) then 2 ^ 8 else 2 ^ 9)
      else if ex = 0 then (if fr = 0 then (if neg then 2 ^ 3 else 2 ^ 4) else (if neg then 2 ^ 2 else 2 ^ 5))
      else (if neg then 2 ^ 1 else 2 ^ 6) := by
  obtain ⟨inf, -, width⟩ := topExponent hf he
  obtain ⟨neg, mag, less, eq, low, bits, sign⟩ := code_parts f ha
  have fraction : a % 2 ^ f.frac = mag % 2 ^ f.frac := by
    have divides : 2 ^ f.frac ∣ 2 ^ (f.width - 1) := ⟨2 ^ f.expBits - 1 + 1, by rw [width, inf]; ring⟩
    rw [← low, Nat.mod_mod_of_dvd _ divides]
  intro sgn ex fr
  have hs : sgn = neg := sign
  have hx : ex = mag / 2 ^ f.frac := by rw [← low]
  have hfr : fr = mag % 2 ^ f.frac := fraction
  have small : fr < 2 ^ f.frac := Nat.mod_lt _ (by positivity)
  rw [classWord, eq, decodeMag_ieee hf he, Nat.mod_eq_of_lt ha, ← hx, ← hfr, sign, hs]
  by_cases top : ex = 2 ^ f.expBits - 1
  · by_cases zero : fr = 0
    · simp [top, zero]
    · by_cases signals : fr < 2 ^ (f.frac - 1) <;> simp [top, zero, signals]
  · by_cases bottom : ex = 0
    · rw [if_neg top, if_neg top, if_pos bottom, if_pos bottom]
      by_cases zero : fr = 0 <;> simp [zero, small]
    · simp [top, bottom]

/-- Settles O42: by cases on the kinds of the operands; numbers are ordered as the ranks of their codes. -/
theorem nanAndInfinityRules : Obligations.NanAndInfinityRules := by
  refine ⟨fun f rm a b c => ?_, fun f a b hf ha hb => ?_⟩
  · obtain ⟨h₁, h₂, h₃, h₄, h₅⟩ := infinite_results f rm a b c
    exact ⟨h₁, h₂, h₃, h₄, h₅, fused_results f rm a b c⟩
  · obtain ⟨notMf8, notE4m3⟩ : f ≠ .mf8 ∧ f ≠ .e4m3 := by
      constructor <;> rintro rfl <;> exact absurd hf (by decide)
    exact ⟨fun x => congrArg _ (minMax_ranks notMf8 notE4m3 ha hb x), fun x => congrArg _ (minMax_ranks notMf8 notE4m3 ha hb x),
      classWord_fields notMf8 notE4m3 ha⟩

end Sys2Proof.Proofs

/-! What the words of the S, VI, VF and X pipes leave alone (R82, R93, R95, R97, R109). -/

namespace Sys2Proof.Proofs

open Sys2Proof.Machine Sys2Proof.Safety Sys2Proof.Laws

/-! ### Pending writes -/

theorem mem_insertPend {p q : Pend} {l : List Pend} : q ∈ insertPend p l ↔ q = p ∨ q ∈ l := by
  induction l with
  | nil => simp [insertPend]
  | cons x r ih =>
    rw [insertPend]
    split
    · simp
    · simp only [List.mem_cons, ih]
      tauto

/-- A write of a tick that contributes flags or writes one of some registers. -/
def WritesAt (vis : ℕ) (ws : List Reg) (p : Pend) : Prop := p.vis = vis ∧ ((∃ x, p.val = .flags x) ∨ p.val.reg ∈ ws)

/-- A fragment has such writes pending besides those it had. -/
def MorePending (vis : ℕ) (ws : List Reg) (f g : Frag) : Prop :=
  OnlyPending f g ∧ (∀ p ∈ f.pend, p ∈ g.pend) ∧ ∀ p ∈ g.pend, p ∈ f.pend ∨ WritesAt vis ws p

theorem MorePending.refl (vis : ℕ) (ws : List Reg) (f : Frag) : MorePending vis ws f f := ⟨rfl, fun _ h => h, fun _ h => .inl h⟩

theorem MorePending.trans {vis : ℕ} {ws : List Reg} {f g h : Frag} (a : MorePending vis ws f g) (b : MorePending vis ws g h) :
    MorePending vis ws f h := by
  obtain ⟨only, kept, new⟩ := a
  obtain ⟨only', kept', new'⟩ := b
  refine ⟨?_, fun p hp => kept' p (kept p hp), fun p hp => (new' p hp).elim (new p) .inr⟩
  rw [OnlyPending] at only only' ⊢
  rw [only', only]

theorem morePending_addPend {vis : ℕ} {ws : List Reg} (f : Frag) {p : Pend} (h : WritesAt vis ws p) : MorePending vis ws f (f.addPend p) :=
  ⟨rfl, fun _ hq => mem_insertPend.mpr (.inr hq), fun _ hq => (mem_insertPend.mp hq).symm.imp_right (fun eq => by rwa [eq])⟩

/-! ### States that differ in the pending writes of a fragment -/

/-- The state has such writes of the group's fragment pending, and differs in nothing else but the record of the group. -/
def Results (v : View) (lat : ℕ) (ws : List Reg) (s t : State) : Prop :=
  OnlyFragment s t v.fid ∧ ∀ f, s.frag? v.fid = some f → ∃ g, t.frag? v.fid = some g ∧ MorePending (v.t + lat) ws f g

section

variable {v : View} {lat : ℕ} {ws : List Reg} {s t u : State}

theorem Results.refl : Results v lat ws s s := ⟨⟨rfl, fun _ _ => rfl⟩, fun f hf => ⟨f, hf, .refl ..⟩⟩

theorem Results.trans (h : Results v lat ws s t) (k : Results v lat ws t u) : Results v lat ws s u := by
  obtain ⟨⟨only, others⟩, more⟩ := h
  obtain ⟨⟨only', others'⟩, more'⟩ := k
  refine ⟨⟨by rw [only', only], fun j hj => (others' j hj).trans (others j hj)⟩, fun f hf => ?_⟩
  obtain ⟨g, hg, a⟩ := more f hf
  obtain ⟨k, hk, b⟩ := more' g hg
  exact ⟨k, hk, a.trans b⟩

theorem results_ite {c : Prop} [Decidable c] (h : Results v lat ws s t) (k : Results v lat ws s u) : Results v lat ws s (if c then t else u) := by
  split
  · exact h
  · exact k

theorem results_modIssue (s : State) (e : Issue → Issue) : Results v lat ws s (s.modIssue e) :=
  ⟨⟨rfl, fun _ _ => rfl⟩, fun f hf => ⟨f, hf, .refl ..⟩⟩

theorem results_pend (s : State) {x : PendVal} (h : (∃ fl, x = .flags fl) ∨ x.reg ∈ ws) : Results v lat ws s (s.putPend v lat x) :=
  ⟨⟨rfl, fun j hj => by rw [State.putPend, frag_mod, if_neg hj]⟩, fun f hf => ⟨_, frag_putPend hf .., morePending_addPend f ⟨rfl, h⟩⟩⟩

theorem results_putPend (s : State) {x : PendVal} (h : x.reg ∈ ws) : Results v lat ws s (s.putPend v lat x) := results_pend s (.inr h)

theorem results_raiseEvents (s : State) (fs : List (BitVec 5)) : Results v lat ws s (s.raiseEvents fs) :=
  results_ite .refl (results_modIssue ..)

theorem results_raiseFlags (s : State) (fs : List (BitVec 5)) : Results v lat ws s (s.raiseFlags v lat fs) :=
  (results_pend s (.inl ⟨_, rfl⟩)).trans (results_raiseEvents ..)

/-- A scalar field names an s register, or a k register in a body (R106). -/
theorem results_putScalar (s : State) {d : BitVec 6} {x : Dword} (h : v.reg (.s d.toNat) ∈ ws) : Results v lat ws s (s.putScalar v lat d x) := by
  rw [View.reg] at h
  rw [State.putScalar]
  split at h <;> rename_i hb
  · rw [if_pos hb]
    exact (results_putPend s h).trans (results_modIssue ..)
  · rw [if_neg hb]
    exact results_putPend s h

theorem results_putVec (s : State) {d : BitVec 6} {f : ℕ → Word} (h : .v d.toNat ∈ ws) : Results v lat ws s (s.putVec v lat d f) :=
  results_putPend s h

theorem results_putVecFlags (s : State) {d : BitVec 6} {f : ℕ → Word × List (BitVec 5)} (h : .v d.toNat ∈ ws) :
    Results v lat ws s (s.putVecFlags v lat d f) :=
  (results_putVec s h).trans (results_raiseFlags ..)

theorem results_carry (s : State) {d : BitVec 6} {srcs : List (BitVec 6)} {own : BitVec 5} (h : .v d.toNat ∈ ws) :
    Results v lat ws s (s.carry v lat d srcs own) :=
  results_ite (results_putPend s h) .refl

theorem results_putConverted (s : State) {d : BitVec 6} {srcs : List (BitVec 6)} {f : ℕ → Word × List (BitVec 5)} (h : .v d.toNat ∈ ws) :
    Results v lat ws s (s.putConverted v lat d srcs f) :=
  results_ite (((results_putVec s h).trans (results_carry _ h)).trans (results_raiseEvents ..)) (results_putVecFlags s h)

theorem results_floatCompare (s : State) {m : BitVec 3} {a b : BitVec 6} {c : FVal → FVal → Bool} (h : .m m.toNat ∈ ws) :
    Results v 4 ws s (s.floatCompare v m a b c) :=
  (results_putPend s h).trans (results_raiseFlags ..)

theorem results_jumpTo (s : State) (target : Dword) : Results v lat ws s (s.jumpTo target) := results_modIssue ..

theorem results_branchIf (s : State) (c : Bool) (off : BitVec 12) : Results v lat ws s (s.branchIf v c off) :=
  results_ite (results_jumpTo ..) .refl

end

/-! ### The words -/

/-- What a word's results leave alone, by its latency class and the registers it names. -/
def Frame (v : View) (i : Instr) (s t : State) : Prop := Results v (uses i).lat ((uses i).writes.map v.reg) s t

/-- A word that runs is legal where it stands (R353). -/
theorem legal_of_runs {s : State} {v : View} {i : Instr} (runs : Runs s v i) : s.illegalHere v i = false := by
  have trap := runs.2
  rw [State.wordTrap] at trap
  cases illegal : s.illegalHere v i with
  | false => rfl
  | true =>
    rw [illegal] at trap
    exact nomatch trap

/-- A word that no body may hold runs outside one (R309). -/
theorem inBody_of_runs {s : State} {v : View} {i : Instr} (runs : Runs s v i) (h : bodyLegal i = false) : v.inBody = false := by
  obtain ⟨more, -⟩ := Bool.or_eq_false_iff.mp (legal_of_runs runs)
  obtain ⟨more, -⟩ := Bool.or_eq_false_iff.mp more
  obtain ⟨more, -⟩ := Bool.or_eq_false_iff.mp more
  obtain ⟨inside, -⟩ := Bool.or_eq_false_iff.mp more
  simpa [h] using inside

/-- A SETCR that runs names a register that it may write (R135). -/
theorem crWritable_of_runs {s : State} {v : View} {d : BitVec 6} {num : BitVec 12} (runs : Runs s v (.setcr d num)) : crWritable num.toNat = true := by
  obtain ⟨-, refused⟩ := Bool.or_eq_false_iff.mp (legal_of_runs runs)
  exact (Bool.not_eq_false' _).mp refused

/-- A call writes s63, for it runs outside a body (R125). -/
theorem frame_call {s : State} {v : View} (outside : v.inBody = false) (target : Dword) :
    Results v 1 [v.reg (.s 63)] s ((s.putLink v).jumpTo target) :=
  (results_putPend s (by simp [PendVal.reg, View.reg, outside])).trans (results_jumpTo ..)

/-- A SETCR of a register of the fragment or the warp writes that one (R136, R327). -/
theorem frame_putCr {s : State} {v : View} {num : BitVec 12} (own : ownWritable num.toNat = true) (x : Dword) :
    Results v 1 ((crReg num).map v.reg) s (s.putCr v num.toNat x) := by
  have names (n : ℕ) (h : num.toNat = n) : num = BitVec.ofNat 12 n := by rw [← h, BitVec.ofNat_toNat, BitVec.setWidth_eq]
  rw [ownWritable, List.contains_iff_mem] at own
  simp only [List.mem_cons, List.not_mem_nil, or_false] at own
  rcases own with own | own | own | own | own | own | own | own | own <;> rw [names _ own] <;>
    exact results_putPend s (by simp [PendVal.reg, View.reg, crReg])

/-- Settles O31: a word's effect is made of pending writes, flags and changes of the group's record. -/
theorem registerWordsFrame : Obligations.RegisterWordsFrame := by
  intro s v i f pipe notWg runs hf
  suffices ∃ t, exec i s = .next t ∧ Frame v i s t by
    obtain ⟨t, eq, ⟨only, more⟩⟩ := this
    obtain ⟨g, hg, pending, kept, new⟩ := more f hf
    exact ⟨t, g, eq, only, hg, pending, kept, new⟩
  have runsAs {eff : View → State → State} (eq : exec i s = word i s eff) (frame : Frame v i s (eff v s)) : ∃ t, exec i s = .next t ∧ Frame v i s t :=
    ⟨_, eq.trans (word_runs runs), frame⟩
  cases i with
  | sadd d a b | ssub d a b | smul d a b | smulh d a b | smulhu d a b | sand d a b | sor d a b | sxor d a b | sshl d a b | sshr d a b | ssra d a b
  | smin d a b | smax d a b | sminu d a b | smaxu d a b | sslt d a b | ssltu d a b | sdiv d a b | sdivu d a b | srem d a b | sremu d a b
  | sclz d a | spopc d a | sbrev d a | ssext d a b | szext d a b | saddi d a b | sandi d a b | sori d a b | sxori d a b | sshiShl d a b
  | sshiShr d a b | sshiSra d a b | sshiRor d a b | smovk d a | smovks d a | mpopc d a | mffs d a | mtos d a | getfmt d | getcr d a | fragid d
  | vtos d a b ha hb =>
    refine runsAs (by unfold exec; rfl) ?_
    exact results_putScalar s (List.mem_singleton_self _)
  | brcEqz a off | brcNez a off | brcLtz a off | brcGez a off | brcAny a off | brcAll a off | brcNone a off =>
    refine runsAs (by unfold exec; rfl) ?_
    exact results_branchIf ..
  | jmp off | jmpr off | ret off =>
    refine runsAs (by unfold exec; rfl) ?_
    exact results_jumpTo ..
  | call a | callr a =>
    refine runsAs (by unfold exec; rfl) ?_
    exact frame_call (inBody_of_runs runs rfl) _
  | brcSplit m off =>
    refine runsAs (by unfold exec; rfl) ?_
    exact results_ite .refl (results_ite (results_jumpTo ..) (results_modIssue ..))
  | regang =>
    refine runsAs (by unfold exec; rfl) ?_
    exact results_ite .refl (results_modIssue ..)
  | yield | waitc lc sc ec =>
    refine runsAs (by unfold exec; rfl) ?_
    exact results_modIssue ..
  | setcr d num =>
    refine runsAs (by unfold exec; rfl) ?_
    have own := crWritable_of_runs runs
    rw [crWritable, notWg d num rfl] at own
    exact frame_putCr own _
  | mand d a b | mor d a b | mxor d a b | mandn d a b | mnot d a | stom d a | mact d | setfmt a | setrm a | sqmap a
  | vceq m a b ha hb | vclt m a b ha hb | vcltu m a b ha hb | vcle m a b ha hb =>
    refine runsAs (by unfold exec; rfl) ?_
    exact results_putPend s (List.mem_singleton_self _)
  | vadd d a b ha hb | vsub d a b ha hb | vmul d a b ha hb | vmulh d a b ha hb | vmulhu d a b ha hb | vmad d a b ha hb | vand d a b ha hb
  | vor d a b ha hb | vxor d a b ha hb | vandn d a b ha hb | vshl d a b ha hb | vshr d a b ha hb | vsra d a b ha hb | vrot d a b ha hb
  | vmin d a b ha hb | vmax d a b ha hb | vminu d a b ha hb | vmaxu d a b ha hb | vbcs d a ha | vmovm d a b ha hb | vlane d a ha | vaddi d a ha
  | vshfl d a b ha hb | vbcl d a b ha hb | vrotl d a b ha hb | vperm d a b ha hb | vredadd d a ha | vredmin d a ha | vredmax d a ha | vredor d a ha
  | vscanadd d a ha | vscanmax d a ha | vscanmin d a ha | vscanaddx d a ha | vclz d a ha | vpopc d a ha | vbrev d a ha | vsext d a wc ha
  | vfcls d a =>
    refine runsAs (by unfold exec; rfl) ?_
    exact results_putVec s (List.mem_singleton_self _)
  | vpk16 d a b ha hb | vupkl16 d a ha | vupkh16 d a ha | vbyte d a b ha hb =>
    refine runsAs (by unfold exec; rfl) ?_
    exact (results_putVec s (List.mem_singleton_self _)).trans (results_carry _ (List.mem_singleton_self _))
  | vadds d a b ha hb | vsubs d a b ha hb | vfadd d a b rm | vfsub d a b rm | vfmul d a b rm | vfdiv d a b rm | vfma d a b rm | vfms d a b rm
  | vfmin d a b | vfmax d a b | vfredadd d a rm | vfredmax d a | vfscanadd d a rm | vfscanmax d a | vsfuRcp d a rm | vsfuRsq d a rm
  | vsfuSqrt d a rm | vsfuEx2 d a rm | vsfuLg2 d a rm | vsfuSin d a rm | vsfuCos d a rm | vsfuTanh d a rm | vsfuSigm d a rm | vfabs d a
  | vdqnt d a b rm | vlqenc d a b ha hb | vlqins d a b ha hb | vlqerr d a b ha hb =>
    refine runsAs (by unfold exec; rfl) ?_
    exact results_putVecFlags s (List.mem_singleton_self _)
  | vfcmpEq m a b | vfcmpLt m a b | vfcmpLe m a b | vfcmpUn m a b | vfcmpNe m a b =>
    refine runsAs (by unfold exec; rfl) ?_
    exact results_floatCompare s (List.mem_singleton_self _)
  | vcvt d a src dst rm | vqnt d a b rm | vlqdec d a b ha hb =>
    refine runsAs (by unfold exec; rfl) ?_
    exact results_putConverted s (List.mem_singleton_self _)
  | _ => exact absurd pipe (by simp [uses])

end Sys2Proof.Proofs

/-! What the conversion and lattice words put (R83, R170 to R179). -/

namespace Sys2Proof.Proofs

open Sys2Proof.Machine Sys2Proof.Safety Sys2Proof.Laws

/-- The lowest active lane of an octet comes first among its active lanes. -/
theorem octetLow_eq (v : View) (n i : ℕ) (h : (v.active.toList.filter (fun k => k / 8 = i / 8)).head? = some n) : v.octetLow i = n := by
  rw [List.head?_filter, Lanes.toList, List.find?_filter, List.find?_range_eq_some] at h
  obtain ⟨first, -, least⟩ := h
  simp only [decide_eq_true_eq, Bool.not_eq_true', decide_eq_false_iff_not] at first least
  obtain ⟨active, octet⟩ := first
  have found : (List.range 8).find? (v.active.has ∘ fun e => i / 8 * 8 + e) = some (n % 8) := by
    rw [List.find?_range_eq_some]
    refine ⟨?_, List.mem_range.mpr (by omega), fun j hj => ?_⟩
    · rw [Function.comp_apply, show i / 8 * 8 + n % 8 = n by omega]
      exact active
    · rw [Function.comp_apply, Bool.not_eq_true', Bool.eq_false_iff]
      exact fun lower => least (i / 8 * 8 + j) (by omega) ⟨lower, by omega⟩
  rw [View.octetLow, List.find?_map, found, Option.map_some, Option.getD_some]
  omega

/-- Outside a planer a conversion's flags join FSTAT; in one they stay with the result. -/
theorem putConverted_cases (s : State) (v : View) (lat : ℕ) (d : BitVec 6) (srcs : List (BitVec 6)) (r : ℕ → Word × List (BitVec 5)) :
    (v.inPlaner = false → s.putConverted v lat d srcs r = s.putVecFlags v lat d r) ∧
    (v.inPlaner = true → s.putConverted v lat d srcs r =
      (((s.putVec v lat d (fun n => (r n).1)).putPend v lat (.carried d.toNat (orFlags (v.active.toList.flatMap (fun n => (r n).2)) |||
        orFlags (srcs.map (fun x => Table.getD v.w.carried x.toNat 0))))).raiseEvents (v.active.toList.flatMap (fun n => (r n).2)))) := by
  constructor <;> intro h
  · simp [State.putConverted, h]
  · simp [State.putConverted, State.carry, View.carriedBy, h]

/-- The inputs of an octet: those of its active lanes, else zero. -/
theorem octetEncode_eq (v : View) (a b : BitVec 6) (n : ℕ) : v.octetEncode a b n = lqEncode ((List.range 8).map (fun j =>
    decodeF .fp32 (if v.active.getLsbD (n / 8 * 8 + j) then (v.v a.toNat (n / 8 * 8 + j)).toNat else 0)))
    (decodeF .fp32 (v.v b.toNat (v.octetLow n)).toNat) := by
  rw [View.octetEncode]
  refine congrArg (lqEncode · _) (List.map_congr_left (fun j _ => ?_))
  exact (apply_ite (decodeF .fp32) _ _ _).symm

end Sys2Proof.Proofs

/-! Widenings and narrowings (R71, R72, R169 to R171). -/

namespace Sys2Proof.Proofs

open Sys2Proof.Machine Sys2Proof.Safety

/-! ### Results fit their format -/

theorem signBit_add_lt {f : Fmt} (neg : Bool) {c : ℕ} (h : c < 2 ^ (f.width - 1)) : f.signBit neg + c < 2 ^ f.width := by
  have split := width_split f
  rw [signBit_eq]
  cases neg <;> simp <;> omega

theorem roundFinite_lt (f : Fmt) (o : Over) (rm : Rm) (neg : Bool) (m : ℕ) (e : ℤ) : (roundFinite f o rm neg m e false).bits < 2 ^ f.width := by
  have zero : zeroCode f neg < 2 ^ f.width := by
    rw [zeroCode]
    split
    · positivity
    · exact signBit_add_lt neg (c := 0) (by positivity)
  rcases Nat.eq_zero_or_pos m with rfl | hm
  · exact zero
  · obtain ⟨c, -, excess, within⟩ := roundFinite_roundsTo (reads_exact m e) hm (fine_exact f m) o rm neg
    rcases lt_or_ge f.maxCode c with more | held
    · rw [excess more]
      refine signBit_add_lt neg ?_
      split
      · exact maxCode_lt f
      · exact infCode_lt f
    · rw [(within held).1]
      split
      · positivity
      · exact signBit_add_lt neg (lt_of_le_of_lt held (maxCode_lt f))

theorem narrowF_lt (f : Fmt) (rm : Rm) (v : FVal) : (narrowF f rm v).bits < 2 ^ f.width := by
  cases v with
  | nan s => exact nanCode_lt f
  | inf neg => exact signBit_add_lt neg (maxCode_lt f)
  | num neg m e => exact roundFinite_lt f .narrow rm neg m e

theorem widenF_lt (f : Fmt) (v : FVal) : (widenF f v).bits < 2 ^ f.width := by
  cases v with
  | nan s => exact nanCode_lt f
  | inf neg => exact signBit_add_lt neg (infCode_lt f)
  | num neg m e => exact roundFinite_lt f .arith .rne neg m e

theorem intBits_lt (w : ℕ) (x : ℤ) : intBits w x < 2 ^ w := by
  rw [intBits, Int.toNat_lt (Int.emod_nonneg _ (by positivity))]
  exact Int.emod_lt_of_pos _ (by positivity)

theorem half_lt {w : ℕ} (hw : 0 < w) : 2 ^ (w - 1) < 2 ^ w := Nat.pow_lt_pow_right one_lt_two (by omega)

theorem narrowInt_lt {w : ℕ} (hw : 0 < w) (rm : Rm) (v : FVal) : (narrowInt w rm v).bits < 2 ^ w := by
  have half := half_lt hw
  have limit (neg : Bool) : (if neg then 2 ^ (w - 1) else 2 ^ (w - 1) - 1) < 2 ^ w := by
    split
    · exact half
    · exact (Nat.sub_le ..).trans_lt half
  cases v with
  | nan s => exact Nat.two_pow_pos w
  | inf neg => exact limit neg
  | num neg m e =>
    have small := limit neg
    simp only [narrowInt]
    generalize (if neg then 2 ^ (w - 1) else 2 ^ (w - 1) - 1) = most at small ⊢
    split
    · exact small
    · exact intBits_lt ..

/-! ### Values that a wider format holds -/

/-- The smallest exponent of the significands of a format. -/
def leastExp (f : Fmt) : ℤ := if f = .mf8 then -24 else 1 - f.bias - f.frac

theorem decodeMag_bounds {f : Fmt} {neg s : Bool} {mag m : ℕ} {e : ℤ} (less : mag < 2 ^ (f.width - 1)) (h : decodeMag f neg mag = .num s m e) :
    m < 2 ^ (f.frac + 1) ∧ leastExp f ≤ e := by
  by_cases hf : f = .mf8
  · subst hf
    have all : ∀ c < 2 ^ 7, (mf8Mag c).1 < 32 ∧ -24 ≤ (mf8Mag c).2 := by decide
    by_cases zero : mag = 0
    · cases neg <;> simp [decodeMag, zero] at h
      obtain ⟨-, rfl, rfl⟩ := h
      decide
    · rw [decodeMag, if_neg zero] at h
      cases h
      exact all mag less
  · rw [leastExp, if_neg hf]
    by_cases he : f = .e4m3
    · subst he
      have rest : mag % 8 < 8 := Nat.mod_lt _ (by norm_num)
      simp only [decodeMag] at h
      split at h
      · cases h
      · split at h <;> cases h
        · exact ⟨by simp [Fmt.frac]; omega, by decide⟩
        · exact ⟨by simp [Fmt.frac]; omega, by simp [Fmt.frac, Fmt.bias]; omega⟩
    · have rest : mag % 2 ^ f.frac < 2 ^ f.frac := Nat.mod_lt _ (by positivity)
      rw [decodeMag_ieee hf he] at h
      rw [pow_succ]
      generalize mag / 2 ^ f.frac = ex at h
      split at h
      · split at h <;> cases h
      · split at h <;> cases h
        · exact ⟨by omega, le_refl _⟩
        · exact ⟨by omega, by omega⟩

theorem decodeF_bounds {f : Fmt} {c : ℕ} {s : Bool} {m : ℕ} {e : ℤ} (h : decodeF f c = .num s m e) : m < 2 ^ (f.frac + 1) ∧ leastExp f ≤ e := by
  obtain ⟨neg, mag, less, -, eq⟩ := code_split f c
  exact decodeMag_bounds less (eq ▸ h)

/-- Significands of few enough bits, at exponents that are not too small, can be normalised. -/
theorem exists_packable {f : Fmt} {n : ℕ} {q : ℤ} (hn : n < 2 ^ (f.frac + 1)) (pos : 0 < n) (hq : 1 - f.bias - f.frac ≤ q) :
    ∃ k p, Packable f k p ∧ (k : ℚ) * 2 ^ p = n * 2 ^ q := by
  have bits : 2 ^ Nat.log2 n ≤ n := Nat.log2_self_le pos.ne'
  have more : n < 2 ^ (Nat.log2 n + 1) := Nat.lt_log2_self
  have few : Nat.log2 n ≤ f.frac := by
    have := (Nat.pow_lt_pow_iff_right one_lt_two).mp (bits.trans_lt hn)
    omega
  obtain ⟨j, hj⟩ : ∃ j, j = min (f.frac - Nat.log2 n) (q - (1 - f.bias - f.frac)).toNat := ⟨_, rfl⟩
  refine ⟨n * 2 ^ j, q - j, ⟨?_, ?_⟩, ?_⟩
  · calc n * 2 ^ j < 2 ^ (Nat.log2 n + 1) * 2 ^ j := Nat.mul_lt_mul_of_pos_right more (by positivity)
      _ = 2 ^ (Nat.log2 n + 1 + j) := (pow_add ..).symm
      _ ≤ 2 ^ (f.frac + 1) := Nat.pow_le_pow_right two_pos (by omega)
  · by_cases bottom : q - j = 1 - f.bias - f.frac
    · exact .inl bottom
    · refine .inr ⟨by omega, ?_⟩
      calc 2 ^ f.frac = 2 ^ Nat.log2 n * 2 ^ j := by rw [← pow_add]; congr 1; omega
        _ ≤ n * 2 ^ j := Nat.mul_le_mul_right _ bits
  · rw [zpow_sub₀ two_ne_zero, zpow_natCast]
    push_cast
    field_simp

/-- A format holds such values up to its largest. -/
theorem exists_code {f : Fmt} (hf : f ≠ .mf8) {n : ℕ} {q : ℤ} (hn : n < 2 ^ (f.frac + 1)) (hq : 1 - f.bias - f.frac ≤ q)
    (le : (n : ℚ) * 2 ^ q ≤ unbounded f f.maxCode) : ∃ c, c ≤ f.maxCode ∧ (n : ℚ) * 2 ^ q = unbounded f c := by
  rcases Nat.eq_zero_or_pos n with rfl | pos
  · exact ⟨0, Nat.zero_le _, by rw [unbounded_zero]; simp⟩
  · obtain ⟨k, p, packable, value⟩ := exists_packable hn pos hq
    obtain ⟨eq, -⟩ := unbounded_packUnits hf packable
    refine ⟨packUnits f k p, (unbounded_strictMono f).le_iff_le.mp ?_, ?_⟩
    · rw [eq, value]
      exact le
    · rw [eq, value]

/-- The values of a format are values of another, which has an exponent field. -/
def Fits (t : CvtFmt) (f : Fmt) : Prop :=
  f ≠ .mf8 ∧ ∀ c neg m e, t.decode c = .num neg m e → m < 2 ^ (f.frac + 1) ∧ 1 - f.bias - f.frac ≤ e ∧ (m : ℚ) * 2 ^ e ≤ unbounded f f.maxCode

theorem fits_flt {f g : Fmt} (hg : g ≠ .mf8) (frac : f.frac ≤ g.frac) (low : 1 - g.bias - g.frac ≤ leastExp f)
    (max : unbounded f f.maxCode ≤ unbounded g g.maxCode) : Fits (.flt f) g := by
  refine ⟨hg, fun c neg m e h => ?_⟩
  obtain ⟨less, least⟩ := decodeF_bounds h
  obtain ⟨mag, finite, -, value, -⟩ := decodeF_num h
  refine ⟨less.trans_le (Nat.pow_le_pow_right two_pos (by omega)), low.trans least, ?_⟩
  rw [value]
  exact ((unbounded_strictMono f).monotone finite).trans max

theorem signedBits_bounds (c : ℕ) : -128 ≤ signedBits 8 c ∧ signedBits 8 c ≤ 127 := by
  simp only [signedBits]
  split <;> omega

theorem fits_int8 {g : Fmt} (hg : g ≠ .mf8) (frac : 7 ≤ g.frac) (low : 1 - g.bias - g.frac ≤ 0) (max : 128 ≤ unbounded g g.maxCode) :
    Fits (.int 8) g := by
  refine ⟨hg, fun c neg m e h => ?_⟩
  obtain ⟨least, most⟩ := signedBits_bounds c
  simp only [CvtFmt.decode, FVal.ofInt] at h
  cases h
  have small : (signedBits 8 c).natAbs ≤ 128 := by omega
  refine ⟨?_, low, ?_⟩
  · calc (signedBits 8 c).natAbs < 2 ^ (7 + 1) := by omega
      _ ≤ 2 ^ (g.frac + 1) := Nat.pow_le_pow_right two_pos (by omega)
  · rw [zpow_zero, mul_one]
    exact le_trans (by exact_mod_cast small) max

/-- A widening of a number gives the code of its value, with no flag (R72). -/
theorem widenF_num {t : CvtFmt} {f : Fmt} (fits : Fits t f) {c m : ℕ} {neg : Bool} {e : ℤ} (h : t.decode c = .num neg m e) :
    (widenF f (.num neg m e)).flags = 0 ∧ ∃ n d, decodeF f (widenF f (.num neg m e)).bits = .num neg n d ∧
      valueOf (.num neg n d) = valueOf (.num neg m e) := by
  obtain ⟨hf, bounds⟩ := fits
  obtain ⟨few, least, most⟩ := bounds c neg m e h
  obtain ⟨k, finite, value⟩ := exists_code hf few least most
  obtain ⟨n, d, eq, same⟩ := decodeMag_finite (neg := neg) finite (fun h => absurd h hf)
  have rounded := roundFinite_held finite value (fun h => absurd h hf) (neg := neg) .arith .rne
  refine ⟨rfl, n, d, ?_, ?_⟩
  · rw [widenF, rounded, decodeF_signed f neg (lt_of_le_of_lt finite (maxCode_lt f)), eq]
  · rw [valueOf_num, valueOf_num, value, same]

/-! ### Rounding to integers -/

/-- A narrowing into an integer, of the number of units that a mode takes. -/
theorem intResultIs_units {w : ℕ} {rm : Rm} {neg : Bool} {y : ℝ} {r : ℕ × Bool} (taken : TakesInt rm (if neg then -y else y) (if neg then -(r.1 : ℤ) else r.1))
    (inexact : r.2 = true ↔ y ≠ r.1) : IntResultIs w rm (if neg then -y else y)
      (if (if neg then 2 ^ (w - 1) else 2 ^ (w - 1) - 1) < r.1 then ⟨if neg then 2 ^ (w - 1) else 2 ^ (w - 1) - 1, fSATO ||| fINX⟩
        else ⟨intBits w (if neg then -(r.1 : ℤ) else r.1), flagIf r.2 fINX⟩) := by
  have pos : 0 < 2 ^ (w - 1) := by positivity
  have bits (x : ℤ) : (intBits w x : ℤ) = x % 2 ^ w := by
    rw [intBits, Int.toNat_of_nonneg (Int.emod_nonneg _ (by positivity))]
    norm_cast
  have cast : (2 : ℤ) ^ (w - 1) = ((2 ^ (w - 1) : ℕ) : ℤ) := by norm_cast
  have flags : (y = r.1 → flagIf r.2 fINX = 0) ∧ (y ≠ r.1 → flagIf r.2 fINX = 8) := by
    constructor <;> intro h
    · have : r.2 = false := by
        rw [← Bool.not_eq_true, inexact]
        exact not_not_intro h
      rw [this]; rfl
    · rw [inexact.mpr h]; rfl
  refine ⟨_, taken, ?_⟩
  rw [cast]
  cases neg with
  | false =>
    simp only [Bool.false_eq_true, if_false]
    refine ⟨fun excess => if_pos (by omega), fun under => by omega, fun _ within => ?_⟩
    rw [if_neg (by omega)]
    exact ⟨bits r.1, by simpa using flags.1, by simpa using flags.2⟩
  | true =>
    simp only [if_true]
    refine ⟨fun excess => by omega, fun under => if_pos (by omega), fun within _ => ?_⟩
    rw [if_neg (by omega)]
    refine ⟨bits _, ?_, ?_⟩
    · simpa using flags.1
    · simpa using flags.2

/-- A narrowing of a number into an integer (R71). -/
theorem intResultIs_num (w : ℕ) (rm : Rm) (neg : Bool) (m : ℕ) (e : ℤ) :
    IntResultIs w rm ((valueOf (.num neg m e) : ℚ) : ℝ) (narrowInt w rm (.num neg m e)) := by
  obtain ⟨n, up, taken⟩ := roundUnits_takes (reads_exact m e) (q := 0) (fun h => nomatch h) rm neg
  have result := intResultIs_units (w := w) (by simpa using taken.takesInt) (by simpa using taken.inexact_iff)
  have value : ((valueOf (.num neg m e) : ℚ) : ℝ) = if neg then -((m : ℝ) * 2 ^ e) else (m : ℝ) * 2 ^ e := by
    rw [valueOf_num]
    cases neg <;> simp
  rw [value]
  exact result

/-- A narrowing of a number (R71). -/
theorem narrowsTo_num (t : CvtFmt) (rm : Rm) (neg : Bool) (m : ℕ) (e : ℤ) :
    NarrowsTo t rm neg ((valueOf (.num neg m e) : ℚ) : ℝ) (t.narrow rm (.num neg m e)) := by
  cases t with
  | flt f => exact resultIs_num f .narrow rm neg m e (fun _ => rfl)
  | int w => exact intResultIs_num w rm neg m e

end Sys2Proof.Proofs

/-! VCVT, element by element and lane by lane (R169 to R171). -/

namespace Sys2Proof.Proofs

open Sys2Proof.Machine Sys2Proof.Safety

/-! ### Elements -/

theorem decode_int {w c : ℕ} (hw : w = 8 ∨ w = 32) (h : c < 2 ^ w) : CvtFmt.decode (.int w) c =
    if c < 2 ^ (w - 1) then .num false c 0 else .num true (2 ^ w - c) 0 := by
  rcases hw with rfl | rfl <;> simp only [CvtFmt.decode, FVal.ofInt, signedBits, Nat.mod_eq_of_lt h] <;> split <;> split <;>
    simp at * <;> omega

/-- A float format of VCVT has the codes of its infinity and of its canonical NaN. -/
theorem convertElem_narrow {src dst : ℕ} (rm : Rm) (c : ℕ) (h : widens src dst = false) :
    convertElem src dst rm c = (CvtFmt.ofIndex dst).narrow rm ((CvtFmt.ofIndex src).decode c) := by
  simp [convertElem, h]

theorem convertElem_widen {src dst : ℕ} {f : Fmt} (rm : Rm) (c : ℕ) (h : widens src dst = true) (hf : CvtFmt.ofIndex dst = .flt f) :
    convertElem src dst rm c = widenF f ((CvtFmt.ofIndex src).decode c) := by
  simp [convertElem, h, hf]

theorem convertElem_int8 (rm : Rm) (c : ℕ) : convertElem 7 6 rm c = narrowInt 32 .rne (FVal.ofInt (signedBits 8 c)) := rfl

/-- The widenings into floats: of the 8-bit floats and INT8 to each wider one, and of the 16-bit ones to FP32 (R171). -/
def floatWidenings : List (CvtFmt × CvtFmt) :=
  [CvtFmt.flt .e4m3, .flt .e5m2, .flt .mf8].product [.flt .fp32, .flt .fp16, .flt .bf16] ++
    [CvtFmt.flt .fp16, .flt .bf16].product [.flt .fp32] ++ [CvtFmt.int 8].product [.flt .fp32, .flt .fp16, .flt .bf16]

theorem widens_formats : ∀ src < 8, ∀ dst < 8,
    widens src dst = (floatWidenings.contains (CvtFmt.ofIndex src, CvtFmt.ofIndex dst) || (src == 7 && dst == 6)) := by decide

theorem widens_iff : ∀ src < 8, ∀ dst < 8, widens src dst = true ↔ (src, dst) ∈ [(1, 0), (2, 0), (3, 0), (3, 1), (3, 2), (4, 0), (4, 1), (4, 2), (5, 0),
    (5, 1), (5, 2), (7, 0), (7, 1), (7, 2), (7, 6)] := by decide

/-- A widening into a float keeps the values of its source (R171). -/
theorem fits_of_mem : ∀ p ∈ floatWidenings, ∃ f, p.2 = .flt f ∧ Fits p.1 f := by
  obtain ⟨max32, max16, maxB16, max43, max52, maxM⟩ := unbounded_maxCodes
  simp only [floatWidenings, List.product, List.flatMap_cons, List.flatMap_nil, List.map_cons, List.map_nil, List.cons_append,
    List.nil_append, List.append_nil, List.forall_mem_cons, CvtFmt.flt.injEq, exists_eq_left', List.not_mem_nil, false_imp_iff, implies_true, and_true]
  refine ⟨?_, ?_, ?_, ?_, ?_, ?_, ?_, ?_, ?_, ?_, ?_, ?_, ?_, ?_⟩
  case refine_12 => exact fits_int8 (by decide) (by decide) (by decide) (le_trans (by norm_num) max32.ge)
  case refine_13 => exact fits_int8 (by decide) (by decide) (by decide) (le_trans (by norm_num) max16.ge)
  case refine_14 => exact fits_int8 (by decide) (by decide) (by decide) (le_trans (by norm_num) maxB16.ge)
  all_goals
    refine fits_flt (by decide) (by decide) (by decide) ?_
    simp only [Fmt.maxCode, max32, max16, maxB16, max43, max52, maxM]
    norm_num

theorem fits_of_widens {src dst : ℕ} (hs : src < 8) (hd : dst < 8) (h : widens src dst = true) :
    (∃ f, CvtFmt.ofIndex dst = .flt f ∧ Fits (CvtFmt.ofIndex src) f) ∨ (src = 7 ∧ dst = 6) := by
  rw [widens_formats src hs dst hd, Bool.or_eq_true, List.contains_iff_mem, Bool.and_eq_true, beq_iff_eq, beq_iff_eq] at h
  exact h.imp_left (fits_of_mem _)

/-- INT32 holds the values of INT8. -/
theorem narrowInt_held (rm : Rm) {x : ℤ} (low : -2 ^ 31 ≤ x) (high : x < 2 ^ 31) :
    narrowInt 32 rm (FVal.ofInt x) = ⟨intBits 32 x, 0⟩ ∧ signedBits 32 (intBits 32 x) = x := by
  have exact_ (neg : Bool) (m : ℕ) : roundUnits rm neg m 0 0 false = (m, false) := by
    cases rm <;> simp [roundUnits, roundsUp]
  constructor
  · have sign : (if decide (x < 0) then -(x.natAbs : ℤ) else x.natAbs) = x := by
      by_cases neg : x < 0 <;> simp only [neg, decide_true, decide_false, if_true, Bool.false_eq_true, if_false] <;> omega
    have within : ¬(if decide (x < 0) then 2 ^ 31 else 2 ^ 31 - 1) < x.natAbs := by
      by_cases neg : x < 0 <;> simp only [neg, decide_true, decide_false, if_true, Bool.false_eq_true, if_false] <;> omega
    simp only [narrowInt, FVal.ofInt, exact_]
    rw [if_neg within, sign]
    rfl
  · simp only [signedBits, intBits]
    split_ifs <;> omega

theorem convertElem_lt {src dst : ℕ} (rm : Rm) (c : ℕ) : (convertElem src dst rm c).bits < 2 ^ (CvtFmt.ofIndex dst).width := by
  have int (w : ℕ) (h : CvtFmt.ofIndex dst = .int w) : 0 < w := by
    unfold CvtFmt.ofIndex at h
    split at h <;> cases h <;> norm_num
  rw [convertElem]
  cases hd : CvtFmt.ofIndex dst with
  | flt f =>
    split
    · exact widenF_lt f _
    · exact narrowF_lt f rm _
  | int w =>
    split
    · exact narrowInt_lt (int w hd) ..
    · exact narrowInt_lt (int w hd) ..

theorem vcvtElements : VcvtElements := by
  refine ⟨rfl, fun c f => rfl, fun w c hw h => decode_int hw h, fun src dst rm c hs hd _ _ => ?_⟩
  intro v r
  have hv : (CvtFmt.ofIndex src).decode c = v := rfl
  clear_value v
  have hr : r = convertElem src dst rm c := rfl
  clear_value r
  have listed := widens_iff src hs dst hd
  cases h : widens src dst with
  | true =>
    rw [if_pos (listed.mp h)]
    refine ⟨hr ▸ convertElem_lt rm c, ?_⟩
    cases v with
    | nan s =>
      intro f hf
      rw [hr, convertElem_widen rm c h hf, hv]
      rfl
    | inf neg =>
      intro f hf
      rw [hr, convertElem_widen rm c h hf, hv]
      rfl
    | num neg m e =>
      rcases fits_of_widens hs hd h with ⟨f, hf, fits⟩ | ⟨rfl, rfl⟩
      · rw [hr, convertElem_widen rm c h hf, hv, hf]
        exact widenF_num fits hv
      · obtain ⟨low, high⟩ := signedBits_bounds c
        obtain ⟨eq, same⟩ := narrowInt_held .rne (x := signedBits 8 c) (by omega) (by omega)
        rw [hr, convertElem_int8, eq]
        refine ⟨rfl, m, e, ?_, rfl⟩
        rw [← hv]
        exact congrArg FVal.ofInt same
  | false =>
    rw [if_neg (by rw [← listed, h]; decide), hr, convertElem_narrow rm c h, hv]
    cases v with
    | nan s => cases CvtFmt.ofIndex dst <;> rfl
    | inf neg => cases CvtFmt.ofIndex dst <;> rfl
    | num neg m e => exact narrowsTo_num _ rm neg m e

/-! ### Lanes -/

/-- Elements narrow enough stand each in its own place. -/
theorem packElems_place (w : ℕ) (l : List ℕ) (h : ∀ x ∈ l, x < 2 ^ w) :
    (∀ e, packElems w l / 2 ^ (e * w) % 2 ^ w = l.getD e 0) ∧ packElems w l < 2 ^ (l.length * w) := by
  induction l with
  | nil => simp [packElems]
  | cons x r ih =>
    obtain ⟨here, rest⟩ := List.forall_mem_cons.mp h
    obtain ⟨places, short⟩ := ih rest
    have pos : 0 < 2 ^ w := by positivity
    have next : (x + 2 ^ w * packElems w r) / 2 ^ w = packElems w r := by
      rw [Nat.add_mul_div_left _ _ pos, Nat.div_eq_of_lt here, Nat.zero_add]
    refine ⟨fun e => ?_, ?_⟩
    · cases e with
      | zero => simp [packElems, Nat.mod_eq_of_lt here]
      | succ e => rw [packElems, Nat.succ_mul, Nat.add_comm (e * w), pow_add, ← Nat.div_div_eq_div_mul, next, places, List.getD_cons_succ]
    · rw [packElems, List.length_cons, Nat.succ_mul, Nat.add_comm (_ * w), pow_add]
      calc x + 2 ^ w * packElems w r < 2 ^ w + 2 ^ w * packElems w r := Nat.add_lt_add_right here _
        _ = 2 ^ w * (packElems w r + 1) := by ring
        _ ≤ 2 ^ w * 2 ^ (r.length * w) := Nat.mul_le_mul_left _ short

theorem convert_fits : ∀ src < 8, ∀ dst < 8, convertCount src dst * (CvtFmt.ofIndex dst).width ≤ 32 := by decide

theorem vcvtLanes : VcvtLanes := by
  intro src dst rm x hs hd _ ws wd n
  obtain ⟨places, short⟩ := packElems_place wd ((List.range n).map (fun e => (convertElem src dst rm (elem x ws e)).bits))
    (List.forall_mem_map.mpr (fun e _ => convertElem_lt rm _))
  rw [List.length_map, List.length_range] at short
  have whole : (convertLane src dst rm x).1.toNat =
      packElems wd ((List.range n).map (fun e => (convertElem src dst rm (elem x ws e)).bits)) := by
    rw [convertLane, List.map_map, BitVec.toNat_ofNat]
    exact Nat.mod_eq_of_lt (short.trans_le (Nat.pow_le_pow_right two_pos (convert_fits src hs dst hd)))
  refine ⟨fun e he => ?_, whole ▸ short, ?_⟩
  · rw [whole, places, List.getD_eq_getElem _ _ (by simpa using he), List.getElem_map, List.getElem_range, elem, Nat.mul_comm ws]
  · rw [convertLane]
    dsimp only
    rw [List.map_map]
    refine List.map_congr_left (fun e _ => ?_)
    rw [Function.comp_apply, elem, Nat.mul_comm e]

end Sys2Proof.Proofs

/-! Quotients narrowed and products (R74, R172, R173). -/

namespace Sys2Proof.Proofs

open Sys2Proof.Machine Sys2Proof.Safety

/-! ### Quotients -/

theorem quantDiv_nan {a b : FVal} (h : (a.isNan || b.isNan) = true) : a.quantDiv b = ⟨.nan false, false, flagIf (a.isSnan || b.isSnan) fINV⟩ := by
  cases a <;> cases b <;> simp_all [FVal.quantDiv, FVal.isNan, FVal.isSnan]

theorem quantDiv_invalid {a b : FVal} (h : ((isInf a && isInf b) || (isZero a && isZero b)) = true) : a.quantDiv b = ⟨.nan false, false, fINV⟩ := by
  cases a <;> cases b <;> simp_all [FVal.quantDiv, isInf, isZero]

theorem quantDiv_inf {a b : FVal} (hb : b.isNan = false) (h : (isInf a && !isInf b) = true) :
    a.quantDiv b = ⟨.inf (negOf a != negOf b), false, if isZero b then 1 else 0⟩ := by
  cases a <;> cases b <;> simp_all [FVal.quantDiv, isInf, isZero, FVal.isNan, negOf, flagIf, fINV]

theorem quantDiv_zero {a b : FVal} (ha : a.isNan = false) (h : (!isInf a && !isZero a && isZero b) = true) :
    a.quantDiv b = ⟨.inf (negOf a != negOf b), false, 1⟩ := by
  cases a <;> cases b <;> simp_all [FVal.quantDiv, isInf, isZero, FVal.isNan, negOf, fINV]

theorem quantDiv_by_inf {a b : FVal} (ha : a.isNan = false) (h : (!isInf a && isInf b) = true) :
    a.quantDiv b = ⟨.num (negOf a != negOf b) 0 0, false, 0⟩ := by
  cases a <;> cases b <;> simp_all [FVal.quantDiv, isInf, FVal.isNan, negOf]

/-! ### Narrowings of quotients -/

theorem narrowQuot_nan (t : CvtFmt) (rm : Rm) (inv : Bool) : narrowQuot t rm ⟨.nan false, false, flagIf inv fINV⟩ = nanNarrowed t inv := by
  cases t <;> cases inv <;> simp [narrowQuot, roundQuot, narrowF, narrowInt, nanNarrowed, flagIf, fINV]

theorem narrowQuot_inf (t : CvtFmt) (rm : Rm) (neg : Bool) (more : BitVec 5) : narrowQuot t rm ⟨.inf neg, false, more⟩ = infNarrowed t neg more := by
  cases t <;> simp [narrowQuot, roundQuot, narrowF, narrowInt, infNarrowed, fSATO]

theorem narrowQuot_num (t : CvtFmt) (rm : Rm) (neg : Bool) (m : ℕ) (e : ℤ) : narrowQuot t rm ⟨.num neg m e, false, 0⟩ = t.narrow rm (.num neg m e) := by
  cases t with
  | flt f => simp [narrowQuot, roundQuot, CvtFmt.narrow, narrowF]
  | int w => simp [narrowQuot, CvtFmt.narrow, narrowInt]

theorem narrowQuot_flt (f : Fmt) (rm : Rm) (neg : Bool) (m : ℕ) (e : ℤ) (sticky : Bool) :
    narrowQuot (.flt f) rm ⟨.num neg m e, sticky, 0⟩ = roundFinite f .narrow rm neg m e sticky := by
  simp [narrowQuot, roundQuot]

/-- Some integer is the one that a mode takes, a neighbour of the value. -/
theorem exists_takesInt (rm : Rm) (neg : Bool) {y : ℝ} (hy : 0 ≤ y) : ∃ k : ℕ, ⌊y⌋₊ ≤ k ∧
    TakesInt rm (if neg then -y else y) (if neg then -(k : ℤ) else k) := by
  obtain ⟨up, rule⟩ := upRule_exists rm neg (⌊y⌋₊ % 2 == 1) ⌊y⌋₊ (⌊y⌋₊ + 1) y
  exact ⟨_, Nat.le_add_right _ up.toNat, takesInt_of_rule (Nat.floor_le hy) (Nat.lt_floor_add_one y) rule⟩

/-- Rounding gives no fewer units than there are whole ones. -/
theorem le_roundUnits (rm : Rm) (neg : Bool) (m : ℕ) {e : ℤ} (h : 0 ≤ e) (sticky : Bool) : m ≤ (roundUnits rm neg m e 0 sticky).1 := by
  rw [roundUnits, if_pos h]
  exact (Nat.le_mul_of_pos_right m (by positivity)).trans (Nat.le_add_right ..)

/-- The quotient of finite values narrowed into an integer: rounded once, or beyond every integer of the format. -/
theorem intResultIs_quotient {w : ℕ} (hw : w ≤ 32) (rm : Rm) (a : Bool) (m : ℕ) (d : ℤ) (b : Bool) {n : ℕ} (hn : n ≠ 0) (e : ℤ) :
    let q := quotient m n d e
    IntResultIs w rm ((valueOf (.num a m d) / valueOf (.num b n e) : ℚ) : ℝ) (narrowQuot (.int w) rm ⟨.num (a != b) q.1 q.2.1, q.2.2, 0⟩) := by
  intro q
  have value : ((valueOf (.num a m d) / valueOf (.num b n e) : ℚ) : ℝ) =
      if (a != b) then -((m : ℝ) * 2 ^ d / (n * 2 ^ e)) else (m : ℝ) * 2 ^ d / (n * 2 ^ e) := by
    rw [valueOf_num, valueOf_num]
    cases a <;> cases b <;> simp [neg_div, div_neg]
  rw [value]
  rcases Nat.eq_zero_or_pos m with rfl | hm
  · have zero : q.1 = 0 := by simp [q, quotient]
    have exact_ : q.2.2 = false := by simp [q, quotient]
    have result := intResultIs_num w rm (a != b) 0 q.2.1
    rw [valueOf_num] at result
    rw [zero, exact_, narrowQuot_num]
    simpa [CvtFmt.narrow] using result
  · obtain ⟨pos, many, reads⟩ := quotient_reads hm (Nat.pos_of_ne_zero hn) d e
    generalize (m : ℝ) * 2 ^ d / (n * 2 ^ e) = y at reads
    have shape : narrowQuot (.int w) rm ⟨.num (a != b) q.1 q.2.1, q.2.2, 0⟩ =
        if (if (a != b) then 2 ^ (w - 1) else 2 ^ (w - 1) - 1) < (roundUnits rm (a != b) q.1 q.2.1 0 q.2.2).1 then
          ⟨if (a != b) then 2 ^ (w - 1) else 2 ^ (w - 1) - 1, fSATO ||| fINX⟩
        else ⟨intBits w (if (a != b) then -((roundUnits rm (a != b) q.1 q.2.1 0 q.2.2).1 : ℤ) else (roundUnits rm (a != b) q.1 q.2.1 0 q.2.2).1),
          flagIf (roundUnits rm (a != b) q.1 q.2.1 0 q.2.2).2 fINX⟩ := by simp [narrowQuot]
    rw [shape]
    by_cases fine : q.2.2 = true → q.2.1 < 0
    · obtain ⟨k, up, taken⟩ := roundUnits_takes reads fine rm (a != b)
      have result := taken.takesInt
      have inexact := taken.inexact_iff
      rw [zpow_zero, div_one] at result
      rw [zpow_zero, mul_one] at inexact
      exact intResultIs_units result inexact
    · push Not at fine
      obtain ⟨-, whole⟩ := fine
      have limit : 2 ^ (w - 1) < 2 ^ 69 := Nat.pow_lt_pow_right one_lt_two (by omega)
      have large : 2 ^ 69 ≤ y := by
        have unit : (1 : ℝ) ≤ 2 ^ q.2.1 := one_le_zpow₀ one_le_two whole
        calc (2 : ℝ) ^ 69 ≤ q.1 := by exact_mod_cast many
          _ ≤ q.1 * 2 ^ q.2.1 := le_mul_of_one_le_right (by positivity) unit
          _ ≤ y := reads.low_le
      have units := many.trans (le_roundUnits rm (a != b) q.1 whole q.2.2)
      obtain ⟨k, least, taken⟩ := exists_takesInt rm (a != b) (le_trans (by positivity) large)
      have beyond : 2 ^ 69 ≤ k := le_trans (Nat.le_floor (by exact_mod_cast large)) least
      have cast : (2 : ℤ) ^ (w - 1) = ((2 ^ (w - 1) : ℕ) : ℤ) := by norm_cast
      refine ⟨_, taken, ?_⟩
      rw [cast]
      generalize 2 ^ (w - 1) = lim at limit ⊢
      generalize (a != b) = neg at units taken ⊢
      cases neg with
      | true =>
        simp only [if_true]
        exact ⟨fun more => by omega, fun _ => if_pos (by omega), fun low => by omega⟩
      | false =>
        simp only [Bool.false_eq_true, if_false]
        exact ⟨fun _ => if_pos (by omega), fun less => by omega, fun _ high => by omega⟩

theorem narrowsTo_quotient {t : CvtFmt} (ht : ∀ w, t = .int w → w ≤ 32) (rm : Rm) {a b : FVal} (ha : a.isNan = false) (hb : b.isNan = false)
    (h : (!isInf a && !isInf b && !isZero b) = true) :
    NarrowsTo t rm (negOf a != negOf b) ((valueOf a / valueOf b : ℚ) : ℝ) (narrowQuot t rm (a.quantDiv b)) := by
  cases a with
  | nan => cases ha
  | inf => cases h
  | num p m d =>
    cases b with
    | nan => cases hb
    | inf => cases h
    | num r n e =>
      have hn : n ≠ 0 := by simpa [isZero, isInf] using h
      have div : (FVal.num p m d).quantDiv (.num r n e) = ⟨.num (p != r) (quotient m n d e).1 (quotient m n d e).2.1, (quotient m n d e).2.2, 0⟩ := by
        simp [FVal.quantDiv, hn]
      rw [div]
      cases t with
      | flt f =>
        rw [narrowQuot_flt]
        exact resultIs_quotient f .narrow rm p m d r hn e
      | int w => exact intResultIs_quotient (ht w rfl) rm p m d r hn e

theorem quantElements : QuantElements := by
  refine ⟨rfl, fun qf rm x y hq => ?_⟩
  intro t a b neg r
  have eight : ∀ w, t = .int w → w ≤ 32 := by
    intro w hw
    simp only [t] at hw
    unfold quantFmt at hw
    split at hw <;> cases hw
    norm_num
  refine ⟨fun h => ?_, fun ha hb => ⟨fun h => ?_, fun h => ?_, fun h => ?_, fun h => ?_, fun h => narrowsTo_quotient eight rm ha hb h⟩⟩
  · exact (congrArg _ (quantDiv_nan h)).trans (narrowQuot_nan ..)
  · exact (congrArg _ (quantDiv_invalid h)).trans (narrowQuot_nan t rm true)
  · exact (congrArg _ (quantDiv_inf hb h)).trans (narrowQuot_inf ..)
  · exact (congrArg _ (quantDiv_zero ha h)).trans (narrowQuot_inf ..)
  · have rounded := narrowsTo_num t rm neg 0 0
    rw [← narrowQuot_num, ← quantDiv_by_inf ha h, valueOf_num] at rounded
    show NarrowsTo t rm neg 0 (narrowQuot t rm (a.quantDiv b))
    simpa using rounded

/-! ### Products -/

/-- A product of two values is rounded once. -/
theorem productIs_mul (rm : Rm) (a b : FVal) : ProductIs rm a b (roundVal .fp32 rm (a.mul b)) := by
  refine ⟨fun h => ?_, fun ha hb => ⟨fun h => ?_, fun h => ?_, fun h => ?_⟩⟩
  · exact (congrArg _ (mul_nan (by simpa using h))).trans (roundVal_nan ..)
  · exact (congrArg _ (mul_invalid h)).trans (roundVal_nan ..)
  · have valid : Invalid a b = false := by cases a <;> cases b <;> simp_all [Invalid, isInf, isZero]
    have inf : (isInf a || isInf b) = true := by cases a <;> cases b <;> simp_all [isInf, isZero]
    exact (congrArg _ (mul_inf ha hb valid inf)).trans (roundVal_inf ..)
  · cases a with
    | nan => cases ha
    | inf => cases h
    | num p m d =>
      cases b with
      | nan => cases hb
      | inf => cases h
      | num r n e => exact resultIs_roundVal (isExact_mul ..) .fp32 rm

theorem dequantElements : DequantElements := fun _ rm _ _ _ _ => productIs_mul rm _ _

end Sys2Proof.Proofs

/-! LQ2 words: their codes, and the products that they decode to (R63, R64, R177, R179). -/

namespace Sys2Proof.Proofs

open Sys2Proof.Machine Sys2Proof.Safety

/-! ### Codes of a word -/

theorem signedBits_two (c : ℕ) : signedBits 2 c = if c % 4 < 2 then ((c % 4 : ℕ) : ℤ) else ((c % 4 : ℕ) : ℤ) - 4 := by
  simp only [signedBits]
  split_ifs <;> omega

/-- A stored code is the digit of its place, read with its sign. -/
theorem lqK_stored (w : ℕ) {e : ℕ} (h : e < 7) : lqK w e = signedBits 2 (w / 4 ^ e) := if_pos h

/-- The last code has the parity of the others and its own sign. -/
theorem lqK_last (w : ℕ) : lqK w 7 = ((List.range 7).map (lqK w)).sum % 2 - 2 * (w / 2 ^ 14 % 2 : ℕ) := by
  have stored : (List.range 7).map (lqK w) = (List.range 7).map (fun i => signedBits 2 (w / 4 ^ i)) :=
    List.map_congr_left (fun e he => lqK_stored w (List.mem_range.mp he))
  rw [stored, List.sum_eq_foldl, List.foldl_map]
  rfl

theorem lqK_bounds (w : ℕ) {e : ℕ} (h : e < 8) : -2 ≤ lqK w e ∧ lqK w e ≤ 1 := by
  rcases (Nat.lt_succ_iff_lt_or_eq.mp h) with stored | rfl
  · rw [lqK_stored w stored, signedBits_two]
    split <;> omega
  · rw [lqK_last]
    omega

theorem lqK_sum (w : ℕ) : ((List.range 8).map (lqK w)).sum % 2 = 0 := by
  rw [List.range_succ, List.map_append, List.sum_append, List.map_singleton, List.sum_singleton, lqK_last]
  omega

theorem lqK_mod (w : ℕ) {e : ℕ} (h : e < 7) : lqK w e % 4 = ((w / 4 ^ e % 4 : ℕ) : ℤ) := by
  rw [lqK_stored w h, signedBits_two]
  split <;> omega

theorem latticeCodes : LatticeCodes := by
  refine fun w hw => ⟨?_, lqK_sum w, ?_, fun e he => lqK_bounds w he, fun e he => lqK_mod w he⟩
  · rw [lqCoset]
    omega
  · rw [lqK_last, Nat.testBit_eq_decide_div_mod_eq, decide_eq_true_iff]
    omega

/-! ### Decoding -/

/-- An element's value is an exact number, +0 where it is zero. -/
theorem lqElem_num (w e : ℕ) : let u : ℚ := lqK w e + (lqCoset w : ℚ) / 2
    ∃ m d, lqElem w e = .num (decide (u < 0)) m d ∧ valueOf (.num (decide (u < 0)) m d) = u ∧ (m = 0 ↔ u = 0) := by
  intro u
  obtain ⟨neg, m, d, eq, value, sign⟩ := isExact_ofScaled (2 * lqK w e + (lqCoset w : ℕ)) (-1) false
  have same : ((2 * lqK w e + (lqCoset w : ℕ) : ℤ) : ℚ) * 2 ^ (-1 : ℤ) = u := by
    push_cast
    rw [zpow_neg_one]
    ring
  rw [same, eq, valueOf_num] at value
  have unit : (0 : ℚ) < 2 ^ d := by positivity
  have zero : m = 0 ↔ u = 0 := by
    rw [← value]
    cases neg <;> simp [unit.ne']
  have less : neg = decide (u < 0) := by
    rw [← value]
    cases neg with
    | true =>
      have pos : 0 < m := Nat.pos_of_ne_zero (fun h => nomatch sign h)
      simp [unit, pos]
    | false => simp; positivity
  refine ⟨m, d, less ▸ eq, ?_, zero⟩
  rw [← less, valueOf_num]
  exact value

/-- What an infinite scale and a finite one make of an element (R177). -/
theorem decode_results (rm : Rm) {s : Bool} {m : ℕ} {d : ℤ} (b : FVal) :
    let r := roundVal .fp32 rm ((FVal.num s m d).mul b)
    (b.isNan → r = ⟨0x7FC00000, if b.isSnan then 1 else 0⟩) ∧
    (isInf b → r = if m = 0 then ⟨0x7FC00000, 1⟩ else ⟨Fmt.signBit .fp32 (s != negOf b) + 0x7F800000, 0⟩) ∧
    (!b.isNan && !isInf b → ResultIs .fp32 .arith rm (s != negOf b) ((valueOf (.num s m d) * valueOf b : ℚ) : ℝ) r) := by
  obtain ⟨nan, number⟩ := productIs_mul rm (.num s m d) b
  refine ⟨fun h => ?_, fun h => ?_, fun h => ?_⟩
  · exact nan (by simp [h])
  · obtain ⟨invalid, inf, -⟩ := number rfl (by cases b <;> simp_all [isInf, FVal.isNan])
    split
    next zero => exact invalid (by simp [isZero, zero, h])
    next nonzero => exact inf (by simp [isZero, nonzero, h])
  · obtain ⟨hb, finite⟩ : b.isNan = false ∧ isInf b = false := by simpa using h
    obtain ⟨-, -, exact_⟩ := number rfl hb
    exact exact_ (by rw [finite]; rfl)

/-- The product of an element and a scale: its flags say whether it is invalid, and no NaN of it signals. -/
theorem mul_flags (s : Bool) (m : ℕ) (d : ℤ) (b : FVal) : ((FVal.num s m d).mul b).2 = flagIf (b.isSnan || (isInf b && m == 0)) fINV ∧
    ((FVal.num s m d).mul b).1.isSnan = false := by
  cases b with
  | nan t => exact ⟨by cases t <;> rfl, rfl⟩
  | inf t => by_cases zero : m = 0 <;> simp [FVal.mul, zero, isInf, FVal.isSnan, flagIf]
  | num t n j => exact ⟨rfl, rfl⟩

theorem or_noFlag (fl : BitVec 5) : fl ||| 0 = fl := BitVec.or_zero

/-- x less the product of an element and a scale (R179). -/
theorem error_results (rm : Rm) {s : Bool} {m : ℕ} {d : ℤ} (a b : FVal) :
    let p := (FVal.num s m d).mul b
    let r := roundVal .fp32 rm ((a.add rm p.1.neg).1, (a.add rm p.1.neg).2 ||| p.2)
    let neg := s != negOf b
    (a.isNan || b.isNan → r = ⟨0x7FC00000, if a.isSnan || b.isSnan || (isInf b && m == 0) then 1 else 0⟩) ∧
    (a.isNan = false → b.isNan = false →
      (isInf b → m = 0 → r = ⟨0x7FC00000, 1⟩) ∧
      (isInf b → m ≠ 0 → r = if isInf a && negOf a == neg then ⟨0x7FC00000, 1⟩ else ⟨Fmt.signBit .fp32 (!neg) + 0x7F800000, 0⟩) ∧
      (!isInf b && isInf a → r = ⟨Fmt.signBit .fp32 (negOf a) + 0x7F800000, 0⟩) ∧
      (!isInf b && !isInf a → ResultIs .fp32 .arith rm (if negOf a = !neg then !neg else decide (rm = .rd))
        ((valueOf a - valueOf (.num s m d) * valueOf b : ℚ) : ℝ) r)) := by
  intro p r neg
  obtain ⟨flags, quiet⟩ := mul_flags s m d b
  refine ⟨fun h => ?_, fun ha hb => ⟨fun inf zero => ?_, fun inf nonzero => ?_, fun h => ?_, fun h => ?_⟩⟩
  · have nan : a.isNan = true ∨ p.1.neg.isNan = true := by
      rw [neg_isNan]
      rcases (Bool.or_eq_true ..).mp h with ha | hb
      · exact .inl ha
      · exact .inr (by simp [p, mul_nan (.inr hb), FVal.isNan])
    simp only [r]
    rw [add_nan rm nan, neg_isSnan, quiet, flags, flagIf_or, roundVal_nan, Bool.or_false, ← Bool.or_assoc]
    rfl
  · have product : p = (.nan false, fINV) := mul_invalid (by simp [Invalid, inf, zero, isZero])
    simp only [r, product]
    rw [add_nan rm (.inr rfl), roundVal_nan, snan_of_number ha]
    rfl
  · have product : p = (.inf neg, 0) := mul_inf rfl hb (by simp [Invalid, isInf, isZero, nonzero]) (by simp [inf])
    simp only [r, product, or_noFlag]
    cases a with
    | nan => cases ha
    | inf x => cases x <;> cases neg <;> simp [FVal.add, FVal.neg, isInf, negOf, roundVal_nan, roundVal_inf, fINV, Fmt.nanCode, Fmt.infCode]
    | num x n e => exact roundVal_inf .fp32 rm (!neg) 0
  · cases a with
    | nan => cases ha
    | num => cases b <;> cases h
    | inf x =>
      cases b with
      | nan => cases hb
      | inf => cases h
      | num y n e =>
        have product : p = (.num neg (m * n) (d + e), 0) := rfl
        simp only [r, product, or_noFlag]
        exact roundVal_inf .fp32 rm x 0
  · cases a with
    | nan => cases ha
    | inf => cases b <;> cases h
    | num x k i =>
      cases b with
      | nan => cases hb
      | inf => cases h
      | num y n e =>
        obtain ⟨v, sum, exact_⟩ := add_num rm x k i (!neg) (m * n) (d + e)
        have product : p = (.num neg (m * n) (d + e), 0) := rfl
        simp only [r, product, or_noFlag]
        rw [FVal.neg, sum, sub_eq_add_neg, ← mul_num, ← valueOf_neg, FVal.neg]
        have sign : zeroSign rm x (!neg) = if x = !neg then !neg else decide (rm = .rd) := by
          rw [zeroSign]
          split
          next same => exact same
          next => rfl
        rw [sign] at exact_
        exact resultIs_roundVal exact_ .fp32 rm

theorem latticeDecodes : LatticeDecodes := by
  intro rm w e x g hw he u a b neg r
  obtain ⟨m, d, eq, value, zero⟩ : ∃ m d, lqElem w e = .num (decide (u < 0)) m d ∧ valueOf (.num (decide (u < 0)) m d) = u ∧ (m = 0 ↔ u = 0) :=
    lqElem_num w e
  obtain ⟨nan, inf, finite⟩ := decode_results (s := decide (u < 0)) (m := m) (d := d) rm b
  obtain ⟨nan', number⟩ := error_results (s := decide (u < 0)) (m := m) (d := d) rm a b
  rw [value] at finite number
  rw [← eq] at nan inf finite nan' number
  simp only [ne_eq, zero] at inf number
  have same : (m == 0) = decide (u = 0) := by rw [← decide_eq_decide.mpr zero]; rfl
  rw [same] at nan'
  refine ⟨nan, inf, finite, fun h => ?_, number⟩
  refine (nan' h).trans ?_
  simp

end Sys2Proof.Proofs

/-! The lattice: nearest codes, the parity move and the word that holds the codes (R63, R65, R178). -/

namespace Sys2Proof.Proofs

open Sys2Proof.Machine Sys2Proof.Safety

/-! ### The nearest code -/

theorem natAbs_cast (x : ℤ) : ((x.natAbs : ℕ) : ℝ) = |(x : ℝ)| := by rw [Nat.cast_natAbs, Int.cast_abs]

/-- The codes next to a value, in integers: x of den is between 0 and 1, and another code is t steps away. -/
theorem distance_steps {den r : ℤ} (hr : 0 ≤ r) (hd : r < den) (t : ℤ) :
    (t ≤ 0 → r ≤ (r - den * t).natAbs ∧ ((r - den * t).natAbs = r → t = 0)) ∧
      (1 ≤ t → den - r ≤ (r - den * t).natAbs ∧ ((r - den * t).natAbs = den - r → t = 1)) := by
  have pos : 0 < den := by omega
  constructor <;> intro ht
  · rcases ht.lt_or_eq with less | rfl
    · have step : den * t ≤ -den := by nlinarith
      omega
    · rw [mul_zero, sub_zero]
      omega
  · rcases ht.lt_or_eq with more | rfl
    · have step : 2 * den ≤ den * t := by nlinarith
      omega
    · omega

/-- Step 2 of R65 in integers: nearest, of a tie the smaller element value, of equal ones the code 0. -/
theorem lqNearest_least {c : ℤ} (hc : c = 0 ∨ c = 1) (num : ℤ) {den : ℤ} (pos : 0 < den) (k : ℤ) : let n := lqNearest c num den
    (num - den * n).natAbs ≤ (num - den * k).natAbs ∧ ((num - den * k).natAbs = (num - den * n).natAbs → k ≠ n →
      (2 * n + c).natAbs < (2 * k + c).natAbs ∨ ((2 * n + c).natAbs = (2 * k + c).natAbs ∧ n = 0)) := by
  intro n
  have low : 0 ≤ num % den := Int.emod_nonneg _ pos.ne'
  have high : num % den < den := Int.emod_lt_of_pos _ pos
  have split (m : ℤ) : num - den * m = num % den - den * (m - num / den) := by
    have := Int.emod_add_mul_ediv num den
    linear_combination -this
  obtain ⟨below, above⟩ := distance_steps low high (k - num / den)
  have at_low : num - den * (num / den) = num % den := by rw [split]; ring
  have at_high : num - den * (num / den + 1) = num % den - den := by rw [split]; ring
  have side : k - num / den ≤ 0 ∨ 1 ≤ k - num / den := by omega
  have value : n = lqNearest c num den := rfl
  clear_value n
  rw [lqNearest] at value
  rw [split k]
  generalize num / den = q at *
  generalize num % den = r at *
  generalize r - den * (k - q) = distance at *
  split_ifs at value with nearer farther equal less
  · rw [value, at_low]
    omega
  · rw [value, at_high]
    omega
  · obtain rfl : q = -1 := by omega
    obtain rfl : n = -1 + 1 := by omega
    rw [at_high]
    omega
  · rw [value, at_low]
    omega
  · rw [value, at_high]
    omega

/-- Step 2 of R65 for the quotient of two integers. -/
theorem latticeNearest_quotient {c : ℤ} (hc : c = 0 ∨ c = 1) (x : ℤ) {g : ℤ} (pos : 0 < g) :
    LatticeNearest c ((x : ℝ) / g) (lqNearest c (2 * x - c * g) (2 * g)) := by
  have posR : (0 : ℝ) < 2 * g := by exact_mod_cast (by omega : 0 < 2 * g)
  have distance (j : ℤ) : |(x : ℝ) / g - c / 2 - j| = ((2 * x - c * g - 2 * g * j).natAbs : ℝ) / (2 * g) := by
    have eq : (x : ℝ) / g - c / 2 - j = ((2 * x - c * g - 2 * g * j : ℤ) : ℝ) / (2 * g) := by
      have : (g : ℝ) ≠ 0 := by exact_mod_cast pos.ne'
      push_cast
      field_simp
    rw [eq, abs_div, natAbs_cast, abs_of_pos posR]
  have element (j : ℤ) : |(j : ℝ) + c / 2| = ((2 * j + c).natAbs : ℝ) / 2 := by
    have eq : (j : ℝ) + c / 2 = ((2 * j + c : ℤ) : ℝ) / 2 := by
      push_cast
      ring
    rw [eq, abs_div, natAbs_cast, abs_two]
  intro k
  obtain ⟨least, tie⟩ := lqNearest_least hc (2 * x - c * g) (by omega : 0 < 2 * g) k
  rw [distance, distance, element, element, div_le_div_iff_of_pos_right posR, div_left_inj' posR.ne', div_lt_div_iff_of_pos_right two_pos,
    div_left_inj' two_ne_zero]
  exact ⟨by exact_mod_cast least, by exact_mod_cast tie⟩

/-! ### The parity move -/

/-- The order of the moves: the lowest element first, and of one element downward first. -/
def MoveBefore (a b : LqMove) : Prop := a.elem < b.elem ∨ (a.elem = b.elem ∧ a.step < b.step)

theorem MoveBefore.trans {a b c : LqMove} (h : MoveBefore a b) (k : MoveBefore b c) : MoveBefore a c := by
  unfold MoveBefore at *
  omega

/-- Of two moves the cheaper one; of equal ones the one found before. -/
def cheaper (best : Option LqMove) (mv : LqMove) : Option LqMove :=
  match best with
  | none => some mv
  | some b => if mv.cost < b.cost then some mv else some b

/-- A move is no worse than another: cheaper, or of equal cost and no later. -/
def MoveLeads (a b : LqMove) : Prop := a.cost < b.cost ∨ (a.cost = b.cost ∧ (a = b ∨ MoveBefore a b))

theorem foldl_cheaper (l : List LqMove) {b : LqMove} (first : ∀ x ∈ l, MoveBefore b x) (ordered : l.Pairwise MoveBefore) :
    ∃ m ∈ b :: l, l.foldl cheaper (some b) = some m ∧ ∀ x ∈ b :: l, MoveLeads m x := by
  induction l generalizing b with
  | nil => exact ⟨b, List.mem_singleton_self b, rfl, fun x hx => .inr ⟨by rw [List.mem_singleton.mp hx], .inl (List.mem_singleton.mp hx).symm⟩⟩
  | cons x r ih =>
    obtain ⟨after, rest⟩ := List.pairwise_cons.mp ordered
    obtain ⟨bx, first⟩ := List.forall_mem_cons.mp first
    rw [List.foldl_cons, cheaper]
    by_cases less : x.cost < b.cost
    · obtain ⟨m, member, eq, leads⟩ := ih after rest
      rw [if_pos less]
      refine ⟨m, List.mem_cons_of_mem _ member, eq, List.forall_mem_cons.mpr ⟨?_, leads⟩⟩
      have versus := leads x List.mem_cons_self
      unfold MoveLeads at versus ⊢
      omega
    · obtain ⟨m, member, eq, leads⟩ := ih first rest
      obtain ⟨versus, leads⟩ := List.forall_mem_cons.mp leads
      rw [if_neg less]
      refine ⟨m, ?_, eq, List.forall_mem_cons.mpr ⟨versus, List.forall_mem_cons.mpr ⟨?_, leads⟩⟩⟩
      · rcases List.mem_cons.mp member with rfl | inside
        · exact List.mem_cons_self
        · exact List.mem_cons_of_mem _ (List.mem_cons_of_mem _ inside)
      · rcases versus with below | ⟨equal, rfl | before⟩
        · exact .inl (by omega)
        · exact (not_lt.mp less).lt_or_eq.imp id (fun eq => ⟨eq, .inr bx⟩)
        · exact (not_lt.mp less).lt_or_eq.imp (fun lt => by omega) (fun eq => ⟨by omega, .inr (before.trans bx)⟩)

/-- The moves of one element, of code j and input x. -/
def movesOf (c g : ℤ) (e : ℕ) (j x : ℤ) : List LqMove :=
  (if -2 ≤ j - 1 then [⟨e, -1, lqErr c x g (j + -1) - lqErr c x g j⟩] else []) ++
    (if j + 1 ≤ 1 then [⟨e, 1, lqErr c x g (j + 1) - lqErr c x g j⟩] else [])

theorem lqMove_eq (c g : ℤ) (keys : List ℕ) (j x : ℕ → ℤ) : lqMove c g (keys.map (fun e => (e, j e, x e))) =
    (keys.flatMap (fun e => movesOf c g e (j e) (x e))).foldl cheaper none := by
  rw [lqMove, List.flatMap_map]
  rfl

theorem mem_movesOf {c g : ℤ} {e : ℕ} {j x : ℤ} (low : -2 ≤ j) (high : j ≤ 1) {m : LqMove} : m ∈ movesOf c g e j x ↔
    ∃ d, (d = -1 ∨ d = 1) ∧ -2 ≤ j + d ∧ j + d ≤ 1 ∧ m = ⟨e, d, lqErr c x g (j + d) - lqErr c x g j⟩ := by
  rw [movesOf, List.mem_append]
  constructor
  · rintro (h | h) <;> split at h
    · exact ⟨-1, .inl rfl, by omega, by omega, List.mem_singleton.mp h⟩
    · cases h
    · exact ⟨1, .inr rfl, by omega, by omega, List.mem_singleton.mp h⟩
    · cases h
  · rintro ⟨d, rfl | rfl, below, above, eq⟩
    · exact .inl (by rw [if_pos (by omega)]; exact List.mem_singleton.mpr eq)
    · exact .inr (by rw [if_pos (by omega)]; exact List.mem_singleton.mpr eq)

theorem movesOf_ordered (c g : ℤ) (e : ℕ) (j x : ℤ) : (movesOf c g e j x).Pairwise MoveBefore := by
  rw [movesOf]
  split <;> split <;> simp [MoveBefore]

/-- The parity move is one of those within the range, and leads them all. -/
theorem lqMove_leads (c g : ℤ) {keys : List ℕ} (nonempty : keys ≠ []) (ordered : keys.Pairwise (· < ·)) {j : ℕ → ℤ} (x : ℕ → ℤ)
    (bounds : ∀ e ∈ keys, -2 ≤ j e ∧ j e ≤ 1) : ∃ m, lqMove c g (keys.map (fun e => (e, j e, x e))) = some m ∧
      (∃ e ∈ keys, m ∈ movesOf c g e (j e) (x e)) ∧ ∀ e ∈ keys, ∀ y ∈ movesOf c g e (j e) (x e), MoveLeads m y := by
  have sorted : (keys.flatMap (fun e => movesOf c g e (j e) (x e))).Pairwise MoveBefore := by
    rw [List.pairwise_flatMap]
    refine ⟨fun e _ => movesOf_ordered .., ordered.imp_of_mem (fun {a b} ha hb less m hm n hn => .inl ?_)⟩
    obtain ⟨d, -, -, -, eq⟩ := (mem_movesOf (bounds a ha).1 (bounds a ha).2).mp hm
    obtain ⟨d', -, -, -, eq'⟩ := (mem_movesOf (bounds b hb).1 (bounds b hb).2).mp hn
    rw [eq, eq']
    exact less
  obtain ⟨e, he⟩ := List.exists_mem_of_ne_nil keys nonempty
  obtain ⟨low, high⟩ := bounds e he
  obtain ⟨m, hm⟩ : ∃ m, m ∈ movesOf c g e (j e) (x e) := by
    by_cases down : -2 ≤ j e - 1
    · exact ⟨_, (mem_movesOf low high).mpr ⟨-1, .inl rfl, by omega, by omega, rfl⟩⟩
    · exact ⟨_, (mem_movesOf low high).mpr ⟨1, .inr rfl, by omega, by omega, rfl⟩⟩
  have listed : m ∈ keys.flatMap (fun e => movesOf c g e (j e) (x e)) := List.mem_flatMap.mpr ⟨e, he, hm⟩
  rw [lqMove_eq]
  cases moves : keys.flatMap (fun e => movesOf c g e (j e) (x e)) with
  | nil => rw [moves] at listed; cases listed
  | cons b r =>
    rw [moves] at sorted
    obtain ⟨first, rest⟩ := List.pairwise_cons.mp sorted
    obtain ⟨m, member, eq, leads⟩ := foldl_cheaper r first rest
    rw [← moves] at member leads
    exact ⟨m, eq, List.mem_flatMap.mp member, fun e he y hy => leads y (List.mem_flatMap.mpr ⟨e, he, hy⟩)⟩

end Sys2Proof.Proofs

/-! Codes fitted and packed (R63, R65, R178). -/

namespace Sys2Proof.Proofs

open Sys2Proof.Machine Sys2Proof.Safety

/-! ### Codes after the move -/

/-- Codes after the parity move, which moves written elements only. -/
def movedCodes (c g : ℤ) (keys : List ℕ) (j x : ℕ → ℤ) (i : ℕ) : ℤ :=
  if i ∈ keys then lqApply (if ((List.range 8).map j).sum % 2 = 0 then none else lqMove c g (keys.map (fun e => (e, j e, x e)))) i (j i) else j i

/-- An error in units of 1 / (4 g²). -/
theorem lqErr_real (c x k : ℤ) {g : ℤ} (pos : 0 < g) : ((lqErr c x g k : ℤ) : ℝ) = (2 * g) ^ 2 * ((k : ℝ) + c / 2 - (x : ℝ) / g) ^ 2 := by
  have : (g : ℝ) ≠ 0 := by exact_mod_cast pos.ne'
  rw [lqErr]
  push_cast
  field_simp

theorem cost_real (c x k d : ℤ) {g : ℤ} (pos : 0 < g) : ((lqErr c x g (k + d) - lqErr c x g k : ℤ) : ℝ) =
    (2 * g) ^ 2 * (((k : ℝ) + d + c / 2 - (x : ℝ) / g) ^ 2 - ((k : ℝ) + c / 2 - (x : ℝ) / g) ^ 2) := by
  rw [Int.cast_sub, lqErr_real c x (k + d) pos, lqErr_real c x k pos]
  push_cast
  ring

/-- Step 3 of R65 and R178: an odd sum takes the leading move. -/
theorem parityMoved_codes {c g : ℤ} (pos : 0 < g) {keys : List ℕ} (nonempty : keys ≠ []) (ordered : keys.Pairwise (· < ·)) {j x : ℕ → ℤ}
    (bounds : ∀ e ∈ keys, -2 ≤ j e ∧ j e ≤ 1) {y : ℕ → ℝ} (hy : ∀ e ∈ keys, y e = (x e : ℝ) / g) :
    ParityMoved c y keys j (movedCodes c g keys j x) := by
  constructor
  · intro even i _
    rw [movedCodes, if_pos even]
    exact ite_self _
  · intro odd
    obtain ⟨m, eq, ⟨e, he, member⟩, leads⟩ := lqMove_leads c g nonempty ordered x bounds
    obtain ⟨d, step, below, above, rfl⟩ := (mem_movesOf (bounds e he).1 (bounds e he).2).mp member
    have unit : (0 : ℝ) < (2 * g) ^ 2 := by
      have : (0 : ℝ) < g := by exact_mod_cast pos
      positivity
    refine ⟨e, he, d, step, below, above, ?_, fun i _ ne => ?_, fun e' he' d' step' below' above' => ?_⟩
    · rw [movedCodes, if_pos he, if_neg odd, eq, lqApply]
      exact if_pos rfl
    · rw [movedCodes, if_neg odd, eq, lqApply]
      simp [ne.symm]
    · have lead := leads e' he' _ ((mem_movesOf (bounds e' he').1 (bounds e' he').2).mpr ⟨d', step', below', above', rfl⟩)
      have cheaper : lqErr c (x e) g (j e + d) - lqErr c (x e) g (j e) < lqErr c (x e') g (j e' + d') - lqErr c (x e') g (j e') ↔
          ((j e : ℝ) + d + c / 2 - y e) ^ 2 - ((j e : ℝ) + c / 2 - y e) ^ 2 < ((j e' : ℝ) + d' + c / 2 - y e') ^ 2 - ((j e' : ℝ) + c / 2 - y e') ^ 2 := by
        rw [hy e he, hy e' he', ← mul_lt_mul_iff_right₀ unit, ← cost_real c (x e) (j e) d pos, ← cost_real c (x e') (j e') d' pos, Int.cast_lt]
      have equal : lqErr c (x e) g (j e + d) - lqErr c (x e) g (j e) = lqErr c (x e') g (j e' + d') - lqErr c (x e') g (j e') ↔
          ((j e : ℝ) + d + c / 2 - y e) ^ 2 - ((j e : ℝ) + c / 2 - y e) ^ 2 = ((j e' : ℝ) + d' + c / 2 - y e') ^ 2 - ((j e' : ℝ) + c / 2 - y e') ^ 2 := by
        rw [hy e he, hy e' he', ← mul_right_inj' unit.ne', ← cost_real c (x e) (j e) d pos, ← cost_real c (x e') (j e') d' pos, Int.cast_inj]
      refine lead.imp cheaper.mp (fun tie => ⟨equal.mp tie.1, ?_⟩)
      rcases tie.2 with same | lower | ⟨element, lower⟩
      · injection same with element step _
        exact .inr ⟨element, step.le⟩
      · exact .inl lower
      · exact .inr ⟨element, lower.le⟩

theorem sum_range_eight (f : ℕ → ℤ) : ((List.range 8).map f).sum = f 0 + f 1 + f 2 + f 3 + f 4 + f 5 + f 6 + f 7 := by
  simp [List.range_succ]
  ring

/-- Codes that a move leaves have an even sum. -/
theorem parityMoved_even {c : ℤ} {y : ℕ → ℝ} {els : List ℕ} {j k : ℕ → ℤ} (h : ParityMoved c y els j k) (range : ∀ e ∈ els, e < 8) :
    ((List.range 8).map k).sum % 2 = 0 := by
  obtain ⟨stay, move⟩ := h
  by_cases even : ((List.range 8).map j).sum % 2 = 0
  · rw [List.map_congr_left (fun i hi => stay even i (List.mem_range.mp hi))]
    exact even
  · obtain ⟨e, he, d, step, -, -, moved, others, -⟩ := move even
    have less := range e he
    rw [sum_range_eight] at even ⊢
    have o0 := others 0; have o1 := others 1; have o2 := others 2; have o3 := others 3
    have o4 := others 4; have o5 := others 5; have o6 := others 6; have o7 := others 7
    interval_cases e <;> omega

/-- Codes that a move leaves are within the range. -/
theorem parityMoved_bounds {c : ℤ} {y : ℕ → ℝ} {els : List ℕ} {j k : ℕ → ℤ} (h : ParityMoved c y els j k)
    (bounds : ∀ i < 8, -2 ≤ j i ∧ j i ≤ 1) {i : ℕ} (hi : i < 8) : -2 ≤ k i ∧ k i ≤ 1 := by
  obtain ⟨stay, move⟩ := h
  by_cases even : ((List.range 8).map j).sum % 2 = 0
  · rw [stay even i hi]
    exact bounds i hi
  · obtain ⟨e, he, d, step, below, above, moved, others, -⟩ := move even
    by_cases same : i = e
    · rw [same, moved]
      exact ⟨below, above⟩
    · rw [others i hi same]
      exact bounds i hi

/-! ### The word -/

/-- A word holds its coset and its codes (R63). -/
theorem lqPack_codes {c : ℕ} (hc : c < 2) {k : ℕ → ℤ} (bounds : ∀ i < 8, -2 ≤ k i ∧ k i ≤ 1) (even : ((List.range 8).map k).sum % 2 = 0) :
    let w := lqPack c ((List.range 8).map k)
    w < 2 ^ 16 ∧ lqCoset w = c ∧ ∀ e < 8, lqK w e = k e := by
  intro w
  obtain ⟨places, short⟩ := packElems_place 2 ((List.range 7).map (fun i => (k i % 4).toNat)) (by
    refine List.forall_mem_map.mpr (fun i _ => ?_)
    omega)
  have spread : w = packElems 2 ((List.range 7).map (fun i => (k i % 4).toNat)) + 4 ^ 7 * ((if k 7 < 0 then 1 else 0) + 2 * c) := by
    simp only [w, lqPack, List.range_succ, List.range_zero, List.map_cons, List.map_nil, List.nil_append, List.cons_append,
      List.foldl_cons, List.foldl_nil, List.getD_cons_zero, List.getD_cons_succ, packElems]
    split <;> ring
  generalize packElems 2 ((List.range 7).map (fun i => (k i % 4).toNat)) = low at places short spread
  clear_value w
  rw [List.length_map, List.length_range] at short
  have stored : ∀ e < 7, w / 4 ^ e % 4 = (k e % 4).toNat := by
    intro e he
    have place := places e
    rw [List.getD_eq_getElem _ _ (by simpa using he), List.getElem_map, List.getElem_range, Nat.mul_comm, pow_mul] at place
    have scale : 4 ^ 7 * ((if k 7 < 0 then 1 else 0) + 2 * c) = 4 ^ e * (4 * (4 ^ (6 - e) * ((if k 7 < 0 then 1 else 0) + 2 * c))) := by
      rw [show 7 = e + (1 + (6 - e)) by omega, pow_add, pow_add]
      ring
    rw [spread, scale, Nat.add_mul_div_left _ _ (by positivity), Nat.add_mul_mod_self_left]
    exact place
  have codes : ∀ e < 7, lqK w e = k e := by
    intro e he
    obtain ⟨low, high⟩ := bounds e (by omega)
    rw [lqK_stored w he, signedBits_two, stored e he]
    split <;> omega
  have last : w / 2 ^ 14 % 2 = if k 7 < 0 then 1 else 0 := by
    rw [spread]
    split <;> omega
  refine ⟨?_, ?_, fun e he => ?_⟩
  · rw [spread]
    split <;> omega
  · rw [lqCoset, spread]
    split <;> omega
  · rcases (Nat.lt_succ_iff_lt_or_eq.mp he) with less | rfl
    · exact codes e less
    · have total := even
      rw [List.range_succ, List.map_append, List.sum_append, List.map_singleton, List.sum_singleton] at total
      rw [lqK_last, List.map_congr_left (fun i hi => codes i (List.mem_range.mp hi)), last]
      obtain ⟨low, high⟩ := bounds 7 (by norm_num)
      split <;> omega

end Sys2Proof.Proofs

/-! LQ2 encodings: the inputs over one scale, the codes fitted to them and their word (R65, R176, R178). -/

namespace Sys2Proof.Proofs

open Sys2Proof.Machine Sys2Proof.Safety

/-! ### Inputs and scale -/

theorem allSome_map {α β : Type} {f : α → Option β} {h : α → β} {l : List α} (all : ∀ x ∈ l, f x = some (h x)) :
    allSome (l.map f) = some (l.map h) := by
  induction l with
  | nil => rfl
  | cons x r ih =>
    obtain ⟨here, rest⟩ := List.forall_mem_cons.mp all
    rw [List.map_cons, here, allSome, ih rest]
    rfl

theorem allSome_none {α β : Type} {f : α → Option β} {l : List α} {x : α} (hx : x ∈ l) (none_ : f x = none) : allSome (l.map f) = none := by
  induction l with
  | nil => cases hx
  | cons z r ih =>
    rw [List.map_cons]
    rcases List.mem_cons.mp hx with rfl | rest
    · rw [none_, allSome]
    · cases f z with
      | none => rfl
      | some v => rw [allSome, ih rest]; rfl

/-- An input as a significand and an exponent. -/
def latticeNum (x : FVal) : ℤ × ℤ := (lqInput x).getD (0, 0)

theorem lqInput_num {x : FVal} (h : x.isNan = false) : lqInput x = some (latticeNum x) ∧
    ((latticeNum x).1 : ℚ) * 2 ^ (latticeNum x).2 = latticeInput x := by
  obtain ⟨max, -⟩ := unbounded_maxCodes
  cases x with
  | nan => cases h
  | num neg m e => exact ⟨rfl, signed_mul neg m e⟩
  | inf neg =>
    refine ⟨rfl, ?_⟩
    show ((signed neg (2 ^ 24 - 1) : ℤ) : ℚ) * 2 ^ (104 : ℤ) = (if neg then -1 else 1) * unbounded .fp32 0x7F7FFFFF
    rw [max]
    cases neg <;> norm_num [signed]

theorem lqInput_nan {x : FVal} (h : x.isNan = true) : lqInput x = none := by
  cases x with
  | nan => rfl
  | _ => cases h

theorem lqScale_good {g : FVal} (h : goodScale g) : ∃ s, lqScale g = some s ∧ s.1 ≠ 0 ∧ (s.1 : ℚ) * 2 ^ s.2 = valueOf g := by
  obtain ⟨neg, m, e, rfl, ne⟩ := h
  refine ⟨_, if_neg ne, ?_, signed_mul neg m e⟩
  cases neg <;> simpa [signed] using ne

theorem lqScale_bad {g : FVal} (h : ¬goodScale g) : lqScale g = none := by
  cases g with
  | num neg m e =>
    have zero : m = 0 := by
      by_contra ne
      exact h ⟨neg, m, e, rfl, ne⟩
    exact if_pos zero
  | _ => rfl

theorem foldl_min_le (xs : List (ℤ × ℤ)) (a : ℤ) : xs.foldl (fun a x => min a x.2) a ≤ a ∧ ∀ x ∈ xs, xs.foldl (fun a x => min a x.2) a ≤ x.2 := by
  induction xs generalizing a with
  | nil => exact ⟨le_refl _, fun _ h => nomatch h⟩
  | cons z r ih =>
    obtain ⟨start, rest⟩ := ih (min a z.2)
    exact ⟨start.trans (min_le_left ..), List.forall_mem_cons.mpr ⟨start.trans (min_le_right ..), rest⟩⟩

/-- Aligned inputs over the aligned scale have the values of the inputs over the scale. -/
theorem lqAlign_values (ys : List (ℤ × ℤ)) {s : ℤ × ℤ} (hs : s.1 ≠ 0) : ∃ f : ℤ × ℤ → ℤ, (lqAlign ys s).1 = ys.map f ∧ 0 < (lqAlign ys s).2 ∧
    ∀ x ∈ ys, (f x : ℚ) / (lqAlign ys s).2 = x.1 * 2 ^ x.2 / (s.1 * 2 ^ s.2) := by
  obtain ⟨least, below⟩ := foldl_min_le ys s.2
  rw [lqAlign]
  generalize ys.foldl (fun a x => min a x.2) s.2 = e at least below
  have scaled {x : ℤ × ℤ} (h : e ≤ x.2) : (x.1 : ℚ) * 2 ^ x.2 = ((x.1 * 2 ^ (x.2 - e).toNat : ℤ) : ℚ) * 2 ^ e := by
    rw [two_zpow_split h]
    push_cast
    ring
  have unit : (2 : ℚ) ^ e ≠ 0 := zpow_ne_zero _ two_ne_zero
  have up : (0 : ℤ) < 2 ^ (s.2 - e).toNat := by positivity
  by_cases less : s.1 < 0
  · refine ⟨fun x => -(x.1 * 2 ^ (x.2 - e).toNat), by simp [less], by simpa [less] using mul_neg_of_neg_of_pos less up, fun x hx => ?_⟩
    rw [scaled (below x hx), scaled least, mul_div_mul_right _ _ unit]
    simp [less]
  · refine ⟨fun x => x.1 * 2 ^ (x.2 - e).toNat, by simp [less], by simp [less, up]; omega, fun x hx => ?_⟩
    rw [scaled (below x hx), scaled least, mul_div_mul_right _ _ unit]
    simp [less]

/-! ### A coset's codes -/

/-- The nearest codes of the inputs x over the scale g. -/
def nearestCodes (c g : ℤ) (x : ℕ → ℤ) (e : ℕ) : ℤ := lqNearest c (2 * x e - c * g) (2 * g)

/-- The codes before the parity move: clamped ones where they are written, else the old ones. -/
def clampedCodes (keys : List ℕ) (n old : ℕ → ℤ) (i : ℕ) : ℤ := if i ∈ keys then max (-2) (min (n i) 1) else old i

theorem lqClamp_eq (k : ℤ) : lqClamp k = max (-2) (min k 1) := by
  rw [lqClamp]
  omega

/-- The fitted codes of the written elements. -/
def fittedCodes (c g : ℤ) (keys : List ℕ) (old x : ℕ → ℤ) : ℕ → ℤ :=
  movedCodes c g keys (clampedCodes keys (nearestCodes c g x) old) x

section

variable {c g : ℤ} (pos : 0 < g) {keys : List ℕ} (nonempty : keys ≠ []) (ordered : keys.Pairwise (· < ·)) {old x : ℕ → ℤ} {y : ℕ → ℝ}
  (hy : ∀ e ∈ keys, y e = (x e : ℝ) / g)

include pos nonempty ordered hy

theorem parityMoved_fitted : ParityMoved c y keys (clampedCodes keys (nearestCodes c g x) old) (fittedCodes c g keys old x) := by
  refine parityMoved_codes pos nonempty ordered (fun e he => ?_) hy
  rw [clampedCodes, if_pos he]
  omega

theorem latticeFit_fitted (hc : c = 0 ∨ c = 1) {shell : Prop} (hs : shell ↔ ∃ e ∈ keys, nearestCodes c g x e < -2 ∨ 1 < nearestCodes c g x e) :
    LatticeFit c y keys old (fittedCodes c g keys old x) shell := by
  refine ⟨nearestCodes c g x, fun e he => ?_, hs, parityMoved_fitted pos nonempty ordered hy⟩
  rw [hy e he]
  exact latticeNearest_quotient hc (x e) pos

theorem fittedCodes_bounds (kept : ∀ i < 8, -2 ≤ old i ∧ old i ≤ 1) {i : ℕ} (hi : i < 8) :
    -2 ≤ fittedCodes c g keys old x i ∧ fittedCodes c g keys old x i ≤ 1 := by
  refine parityMoved_bounds (parityMoved_fitted pos nonempty ordered hy) (fun i hi => ?_) hi
  rw [clampedCodes]
  split
  · omega
  · exact kept i hi

theorem fittedCodes_even (range : ∀ e ∈ keys, e < 8) : ((List.range 8).map (fittedCodes c g keys old x)).sum % 2 = 0 :=
  parityMoved_even (parityMoved_fitted pos nonempty ordered hy) range

end

/-! ### Words and flags -/

theorem sum_ne_zero {f : ℕ → ℤ} (h : ∀ e, 0 ≤ f e) (l : List ℕ) : 0 ≤ (l.map f).sum ∧ ((l.map f).sum ≠ 0 ↔ ∃ e ∈ l, f e ≠ 0) := by
  induction l with
  | nil => simp
  | cons e r ih =>
    obtain ⟨least, ih⟩ := ih
    have here := h e
    rw [List.map_cons, List.sum_cons, List.exists_mem_cons_iff, ← ih]
    omega

/-- The flags of an encoding: SHELL where a code was clamped, INX where a value is none of a code (R65). -/
theorem lattice_flags (shell inexact : Bool) : let fl := flagIf shell fSHELL ||| flagIf inexact fINX
    (fl.getLsbD 4 = true ↔ shell = true) ∧ (fl.getLsbD 3 = true ↔ inexact = true) ∧ fl &&& 7 = 0 := by
  cases shell <;> cases inexact <;> decide

theorem latticeWord_pack {c : ℕ} (hc : c < 2) {g : ℤ} (pos : 0 < g) {keys : List ℕ} {x k : ℕ → ℤ} {y : ℕ → ℝ}
    (hy : ∀ e ∈ keys, y e = (x e : ℝ) / g) (bounds : ∀ i < 8, -2 ≤ k i ∧ k i ≤ 1) (even : ((List.range 8).map k).sum % 2 = 0) (shell : Bool) :
    LatticeWord ⟨lqPack c ((List.range 8).map k), flagIf shell fSHELL ||| flagIf ((keys.map (fun e => lqErr c (x e) g (k e))).sum != 0) fINX⟩
      c k y keys (shell = true) := by
  obtain ⟨less, coset, codes⟩ := lqPack_codes hc bounds even
  obtain ⟨shells, inexact, others⟩ := lattice_flags shell ((keys.map (fun e => lqErr c (x e) g (k e))).sum != 0)
  refine ⟨less, coset, codes, shells, inexact.trans ?_, others⟩
  have square (e : ℕ) : 0 ≤ lqErr c (x e) g (k e) := mul_self_nonneg _
  rw [bne_iff_ne, (sum_ne_zero square keys).2]
  refine exists_congr (fun e => and_congr_right (fun he => not_congr ?_))
  have unit : (0 : ℝ) < (2 * g) ^ 2 := by
    have : (0 : ℝ) < g := by exact_mod_cast pos
    positivity
  rw [← Int.cast_eq_zero (α := ℝ), lqErr_real _ _ _ pos, mul_eq_zero, or_iff_right unit.ne', pow_eq_zero_iff two_ne_zero, sub_eq_zero, hy e he]
  push_cast
  exact Iff.rfl

/-! ### LQ2Encode -/

theorem getD_map_range (f : ℕ → ℤ) {e : ℕ} (he : e ∈ List.range 8) : ((List.range 8).map f).getD e 0 = f e := by
  rw [List.getD_eq_getElem _ _ (by simpa using he), List.getElem_map, List.getElem_range]

/-- The squared error of the codes of a coset for eight inputs. -/
def cosetError (c g : ℤ) (x : ℕ → ℤ) : ℤ := ((List.range 8).map (fun e => lqErr c (x e) g (fittedCodes c g (List.range 8) (fun _ => 0) x e))).sum

/-- The fit of a coset to eight inputs: codes, whether one was clamped, and the squared error. -/
theorem lqFit_eq (c g : ℤ) (x : ℕ → ℤ) : lqFit c g ((List.range 8).map x) = ((List.range 8).map (fittedCodes c g (List.range 8) (fun _ => 0) x),
    (List.range 8).map (nearestCodes c g x) != ((List.range 8).map (nearestCodes c g x)).map lqClamp,
    cosetError c g x) := by
  obtain ⟨j, hj⟩ : ∃ j, j = clampedCodes (List.range 8) (nearestCodes c g x) (fun _ => 0) := ⟨_, rfl⟩
  have raw : ((List.range 8).map x).map (fun x => lqNearest c (2 * x - c * g) (2 * g)) = (List.range 8).map (nearestCodes c g x) := List.map_map ..
  have clamped : ((List.range 8).map (nearestCodes c g x)).map lqClamp = (List.range 8).map j := by
    rw [List.map_map]
    refine List.map_congr_left (fun e he => ?_)
    rw [hj, clampedCodes, if_pos he, Function.comp_apply, lqClamp_eq]
  have triples : (List.range 8).map (fun e => (e, ((List.range 8).map j).getD e 0, ((List.range 8).map x).getD e 0)) =
      (List.range 8).map (fun e => (e, j e, x e)) :=
    List.map_congr_left (fun e he => by rw [getD_map_range j he, getD_map_range x he])
  have codes : ((List.range 8).map (fun e => (e, j e, x e))).map (fun p => lqApply (if ((List.range 8).map j).sum % 2 = 0 then none
      else lqMove c g ((List.range 8).map (fun e => (e, j e, x e)))) p.1 p.2.1) = (List.range 8).map (fittedCodes c g (List.range 8) (fun _ => 0) x) := by
    rw [List.map_map]
    refine List.map_congr_left (fun e he => ?_)
    rw [fittedCodes, ← hj, movedCodes, if_pos he, Function.comp_apply]
  dsimp only [lqFit]
  rw [raw, clamped, triples, ← List.sum_eq_foldl, codes]
  refine Prod.ext rfl (Prod.ext rfl ?_)
  dsimp only
  rw [cosetError, List.sum_eq_foldl, List.foldl_map]
  exact List.foldl_ext _ _ _ (fun a e he => by rw [getD_map_range x he, getD_map_range _ he])

/-- A code was clamped. -/
theorem clamped_iff (n : ℕ → ℤ) (keys : List ℕ) : (keys.map n != (keys.map n).map lqClamp) = true ↔ ∃ e ∈ keys, n e < -2 ∨ 1 < n e := by
  rw [bne_iff_ne, List.map_map, Ne, List.map_inj_left]
  push Not
  refine exists_congr (fun e => and_congr_right (fun _ => ?_))
  rw [Function.comp_apply, lqClamp_eq]
  omega

/-- The squared error of a coset, in units of 1 / (4 g²). -/
theorem error_real (c : ℤ) {g : ℤ} (pos : 0 < g) {x k : ℕ → ℤ} {y : ℕ → ℝ} {keys : List ℕ} (hy : ∀ e ∈ keys, y e = (x e : ℝ) / g) :
    (((keys.map (fun e => lqErr c (x e) g (k e))).sum : ℤ) : ℝ) = (2 * g) ^ 2 * (keys.map (fun e => ((k e : ℝ) + c / 2 - y e) ^ 2)).sum := by
  rw [← List.sum_map_mul_left]
  refine (map_list_sum (Int.castRingHom ℝ) _).trans ?_
  rw [List.map_map]
  refine congrArg List.sum (List.map_congr_left (fun e he => ?_))
  rw [hy e he]
  exact lqErr_real _ _ _ pos

theorem eq_map_range {α : Type} (l : List α) (d : α) {n : ℕ} (h : l.length = n) : l = (List.range n).map (fun e => l.getD e d) := by
  refine List.ext_getElem (by simp [h]) (fun e he _ => ?_)
  rw [List.getElem_map, List.getElem_range, List.getD_eq_getElem _ _ he]

/-- An encoding is the word of the coset of the smaller error, of coset 0 where they are equal. -/
theorem lqEncode_eq {xs : List FVal} {g : FVal} {s : ℤ × ℤ} {x : ℕ → ℤ} {d : ℤ} (inputs : allSome (xs.map lqInput) = some (xs.map latticeNum))
    (scale : lqScale g = some s) (aligned : lqAlign (xs.map latticeNum) s = ((List.range 8).map x, d)) {c : ℕ}
    (hc : c = if cosetError 1 d x < cosetError 0 d x then 1 else 0) :
    lqEncode xs g = ⟨lqPack c ((List.range 8).map (fittedCodes c d (List.range 8) (fun _ => 0) x)),
      flagIf ((List.range 8).map (nearestCodes c d x) != ((List.range 8).map (nearestCodes c d x)).map lqClamp) fSHELL |||
        flagIf (cosetError c d x != 0) fINX⟩ := by
  rw [lqEncode, inputs, scale]
  simp only [aligned, lqFit_eq]
  by_cases less : cosetError 1 d x < cosetError 0 d x
  · obtain rfl : c = 1 := hc.trans (if_pos less)
    simp [less]
  · obtain rfl : c = 0 := hc.trans (if_neg less)
    simp [less]

/-- Step 4 of R65: the first coset is taken where its error is no more. -/
theorem firstCoset_iff {d : ℤ} (pos : 0 < d) {x : ℕ → ℤ} {y : ℕ → ℝ} (hy : ∀ e ∈ List.range 8, y e = (x e : ℝ) / d) :
    FirstCoset y (fittedCodes 0 d (List.range 8) (fun _ => 0) x) (fittedCodes 1 d (List.range 8) (fun _ => 0) x) ↔ ¬cosetError 1 d x < cosetError 0 d x := by
  have unit : (0 : ℝ) < (2 * d) ^ 2 := by
    have : (0 : ℝ) < d := by exact_mod_cast pos
    positivity
  rw [not_lt, ← Int.cast_le (R := ℝ), cosetError, cosetError, error_real 0 pos hy, error_real 1 pos hy, mul_le_mul_iff_right₀ unit, FirstCoset]
  push_cast
  simp only [zero_div, add_zero]

theorem latticeEncodes : LatticeEncodes := by
  intro xs g len y
  constructor
  · rintro (⟨x, hx, nan⟩ | bad)
    · rw [lqEncode, allSome_none hx (lqInput_nan nan)]
      rfl
    · rw [lqEncode, lqScale_bad bad]
      split <;> simp_all [fINV]
  · intro numbers good
    obtain ⟨s, scale, ne, value⟩ := lqScale_good good
    have inputs : allSome (xs.map lqInput) = some (xs.map latticeNum) := allSome_map (fun x hx => (lqInput_num (numbers x hx)).1)
    obtain ⟨f, aligned, pos, values⟩ := lqAlign_values (xs.map latticeNum) ne
    generalize hd : (lqAlign (xs.map latticeNum) s).2 = d at pos values
    obtain ⟨x, hx⟩ : ∃ x : ℕ → ℤ, x = fun e => f (latticeNum (xs.getD e (.nan false))) := ⟨_, rfl⟩
    have eight : lqAlign (xs.map latticeNum) s = ((List.range 8).map x, d) := by
      refine Prod.ext ?_ hd
      rw [aligned, List.map_map]
      conv_lhs => rw [eq_map_range xs (.nan false) len]
      rw [List.map_map, hx]
      rfl
    have hy : ∀ e ∈ List.range 8, y e = (x e : ℝ) / d := by
      intro e he
      have member : xs.getD e (.nan false) ∈ xs := by
        rw [List.getD_eq_getElem _ _ (by simpa [len] using he)]
        exact List.getElem_mem _
      have quotient := values _ (List.mem_map_of_mem member)
      rw [(lqInput_num (numbers _ member)).2, value] at quotient
      simp only [y]
      rw [← quotient, hx]
      push_cast
      rfl
    have range : ∀ e ∈ List.range 8, e < 8 := fun e he => List.mem_range.mp he
    have ordered : (List.range 8).Pairwise (· < ·) := List.pairwise_lt_range
    have nonempty : List.range 8 ≠ [] := by decide
    have word {c : ℕ} (hc : c < 2) := latticeWord_pack hc pos hy (fun i hi => fittedCodes_bounds (c := c) pos nonempty ordered hy (old := fun _ => 0)
      (fun _ _ => by norm_num) hi) (fittedCodes_even pos nonempty ordered hy range)
    refine ⟨_, _, _, _, latticeFit_fitted pos nonempty ordered hy (.inl rfl) (clamped_iff _ _),
      latticeFit_fitted pos nonempty ordered hy (.inr rfl) (clamped_iff _ _), fun first => ?_, fun second => ?_⟩
    · rw [lqEncode_eq inputs scale eight (if_neg ((firstCoset_iff pos hy).mp first)).symm]
      exact word (by norm_num) _
    · rw [lqEncode_eq inputs scale eight (if_pos (not_not.mp (mt (firstCoset_iff pos hy).mpr second))).symm]
      exact word (by norm_num) _

end Sys2Proof.Proofs

/-! VLQINS (R178), and the conversion and lattice words together. -/

namespace Sys2Proof.Proofs

open Sys2Proof.Machine Sys2Proof.Safety Sys2Proof.Laws

/-! ### Written elements -/

/-- The input of a written element. -/
def writtenInput (els : List (ℕ × FVal)) (e : ℕ) : FVal := ((els.find? (fun p => p.1 == e)).map Prod.snd).getD (.nan false)

theorem writtenInput_eq {els : List (ℕ × FVal)} (ordered : (els.map Prod.fst).Pairwise (· < ·)) {p : ℕ × FVal} (hp : p ∈ els) :
    writtenInput els p.1 = p.2 := by
  induction els with
  | nil => cases hp
  | cons q r ih =>
    obtain ⟨after, rest⟩ := List.pairwise_cons.mp ordered
    rcases List.mem_cons.mp hp with rfl | inside
    · simp [writtenInput]
    · have less := after p.1 (List.mem_map_of_mem inside)
      have skip : (q.1 == p.1) = false := by simpa using less.ne
      rw [← ih rest inside, writtenInput, List.find?_cons, skip]
      rfl

theorem find_key (keys : List ℕ) (j x : ℕ → ℤ) (e : ℕ) :
    (keys.map (fun i => (i, j i, x i))).find? (fun p => p.1 == e) = if e ∈ keys then some (e, j e, x e) else none := by
  induction keys with
  | nil => rfl
  | cons i r ih =>
    rw [List.map_cons, List.find?_cons]
    by_cases same : i = e
    · subst same
      simp
    · have skip : (i == e) = false := by simpa using same
      rw [skip]
      simp only [ih, List.mem_cons, Ne.symm same, false_or]

/-- The codes of an octet with those of some elements written. -/
def putCodes (old : List ℤ) (ws : List (ℕ × ℤ × ℤ)) : List ℤ := (List.range 8).map (fun e => match ws.find? (fun p => p.1 == e) with
  | some p => p.2.1
  | none => old.getD e 0)

theorem putCodes_keys {w : ℕ} {keys : List ℕ} {k : ℕ → ℤ} (kept : ∀ e, e ∉ keys → k e = lqK w e) (x : ℕ → ℤ) :
    putCodes (lqCodes w) (keys.map (fun e => (e, k e, x e))) = (List.range 8).map k := by
  refine List.map_congr_left (fun e he => ?_)
  rw [find_key]
  by_cases written : e ∈ keys
  · rw [if_pos written]
  · rw [if_neg written, kept e written]
    exact getD_map_range (lqK w) he

/-- What an insertion computes of aligned inputs (R178). -/
theorem lqInsert_some {w : ℕ} {els : List (ℕ × FVal)} {g : FVal} {ys : List (ℤ × ℤ)} {s : ℤ × ℤ} {xs : List ℤ} {d : ℤ}
    (inputs : allSome (els.map (fun p => lqInput p.2)) = some ys) (scale : lqScale g = some s) (aligned : lqAlign ys s = (xs, d)) :
    lqInsert w els g =
      let c : ℤ := (lqCoset w : ℕ)
      let raw := xs.map (fun x => lqNearest c (2 * x - c * d) (2 * d))
      let wr := (els.map Prod.fst).zip ((raw.map lqClamp).zip xs)
      let mv := if (putCodes (lqCodes w) wr).foldl (· + ·) (0 : ℤ) % 2 = 0 then none else lqMove c d wr
      let wr' := wr.map (fun p => (p.1, lqApply mv p.1 p.2.1, p.2.2))
      ⟨lqPack (lqCoset w) (putCodes (lqCodes w) wr'), flagIf (raw != raw.map lqClamp) fSHELL |||
        flagIf (wr'.foldl (fun t p => t + lqErr c p.2.2 d p.2.1) 0 != 0) fINX⟩ := by
  rw [lqInsert, inputs, scale]
  simp only [aligned]
  rfl

/-- An insertion is the word of the old coset, with the written codes fitted and the others kept. -/
theorem lqInsert_eq {w : ℕ} {els : List (ℕ × FVal)} {keys : List ℕ} {g : FVal} {ys : List (ℤ × ℤ)} {s : ℤ × ℤ} {x : ℕ → ℤ} {d : ℤ}
    (hk : els.map Prod.fst = keys) (inputs : allSome (els.map (fun p => lqInput p.2)) = some ys)
    (scale : lqScale g = some s) (aligned : lqAlign ys s = (keys.map x, d)) :
    lqInsert w els g = ⟨lqPack (lqCoset w) ((List.range 8).map (fittedCodes (lqCoset w : ℕ) d keys (lqK w) x)),
      flagIf (keys.map (nearestCodes (lqCoset w : ℕ) d x) != (keys.map (nearestCodes (lqCoset w : ℕ) d x)).map lqClamp) fSHELL |||
        flagIf ((keys.map (fun e => lqErr (lqCoset w : ℕ) (x e) d (fittedCodes (lqCoset w : ℕ) d keys (lqK w) x e))).sum != 0) fINX⟩ := by
  obtain ⟨j, hj⟩ : ∃ j, j = clampedCodes keys (nearestCodes (lqCoset w : ℕ) d x) (lqK w) := ⟨_, rfl⟩
  have unwritten (e : ℕ) (he : e ∉ keys) : j e = lqK w e := by rw [hj, clampedCodes, if_neg he]
  have unmoved (e : ℕ) (he : e ∉ keys) : fittedCodes (lqCoset w : ℕ) d keys (lqK w) x e = lqK w e := by
    rw [fittedCodes, ← hj, movedCodes, if_neg he, unwritten e he]
  have raw : (keys.map x).map (fun x => lqNearest (lqCoset w : ℕ) (2 * x - (lqCoset w : ℕ) * d) (2 * d)) = keys.map (nearestCodes (lqCoset w : ℕ) d x) :=
    List.map_map ..
  have clamped : (keys.map (nearestCodes (lqCoset w : ℕ) d x)).map lqClamp = keys.map j := by
    rw [List.map_map]
    refine List.map_congr_left (fun e he => ?_)
    rw [hj, clampedCodes, if_pos he, Function.comp_apply, lqClamp_eq]
  have triples : keys.zip ((keys.map j).zip (keys.map x)) = keys.map (fun e => (e, j e, x e)) := by
    conv_lhs => rw [← List.map_id keys, List.map_map, List.map_map]
    rw [List.zip_map', List.zip_map']
    rfl
  have codes : (keys.map (fun e => (e, j e, x e))).map (fun p => (p.1, lqApply (if ((List.range 8).map j).sum % 2 = 0 then none
      else lqMove (lqCoset w : ℕ) d (keys.map (fun e => (e, j e, x e)))) p.1 p.2.1, p.2.2)) =
      keys.map (fun e => (e, fittedCodes (lqCoset w : ℕ) d keys (lqK w) x e, x e)) := by
    rw [List.map_map]
    refine List.map_congr_left (fun e he => ?_)
    rw [fittedCodes, ← hj, movedCodes, if_pos he, Function.comp_apply]
  rw [lqInsert_some inputs scale aligned, hk]
  simp only [raw, clamped, triples]
  rw [putCodes_keys unwritten, ← List.sum_eq_foldl, codes, putCodes_keys unmoved, List.sum_eq_foldl, List.foldl_map, List.foldl_map]

theorem latticeInserts : LatticeInserts := by
  intro w els g hw nonempty ordered range y
  constructor
  · rintro (⟨p, hp, nan⟩ | bad)
    · rw [lqInsert, allSome_none hp (lqInput_nan nan)]
      rfl
    · rw [lqInsert, lqScale_bad bad]
      split <;> simp_all [fINV]
  · intro numbers good
    obtain ⟨s, scale, ne, value⟩ := lqScale_good good
    obtain ⟨keys, hk⟩ : ∃ keys, els.map Prod.fst = keys := ⟨_, rfl⟩
    have inputs : allSome (els.map (fun p => lqInput p.2)) = some (els.map (fun p => latticeNum p.2)) :=
      allSome_map (fun p hp => (lqInput_num (numbers p hp)).1)
    obtain ⟨f, aligned, pos, values⟩ := lqAlign_values (els.map (fun p => latticeNum p.2)) ne
    generalize hd : (lqAlign (els.map (fun p => latticeNum p.2)) s).2 = d at pos values
    obtain ⟨x, hx⟩ : ∃ x : ℕ → ℤ, ∀ e, x e = f (latticeNum (writtenInput els e)) := ⟨_, fun _ => rfl⟩
    have eight : lqAlign (els.map (fun p => latticeNum p.2)) s = (keys.map x, d) := by
      refine Prod.ext ?_ hd
      rw [aligned, ← hk, List.map_map, List.map_map]
      refine List.map_congr_left (fun p hp => ?_)
      rw [Function.comp_apply, Function.comp_apply, hx, writtenInput_eq ordered hp]
    have hy : ∀ e ∈ keys, y e = (x e : ℝ) / d := by
      intro e he
      rw [← hk] at he
      obtain ⟨p, hp, rfl⟩ := List.mem_map.mp he
      have quotient := values _ (List.mem_map_of_mem hp)
      rw [(lqInput_num (numbers _ hp)).2, value] at quotient
      show ((latticeInput (writtenInput els p.1) / valueOf g : ℚ) : ℝ) = _
      rw [writtenInput_eq ordered hp, ← quotient, hx, writtenInput_eq ordered hp]
      push_cast
      rfl
    have range : ∀ e ∈ keys, e < 8 := by
      rw [← hk]
      exact List.forall_mem_map.mpr range
    have nonempty : keys ≠ [] := by
      rw [← hk]
      simpa using nonempty
    rw [hk] at ordered ⊢
    have coset : lqCoset w < 2 := Nat.mod_lt _ two_pos
    have kept : ∀ i < 8, -2 ≤ lqK w i ∧ lqK w i ≤ 1 := fun i hi => lqK_bounds w hi
    refine ⟨_, _, latticeFit_fitted pos nonempty ordered hy (by omega) (clamped_iff _ _), ?_⟩
    rw [lqInsert_eq hk inputs scale eight]
    exact latticeWord_pack coset pos hy (fun i hi => fittedCodes_bounds pos nonempty ordered hy kept hi)
      (fittedCodes_even pos nonempty ordered hy range) _

/-! ### The words -/

/-- Settles O41: each element is rounded once from its exact value, and a lattice word holds the fitted codes. -/
theorem conversionResults : Obligations.ConversionResults := by
  refine ⟨fun s v d a b src dst rm ha hb => ⟨exec_vcvt d a src dst rm s v, exec_vqnt d a b rm s v, exec_vdqnt d a b rm s v, fun h => ?_,
    exec_vlqdec d a b ha hb s v, exec_vlqins d a b ha hb s v, exec_vlqerr d a b ha hb s v, fun lat srcs r => putConverted_cases s v lat d srcs r, octetLow_eq v⟩,
    vcvtElements, vcvtLanes, quantElements, dequantElements, latticeCodes, latticeDecodes, latticeEncodes, latticeInserts⟩
  simp only [← octetEncode_eq]
  exact exec_vlqenc d a b ha hb s v h

end Sys2Proof.Proofs

/-! A copy whose next row lies on another device, behind a die that is lost. -/

namespace Sys2Proof.Proofs

open Sys2Proof.Machine Sys2Proof.Safety

/-- The page that holds row 0's destination, in the device's own memory. -/
def ownPage : Kept := ⟨1, 0x1000000, ⟨0, 17, .rc, false, true, true, true⟩⟩

/-- The page that holds row 1's destination, at the start of the memory of device 1. -/
def remotePage : Kept := ⟨1, 0x1020000, ⟨domainBase + 2 ^ 40, 17, .rc, false, true, true, true⟩⟩

/-- A running copy of two rows of four bytes, from the start of its workgroup's bench to memory, the rows one page apart: row 0 comes next. -/
def splitCopy : Cmd where
  wg := 1
  warp := 1
  ctx := 1
  core := 0
  active := 1
  kind := .tcopy 0 0x1000000 4 2 0 0x20000 0 false 1 0 false
  state := .running

/-- The workgroup that has issued the copy. -/
def copyingWg : Wg where
  team := 1
  member := 0
  benchSize := 4096

/-- A part that has lost die 5, through which port 9 reaches device 1, and on which the copy runs in a context that lives. -/
def behindLostDie : State :=
  { State.reset with
    routes := [(1, 9)], lostDies := 0x20, ctxs := [(1, {})], kept := [ownPage, remotePage], cmds := [(7, splitCopy)], wgs := [(1, copyingWg)]
    teams := [(1, { grid := 1, number := 0, state := .resident, wgs := [1], cores := [0] })] }

/-- The copy goes on as the statement has it: row 0 names no lost die. -/
theorem splitCopy_goesOn : GoesOn behindLostDie 7 splitCopy copyingWg :=
  ⟨rfl, rfl, by decide, rfl, rfl, by decide⟩

/-- The landing of a copy's next row, as the model performs it. -/
theorem exec_copyRowLanding (s : State) (id : Nat) : exec (.copyRowLanding id) s = .next (s.landNext id) := by
  rfl

/-- When row 0 has landed, the request for row 1 makes the context dead (R372), since its page lies
behind the lost die, and the context's commands are discarded (R371), the copy among them. -/
theorem splitCopy_landing_discards : Table.get? (behindLostDie.landNext 7).cmds 7 = none := by
  decide

/-- Row 0 is read at the start of the workgroup's bench. -/
theorem splitCopy_source : ∃ k w off, behindLostDie.benchPlace splitCopy.wg copyingWg (0 + BitVec.ofInt 64 (0 * (splitCopy.cursor : Int))) =
    some (k, w, off) ∧ benchLocs 1 0 4 = benchLocs k off 4 :=
  ⟨1, copyingWg, 0, rfl, rfl⟩

/-- A row may land and leave no command behind, for the landing also asks for the next row, which may name a lost die. -/
theorem not_copyRows : ¬ CopyRows := by
  rintro ⟨-, lands⟩
  obtain ⟨t, d, ran, kept, -⟩ := lands behindLostDie 7 4 2 0 splitCopy 0 0x1000000 0 0x20000 false false 1 0 copyingWg (benchLocs 1 0 4) []
    splitCopy_goesOn rfl (by decide) rfl rfl (by decide) (fun _ => splitCopy_source)
  rw [exec_copyRowLanding] at ran
  cases ran
  rw [splitCopy_landing_discards] at kept
  cases kept

/-- Refutes O58: its clause about the rows of a copy has the copy stand at the next row once a row has landed, where that row names no lost die. The
model then asks other devices for the row after it, and a request that names a lost die makes the context dead, which discards the copy (R371, R372). In
`behindLostDie` the row that lands is the device's own memory and the one after it lies behind the lost die. No other clause is refuted here. -/
theorem not_memoryEventResults : ¬ Obligations.MemoryEventResults := by
  unfold Obligations.MemoryEventResults
  intro holds
  obtain ⟨-, -, -, -, -, -, -, -, -, -, copies, -⟩ := holds behindLostDie 7 0 0
    (ownAccessOf 0 0 .load false false .rc []) ⟨0, 0, false, false⟩ [] [] 0 false 0 0 splitCopy
    ⟨1, 0, false, [], 0, 0⟩ { wg := 1, idx := 0, width := 1 }
    { record := 0, gen := 0, adopting := false, body := [], entry := 0, exitAt := 0, exitNext := 0, first := 0, frag := 0 }
    ⟨0, 0, 0, none, none, 0, [], 0, []⟩ [] copyingWg
  exact not_copyRows copies

end Sys2Proof.Proofs

/-! What the scalar functions of R118, R119 and R121 compute: products, quotients, shifts, and counts and reversals of bits. -/

namespace Sys2Proof.Proofs

open Sys2Proof.Machine

/-! ### Products, shifts and orders (R118) -/

/-- The sign-extended product is the product of the values. -/
theorem signExtend_mul_signExtend {w n : ℕ} (h : w ≤ n) (x y : BitVec w) : x.signExtend n * y.signExtend n = BitVec.ofInt n (x.toInt * y.toInt) := by
  rw [BitVec.ofInt_mul, ← BitVec.toInt_signExtend_of_le h, ← BitVec.toInt_signExtend_of_le h, BitVec.ofInt_toInt, BitVec.ofInt_toInt]

theorem mulHighS_eq_extractLsb' (x y : Dword) : mulHighS x y = (x.signExtend 128 * y.signExtend 128).extractLsb' 64 64 := by
  rw [signExtend_mul_signExtend (by decide), mulHighS]
  apply BitVec.eq_of_toNat_eq
  simp only [BitVec.toNat_ofInt, BitVec.extractLsb'_toNat, Nat.shiftRight_eq_div_pow, Nat.reducePow]
  omega

theorem mulHighU_eq_extractLsb' (x y : Dword) : mulHighU x y = (x.zeroExtend 128 * y.zeroExtend 128).extractLsb' 64 64 := by
  have whole : x.toNat * y.toNat < 2 ^ 128 := (Nat.mul_lt_mul'' x.isLt y.isLt).trans_eq (by norm_num)
  apply BitVec.eq_of_toNat_eq
  simp only [mulHighU, BitVec.toNat_ofNat, BitVec.extractLsb'_toNat, BitVec.toNat_mul, BitVec.truncate_eq_setWidth, BitVec.toNat_setWidth_of_le (show 64 ≤ 128 by decide),
    Nat.mod_eq_of_lt whole, Nat.shiftRight_eq_div_pow]

theorem shAmount_eq_extractLsb' (y : Dword) : shAmount y = (y.extractLsb' 0 6).toNat := by
  simp only [shAmount, BitVec.extractLsb'_toNat, Nat.shiftRight_zero, Nat.reducePow]

theorem minS_eq_ite_slt (x y : Dword) : minS x y = if y.slt x then y else x := by
  simp only [minS, BitVec.slt_iff_toInt_lt, ← Int.not_lt, ite_not]

theorem maxS_eq_ite_slt (x y : Dword) : maxS x y = if x.slt y then y else x := by
  rcases lt_trichotomy x.toInt y.toInt with less | same | more
  · simp only [maxS, BitVec.slt_iff_toInt_lt, less, less.le, if_true]
  · rw [BitVec.eq_of_toInt_eq same, maxS, ite_self, ite_self]
  · simp only [maxS, BitVec.slt_iff_toInt_lt, Int.not_le.mpr more, Int.not_lt.mpr more.le, if_false]

theorem minU_eq_ite_ult (x y : Dword) : minU x y = if y.ult x then y else x := by
  simp only [minU, BitVec.ult_iff_toNat_lt, ← Nat.not_lt, ite_not]

theorem maxU_eq_ite_ult (x y : Dword) : maxU x y = if x.ult y then y else x := by
  rcases lt_trichotomy x.toNat y.toNat with less | same | more
  · simp only [maxU, BitVec.ult_iff_toNat_lt, less, less.le, if_true]
  · rw [BitVec.eq_of_toNat_eq same, maxU, ite_self, ite_self]
  · simp only [maxU, BitVec.ult_iff_toNat_lt, Nat.not_le.mpr more, Nat.not_lt.mpr more.le, if_false]

theorem flag64_toInt_lt (x y : Dword) : flag64 (decide (x.toInt < y.toInt)) = if x.slt y then 1 else 0 := by
  rw [flag64, BitVec.slt_eq_decide]

theorem flag64_toNat_lt (x y : Dword) : flag64 (decide (x.toNat < y.toNat)) = if x.ult y then 1 else 0 := by
  rw [flag64, BitVec.ult_eq_decide]

/-! ### Quotients and remainders (R119) -/

theorem ofInt_tdiv_toInt {w : ℕ} (x y : BitVec w) : BitVec.ofInt w (x.toInt.tdiv y.toInt) = x.sdiv y := by
  apply BitVec.eq_of_toInt_eq
  rw [BitVec.toInt_ofInt, BitVec.toInt_sdiv]

theorem quotS_eq_ite_sdiv (x y : Dword) : quotS x y = if y = 0 then -1 else x.sdiv y := by
  rw [quotS, ofInt_tdiv_toInt, ← BitVec.neg_one_eq_allOnes]
  rfl

theorem quotU_eq_ite_udiv (x y : Dword) : quotU x y = if y = 0 then -1 else x.udiv y := by
  rw [quotU, ← BitVec.udiv_def, ← BitVec.neg_one_eq_allOnes]
  rfl

/-- The remainder is what the quotient's product leaves of the dividend. -/
theorem remS_eq_ite_sub (x y : Dword) : remS x y = if y = 0 then x else x - y * x.sdiv y := by
  have split : x = BitVec.ofInt 64 (x.toInt.tmod y.toInt) + y * x.sdiv y := by
    conv_lhs => rw [← BitVec.ofInt_toInt (x := x), ← Int.tmod_add_mul_tdiv x.toInt y.toInt]
    rw [BitVec.ofInt_add, BitVec.ofInt_mul, BitVec.ofInt_toInt, ofInt_tdiv_toInt]
  rw [remS, eq_sub_of_add_eq split.symm]

theorem remU_eq_ite_sub (x y : Dword) : remU x y = if y = 0 then x else x - y * x.udiv y := by
  have split : x = BitVec.ofNat 64 (x.toNat % y.toNat) + y * x.udiv y := by
    conv_lhs => rw [← BitVec.setWidth_eq x, ← BitVec.ofNat_toNat, ← Nat.mod_add_div x.toNat y.toNat]
    rw [BitVec.ofNat_add, BitVec.ofNat_mul, BitVec.ofNat_toNat, BitVec.setWidth_eq, ← BitVec.udiv_def]
    rfl
  rw [remU, eq_sub_of_add_eq split.symm]

/-! ### Bits counted and reversed (R119, R152) -/

/-- As many numbers of a range lie below k as k says. -/
theorem length_filter_range_lt {k n : ℕ} (h : k ≤ n) : ((List.range n).filter (fun i => decide (i < k))).length = k := by
  obtain ⟨m, rfl⟩ := Nat.exists_eq_add_of_le h
  have below : (List.range k).filter (fun i => decide (i < k)) = List.range k := List.filter_eq_self.mpr (fun i hi => decide_eq_true (List.mem_range.mp hi))
  have above : ((List.range m).map (fun i => k + i)).filter (fun i => decide (i < k)) = [] := by simp
  rw [List.range_add, List.filter_append, below, above, List.append_nil, List.length_range]

/-- An n-bit value has as many leading zeros as bits beyond its size. -/
theorem leadingZeros_eq_sub_size {n x : ℕ} (h : x < 2 ^ n) : leadingZeros n x = n - x.size := by
  simp only [leadingZeros, Nat.mod_eq_of_lt h, ← Nat.lt_size, length_filter_range_lt (Nat.size_le.mpr h)]

theorem leadingZeros_le (n x : ℕ) : leadingZeros n x ≤ n := Nat.sub_le ..

/-- The leading zeros of a value are 0. -/
theorem testBit_of_leadingZeros {n x i : ℕ} (h : x < 2 ^ n) (hi : n - leadingZeros n x ≤ i) : x.testBit i = false := by
  rw [leadingZeros_eq_sub_size h, Nat.sub_sub_self (Nat.size_le.mpr h)] at hi
  exact Nat.testBit_lt_two_pow (Nat.size_le.mp hi)

/-- The bit below the leading zeros is 1. -/
theorem testBit_below_leadingZeros {n x : ℕ} (h : x < 2 ^ n) (hz : leadingZeros n x < n) : x.testBit (n - 1 - leadingZeros n x) = true := by
  have fits := Nat.size_le.mpr h
  rw [leadingZeros_eq_sub_size h] at hz ⊢
  obtain ⟨k, size⟩ : ∃ k, x.size = k + 1 := ⟨x.size - 1, by omega⟩
  rw [show n - 1 - (n - x.size) = k by omega]
  exact Nat.testBit_of_two_pow_le_and_two_pow_add_one_gt (Nat.lt_size.mp (by omega)) (size ▸ Nat.lt_size_self x)

/-- The reversal of one more bit puts that bit lowest. -/
theorem bitReverse_succ (n x : ℕ) : bitReverse (n + 1) x = Nat.bit (x.testBit n) (bitReverse n x) := by
  have doubled : ∀ (l : List ℕ) (a : ℕ), (∀ i ∈ l, i < n) →
      l.foldl (fun a i => if x.testBit i then a + 2 ^ (n + 1 - 1 - i) else a) (2 * a) =
        2 * l.foldl (fun a i => if x.testBit i then a + 2 ^ (n - 1 - i) else a) a := by
    intro l
    induction l with
    | nil => exact fun _ _ => rfl
    | cons i l ih =>
      intro a below
      obtain ⟨hi, hl⟩ := List.forall_mem_cons.mp below
      have weight : 2 ^ (n + 1 - 1 - i) = 2 * 2 ^ (n - 1 - i) := by
        rw [← pow_succ', show n + 1 - 1 - i = n - 1 - i + 1 by omega]
      rw [List.foldl_cons, List.foldl_cons, ← ih _ hl, weight]
      split
      · rw [Nat.mul_add]
      · rfl
  have rest := doubled (List.range n) 0 (fun i hi => List.mem_range.mp hi)
  rw [Nat.mul_zero] at rest
  rw [bitReverse, List.range_succ, List.foldl_append, rest, List.foldl_cons, List.foldl_nil, ← bitReverse, Nat.bit_val]
  cases x.testBit n <;> simp

theorem testBit_bitReverse (n x i : ℕ) : (bitReverse n x).testBit i = (decide (i < n) && x.testBit (n - 1 - i)) := by
  induction n generalizing i with
  | zero => simp [bitReverse]
  | succ n ih =>
    rw [bitReverse_succ]
    cases i with
    | zero => simp
    | succ i => simp only [Nat.testBit_bit_succ, ih, show n + 1 - 1 - (i + 1) = n - 1 - i by omega, Nat.add_lt_add_iff_right]

theorem popCount_eq_countP (n x : ℕ) : popCount n x = (List.range n).countP (fun i => x.testBit i) := List.countP_eq_length_filter.symm

end Sys2Proof.Proofs

/-! What the scalar words answer (R118 to R122). -/

namespace Sys2Proof.Proofs

open Sys2Proof.Machine Sys2Proof.Safety Sys2Proof.Laws

/-- Settles O20: each word puts its function of its two sources, which is the operation of R118. -/
theorem saluResults : Obligations.SaluResults := by
  intro s v d a b
  refine ⟨exec_sadd d a b s v, exec_ssub d a b s v, exec_smul d a b s v, fun h => ?smulh, fun h => ?smulhu, exec_sand d a b s v, exec_sor d a b s v,
    exec_sxor d a b s v, fun h => ?sshl, fun h => ?sshr, fun h => ?ssra, fun h => ?smin, fun h => ?smax, fun h => ?sminu, fun h => ?smaxu, fun h => ?sslt⟩
  case smulh => rw [exec_smulh d a b s v h, State.scalar2, mulHighS_eq_extractLsb']
  case smulhu => rw [exec_smulhu d a b s v h, State.scalar2, mulHighU_eq_extractLsb']
  case sshl => rw [exec_sshl d a b s v h, State.scalar2, shAmount_eq_extractLsb']
  case sshr => rw [exec_sshr d a b s v h, State.scalar2, shAmount_eq_extractLsb']
  case ssra => rw [exec_ssra d a b s v h, State.scalar2, shAmount_eq_extractLsb']
  case smin => rw [exec_smin d a b s v h, State.scalar2, minS_eq_ite_slt]
  case smax => rw [exec_smax d a b s v h, State.scalar2, maxS_eq_ite_slt]
  case sminu => rw [exec_sminu d a b s v h, State.scalar2, minU_eq_ite_ult]
  case smaxu => rw [exec_smaxu d a b s v h, State.scalar2, maxU_eq_ite_ult]
  case sslt => rw [exec_sslt d a b s v h, State.scalar2, flag64_toInt_lt]

/-- The count that SCLZ puts is that of the leading zeros (R119). -/
theorem toNat_leadingZeros (x : Dword) : (BitVec.ofNat 64 (leadingZeros 64 x.toNat)).toNat = leadingZeros 64 x.toNat := by
  rw [BitVec.toNat_ofNat, Nat.mod_eq_of_lt (lt_of_le_of_lt (leadingZeros_le 64 x.toNat) (by decide))]

/-- The width code of SSEXT and SZEXT names 8, 16 or 32 bits (R119). -/
theorem codeWidth_of_mem {wc : BitVec 6} {n : ℕ} (h : (wc, n) ∈ [(0#6, 8), (1#6, 16), (2#6, 32)]) : codeWidth wc = n := by
  simp only [List.mem_cons, Prod.mk.injEq, List.not_mem_nil, or_false] at h
  rcases h with ⟨rfl, rfl⟩ | ⟨rfl, rfl⟩ | ⟨rfl, rfl⟩ <;> rfl

/-- Settles O21: each word puts its function of its sources, which is the operation of R119. -/
theorem salu2Results : Obligations.Salu2Results := by
  intro s v d a b
  refine ⟨fun h => ?ssltu, fun h => ?sdiv, fun h => ?sdivu, fun h => ?srem, fun h => ?sremu, fun h => ⟨_, exec_sclz d a s v h, ?sclz⟩, fun h => ?spopc,
    fun h => ⟨_, exec_sbrev d a s v h, fun i hi => ?sbrev⟩, fun wc n hw => ⟨fun h => ?ssext, fun h => ?szext⟩⟩
  case ssltu => rw [exec_ssltu d a b s v h, State.scalar2, flag64_toNat_lt]
  case sdiv => rw [exec_sdiv d a b s v h, State.scalarDiv, quotS_eq_ite_sdiv]
  case sdivu => rw [exec_sdivu d a b s v h, State.scalarDiv, quotU_eq_ite_udiv]
  case srem => rw [exec_srem d a b s v h, State.scalarDiv, remS_eq_ite_sub]
  case sremu => rw [exec_sremu d a b s v h, State.scalarDiv, remU_eq_ite_sub]
  case sclz =>
    rw [toNat_leadingZeros]
    exact ⟨leadingZeros_le .., fun i => testBit_of_leadingZeros (v.s a.toNat).isLt, testBit_below_leadingZeros (v.s a.toNat).isLt⟩
  case spopc =>
    rw [exec_spopc d a s v h, State.scalar1, popCount_eq_countP]
    rfl
  case sbrev =>
    rw [BitVec.getLsbD_ofNat, testBit_bitReverse, decide_eq_true hi, Bool.true_and, Bool.true_and]
    rfl
  case ssext =>
    rw [exec_ssext d a wc s v h, codeWidth_of_mem hw]
    rfl
  case szext =>
    rw [exec_szext d a wc s v h, codeWidth_of_mem hw]
    rfl

/-- SSHI.ROR rotates to the right (R121). -/
theorem getLsbD_rotateRight_mod (x : Dword) (amt : BitVec 6) {i : ℕ} (hi : i < 64) :
    (x.rotateRight amt.toNat).getLsbD i = x.getLsbD ((i + amt.toNat) % 64) := by
  have small : amt.toNat < 64 := amt.isLt
  rw [BitVec.getLsbD_rotateRight, Nat.mod_eq_of_lt small]
  by_cases stays : i < 64 - amt.toNat
  · rw [decide_eq_true stays, cond_true, Nat.mod_eq_of_lt (by omega), Nat.add_comm]
  · rw [decide_eq_false stays, cond_false, decide_eq_true hi, Bool.true_and]
    exact congrArg x.getLsbD (by omega)

/-- SMOVKS moves a scalar up by 16 bits and its constant into the low ones (R122). -/
theorem shiftLeft_or_zeroExtend (x : Dword) (k : BitVec 16) : (x <<< 16) ||| k.zeroExtend 64 = x.extractLsb' 0 48 ++ k := by
  refine BitVec.eq_of_getLsbD_eq (fun i hi => ?_)
  simp only [BitVec.getLsbD_or, BitVec.getLsbD_shiftLeft, BitVec.truncate_eq_setWidth, BitVec.getLsbD_setWidth, BitVec.getLsbD_append,
    BitVec.getLsbD_extractLsb', hi, decide_true, Bool.true_and, Nat.zero_add]
  by_cases low : i < 16
  · simp only [low, decide_true, Bool.not_true, Bool.false_and, Bool.false_or, if_true]
  · have fits : i - 16 < 48 := by omega
    simp only [low, fits, decide_true, decide_false, Bool.not_false, Bool.true_and, BitVec.getLsbD_of_ge k i (Nat.le_of_not_lt low), Bool.or_false,
      if_false]

/-- Settles O22: each word puts its function of its source and its constant. -/
theorem scalarConstantResults : Obligations.ScalarConstantResults := by
  intro s v d a amt imm k
  refine ⟨exec_saddi d a imm s v, exec_sandi d a imm s v, exec_sori d a imm s v, exec_sxori d a imm s v, exec_sshiShl d a amt s v,
    exec_sshiShr d a amt s v, exec_sshiSra d a amt s v, fun h => ⟨_, exec_sshiRor d a amt s v h, fun i hi => getLsbD_rotateRight_mod _ amt hi⟩,
    exec_smovk d k s v, fun h => ?smovks⟩
  case smovks => rw [exec_smovks d k s v h, shiftLeft_or_zeroExtend]

end Sys2Proof.Proofs

/-! What the mask words answer (R129, R130). -/

namespace Sys2Proof.Proofs

open Sys2Proof.Machine Sys2Proof.Safety Sys2Proof.Laws

theorem lanes_count_eq_countP (x : Lanes) : x.count = (List.range 64).countP (fun i => x.getLsbD i) := List.countP_eq_length_filter.symm

/-- The lowest lane is the first that a search from lane 0 up finds. -/
theorem lanes_low_eq_find (x : Lanes) : x.low = ((List.range 64).find? (fun i => x.getLsbD i)).getD 64 := by
  rw [Lanes.low, Lanes.toList, List.headD_eq_head?_getD, List.head?_filter]
  rfl

/-- The lowest lane of a mask that is not empty is in it, and none below it is. -/
theorem lanes_low_least {x : Lanes} (h : x ≠ 0) : x.low < 64 ∧ x.getLsbD x.low = true ∧ ∀ i, i < x.low → x.getLsbD i = false := by
  rw [lanes_low_eq_find]
  cases found : (List.range 64).find? (fun i => x.getLsbD i) with
  | none =>
    refine absurd (BitVec.eq_of_getLsbD_eq (fun i hi => ?_)) h
    simpa using List.find?_eq_none.mp found i (List.mem_range.mpr hi)
  | some n =>
    obtain ⟨held, mem, first⟩ := List.find?_range_eq_some.mp found
    exact ⟨List.mem_range.mp mem, held, fun i hi => by simpa using first i hi⟩

/-- Active holds lanes of the warp alone (R27). -/
theorem active_and_widthMask (v : View) : v.active &&& widthMask v.w = v.active := by
  rw [View.active, activeOf, BitVec.and_assoc, BitVec.and_self]

/-- Settles O28: each word puts its function of its masks; what is counted and found is that of the active lanes. -/
theorem maskResults : Obligations.MaskResults := by
  intro s v d a b r
  refine ⟨exec_mand d a b s v, exec_mor d a b s v, exec_mxor d a b s v, exec_mandn d a b s v, exec_mnot d a s v, fun h => ?mpopc,
    fun h => ⟨_, exec_mffs r a s v h, fun empty => ?empty, fun nonempty => ?least⟩, exec_mtos r a s v, exec_stom d r s v, fun h => ?mact⟩
  case mpopc =>
    rw [exec_mpopc r a s v h, lanes_count_eq_countP]
    simp only [BitVec.getLsbD_and]
  case empty =>
    rw [if_pos empty]
    rfl
  case least =>
    obtain ⟨lane, least⟩ := lanes_low_least nonempty
    rw [if_neg nonempty, BitVec.toNat_ofNat, Nat.mod_eq_of_lt (lane.trans (by decide))]
    exact least
  case mact =>
    rw [exec_mact d s v h, State.putWholeMask, active_and_widthMask]
    rfl

end Sys2Proof.Proofs

/-! Which control registers GETCR and SETCR refuse (R135, R327). -/

namespace Sys2Proof.Proofs

open Sys2Proof.Machine Sys2Proof.Safety Sys2Proof.Laws

/-- A word that is illegal where it stands traps so, whatever else its checks would find (R353; log 22). -/
theorem wordTrap_of_illegalHere {s : State} {v : View} {i : Instr} (h : s.illegalHere v i = true) : s.wordTrap v i = some (illegalOp i) := by
  rw [State.wordTrap, h]
  rfl

/-- GETCR and SETCR report their OP (R352). -/
theorem illegalOp_control {i : Instr} {d : BitVec 6} {num : BitVec 12} {fn : BitVec 4} (h : encode i = some (0x0F#6 ++ d ++ num ++ fn)) :
    illegalOp i = .issue { code := 0x01, detail := 0x0F } := by
  have field : (0x0F#6 ++ d ++ num ++ fn).extractLsb' 22 6 = 0x0F#6 := by
    simp (disch := omega) only [Encoding.field_high, BitVec.extractLsb'_eq_self, Nat.reduceSub]
  simp only [illegalOp, codeOf, h, Option.getD_some, Code.illegalOp]
  exact congrArg (fun x => Found.issue { code := 0x01, detail := x.zeroExtend 18 }) field

theorem crWritable_eq_false {n : ℕ} (h : n ∉ [0x000, 0x001, 0x008, 0x009, 0x00A, 0x00B, 0x00C, 0x00D, 0x00E, 0x010, 0x011, 0x020, 0x021, 0x022, 0x023,
    0x024, 0x025, 0x026, 0x027, 0x028, 0x029, 0x02A, 0x030, 0x031]) : crWritable n = false := by
  simp only [List.mem_cons, List.not_mem_nil, or_false, not_or] at h
  simp [crWritable, wgWritable, ownWritable, h]

/-- A workgroup holds no other control register than the 15 of R327. -/
theorem cr_eq_none {n : ℕ} (g : Wg) (h : n ∉ [0x008, 0x010, 0x020, 0x021, 0x022, 0x023, 0x024, 0x025, 0x026, 0x027, 0x028, 0x029, 0x02A, 0x030,
    0x031]) : g.cr n = none := by
  unfold Wg.cr
  split
  on_goal 16 => rfl
  all_goals exact absurd (by decide) h

theorem readCr_eq_none {n : ℕ} (s : State) (v : View) (h : n ∉ [0x000, 0x001, 0x008, 0x009, 0x00A, 0x00B, 0x00C, 0x00D, 0x00E, 0x010, 0x011, 0x018,
    0x020, 0x021, 0x022, 0x023, 0x024, 0x025, 0x026, 0x027, 0x028, 0x029, 0x02A, 0x030, 0x031, 0x040, 0x041, 0x042, 0x043, 0x044, 0x045, 0x046, 0x047,
    0x048, 0x049, 0x04A, 0x04B]) : s.readCr v n = none := by
  have unheld : v.g.cr n = none := cr_eq_none v.g (fun k => h (List.Sublist.subset (by decide) k))
  unfold State.readCr
  split
  on_goal 23 =>
    rw [unheld]
    split <;> rfl
  all_goals exact absurd (by decide) h

/-- A GETCR or SETCR that is illegal by its number traps with its OP. -/
theorem wordTrap_control {s : State} {v : View} {i : Instr} {d : BitVec 6} {num : BitVec 12} {fn : BitVec 4} (h : s.illegalHere v i = true)
    (code : encode i = some (0x0F#6 ++ d ++ num ++ fn)) : s.wordTrap v i = some (.issue { code := 0x01, detail := 0x0F }) := by
  rw [wordTrap_of_illegalHere h, illegalOp_control code]

/-- Settles O30: the number alone makes the word illegal where it stands, which is the first check of a word. -/
theorem controlNumbersAreChecked : Obligations.ControlNumbersAreChecked := by
  intro s v d num hv _
  refine ⟨fun h => ?setcr, fun h => ?getcr⟩
  case setcr =>
    have number : (!crWritable num.toNat) = true := by rw [crWritable_eq_false h]; rfl
    have illegal : s.illegalHere v (.setcr d num) = true := Bool.or_eq_true_iff.mpr (.inr number)
    simp only [exec, execSetcr]
    exact word_traps hv (wordTrap_control illegal rfl)
  case getcr =>
    have number : (s.readCr v num.toNat).isNone = true := by rw [readCr_eq_none s v h]; rfl
    have illegal : s.illegalHere v (.getcr d num) = true := Bool.or_eq_true_iff.mpr (.inr number)
    simp only [exec, execGetcr]
    exact word_traps hv (wordTrap_control illegal rfl)

end Sys2Proof.Proofs

/-! What the lane functions of R150 to R154 compute: products, minima and maxima, shifts, rotations, and clamped sums. -/

namespace Sys2Proof.Proofs

open Sys2Proof.Machine

/-! ### Products, shifts and orders of lanes (R150) -/

theorem ofInt_mul_div_eq_extractLsb' (x y : Word) :
    BitVec.ofInt 32 (x.toInt * y.toInt / 2 ^ 32) = (x.signExtend 64 * y.signExtend 64).extractLsb' 32 32 := by
  rw [signExtend_mul_signExtend (by decide)]
  apply BitVec.eq_of_toNat_eq
  simp only [BitVec.toNat_ofInt, BitVec.extractLsb'_toNat, Nat.shiftRight_eq_div_pow, Nat.reducePow]
  omega

theorem ofNat_mul_div_eq_extractLsb' (x y : Word) :
    BitVec.ofNat 32 (x.toNat * y.toNat / 2 ^ 32) = (x.zeroExtend 64 * y.zeroExtend 64).extractLsb' 32 32 := by
  have whole : x.toNat * y.toNat < 2 ^ 64 := (Nat.mul_lt_mul'' x.isLt y.isLt).trans_eq (by norm_num)
  apply BitVec.eq_of_toNat_eq
  simp only [BitVec.toNat_ofNat, BitVec.extractLsb'_toNat, BitVec.toNat_mul, BitVec.truncate_eq_setWidth,
    BitVec.toNat_setWidth_of_le (show 32 ≤ 64 by decide), Nat.mod_eq_of_lt whole, Nat.shiftRight_eq_div_pow]

theorem lane5_eq_extractLsb' (y : Word) : lane5 y = (y.extractLsb' 0 5).toNat := by
  simp only [lane5, BitVec.extractLsb'_toNat, Nat.shiftRight_zero, Nat.reducePow]

theorem vminS_eq_ite_slt (x y : Word) : vminS x y = if y.slt x then y else x := by
  simp only [vminS, BitVec.slt_iff_toInt_lt, ← Int.not_lt, ite_not]

theorem vmaxS_eq_ite_slt (x y : Word) : vmaxS x y = if y.slt x then x else y := by
  simp only [vmaxS, BitVec.slt_iff_toInt_lt, ← Int.not_lt, ite_not]

theorem vminU_eq_ite_ult (x y : Word) : vminU x y = if y.ult x then y else x := by
  simp only [vminU, BitVec.ult_iff_toNat_lt, ← Nat.not_lt, ite_not]

theorem vmaxU_eq_ite_ult (x y : Word) : vmaxU x y = if y.ult x then x else y := by
  simp only [vmaxU, BitVec.ult_iff_toNat_lt, ← Nat.not_lt, ite_not]

/-- VROT rotates to the right. -/
theorem getLsbD_rotateRight_lane5 (x y : Word) {j : ℕ} (hj : j < 32) :
    (x.rotateRight (lane5 y)).getLsbD j = x.getLsbD ((j + (y.extractLsb' 0 5).toNat) % 32) := by
  have small : (y.extractLsb' 0 5).toNat < 32 := (y.extractLsb' 0 5).isLt
  rw [lane5_eq_extractLsb', BitVec.getLsbD_rotateRight, Nat.mod_eq_of_lt small]
  by_cases stays : j < 32 - (y.extractLsb' 0 5).toNat
  · rw [decide_eq_true stays, cond_true, Nat.mod_eq_of_lt (by omega), Nat.add_comm]
  · rw [decide_eq_false stays, cond_false, decide_eq_true hj, Bool.true_and]
    exact congrArg x.getLsbD (by omega)

/-- Sat32 clamps, and raises SATO and INX where it does (R150). -/
theorem sat32_eq_clamped (x : ℤ) : sat32 x = Safety.clamped x := by
  unfold sat32 Safety.clamped
  by_cases low : x < -2 ^ 31
  · rw [if_pos low, min_eq_left (by omega), max_eq_left (by omega), if_neg (by omega)]
    rfl
  · by_cases high : 2 ^ 31 - 1 < x
    · rw [if_neg low, if_pos high, min_eq_right (by omega), max_eq_right (by omega), if_neg (by omega)]
      rfl
    · rw [if_neg low, if_neg high, min_eq_left (by omega), max_eq_right (by omega), if_pos ⟨by omega, by omega⟩]

end Sys2Proof.Proofs

/-! What the integer words of vectors answer (R144, R150, R151, R154 to R156). -/

namespace Sys2Proof.Proofs

open Sys2Proof.Machine Sys2Proof.Safety Sys2Proof.Laws

/-- Settles O32: each word puts its function of its lanes, which is the operation of R150 or R151. -/
theorem vectorIntegerResults : Obligations.VectorIntegerResults := by
  intro s v d a b ha hb imm
  refine ⟨exec_vadd d a b ha hb s v, exec_vsub d a b ha hb s v, exec_vmul d a b ha hb s v, fun h => ?vmulh, fun h => ?vmulhu,
    exec_vmad d a b ha hb s v, exec_vand d a b ha hb s v, exec_vor d a b ha hb s v, exec_vxor d a b ha hb s v, exec_vandn d a b ha hb s v,
    fun h => ?vshl, fun h => ?vshr, fun h => ?vsra, fun h => ?vmin, fun h => ?vmax, fun h => ?vminu, fun h => ?vmaxu,
    fun h => ⟨_, exec_vrot d a b ha hb s v h, fun n j => getLsbD_rotateRight_lane5 _ _⟩, exec_vaddi d a imm s v⟩
  case vmulh => simp only [exec_vmulh d a b ha hb s v h, State.vector2, ofInt_mul_div_eq_extractLsb']
  case vmulhu => simp only [exec_vmulhu d a b ha hb s v h, State.vector2, ofNat_mul_div_eq_extractLsb']
  case vshl => simp only [exec_vshl d a b ha hb s v h, State.vector2, lane5_eq_extractLsb']
  case vshr => simp only [exec_vshr d a b ha hb s v h, State.vector2, lane5_eq_extractLsb']
  case vsra => simp only [exec_vsra d a b ha hb s v h, State.vector2, lane5_eq_extractLsb']
  case vmin => simp only [exec_vmin d a b ha hb s v h, State.vector2, vminS_eq_ite_slt]
  case vmax => simp only [exec_vmax d a b ha hb s v h, State.vector2, vmaxS_eq_ite_slt]
  case vminu => simp only [exec_vminu d a b ha hb s v h, State.vector2, vminU_eq_ite_ult]
  case vmaxu => simp only [exec_vmaxu d a b ha hb s v h, State.vector2, vmaxU_eq_ite_ult]

/-- VLANE adds in 32 bits what the rule adds in 64 and cuts off (R155). -/
theorem lane_sum_eq_extractLsb' (x : Dword) (n : ℕ) : x.setWidth 32 + BitVec.ofNat 32 n = (x + BitVec.ofNat 64 n).extractLsb' 0 32 := by
  rw [← BitVec.setWidth_eq_extractLsb' (show 32 ≤ 64 by decide), BitVec.setWidth_add _ _ (show 32 ≤ 64 by decide),
    BitVec.setWidth_ofNat_of_le (show 32 ≤ 64 by decide)]

/-- Settles O34: each word puts its function of its lanes or the bits of its compare; a lane outside Active is read as 0. -/
theorem compareAndMoveResults : Obligations.CompareAndMoveResults := by
  intro s v d a b m ha hb
  refine ⟨fun h => ?vadds, fun h => ?vsubs, fun h => ?vceq, fun h => ?vclt, fun h => ?vcltu, fun h => ?vcle, fun h => ?vbcs,
    exec_vmovm d a m ha hb s v, fun h => ?vlane, exec_vtos d a b ha hb s v, exec_vshfl d a b ha hb s v, exec_vbcl d a b ha hb s v,
    exec_vrotl d a b ha hb s v, exec_vperm d a b ha hb s v⟩
  case vadds => simp only [exec_vadds d a b ha hb s v h, State.vectorSat, sat32_eq_clamped]
  case vsubs => simp only [exec_vsubs d a b ha hb s v h, State.vectorSat, sat32_eq_clamped]
  case vceq => rw [exec_vceq m a b ha hb s v h]; rfl
  case vclt => simp only [exec_vclt m a b ha hb s v h, BitVec.slt_eq_decide]; rfl
  case vcltu => simp only [exec_vcltu m a b ha hb s v h, BitVec.ult_eq_decide]; rfl
  case vcle => simp only [exec_vcle m a b ha hb s v h, BitVec.sle_eq_decide]; rfl
  case vbcs => simp only [exec_vbcs d a ha s v h, BitVec.setWidth_eq_extractLsb' (show 32 ≤ 64 by decide)]
  case vlane => simp only [exec_vlane d a ha s v h, lane_sum_eq_extractLsb']

end Sys2Proof.Proofs

/-! VPK16 in a planer, where the flags behind its sources stay with its result (R83, R181). -/

namespace Sys2Proof.Proofs

open Sys2Proof.Machine Sys2Proof.Safety Sys2Proof.Laws

/-- The fragment of a planer's warp, with nothing pending. -/
def slotFrag : Frag := { warp := 5, pc := 0x12000, lm := 1, fmt := 1 }

/-- A part on which the planer of core 0 issues a group of one word. -/
def planerSlot : State :=
  { State.reset with
    frags := [(6, slotFrag)], warps := [(5, { wg := 4, idx := 0, width := 16, slot := 16, planer := some 0 })]
    wgs := [(4, { team := 1, member := 0, benchSize := 4096 })], issue := some { frag := 6, pc := 0x12000, words := 1 } }

/-- A planer may run VPK16 (R181). -/
theorem planerSlot_runs : ∃ v, Runs planerSlot v (.vpk16 1 2 3 0 0) ∧ v.inPlaner = true ∧ planerSlot.frag? v.fid = some slotFrag :=
  ⟨_, ⟨rfl, by decide⟩, rfl, rfl⟩

/-- A pending write makes a fragment's list one longer. -/
theorem length_addPend (f : Frag) (p : Pend) : (f.addPend p).pend.length = f.pend.length + 1 := by
  have inserted (l : List Pend) : (insertPend p l).length = l.length + 1 := by
    induction l with
    | nil => rfl
    | cons q l ih =>
      unfold insertPend
      split
      · rfl
      · rw [List.length_cons, ih, List.length_cons]
  exact inserted f.pend

/-- In a planer, a result that carries flags leaves a second pending write behind that of its lanes. -/
theorem putVec_carry_ne_putVec {s : State} {v : View} {f : Frag} (hf : s.frag? v.fid = some f) (planer : v.inPlaner = true) (lat : ℕ)
    (d : BitVec 6) (x y : ℕ → Word) (srcs : List (BitVec 6)) (own : BitVec 5) : (s.putVec v lat d x).carry v lat d srcs own ≠ s.putVec v lat d y := by
  intro same
  have carried := congrArg (fun t : State => (t.frag? v.fid).map (fun g => g.pend.length)) same
  simp only [State.carry, planer, if_true, State.putVec, frag_putPend (frag_putPend hf _ _), frag_putPend hf, Option.map_some, length_addPend,
    Option.some.injEq] at carried
  omega

/-- Refutes O33: its clause about VPK16 leaves one pending write, and where the word runs in a planer the model leaves a second one, which keeps the
flags behind the sources with the result (R83, R181; log 71). `planerSlot` is such a state. No other clause is refuted here. -/
theorem not_bitCountAndPackResults : ¬ Obligations.BitCountAndPackResults := by
  unfold Obligations.BitCountAndPackResults
  intro holds
  obtain ⟨v, runs, planer, frag⟩ := planerSlot_runs
  obtain ⟨-, -, -, -, -, vpk16, -⟩ := holds planerSlot v 1 2 3 0 0
  have same := (exec_vpk16 1 2 3 0 0 planerSlot v runs).symm.trans (vpk16 runs)
  exact putVec_carry_ne_putVec frag planer 2 1 _ _ [2, 3] 0 (Host.Outcome.next.inj same)

end Sys2Proof.Proofs

/-! Reduction trees (R157): a tree over twice as many leaves is made of two trees, and the tree of an associative operation is its fold. -/

namespace Sys2Proof.Proofs

open Sys2Proof.Machine

section

variable {α : Type} (op : α → α → α)

theorem comb_none_right (a : Option α) : comb op a none = a := by cases a <;> rfl

/-! ### Levels of a tree -/

theorem length_treeLevel (l : List (Option α)) : (treeLevel op l).length = (l.length + 1) / 2 := by
  induction l using treeLevel.induct with
  | case1 a b r ih =>
    rw [treeLevel, List.length_cons, ih, List.length_cons, List.length_cons]
    omega
  | case2 l short =>
    match l, short with
    | [], _ => simp [treeLevel]
    | [a], _ => simp [treeLevel]
    | a :: b :: r, short => exact absurd rfl (short a b r)

/-- A single value is the root already. -/
theorem treeLevel_of_length_le_one {l : List (Option α)} (h : l.length ≤ 1) : treeLevel op l = l := by
  match l, h with
  | [], _ => simp [treeLevel]
  | [a], _ => simp [treeLevel]

/-- No pair of a level crosses from the first 2 n values to those behind them. -/
theorem treeLevel_append (n : ℕ) (l r : List (Option α)) (h : l.length = 2 * n) : treeLevel op (l ++ r) = treeLevel op l ++ treeLevel op r := by
  induction n generalizing l with
  | zero => rw [List.length_eq_zero_iff.mp h, List.nil_append]; rfl
  | succ n ih =>
    match l, h with
    | [a], h => exact absurd h (by simp only [List.length_singleton]; omega)
    | a :: b :: l, h =>
      rw [List.cons_append, List.cons_append, treeLevel, treeLevel, ih l (by simp only [List.length_cons] at h; omega), List.cons_append]

theorem treeReduce_succ (n : ℕ) (l : List (Option α)) : treeReduce op (n + 1) l = treeReduce op n (treeLevel op l) := rfl

/-- As many levels as the leaves need are enough. -/
theorem treeReduce_succ_of_length_le {k : ℕ} {l : List (Option α)} (h : l.length ≤ 2 ^ k) : treeReduce op (k + 1) l = treeReduce op k l := by
  induction k generalizing l with
  | zero => rw [treeReduce_succ, treeLevel_of_length_le_one op h]
  | succ k ih => rw [treeReduce_succ, ih (by rw [length_treeLevel]; omega), treeReduce_succ]

theorem treeReduce_of_length_le {k n : ℕ} {l : List (Option α)} (h : l.length ≤ 2 ^ k) (hn : k ≤ n) : treeReduce op n l = treeReduce op k l := by
  induction n, hn using Nat.le_induction with
  | base => rfl
  | succ n hn ih => rw [treeReduce_succ_of_length_le op (h.trans (Nat.pow_le_pow_right two_pos hn)), ih]

/-- The tree over two halves combines the trees of the halves. -/
theorem treeReduce_append {k : ℕ} {l r : List (Option α)} (hl : l.length = 2 ^ k) (hr : r.length = 2 ^ k) :
    treeReduce op (k + 1) (l ++ r) = comb op (treeReduce op k l) (treeReduce op k r) := by
  induction k generalizing l r with
  | zero =>
    obtain ⟨a, rfl⟩ := List.length_eq_one_iff.mp hl
    obtain ⟨b, rfl⟩ := List.length_eq_one_iff.mp hr
    rfl
  | succ k ih =>
    rw [pow_succ'] at hl hr
    rw [treeReduce_succ, treeLevel_append op _ _ _ hl, ih (by rw [length_treeLevel]; omega) (by rw [length_treeLevel]; omega), treeReduce_succ, treeReduce_succ]

/-- The leaves of a tree, those outside p absent. -/
def leavesOf (leaf : ℕ → α) (p : ℕ → Bool) (l : List ℕ) : List (Option α) := l.map (fun i => if p i then some (leaf i) else none)

theorem treeOf_eq_treeReduce {k n : ℕ} (leaf : ℕ → α) (p : ℕ → Bool) (h : n ≤ 2 ^ k) (hn : k ≤ n) :
    treeOf op n leaf p = treeReduce op k (leavesOf leaf p (List.range n)) :=
  treeReduce_of_length_le op (by rwa [List.length_map, List.length_range]) hn

theorem leavesOf_range_double (leaf : ℕ → α) (p : ℕ → Bool) (n : ℕ) : leavesOf leaf p (List.range (2 * n)) =
    leavesOf leaf p (List.range n) ++ leavesOf (fun i => leaf (n + i)) (fun i => p (n + i)) (List.range n) := by
  rw [two_mul, List.range_add, leavesOf, List.map_append, List.map_map]
  rfl

theorem treeOf_double (leaf : ℕ → α) (p : ℕ → Bool) (k : ℕ) : treeOf op (2 ^ (k + 1)) leaf p =
    comb op (treeOf op (2 ^ k) leaf p) (treeOf op (2 ^ k) (fun i => leaf (2 ^ k + i)) (fun i => p (2 ^ k + i))) := by
  have deep (k : ℕ) : k ≤ 2 ^ k := Nat.lt_two_pow_self.le
  have size (leaf : ℕ → α) (p : ℕ → Bool) : (leavesOf leaf p (List.range (2 ^ k))).length = 2 ^ k := by
    rw [leavesOf, List.length_map, List.length_range]
  rw [treeOf_eq_treeReduce op _ _ le_rfl (deep (k + 1)), treeOf_eq_treeReduce op _ _ le_rfl (deep k),
    treeOf_eq_treeReduce op _ _ le_rfl (deep k), pow_succ', leavesOf_range_double, treeReduce_append op (size ..) (size ..)]

/-! ### Trees of associative operations -/

/-- What some values come to, none where there are none. -/
def foldAll (xs : List α) : Option α := xs.foldr (fun x => comb op (some x)) none

theorem foldAll_cons (x : α) (xs : List α) : foldAll op (x :: xs) = comb op (some x) (foldAll op xs) := rfl

/-- Absent leaves count for nothing. -/
theorem foldr_leavesOf (leaf : ℕ → α) (p : ℕ → Bool) (l : List ℕ) : (leavesOf leaf p l).foldr (comb op) none = foldAll op ((l.filter p).map leaf) := by
  induction l with
  | nil => rfl
  | cons i l ih =>
    rw [leavesOf, List.map_cons, List.foldr_cons, ← leavesOf, ih]
    by_cases admitted : p i = true
    · rw [if_pos admitted, List.filter_cons_of_pos admitted]
      rfl
    · rw [if_neg admitted, List.filter_cons_of_neg admitted]
      rfl

section

variable [assoc : Std.Associative op]

theorem comb_assoc (a b c : Option α) : comb op (comb op a b) c = comb op a (comb op b c) := by
  cases a with
  | none => rfl
  | some x =>
    cases b with
    | none => rfl
    | some y =>
      cases c with
      | none => rfl
      | some z => exact congrArg some (assoc.assoc x y z)

/-- A level leaves what its values come to. -/
theorem foldr_treeLevel (l : List (Option α)) : (treeLevel op l).foldr (comb op) none = l.foldr (comb op) none := by
  induction l using treeLevel.induct with
  | case1 a b r ih => rw [treeLevel, List.foldr_cons, ih, comb_assoc, List.foldr_cons, List.foldr_cons]
  | case2 l short =>
    rw [treeLevel]
    exact short

theorem treeReduce_eq_foldr {n : ℕ} {l : List (Option α)} (h : l.length ≤ 2 ^ n) : treeReduce op n l = l.foldr (comb op) none := by
  induction n generalizing l with
  | zero =>
    match l, h with
    | [], _ => rfl
    | [a], _ => exact (comb_none_right op a).symm
  | succ n ih =>
    rw [treeReduce_succ, ih (by rw [length_treeLevel]; omega), foldr_treeLevel]

/-- The tree of an associative operation is what the leaves that are there come to, in their order. -/
theorem treeOf_eq_foldAll (n : ℕ) (leaf : ℕ → α) (p : ℕ → Bool) : treeOf op n leaf p = foldAll op (((List.range n).filter p).map leaf) := by
  rw [← foldr_leavesOf]
  exact treeReduce_eq_foldr op (by rw [List.length_map, List.length_range]; exact Nat.lt_two_pow_self.le)

end

/-- Where values are added to what leaves them as they are, none of them come to that. -/
theorem foldAll_getD {e : α} [Std.Associative op] [Std.Commutative op] [identity : Std.LawfulRightIdentity op e] (xs : List α) :
    (foldAll op xs).getD e = xs.foldl op e := by
  rw [List.foldl_eq_foldr]
  induction xs with
  | nil => rfl
  | cons x xs ih =>
    rw [List.foldr_cons, ← ih, foldAll_cons]
    cases foldAll op xs with
    | none => exact (identity.right_id x).symm
    | some y => rfl

/-- An operation keeps of two values one that stands in a relation to both: the lesser, or the greater. -/
structure Selects (le : α → α → Prop) : Prop where
  keeps : ∀ x y, op x y = x ∨ op x y = y
  left : ∀ x y, le (op x y) x
  right : ∀ x y, le (op x y) y
  refl : ∀ x, le x x
  trans : ∀ x y z, le x y → le y z → le x z

variable {op} in
/-- Some values come to one of them that stands in the relation to all of them. -/
theorem Selects.foldAll_kept {le : α → α → Prop} (h : Selects op le) {xs : List α} (some_ : xs ≠ []) :
    ∃ r, foldAll op xs = some r ∧ r ∈ xs ∧ ∀ x ∈ xs, le r x := by
  induction xs with
  | nil => exact absurd rfl some_
  | cons x xs ih =>
    rw [foldAll_cons]
    by_cases last : xs = []
    · subst last
      exact ⟨x, rfl, List.mem_singleton_self x, fun y hy => by rw [List.mem_singleton.mp hy]; exact h.refl x⟩
    · obtain ⟨r, eq, mem, least⟩ := ih last
      refine ⟨op x r, by rw [eq]; rfl, ?_, fun y hy => ?_⟩
      · rcases h.keeps x r with same | same <;> rw [same]
        · exact List.mem_cons_self
        · exact List.mem_cons_of_mem x mem
      · rcases List.mem_cons.mp hy with rfl | later
        · exact h.left y r
        · exact h.trans _ _ _ (h.right x r) (least y later)

variable {op} in
/-- A tree with a leaf comes to one of its leaves that stands in the relation to all of them. -/
theorem Selects.treeOf_kept {le : α → α → Prop} (h : Selects op le) [Std.Associative op] {n : ℕ} {leaf : ℕ → α} {p : ℕ → Bool}
    (some_ : ∃ j, j < n ∧ p j = true) (e : α) : (∃ i, i < n ∧ p i = true ∧ (treeOf op n leaf p).getD e = leaf i) ∧
      ∀ i, i < n → p i = true → le ((treeOf op n leaf p).getD e) (leaf i) := by
  obtain ⟨j, inside, there⟩ := some_
  obtain ⟨r, eq, mem, least⟩ := h.foldAll_kept (xs := ((List.range n).filter p).map leaf)
    (List.ne_nil_of_mem (List.mem_map_of_mem (List.mem_filter.mpr ⟨List.mem_range.mpr inside, there⟩)))
  rw [treeOf_eq_foldAll, eq]
  simp only [List.mem_map, List.mem_filter, List.mem_range] at mem least
  obtain ⟨i, ⟨hi, hp⟩, rfl⟩ := mem
  exact ⟨⟨i, hi, hp, rfl⟩, fun k hk pk => least _ ⟨k, ⟨hk, pk⟩, rfl⟩⟩

end

/-- Settles O36: the trees of the halves are the two sides of the last combination. -/
theorem reductionTreeOrder : Obligations.ReductionTreeOrder := by
  intro α op leaf p k
  refine ⟨rfl, ?_⟩
  rw [treeOf_double]
  cases treeOf op (2 ^ k) leaf p with
  | none => rfl
  | some x => cases treeOf op (2 ^ k) (fun i => leaf (2 ^ k + i)) (fun i => p (2 ^ k + i)) <;> rfl

end Sys2Proof.Proofs

/-! What integer reductions and scans answer (R144, R157, R159). -/

namespace Sys2Proof.Proofs

open Sys2Proof.Machine Sys2Proof.Safety Sys2Proof.Laws

/-! ### The lesser and the greater of two lanes -/

theorem toInt_vminS (x y : Word) : (vminS x y).toInt = min x.toInt y.toInt := by
  rw [vminS, min_def, apply_ite BitVec.toInt]

theorem toInt_vmaxS (x y : Word) : (vmaxS x y).toInt = max x.toInt y.toInt := by
  rw [vmaxS, max_def, apply_ite BitVec.toInt]

theorem vminS_associative : Std.Associative vminS :=
  ⟨fun x y z => BitVec.eq_of_toInt_eq (by simp only [toInt_vminS, min_assoc])⟩

theorem vmaxS_associative : Std.Associative vmaxS :=
  ⟨fun x y z => BitVec.eq_of_toInt_eq (by simp only [toInt_vmaxS, max_assoc])⟩

theorem vminS_selects : Selects vminS (fun x y => x.sle y = true) where
  keeps x y := ite_eq_or_eq _ x y
  left x y := by rw [BitVec.sle_iff_toInt_le, toInt_vminS]; exact min_le_left ..
  right x y := by rw [BitVec.sle_iff_toInt_le, toInt_vminS]; exact min_le_right ..
  refl x := BitVec.sle_iff_toInt_le.mpr le_rfl
  trans x y z h k := BitVec.sle_iff_toInt_le.mpr ((BitVec.sle_iff_toInt_le.mp h).trans (BitVec.sle_iff_toInt_le.mp k))

theorem vmaxS_selects : Selects vmaxS (fun x y => y.sle x = true) where
  keeps x y := (ite_eq_or_eq _ y x).symm
  left x y := by rw [BitVec.sle_iff_toInt_le, toInt_vmaxS]; exact le_max_left ..
  right x y := by rw [BitVec.sle_iff_toInt_le, toInt_vmaxS]; exact le_max_right ..
  refl x := BitVec.sle_iff_toInt_le.mpr le_rfl
  trans x y z h k := BitVec.sle_iff_toInt_le.mpr ((BitVec.sle_iff_toInt_le.mp k).trans (BitVec.sle_iff_toInt_le.mp h))

/-! ### Reductions and scans -/

section

variable {op : Word → Word → Word} [Std.Associative op]

/-- A sum or disjunction of the lanes that are there. -/
theorem treeOf_getD_zero [Std.Commutative op] [Std.LawfulRightIdentity op 0] (n : ℕ) (leaf : ℕ → Word) (p : ℕ → Bool) :
    (treeOf op n leaf p).getD 0 = (((List.range n).filter p).map leaf).foldl op 0 := by
  rw [treeOf_eq_foldAll, foldAll_getD]

/-- An inclusive scan comes, in each active lane, to one of the active lanes up to it. -/
theorem Selects.scan {le : Word → Word → Prop} (h : Selects op le) {x : Lanes} {w n : ℕ} (hn : n < w) (active : x.getLsbD n = true)
    (leaf : ℕ → Word) :
    let r := (treeOf op w leaf (fun i => x.has i && decide (i ≤ n))).getD 0
    (∃ i, i ≤ n ∧ x.getLsbD i = true ∧ r = leaf i) ∧ ∀ i, i ≤ n → x.getLsbD i = true → le r (leaf i) := by
  have admitted (i : ℕ) : (x.has i && decide (i ≤ n)) = true ↔ x.getLsbD i = true ∧ i ≤ n := by
    rw [Bool.and_eq_true, decide_eq_true_iff]
    rfl
  obtain ⟨⟨i, -, hp, eq⟩, all⟩ := h.treeOf_kept (n := w) (leaf := leaf) (p := fun i => x.has i && decide (i ≤ n))
    ⟨n, hn, (admitted n).mpr ⟨active, le_rfl⟩⟩ 0
  obtain ⟨there, upTo⟩ := (admitted i).mp hp
  exact ⟨⟨i, upTo, there, eq⟩, fun k hk held => all k (hk.trans_lt hn) ((admitted k).mpr ⟨held, hk⟩)⟩

end

/-- Settles O37: sums and disjunctions are folds of the lanes that are there; the least and the greatest are those that the tree's operation keeps. -/
theorem integerReductionResults : Obligations.IntegerReductionResults := by
  intro s v d a ha
  have := vminS_associative
  have := vmaxS_associative
  refine ⟨fun h => ?vredadd, fun h => ?vredor, fun h => ⟨_, exec_vredmin d a ha s v h, fun j hj active => vminS_selects.treeOf_kept ⟨j, hj, active⟩ 0⟩,
    fun h => ⟨_, exec_vredmax d a ha s v h, fun j hj active => vmaxS_selects.treeOf_kept ⟨j, hj, active⟩ 0⟩, fun h => ?vscanadd, fun h => ?vscanaddx,
    fun h => ⟨_, exec_vscanmin d a ha s v h, fun n hn active => vminS_selects.scan hn active _⟩,
    fun h => ⟨_, exec_vscanmax d a ha s v h, fun n hn active => vmaxS_selects.scan hn active _⟩⟩
  case vredadd => rw [exec_vredadd d a ha s v h, State.intReduce, treeOf_getD_zero]; rfl
  case vredor => rw [exec_vredor d a ha s v h, State.intReduce, treeOf_getD_zero]; rfl
  case vscanadd => simp only [exec_vscanadd d a ha s v h, State.intScan, treeOf_getD_zero]; rfl
  case vscanaddx => simp only [exec_vscanaddx d a ha s v h, State.intScan, treeOf_getD_zero]; rfl

end Sys2Proof.Proofs

/-! What the floating-point words of vectors answer (R147, R157, R158, R160 to R165). -/

namespace Sys2Proof.Proofs

open Sys2Proof.Machine Sys2Proof.Safety Sys2Proof.Laws

theorem magLt_asymm {m n : ℕ} {e d : ℤ} (h : magLt m e n d = true) : magLt n d m e = false := by
  rw [magLt_iff (K := ℚ)] at h
  rw [Bool.eq_false_iff, Ne, magLt_iff (K := ℚ)]
  exact h.not_gt

/-- Of two values at most one is less than the other. -/
theorem lt_asymm_of_values {x y : FVal} (h : x.lt false y = true) : y.lt false x = false := by
  cases x with
  | nan s => cases h
  | inf a => cases y <;> simp_all [FVal.lt]
  | num a m d =>
    cases y with
    | nan s => rfl
    | inf b => simp_all [FVal.lt]
    | num b n e =>
      by_cases hm : m = 0
      · by_cases hn : n = 0
        · simp [FVal.lt, numLt, hm, hn]
        · simpa [FVal.lt, hm, hn] using h
      · by_cases hn : n = 0
        · simpa [FVal.lt, hm, hn] using h
        · simp only [FVal.lt, numLt, hm, hn, false_and, and_false, if_false] at h ⊢
          cases a <;> cases b <;> simp_all [magLt_asymm]

/-- A value is at most another where it is less or equal (R163). -/
theorem floatLe_eq (x y : FVal) : floatLe x y = (floatLt x y || floatEq x y) := by
  have asymm := @lt_asymm_of_values x y
  rw [floatLe, floatLt, floatEq]
  cases ordered x y <;> cases less : x.lt false y <;> simp_all

theorem not_ordered (x y : FVal) : (!ordered x y) = (x.isNan || y.isNan) := by
  rw [ordered, Bool.not_and, Bool.not_not, Bool.not_not]

/-- Settles O35: each word puts its operation of each element; a value is at most another where it is less or equal, and unordered with a NaN. -/
theorem vectorFloatResults : Obligations.VectorFloatResults := by
  intro s v d a b m rm
  refine ⟨exec_vfadd d a b rm s v, exec_vfsub d a b rm s v, exec_vfmul d a b rm s v, exec_vfdiv d a b rm s v, exec_vfma d a b rm s v,
    exec_vfms d a b rm s v, exec_vfmin d a b s v, exec_vfmax d a b s v, exec_vfabs d a s v, exec_vfcls d a s v, exec_vfcmpEq m a b s v, exec_vfcmpLt m a b s v,
    fun h => ?vfcmpLe, fun h => ?vfcmpUn, exec_vfcmpNe m a b s v⟩
  case vfcmpLe =>
    simp only [exec_vfcmpLe m a b s v h, State.floatCompare, floatLe_eq]
    rfl
  case vfcmpUn =>
    simp only [exec_vfcmpUn m a b s v h, State.floatCompare, not_ordered]
    rfl

/-- Settles O38: each word puts the tree of its operation over the leaves of the active lanes. -/
theorem floatReductionResults : Obligations.FloatReductionResults := by
  intro s v d a rm
  exact ⟨exec_vfredadd d a rm s v, exec_vfredmax d a s v, exec_vfscanadd d a rm s v, exec_vfscanmax d a s v⟩

/-- Settles O39: each word puts its function of each element. -/
theorem specialFunctionResults : Obligations.SpecialFunctionResults := by
  intro s v d a rm
  exact ⟨exec_vsfuRcp d a rm s v, exec_vsfuRsq d a rm s v, exec_vsfuSqrt d a rm s v, exec_vsfuEx2 d a rm s v, exec_vsfuLg2 d a rm s v,
    exec_vsfuSin d a rm s v, exec_vsfuCos d a rm s v, exec_vsfuTanh d a rm s v, exec_vsfuSigm d a rm s v⟩

end Sys2Proof.Proofs

/-! Roots and powers of two in the special functions (R165): the integer root and what is left over read the exact root. -/

namespace Sys2Proof.Proofs

open Sys2Proof.Machine Sys2Proof.Safety

/-! ### Integer square roots -/

/-- The search for the root of n from bit k down keeps the root within reach. -/
theorem isqrtFrom_spec (n k r : ℕ) (low : r * r ≤ n) (high : n < (r + 2 ^ (k + 1)) * (r + 2 ^ (k + 1))) :
    isqrtFrom n k r * isqrtFrom n k r ≤ n ∧ n < (isqrtFrom n k r + 1) * (isqrtFrom n k r + 1) := by
  induction k generalizing r with
  | zero =>
    rw [isqrtFrom]
    split
    · exact ⟨by assumption, high⟩
    · exact ⟨low, by omega⟩
  | succ k ih =>
    rw [isqrtFrom]
    split
    · exact ih _ (by assumption) (by rwa [pow_succ, mul_two, ← add_assoc] at high)
    · exact ih _ low (by omega)

theorem isqrt_spec (n : ℕ) : isqrt n * isqrt n ≤ n ∧ n < (isqrt n + 1) * (isqrt n + 1) := by
  refine isqrtFrom_spec n _ 0 (Nat.zero_le n) ?_
  rw [zero_add, ← pow_add]
  exact Nat.lt_log2_self.trans_le (Nat.pow_le_pow_right two_pos (by omega))

theorem isqrt_eq_sqrt (n : ℕ) : isqrt n = Nat.sqrt n := by
  obtain ⟨low, high⟩ := isqrt_spec n
  exact Nat.eq_sqrt.mpr ⟨low, high⟩

/-- The integer part of a root, scaled by a power of two, reads the scaled root. -/
theorem reads_sqrt {x y : ℝ} {r : ℕ} {q : ℤ} (low : (r : ℝ) ^ 2 ≤ y) (high : y < (r + 1 : ℝ) ^ 2) (scaled : x = y * (2 ^ q) ^ 2) {sticky : Bool}
    (exact_ : sticky = false ↔ (r : ℝ) ^ 2 = y) : Reads r q sticky (√x) := by
  have unit := two_zpow_pos q
  have root : √x = √y * 2 ^ q := by rw [scaled, Real.sqrt_mul ((sq_nonneg _).trans low), Real.sqrt_sq unit.le]
  rw [root]
  refine ⟨fun none_ => ?_, fun some_ => ?_⟩
  · rw [← exact_.mp none_, Real.sqrt_sq (Nat.cast_nonneg r)]
  · have differs : (r : ℝ) ^ 2 ≠ y := fun eq => by rw [exact_.mpr eq] at some_; cases some_
    constructor
    · exact mul_lt_mul_of_pos_right (Real.lt_sqrt_of_sq_lt (lt_of_le_of_ne low differs)) unit
    · exact mul_lt_mul_of_pos_right ((Real.sqrt_lt' (by positivity)).mpr high) unit

/-- An exponent is twice its half, and the parity that goes into the significand. -/
theorem two_zpow_halved (e : ℤ) : (2 : ℝ) ^ e = 2 ^ (e % 2).toNat * (2 ^ ((e - e % 2) / 2)) ^ 2 := by
  rw [← zpow_natCast, ← zpow_natCast, ← zpow_mul, ← zpow_add₀ two_ne_zero]
  congr 1
  omega

/-- SQRT has enough bits of the root, and what is left over is sticky. -/
theorem sqrtQ_reads {m : ℕ} (hm : 0 < m) (e : ℤ) : ∃ r q sticky, Special.sqrtQ m e = ⟨.num false r q, sticky, 0⟩ ∧ 2 ^ 100 ≤ r ∧
    Reads r q sticky (√(m * 2 ^ e)) := by
  refine ⟨_, _, _, rfl, ?_, ?_⟩
  · rw [isqrt_eq_sqrt, Nat.le_sqrt, ← pow_add]
    exact Nat.le_mul_of_pos_left _ (by positivity)
  · obtain ⟨low, high⟩ := isqrt_spec (m * 2 ^ (e % 2).toNat * 2 ^ 200)
    refine reads_sqrt (y := m * 2 ^ (e % 2).toNat * 2 ^ (100 * 2)) ?_ ?_ ?_ ?_
    · rw [sq]; exact_mod_cast low
    · rw [sq]; exact_mod_cast high
    · rw [two_zpow_halved e, zpow_sub₀ two_ne_zero, zpow_ofNat, pow_mul (2 : ℝ) 100 2]
      field_simp
    · rw [decide_eq_false_iff_not, not_not, sq]
      exact_mod_cast Iff.rfl

/-- RSQ has enough bits of the root of the reciprocal, and what is left over is sticky. -/
theorem rsqQ_reads {m : ℕ} (hm : 0 < m) (small : m < 2 ^ 24) (e : ℤ) : ∃ r q sticky, Special.rsqQ m e = ⟨.num false r q, sticky, 0⟩ ∧
    2 ^ 100 ≤ r ∧ Reads r q sticky (1 / √(m * 2 ^ e)) := by
  have pos : 0 < m * 2 ^ (e % 2).toNat := by positivity
  have bits : m * 2 ^ (e % 2).toNat ≤ 2 ^ 25 := by
    rw [pow_succ]
    exact Nat.mul_le_mul small.le (Nat.pow_le_pow_right two_pos (by omega : (e % 2).toNat ≤ 1))
  have posR : (0 : ℝ) < m * 2 ^ (e % 2).toNat := by exact_mod_cast pos
  refine ⟨_, _, _, rfl, ?_, ?_⟩
  · rw [isqrt_eq_sqrt, Nat.le_sqrt, Nat.le_div_iff_mul_le pos, ← pow_add]
    exact (Nat.mul_le_mul_left _ bits).trans (by rw [← pow_add]; gcongr <;> norm_num)
  · have power : ((2 ^ 400 : ℕ) : ℝ) = (2 ^ 200) ^ 2 := by rw [Nat.cast_pow, Nat.cast_ofNat, ← pow_mul]
    generalize 2 ^ 400 = n at power
    obtain ⟨low, high⟩ := isqrt_spec (n / (m * 2 ^ (e % 2).toNat))
    rw [Nat.le_div_iff_mul_le pos] at low
    rw [Nat.div_lt_iff_lt_mul pos] at high
    rw [← Real.sqrt_one, ← Real.sqrt_div' 1 (by positivity)]
    refine reads_sqrt (y := n / (m * 2 ^ (e % 2).toNat)) ?_ ?_ ?_ ?_
    · rw [le_div_iff₀ posR, sq]; exact_mod_cast low
    · rw [div_lt_iff₀ posR, sq]; exact_mod_cast high
    · have half := (two_zpow_pos ((e - e % 2) / 2)).ne'
      rw [two_zpow_halved e, zpow_sub₀ two_ne_zero, zpow_neg, zpow_ofNat, power]
      field_simp
    · rw [decide_eq_false_iff_not, not_not, eq_div_iff posR.ne', sq]
      exact_mod_cast Iff.rfl

end Sys2Proof.Proofs

/-! What VSFU gives for special inputs and for finite ones (R165, R166). -/

namespace Sys2Proof.Proofs

open Sys2Proof.Machine Sys2Proof.Safety

/-! ### Results that are exact, or sticky -/

theorem roundQuot_num (f : Fmt) (rm : Rm) (neg : Bool) (m : ℕ) (e : ℤ) (sticky : Bool) :
    roundQuot f .arith rm ⟨.num neg m e, sticky, 0⟩ = roundFinite f .arith rm neg m e sticky := by
  simp [roundQuot]

theorem roundQuot_exact (f : Fmt) (rm : Rm) (v : FVal) : roundQuot f .arith rm (Special.exact v) = roundVal f rm (v, 0) := by
  cases v <;> simp [roundQuot, roundVal, roundArith, Special.exact]

theorem roundQuot_invalid (f : Fmt) (rm : Rm) : roundQuot f .arith rm Special.invalid = ⟨f.nanCode, 1⟩ := roundQuot_nan ..

theorem round_exact_inf (f : Fmt) (rm : Rm) (neg : Bool) : roundQuot f .arith rm (Special.exact (.inf neg)) = ⟨f.signBit neg + f.infCode, 0⟩ :=
  roundQuot_inf ..

theorem round_exact_zero {f : Fmt} (hf : f ≠ .mf8) (rm : Rm) (neg : Bool) (e : ℤ) :
    roundQuot f .arith rm (Special.exact (.num neg 0 e)) = ⟨f.signBit neg, 0⟩ := by
  rw [Special.exact, roundQuot_zero, if_neg hf]

@[simp] theorem signBit_true (f : Fmt) : f.signBit true = 2 ^ (f.width - 1) := rfl

@[simp] theorem signBit_false (f : Fmt) : f.signBit false = 0 := rfl

theorem sfu_of_decode {f : Fmt} {c : ℕ} {v : FVal} (h : decodeF f c = v) (fn : Sfu) (rm : Rm) :
    sfu f fn rm c = roundQuot f .arith rm (Special.apply fn v) := by
  rw [sfu, h]

/-! ### Codes of the formats of VSFU -/

section

variable {f : Fmt} (hf : f ≠ .mf8) (he : f ≠ .e4m3)

include hf he

/-- The code of a power of two in the range of normal exponents. -/
theorem round_exact_power {k : ℕ} (low : 0 < k) (high : k + 1 < 2 ^ f.expBits) (rm : Rm) (neg : Bool) :
    roundQuot f .arith rm (Special.exact (.num neg 1 (k - f.bias))) = ⟨f.signBit neg + k * 2 ^ f.frac, 0⟩ := by
  have finite : k * 2 ^ f.frac ≤ f.maxCode := by
    obtain ⟨inf, top, -⟩ := topExponent hf he
    have less : (k + 1) * 2 ^ f.frac ≤ (2 ^ f.expBits - 1) * 2 ^ f.frac := Nat.mul_le_mul_right _ (by omega)
    have pos : 0 < 2 ^ f.frac := by positivity
    rw [Nat.add_mul, ← inf] at less
    omega
  have value : ((1 : ℕ) : ℚ) * 2 ^ ((k : ℤ) - f.bias) = unbounded f (k * 2 ^ f.frac) := by
    rw [← Nat.add_zero (k * 2 ^ f.frac), unbounded_high hf low (Nat.zero_le _), Nat.add_zero, zpow_sub₀ two_ne_zero _ (f.frac : ℤ), zpow_natCast]
    push_cast
    field_simp
  rw [Special.exact, roundQuot_num, roundFinite_held finite value (fun h => absurd h hf)]

theorem round_exact_one (rm : Rm) (neg : Bool) :
    roundQuot f .arith rm (Special.exact (.num neg 1 0)) = ⟨f.signBit neg + f.bias.toNat * 2 ^ f.frac, 0⟩ := by
  have within : 0 < f.bias.toNat ∧ f.bias.toNat + 1 < 2 ^ f.expBits ∧ (f.bias.toNat : ℤ) - f.bias = 0 := by
    cases f with
    | mf8 => exact absurd rfl hf
    | _ => decide
  rw [← round_exact_power hf he within.1 within.2.1 rm neg, within.2.2]

theorem round_exact_half (rm : Rm) :
    roundQuot f .arith rm (Special.exact (.num false 1 (-1))) = ⟨f.bias.toNat * 2 ^ f.frac - 2 ^ f.frac, 0⟩ := by
  have within : 0 < f.bias.toNat - 1 ∧ f.bias.toNat - 1 + 1 < 2 ^ f.expBits ∧ ((f.bias.toNat - 1 : ℕ) : ℤ) - f.bias = -1 := by
    cases f with
    | mf8 => exact absurd rfl hf
    | _ => decide
  rw [← within.2.2, round_exact_power hf he within.1 within.2.1, Nat.sub_mul, Nat.one_mul]
  simp [signBit_eq]

theorem decodeF_zero (neg : Bool) : ∃ e, decodeF f (f.signBit neg) = .num neg 0 e := by
  rw [← Nat.add_zero (f.signBit neg), decodeF_signed f neg (by positivity), decodeMag_ieee hf he]
  have finite : (0 : ℕ) ≠ 2 ^ f.expBits - 1 := by cases f <;> decide
  simp [finite]

theorem decodeF_inf (neg : Bool) : decodeF f (f.signBit neg + f.infCode) = .inf neg := by
  simpa using decodeF_special hf he neg (fr := 0) (by positivity)

/-! ### Special inputs -/

/-- What each function gives for a zero, which keeps its sign (R166). -/
theorem sfu_zero (rm : Rm) (neg : Bool) :
    (∀ fn ∈ [Sfu.rcp, .rsq], sfu f fn rm (f.signBit neg) = ⟨f.signBit neg + f.infCode, 0⟩) ∧
    (∀ fn ∈ [Sfu.sqrt, .sin, .tanh], sfu f fn rm (f.signBit neg) = ⟨f.signBit neg, 0⟩) ∧
    (∀ fn ∈ [Sfu.ex2, .cos], sfu f fn rm (f.signBit neg) = ⟨f.bias.toNat * 2 ^ f.frac, 0⟩) ∧
    sfu f .lg2 rm (f.signBit neg) = ⟨2 ^ (f.width - 1) + f.infCode, 0⟩ ∧
    sfu f .sigm rm (f.signBit neg) = ⟨f.bias.toNat * 2 ^ f.frac - 2 ^ f.frac, 0⟩ := by
  obtain ⟨e, zero⟩ := decodeF_zero hf he neg
  simp [sfu_of_decode zero, Special.apply, round_exact_inf, round_exact_zero hf, round_exact_one hf he, round_exact_half hf he]

/-- What each function gives for an infinity (R166). -/
theorem sfu_inf (rm : Rm) (neg : Bool) :
    sfu f .rcp rm (f.signBit neg + f.infCode) = ⟨f.signBit neg, 0⟩ ∧
    (∀ fn ∈ [Sfu.sin, .cos], sfu f fn rm (f.signBit neg + f.infCode) = ⟨f.nanCode, 1⟩) ∧
    sfu f .rsq rm (f.signBit neg + f.infCode) = (if neg then ⟨f.nanCode, 1⟩ else ⟨0, 0⟩) ∧
    (∀ fn ∈ [Sfu.sqrt, .lg2], sfu f fn rm (f.signBit neg + f.infCode) = if neg then ⟨f.nanCode, 1⟩ else ⟨f.infCode, 0⟩) ∧
    sfu f .ex2 rm (f.signBit neg + f.infCode) = (if neg then ⟨0, 0⟩ else ⟨f.infCode, 0⟩) ∧
    sfu f .tanh rm (f.signBit neg + f.infCode) = ⟨f.signBit neg + f.bias.toNat * 2 ^ f.frac, 0⟩ ∧
    sfu f .sigm rm (f.signBit neg + f.infCode) = (if neg then ⟨0, 0⟩ else ⟨f.bias.toNat * 2 ^ f.frac, 0⟩) := by
  simp only [sfu_of_decode (decodeF_inf hf he neg), Special.apply]
  cases neg <;> simp [roundQuot_invalid, round_exact_inf, round_exact_zero hf, round_exact_one hf he]

/-- The root, its reciprocal and the logarithm of a negative value are invalid (R166). -/
theorem sfu_negative (rm : Rm) {fn : Sfu} {c : ℕ} (h : fn ∈ [Sfu.rsq, .sqrt, .lg2]) (negative : 2 ^ (f.width - 1) < c)
    (top : c ≤ 2 ^ (f.width - 1) + f.infCode) : sfu f fn rm c = ⟨f.nanCode, 1⟩ := by
  obtain ⟨mag, rfl⟩ : ∃ mag, c = f.signBit true + mag := ⟨c - 2 ^ (f.width - 1), by rw [signBit_true]; omega⟩
  rw [signBit_true] at negative top
  have decoded := decodeF_signed f true (show mag < 2 ^ (f.width - 1) by have := infCode_lt f; omega)
  have invalid : Special.apply fn (decodeMag f true mag) = Special.invalid := by
    obtain ⟨-, below, -⟩ := topExponent hf he
    by_cases finite : mag ≤ f.maxCode
    · obtain ⟨m, e, num, value⟩ := decodeMag_finite (neg := true) finite (fun h => absurd h hf)
      have nonzero : m ≠ 0 := by
        rintro rfl
        have zero : unbounded f mag = unbounded f 0 := by rw [← value, unbounded_zero]; simp
        have := (unbounded_strictMono f).injective zero
        omega
      rw [num]
      fin_cases h <;> simp [Special.apply, nonzero]
    · obtain rfl : mag = f.infCode := by omega
      rw [← decoded, decodeF_inf hf he]
      fin_cases h <;> rfl
  rw [sfu_of_decode decoded, invalid, roundQuot_invalid]

/-- A NaN gives the NaN, with INV where it signals (R166). -/
theorem sfu_nan (rm : Rm) (fn : Sfu) {c : ℕ} (width : c < 2 * 2 ^ (f.width - 1)) (nan : f.infCode < c % 2 ^ (f.width - 1)) :
    sfu f fn rm c = ⟨f.nanCode, if c % 2 ^ (f.width - 1) < f.infCode + 2 ^ (f.frac - 1) then 1 else 0⟩ := by
  obtain ⟨neg, mag, less, decoded, low, -⟩ := code_parts f (by rwa [two_mul, ← width_split] at width)
  obtain ⟨isNan, isSnan⟩ := isNan_decodeMag hf he neg less
  rw [low] at nan ⊢
  rw [decide_eq_true nan, ← decoded] at isNan isSnan
  cases value : decodeF f c with
  | nan s =>
    rw [value] at isSnan
    rw [sfu_of_decode value, Special.apply, roundQuot_nan, (show s = decide (mag < f.infCode + 2 ^ (f.frac - 1)) from isSnan), flagIf]
    simp [fINV]
  | inf a => rw [value] at isNan; cases isNan
  | num a m e => rw [value] at isNan; cases isNan

end

end Sys2Proof.Proofs

/-! VSFU of finite inputs (R165): results that are rounded once from the exact value, and results far out. -/

namespace Sys2Proof.Proofs

open Sys2Proof.Machine Sys2Proof.Safety

/-! ### The significand and the exponent of a code -/

/-- The formats of VSFU. -/
theorem ieee_of_vsfu {f : Fmt} (h : f ∈ [Fmt.fp32, .fp16, .bf16]) : f ≠ .mf8 ∧ f ≠ .e4m3 := by
  revert f
  decide

/-- A number of a format has no more bits than its significand, and no finer unit than the least. -/
theorem decodeF_num_bounds {f : Fmt} (hf : f ≠ .mf8) (he : f ≠ .e4m3) {c m : ℕ} {neg : Bool} {e : ℤ} (h : decodeF f c = .num neg m e) :
    m < 2 ^ (f.frac + 1) ∧ 1 - f.bias - f.frac ≤ e := by
  rw [decodeF_eq, decodeMag_ieee hf he] at h
  have small (n : ℕ) : n % 2 ^ f.frac < 2 ^ f.frac := Nat.mod_lt _ (by positivity)
  rw [pow_succ, mul_two]
  generalize c % 2 ^ f.width % 2 ^ (f.width - 1) / 2 ^ f.frac = ex at h
  split at h
  · split at h <;> cases h
  · split at h
    · cases h
      exact ⟨(small _).trans_le (Nat.le_add_left ..), le_rfl⟩
    · cases h
      exact ⟨Nat.add_lt_add_left (small _) _, by omega⟩

section

variable {f : Fmt} {c m : ℕ} {neg : Bool} {e : ℤ}

/-- The value of a nonzero number, by its sign. -/
theorem valueOf_pos_iff (hm : m ≠ 0) : 0 < valueOf (.num neg m e) ↔ neg = false := by
  have pos : (0 : ℚ) < m * 2 ^ e := by positivity
  rw [valueOf_num]
  cases neg <;> simp <;> linarith

/-! ### Results that are rounded once -/

theorem sfu_rcp (h : decodeF f c = .num neg m e) (hm : m ≠ 0) (rm : Rm) :
    ResultIs f .arith rm neg ((1 / valueOf (.num neg m e) : ℚ) : ℝ) (sfu f .rcp rm c) := by
  have quotient_ := resultIs_quotient f .arith rm false 1 0 neg hm e
  have one : valueOf (.num false 1 0) = 1 := by norm_num [valueOf]
  rw [one, Bool.false_bne] at quotient_
  simpa only [sfu_of_decode h, Special.apply, if_neg hm, FVal.div, roundQuot_num, Bool.false_bne] using quotient_

/-- A result that is read by a significand of enough bits is rounded once. -/
theorem roundsTo_of_reads {q : Quot} {x : ℝ} (h : ∃ r k sticky, q = ⟨.num false r k, sticky, 0⟩ ∧ 2 ^ 100 ≤ r ∧ Reads r k sticky x)
    (f : Fmt) (rm : Rm) :
    RoundsTo f .arith rm false x (roundQuot f .arith rm q) := by
  obtain ⟨r, k, sticky, rfl, many, reads⟩ := h
  rw [roundQuot_num]
  have some_ : 0 < r := (by positivity : 0 < 2 ^ 100).trans_le many
  have enough : 2 ^ 69 ≤ r := (Nat.pow_le_pow_right two_pos (by norm_num)).trans many
  exact roundFinite_roundsTo reads some_ (fine_quotient f enough _) ..

theorem sfu_sqrt (h : decodeF f c = .num false m e) (hm : m ≠ 0) (rm : Rm) :
    RoundsTo f .arith rm false (√(m * 2 ^ e)) (sfu f .sqrt rm c) := by
  rw [sfu_of_decode h, Special.apply, if_neg hm]
  exact roundsTo_of_reads (sqrtQ_reads (Nat.pos_of_ne_zero hm) e) f rm

theorem sfu_rsq (hf : f ≠ .mf8) (he : f ≠ .e4m3) (h : decodeF f c = .num false m e) (hm : m ≠ 0) (rm : Rm) :
    RoundsTo f .arith rm false (1 / √(m * 2 ^ e)) (sfu f .rsq rm c) := by
  have bits : f.frac + 1 ≤ 24 := by cases f <;> decide
  have small : m < 2 ^ 24 := (decodeF_num_bounds hf he h).1.trans_le (Nat.pow_le_pow_right two_pos bits)
  rw [sfu_of_decode h, Special.apply, if_neg hm]
  exact roundsTo_of_reads (rsqQ_reads (Nat.pos_of_ne_zero hm) small e) f rm

/-! ### Powers and logarithms -/

/-- A whole number in fixed point. -/
theorem toFixed_whole {k : ℕ} (whole : (m : ℚ) * 2 ^ e = k) (fine : 0 ≤ e + Special.prec) : Special.toFixed m e = k * (2 ^ Special.prec : ℕ) := by
  have scaled : (m : ℚ) * 2 ^ (e + Special.prec).toNat = k * 2 ^ Special.prec := by
    rw [← whole, mul_assoc, ← zpow_natCast 2 (e + Special.prec).toNat, Int.toNat_of_nonneg fine, zpow_add₀ two_ne_zero, zpow_natCast]
  rw [Special.toFixed, if_pos fine]
  exact_mod_cast scaled

/-- A number below a power of two has its leading bit below it. -/
theorem leadExp_lt_iff (hm : m ≠ 0) (k : ℤ) : leadExp m e < k ↔ (m : ℚ) * 2 ^ e < 2 ^ k := by
  obtain ⟨low, high⟩ := (reads_exact m e).lead (Nat.pos_of_ne_zero hm)
  have real : ((m : ℝ) * 2 ^ e < 2 ^ k) ↔ (m : ℚ) * 2 ^ e < 2 ^ k := by
    rw [← Rat.cast_lt (K := ℝ)]
    push_cast
    rfl
  rw [← real]
  constructor
  · exact fun less => high.trans_le (zpow_le_zpow_right₀ one_le_two (by omega))
  · exact fun less => (zpow_lt_zpow_iff_right₀ one_lt_two).mp (low.trans_lt less)

/-- A whole value has the sign and the magnitude of its integer. -/
theorem whole_parts {k : ℤ} (hm : m ≠ 0) (whole : valueOf (.num neg m e) = k) :
    k = (if neg then -(k.natAbs : ℤ) else k.natAbs) ∧ (m : ℚ) * 2 ^ e = k.natAbs := by
  have pos : (0 : ℚ) < m * 2 ^ e := by positivity
  rw [valueOf_num] at whole
  have sign : k = if neg then -(k.natAbs : ℤ) else k.natAbs := by
    cases neg with
    | true =>
      have less : (k : ℚ) < 0 := by rw [← whole]; simpa using pos
      have less : k < 0 := by exact_mod_cast less
      simp only [if_true]
      omega
    | false =>
      have more : (0 : ℚ) < k := by rw [← whole]; simpa using pos
      have more : 0 < k := by exact_mod_cast more
      simp only [Bool.false_eq_true, if_false]
      omega
  refine ⟨sign, ?_⟩
  rw [sign] at whole
  cases neg <;> simpa using whole

/-- EX2 of a whole number is exact. -/
theorem ex2Q_whole {k : ℤ} (hm : m ≠ 0) (fine : 0 ≤ e + Special.prec) (whole : valueOf (.num neg m e) = k) (small : |k| < 256) :
    Special.ex2Q neg m e = Special.exact (.num false 1 k) := by
  obtain ⟨sign, magnitude⟩ := whole_parts hm whole
  have lead : leadExp m e < 8 := by
    have less : k.natAbs < 256 := by
      obtain ⟨low, high⟩ := abs_lt.mp small
      omega
    rw [leadExp_lt_iff hm, magnitude]
    exact_mod_cast less
  have fixed : (if neg then -Special.toFixed m e else Special.toFixed m e) = k * (2 ^ Special.prec : ℕ) := by
    rw [toFixed_whole magnitude fine]
    conv_rhs => rw [sign]
    generalize ((2 ^ Special.prec : ℕ) : ℤ) = one
    cases neg <;> simp
  have one : ((2 ^ Special.prec : ℕ) : ℤ) ≠ 0 := by positivity
  rw [Special.ex2Q, if_neg (not_le.mpr lead), fixed]
  dsimp only
  rw [Int.mul_ediv_cancel _ one, sub_self, if_pos rfl]

/-- LG2 of a power of two is exact. -/
theorem lg2Q_power {k : ℤ} (power : (m : ℚ) * 2 ^ e = 2 ^ k) : Special.lg2Q m e = Special.exact (FVal.ofScaled k 0 false) := by
  have value : (m : ℚ) = 2 ^ (k - e) := by rw [zpow_sub₀ two_ne_zero, ← power, mul_div_cancel_right₀ _ (zpow_ne_zero e two_ne_zero)]
  have above : e ≤ k := by
    have one : (1 : ℚ) ≤ m := by
      have nonzero : m ≠ 0 := by
        rintro rfl
        exact zpow_ne_zero (G₀ := ℚ) k two_ne_zero (by simpa using power.symm)
      exact_mod_cast Nat.one_le_iff_ne_zero.mpr nonzero
    rw [value, ← zpow_zero (2 : ℚ), zpow_le_zpow_iff_right₀ one_lt_two] at one
    omega
  obtain ⟨j, rfl⟩ : ∃ j : ℕ, k = j + e := ⟨(k - e).toNat, by omega⟩
  have bits : m = 2 ^ j := by
    rw [add_sub_cancel_right, zpow_natCast] at value
    exact_mod_cast value
  simp only [Special.lg2Q, leadExp, bits, Nat.log2_two_pow, if_true]

theorem sfu_ex2_whole (hf : f ≠ .mf8) (he : f ≠ .e4m3) (h : decodeF f c = .num neg m e) (hm : m ≠ 0) {k : ℤ} (whole : valueOf (.num neg m e) = k)
    (small : |k| < 256) (rm : Rm) : RoundsTo f .arith rm false ((2 : ℝ) ^ k) (sfu f .ex2 rm c) := by
  have least : f.bias + f.frac ≤ 641 := by cases f <;> decide
  have fine : 0 ≤ e + Special.prec := by
    have := (decodeF_num_bounds hf he h).2
    rw [Special.prec]
    omega
  rw [sfu_of_decode h, Special.apply, if_neg hm]
  simp only [ex2Q_whole hm fine whole small]
  rw [Special.exact, roundQuot_num]
  simpa using roundFinite_roundsTo (reads_exact 1 k) one_pos (fine_exact f 1) .arith rm false

theorem sfu_lg2_power (h : decodeF f c = .num false m e) (hm : m ≠ 0) {k : ℤ} (power : (m : ℚ) * 2 ^ e = 2 ^ k) (rm : Rm) :
    ResultIs f .arith rm false (k : ℝ) (sfu f .lg2 rm c) := by
  rw [sfu_of_decode h, Special.apply, if_neg hm]
  simp only [Bool.false_eq_true, if_false, lg2Q_power power, roundQuot_exact]
  simpa using resultIs_roundVal (isExact_ofScaled k 0 false) f rm

/-! ### Results far out -/

/-- A value just below 1. -/
theorem round_belowOne (hf : f ∈ [Fmt.fp32, .fp16, .bf16]) (rm : Rm) : roundQuot f .arith rm (Special.belowOne false) =
    ⟨if rm = .rz ∨ rm = .rd then f.bias.toNat * 2 ^ f.frac - 1 else f.bias.toNat * 2 ^ f.frac, 8⟩ := by
  fin_cases hf <;> cases rm <;> decide

/-- A value far below the least. -/
theorem round_tiny (hf : f ∈ [Fmt.fp32, .fp16, .bf16]) (rm : Rm) : roundQuot f .arith rm (Special.tiny false) = ⟨if rm = .ru then 1 else 0, 0x0C⟩ := by
  fin_cases hf <;> cases rm <;> decide +kernel

theorem sfu_far_above (hf : f ∈ [Fmt.fp32, .fp16, .bf16]) (h : decodeF f c = .num false m e) (hm : m ≠ 0) (lead : 8 ≤ leadExp m e) (rm : Rm) {fn : Sfu}
    (hfn : fn ∈ [Sfu.tanh, .sigm]) : sfu f fn rm c =
      ⟨if rm = .rz ∨ rm = .rd then f.bias.toNat * 2 ^ f.frac - 1 else f.bias.toNat * 2 ^ f.frac, 8⟩ := by
  have below : Special.apply fn (.num false m e) = Special.belowOne false := by
    fin_cases hfn
    · simp only [Special.apply, if_neg hm, Special.tanhQ, if_pos (show 7 ≤ leadExp m e by omega)]
    · simp only [Special.apply, if_neg hm, Special.sigmQ, if_pos lead, Bool.false_eq_true, if_false]
  rw [sfu_of_decode h, below, round_belowOne hf]

theorem sfu_far_below (hf : f ∈ [Fmt.fp32, .fp16, .bf16]) (h : decodeF f c = .num true m e) (hm : m ≠ 0) (lead : 8 ≤ leadExp m e) (rm : Rm) :
    sfu f .sigm rm c = ⟨if rm = .ru then 1 else 0, 0x0C⟩ := by
  rw [sfu_of_decode h, Special.apply, if_neg hm]
  simp only [Special.sigmQ, if_pos lead, if_true, round_tiny hf]

end

end Sys2Proof.Proofs

/-! VSFU of a value and of its negative (R165): rounding a mirrored value in the mirrored mode mirrors the result. -/

namespace Sys2Proof.Proofs

open Sys2Proof.Machine Sys2Proof.Safety

/-! ### Rounding a mirrored value -/

/-- The mode that rounds a negative value as a mode rounds a positive one (R67). -/
def mirrored : Rm → Rm
  | .ru => .rd
  | .rd => .ru
  | rm => rm

theorem roundsUp_mirrored (rm : Rm) (neg odd : Bool) (rem unit : ℕ) (sticky : Bool) :
    roundsUp (mirrored rm) (!neg) odd rem unit sticky = roundsUp rm neg odd rem unit sticky := by
  cases rm <;> simp [roundsUp, mirrored]

theorem roundUnits_mirrored (rm : Rm) (neg : Bool) (m : ℕ) (e q : ℤ) (sticky : Bool) :
    roundUnits (mirrored rm) (!neg) m e q sticky = roundUnits rm neg m e q sticky := by
  simp only [roundUnits, roundsUp_mirrored]

/-- Two results are those of a magnitude with either sign, with the same flags. -/
def Mirrors (f : Fmt) (neg : Bool) (x y : FRes) : Prop :=
  ∃ mag fl, mag < 2 ^ (f.width - 1) ∧ x = ⟨f.signBit neg + mag, fl⟩ ∧ y = ⟨f.signBit (!neg) + mag, fl⟩

theorem overflowCode_mirrored (f : Fmt) (rm : Rm) (neg : Bool) : ∃ mag, mag < 2 ^ (f.width - 1) ∧ overflowCode f .arith rm neg = f.signBit neg + mag ∧
    overflowCode f .arith (mirrored rm) (!neg) = f.signBit (!neg) + mag := by
  refine ⟨_, ?_, overflowCode_eq f .arith rm neg, ?_⟩
  · split
    · exact maxCode_lt f
    · exact infCode_lt f
  · cases rm <;> cases neg <;> rfl

theorem roundIeee_mirrors (f : Fmt) (rm : Rm) (neg : Bool) (m : ℕ) (e : ℤ) (sticky : Bool) :
    Mirrors f neg (roundIeee f .arith rm neg m e sticky) (roundIeee f .arith (mirrored rm) (!neg) m e sticky) := by
  obtain ⟨most, small, same, flipped⟩ := overflowCode_mirrored f rm neg
  simp only [roundIeee, roundUnits_mirrored]
  split
  · exact ⟨most, _, small, by rw [same], by rw [flipped]⟩
  · exact ⟨_, _, lt_of_le_of_lt (not_lt.mp (by assumption)) (maxCode_lt f), rfl, rfl⟩

theorem roundQuot_mirrors {f : Fmt} (hf : f ≠ .mf8) (rm : Rm) (neg : Bool) (m : ℕ) (e : ℤ) (sticky : Bool) :
    Mirrors f neg (roundQuot f .arith rm ⟨.num neg m e, sticky, 0⟩) (roundQuot f .arith (mirrored rm) ⟨.num (!neg) m e, sticky, 0⟩) := by
  rw [roundQuot_num, roundQuot_num, roundFinite, roundFinite]
  by_cases zero : m = 0
  · rw [if_pos zero, if_pos zero]
    cases sticky with
    | true =>
      simp only [if_neg hf, if_true]
      exact roundIeee_mirrors ..
    | false =>
      simp only [zeroCode, if_neg hf, Bool.false_eq_true, if_false]
      exact ⟨0, 0, by positivity, rfl, rfl⟩
  · rw [if_neg zero, if_neg zero, if_neg hf, if_neg hf]
    exact roundIeee_mirrors ..

/-- The bits of mirrored results differ in the sign. -/
theorem Mirrors.bits_eq {f : Fmt} {neg : Bool} {x y : FRes} (h : Mirrors f neg x y) :
    y.flags = x.flags ∧ y.bits = if x.bits < 2 ^ (f.width - 1) then x.bits + 2 ^ (f.width - 1) else x.bits - 2 ^ (f.width - 1) := by
  obtain ⟨mag, fl, small, rfl, rfl⟩ := h
  refine ⟨rfl, ?_⟩
  cases neg <;> simp [small, Nat.add_comm]

/-! ### Odd and even functions -/

/-- SIN and TANH of a negative value are those of its magnitude with the other sign. -/
theorem apply_odd {fn : Sfu} (hfn : fn ∈ [Sfu.sin, .tanh]) (m : ℕ) (e : ℤ) : ∃ neg k d sticky,
    Special.apply fn (.num false m e) = ⟨.num neg k d, sticky, 0⟩ ∧ Special.apply fn (.num true m e) = ⟨.num (!neg) k d, sticky, 0⟩ := by
  by_cases zero : m = 0
  · fin_cases hfn <;> exact ⟨false, 0, 0, false, by simp [Special.apply, zero, Special.exact], by simp [Special.apply, zero, Special.exact]⟩
  · fin_cases hfn
    · simp only [Special.apply, if_neg zero, Special.sticky, Bool.false_bne, Bool.true_bne]
      exact ⟨_, _, _, _, rfl, rfl⟩
    · simp only [Special.apply, if_neg zero, Special.tanhQ, Special.belowOne, Special.sticky]
      split
      · exact ⟨_, _, _, _, rfl, rfl⟩
      · exact ⟨_, _, _, _, rfl, rfl⟩

/-- A finite magnitude code stands for the same magnitude with either sign. -/
theorem decodeMag_signs {f : Fmt} (hf : f ≠ .mf8) (he : f ≠ .e4m3) {mag : ℕ} (h : mag < f.infCode) :
    ∃ m e, ∀ neg, decodeMag f neg mag = .num neg m e := by
  obtain ⟨inf, -, -⟩ := topExponent hf he
  have below : mag / 2 ^ f.frac ≠ 2 ^ f.expBits - 1 := ((Nat.div_lt_iff_lt_mul (by positivity)).mpr (inf ▸ h)).ne
  by_cases low : mag / 2 ^ f.frac = 0
  · exact ⟨_, _, fun neg => by rw [decodeMag_ieee hf he, if_neg below, if_pos low]⟩
  · exact ⟨_, _, fun neg => by rw [decodeMag_ieee hf he, if_neg below, if_neg low]⟩

section

variable {f : Fmt} (hf : f ≠ .mf8) (he : f ≠ .e4m3) {c : ℕ} (small : c < 2 ^ (f.width - 1)) (finite : c < f.infCode)

include hf he small finite

theorem sfu_odd (rm : Rm) {fn : Sfu} (hfn : fn ∈ [Sfu.sin, .tanh]) :
    (sfu f fn (mirrored rm) (2 ^ (f.width - 1) + c)).flags = (sfu f fn rm c).flags ∧
    (sfu f fn (mirrored rm) (2 ^ (f.width - 1) + c)).bits =
      if (sfu f fn rm c).bits < 2 ^ (f.width - 1) then (sfu f fn rm c).bits + 2 ^ (f.width - 1) else (sfu f fn rm c).bits - 2 ^ (f.width - 1) := by
  obtain ⟨m, e, signs⟩ := decodeMag_signs hf he finite
  obtain ⟨neg, k, d, sticky, plus, minus⟩ := apply_odd hfn m e
  have positive : decodeF f c = .num false m e := by simpa [signs] using decodeF_signed f false small
  have negative : decodeF f (2 ^ (f.width - 1) + c) = .num true m e := by simpa [signs] using decodeF_signed f true small
  rw [sfu_of_decode positive, sfu_of_decode negative, plus, minus]
  exact (roundQuot_mirrors hf rm neg k d sticky).bits_eq

theorem sfu_even (rm : Rm) : sfu f .cos rm (2 ^ (f.width - 1) + c) = sfu f .cos rm c := by
  obtain ⟨m, e, signs⟩ := decodeMag_signs hf he finite
  have positive : decodeF f c = .num false m e := by simpa [signs] using decodeF_signed f false small
  have negative : decodeF f (2 ^ (f.width - 1) + c) = .num true m e := by simpa [signs] using decodeF_signed f true small
  rw [sfu_of_decode positive, sfu_of_decode negative]
  rfl

end

end Sys2Proof.Proofs

/-! VSFU on its inputs, put together (R165, R166). -/

namespace Sys2Proof.Proofs

open Sys2Proof.Machine Sys2Proof.Safety

/-- Values of the functions that are computed in fixed point, worked out by hand (R165). -/
theorem sfu_fixed_point_values :
  sfu .fp32 .ex2 .rne 0x3F000000 = ⟨0x3FB504F3, 8⟩ ∧ sfu .fp32 .ex2 .ru 0xBFC00000 = ⟨0x3EB504F4, 8⟩ ∧
  sfu .fp32 .lg2 .rne 0x40400000 = ⟨0x3FCAE00D, 8⟩ ∧ sfu .fp32 .lg2 .rd 0x3DCCCCCD = ⟨0xC0549A79, 8⟩ ∧
  sfu .fp32 .sin .rne 0x3F800000 = ⟨0x3F576AA4, 8⟩ ∧ sfu .fp32 .sin .ru 0x42C80000 = ⟨0xBF01A12D, 8⟩ ∧
  sfu .fp32 .cos .rne 0x3F800000 = ⟨0x3F0A5140, 8⟩ ∧ sfu .fp32 .cos .rd 0x40000000 = ⟨0xBED51133, 8⟩ ∧
  sfu .fp32 .tanh .rne 0x3F000000 = ⟨0x3EEC9A9F, 8⟩ ∧ sfu .fp32 .tanh .ru 0xBF800000 = ⟨0xBF42F7D5, 8⟩ ∧
  sfu .fp32 .sigm .rne 0x3F800000 = ⟨0x3F3B26A8, 8⟩ ∧ sfu .fp32 .sigm .rd 0xC0400000 = ⟨0x3D4241A1, 8⟩ := by
  decide +kernel

/-- Every number but zero: results that are rounded once, or exact, or far out. -/
theorem sfu_finite {f : Fmt} (vsfu : f ∈ [Fmt.fp32, .fp16, .bf16]) (rm : Rm) {c m : ℕ} {neg : Bool} {e : ℤ}
    (h : decodeF f c = .num neg m e) (hm : m ≠ 0) :
    let x := valueOf (decodeF f c)
    let one := f.bias.toNat * 2 ^ f.frac
    ResultIs f .arith rm neg ((1 / x : ℚ) : ℝ) (sfu f .rcp rm c) ∧
    (0 < x → RoundsTo f .arith rm false (Real.sqrt x) (sfu f .sqrt rm c) ∧ RoundsTo f .arith rm false (1 / Real.sqrt x) (sfu f .rsq rm c)) ∧
    (∀ k : Int, x = k → |k| < 256 → RoundsTo f .arith rm false ((2 : ℝ) ^ k) (sfu f .ex2 rm c)) ∧
    (∀ k : Int, x = 2 ^ k → ResultIs f .arith rm false k (sfu f .lg2 rm c)) ∧
    (256 ≤ x → sfu f .tanh rm c = ⟨if rm = .rz ∨ rm = .rd then one - 1 else one, 8⟩ ∧
      sfu f .sigm rm c = ⟨if rm = .rz ∨ rm = .rd then one - 1 else one, 8⟩) ∧
    (x ≤ -256 → sfu f .sigm rm c = ⟨if rm = .ru then 1 else 0, 0x0C⟩) := by
  obtain ⟨hf, he⟩ := ieee_of_vsfu vsfu
  dsimp only
  rw [h]
  have positive (pos : 0 < valueOf (.num neg m e)) : neg = false := (valueOf_pos_iff hm).mp pos
  have far (less : 256 ≤ (m : ℚ) * 2 ^ e) : 8 ≤ leadExp m e := by
    rw [← not_lt, leadExp_lt_iff hm, not_lt]
    exact_mod_cast less
  refine ⟨sfu_rcp h hm rm, fun pos => ?_, fun k whole small => sfu_ex2_whole hf he h hm whole small rm, fun k power => ?_, fun above => ?_, fun below => ?_⟩
  · obtain rfl := positive pos
    have value : ((valueOf (.num false m e) : ℚ) : ℝ) = m * 2 ^ e := by simp [valueOf_num]
    rw [value]
    exact ⟨sfu_sqrt h hm rm, sfu_rsq hf he h hm rm⟩
  · obtain rfl := positive (power ▸ by positivity)
    exact sfu_lg2_power h hm (by simpa [valueOf_num] using power) rm
  · obtain rfl := positive (by linarith)
    have lead := far (by simpa [valueOf_num] using above)
    exact ⟨sfu_far_above vsfu h hm lead rm (by decide), sfu_far_above vsfu h hm lead rm (by decide)⟩
  · cases neg with
    | true => exact sfu_far_below vsfu h hm (far (by simpa [valueOf_num] using below)) rm
    | false =>
      have pos := (valueOf_pos_iff (neg := false) (e := e) hm).mpr rfl
      linarith

/-- Settles O40: zeros, infinities and NaNs give what R166 says; the other numbers are rounded once from what the function's significand reads; a value and
its negative give mirrored results; and the fixed point is evaluated. -/
theorem specialFunctionInputs : Obligations.SpecialFunctionInputs := by
  refine ⟨fun f rm vsfu => ?_, sfu_fixed_point_values⟩
  obtain ⟨hf, he⟩ := ieee_of_vsfu vsfu
  have pz := sfu_zero hf he rm false
  have nz := sfu_zero hf he rm true
  have pi := sfu_inf hf he rm false
  have ni := sfu_inf hf he rm true
  simp only [signBit_true, signBit_false, Nat.zero_add, List.forall_mem_cons, List.not_mem_nil, false_imp_iff, implies_true, and_true,
    Bool.false_eq_true, if_false, if_true] at pz nz pi ni
  obtain ⟨⟨pzRcp, pzRsq⟩, ⟨pzSqrt, pzSin, pzTanh⟩, ⟨pzEx2, pzCos⟩, pzLg2, pzSigm⟩ := pz
  obtain ⟨⟨nzRcp, nzRsq⟩, ⟨nzSqrt, nzSin, nzTanh⟩, ⟨nzEx2, nzCos⟩, nzLg2, nzSigm⟩ := nz
  obtain ⟨piRcp, ⟨piSin, piCos⟩, piRsq, ⟨piSqrt, piLg2⟩, piEx2, piTanh, piSigm⟩ := pi
  obtain ⟨niRcp, ⟨niSin, niCos⟩, -, -, niEx2, niTanh, niSigm⟩ := ni
  refine ⟨pzRcp, nzRcp, piRcp, niRcp, pzRsq, nzRsq, piRsq, pzSqrt, nzSqrt, piSqrt, niEx2, piEx2, pzLg2, nzLg2, piLg2,
    List.forall_mem_cons.mpr ⟨⟨piSin, piCos⟩, List.forall_mem_singleton.mpr ⟨niSin, niCos⟩⟩,
    List.forall_mem_cons.mpr ⟨⟨pzSin, pzTanh, pzCos, pzEx2, pzSigm⟩, List.forall_mem_singleton.mpr ⟨nzSin, nzTanh, nzCos, nzEx2, nzSigm⟩⟩,
    piTanh, niTanh, niSigm, piSigm,
    fun fn c => sfu_negative hf he rm, fun fn c => sfu_nan hf he rm fn, fun c neg m e => sfu_finite vsfu rm,
    fun c small finite => ⟨fun fn hfn => sfu_odd hf he small finite rm hfn, sfu_even hf he small finite rm⟩⟩

end Sys2Proof.Proofs
